-- ==== Sys2Proof/Word.lean ====
section
/-! DEFINITION. The word types of the SPK-9640 model: 64-bit control-space words (R7), bytes, and
sparse maps from numbers to values. -/
namespace Sys2Proof

/-- One control-space word (R7: device registers are 64 bits wide). -/
abbrev Word := BitVec 64

/-- One byte of memory. -/
abbrev Byte := BitVec 8

/-- A sparse map: pairs of a key and a value, keys strictly rising, no entry equal to what an
unlisted key reads as. `Machine/SMap.lean` holds its operations. -/
abbrev SMap (α : Type) := List (Nat × α)

end Sys2Proof
end

