-- ==== Sys2Proof/Syntax.lean ====
section
/-! DEFINITION. The commands of the SPK-9640: one constructor per row of spec/opcode_table.json, with
the operands the rule of that row gives the event (a unit number, a command word, a register value, a
message's content). Unit numbers are bounded types, so a command cannot name a unit R4 does not give. -/
namespace Sys2Proof

/-- Cluster C00–C47 (R4). -/
abbrev Cl := Fin 48
/-- Reticle field F0–F3 (R4). -/
abbrev Fd := Fin 4
/-- Stack S0–S15 (R4). -/
abbrev St := Fin 16
/-- Channel of a stack (R66). -/
abbrev Ch := Fin 32
/-- Rhazar link L0–L7 as 0–7, mirror port M0, M1 as 8 and 9 (R309). -/
abbrev Lk := Fin 10
/-- Hart of the control complex (R310). -/
abbrev Hart := Fin 16
/-- Home of memory (R178, R268): 0–15 stacks, 16–19 heath controllers, 20–67 meadows of clusters. -/
abbrev Home := Fin 68

/-- Who issued a memory request (R178, R262): a task descriptor's unit, a core, the KV service or
front end of a field, the integrity unit, a peer module, or an Ethernet MAC. -/
inductive Issuer where
  | task (t : Nat)
  | core (h : Hart)
  | service (f : Fd)
  | integrity
  | peer (dev : BitVec 4)
  | mac (port : Fin 3)
  deriving DecidableEq, Repr

/-- What a unit reports to the owner of a descriptor (R152, R154, R155). -/
inductive UnitRep where
  | done                                     -- the unit's work is finished
  | poison                                   -- the unit consumed poison
  | error (status : BitVec 8) (detail : BitVec 32)  -- a status of class E or F
  deriving DecidableEq, Repr

/-- A poison report to the integrity unit (R275): the granule, its decoder's outcome (R273), the
descriptor that consumed it, if any, its context and partition, and whether it is killable. -/
structure PReport where
  addr : Nat
  island : Nat
  outcome : BitVec 3
  task : Option Nat
  ctx : BitVec 10
  part : BitVec 4
  killable : Bool
  auditPath : Bool
  deriving DecidableEq, Repr

/-- An emission of SEMIT or SVERIFY as computed at its unit (R238): what the commit report carries. -/
structure Emission where
  stream : BitVec 16
  verify : Bool
  k : Nat
  toks : List (BitVec 32)
  ending : BitVec 3          -- 0 none, 1 invalid, 2 final, 3 turn stop, 4 accept, 5 length
  base : Nat
  qpos : Nat
  prefillStep : Bool
  cstate : BitVec 16
  cookie : BitVec 32
  deriving DecidableEq, Repr

/-- A request that arrives from a peer over a link (R192, R297): a read, a write or an add. -/
structure RemoteReq where
  dev : BitVec 4
  addr : BitVec 56
  range : BitVec 16          -- the module's own range handle h named by the peer range (R264)
  kind : Fin 3               -- 0 read, 1 write, 2 add
  etype : BitVec 5
  len : Nat
  data : List Byte
  poison : Bool
  tag : Nat
  part : Option (BitVec 4)   -- the partition number that it carries (R268)
  deriving DecidableEq, Repr

/-- The configuration of a common page that each field has a copy of (R364): KVS_SREC_CFG, KVS_FMT, SRV_PART_CFG,
SRV_PART_CTL, SRV_PART_STOP, SRV_CPROG_LOC, SRV_CPROG_N. -/
inductive CfgReg where
  | srec | fmt | partCfg | partState | partStop | cprogLoc | cprogN
  deriving DecidableEq, Repr

/-- What a common page forwards to a field (R364): a request on a stream record, a stream or a customer, or a
configuration write of a partition or program. -/
inductive Fwd where
  | recOpen (stream : Nat) (words : List Word)
  | recClose (stream : Nat)
  | stream (stream : Nat) (op : Nat) (words : List Word)
  | custCfg (cust : Nat) (v : Word)
  | credit (cust : Nat) (amount : BitVec 32)
  | copy (r : CfgReg) (i : Nat) (v : Word)
  deriving DecidableEq, Repr

/-- A forwarded request on its way to a field (R364). -/
structure FwdMsg where
  field : Fd
  req : Fwd
  deriving DecidableEq, Repr

/-- A field's answer on its way back to F0 (R364): of the serving front end or of the KV service, and the result code. -/
structure FwdRes where
  srv : Bool
  res : BitVec 3
  deriving DecidableEq, Repr

/-- A peer's answer to a request: refused or done, the saturations of an add, and the poison flag of a read (R264, R267,
R276). -/
structure PeerAnswer where
  refused : Bool
  sat : Nat
  poison : Bool
  deriving DecidableEq, Repr

/-- A mirror message: the state of R302, or a part of a catch-up copy (R307), which comes over the catch-up link
(port 2 of MIRROR_MESSAGE). -/
inductive MirrorMsg where
  | tracker (stream : BitVec 16) (w0 w1 w2 w3 : Word) (report : Bool)
  | recOpen (stream : BitVec 16) (w0 w1 w2 : Word)
  | recClose (stream : BitVec 16)
  | rows (stream : BitVec 16) (pos count : Nat) (layer : Nat) (data : List Byte) (bad : List Nat)
  | partState (p : Fin 16) (st : BitVec 3)
  | partCfg (p : Fin 16) (v : Word)
  | partStop (p : Fin 16) (v : Word)
  | kvFmt (p : Fin 16) (v : Word)
  | thinThr (p : Fin 16) (v : Word)
  deriving DecidableEq, Repr

/-- A frame that arrives on the management port (R321). -/
structure MgmtFrame where
  dest : BitVec 48
  etype : BitVec 16
  op : BitVec 8
  seq : Word
  args : List Byte
  sig : List Byte
  deriving DecidableEq, Repr

/-- A selected fast-plane event as it reaches the always-on domain (R289). -/
structure TraceEv where
  kind : BitVec 8
  island : Nat
  ctx : Option (BitVec 10)
  ringPos : BitVec 16
  status : BitVec 8
  opcode : BitVec 8
  cookie : BitVec 32
  clock : BitVec 48
  detail : Word
  deriving DecidableEq, Repr

/-- The commands: one constructor per row of the table of operations and events. -/
inductive Instr where
  -- control space and cores (R7, R8, R183, R311)
  | registerWrite (off : Nat) (v hw : Word)
  | readClear (off : Nat) (late : Nat)
  | coreLoad (h : Hart) (addr : BitVec 56) (len : Nat)
  | coreStore (h : Hart) (addr : BitVec 56) (data : List Byte)
  | fence (h : Hart) (predI predO succI succO : Bool)
  -- clusters and twins (R43–R65)
  | twinForm (c : Cl) (both sameAc : Bool)
  | twinDissolve (c : Cl) (both sameAc : Bool)
  | twinClockSwitched (c : Cl)
  | twinRelock (c : Cl)
  | auditConfigWrite (f : Fd) (v : Word)
  | auditTile (t : Nat)
  | tileComplete (c : Cl)
  | drainComplete (c : Cl)
  | kUnitStart (c : Cl) (ac : BitVec 4)
  | vectorRound (c : Cl) (ac : BitVec 4)
  -- the stack controller's schedule (R89–R102)
  | bankDescriptorIssue (st : St) (ch : Ch) (t : Nat)
  | passBoundary (st : St) (ch : Ch)
  | bankDescriptorComplete (st : St) (t : Nat)
  | refreshDue (st : St) (ch : Ch)
  | scrubTick (st : St) (ch : Ch)
  | arbConfigWrite (st : St) (v : Word)
  | ordinaryRequest (st : St) (iss : Issuer) (addr : Nat) (len : Nat) (data : List Byte) (isWrite : Bool)
  -- tensor table, contexts, rings (R134–R139)
  | tensorCreate (f : Fd) (v : Word)
  | tensorDestroy (f : Fd) (v : Word)
  | tensorCreationComplete (f : Fd)
  | contextCreate (f : Fd) (v : Word)
  | contextDestroy (f : Fd) (v : Word)
  | contextCheckComplete (f : Fd)
  | doorbell (f : Fd) (v : Word)
  | fetch (f : Fd)
  -- glints (R143–R147)
  | glintChange (f : Fd) (pool : Fin 13) (gf : Fd) (slot : BitVec 12)
  | glintSignalArrival (f : Fd) (slot : BitVec 12) (epoch : BitVec 16) (failed : Bool)
  | rearmRequest (f : Fd) (slot : BitVec 12) (epoch : BitVec 16) (t : Nat)
  | garmAnswer (t : Nat) (applied : Bool)
  -- dispatch, kill, commit (R148–R166)
  | dispatch (c : Cl) (eng : Fin 3)
  | killComplete (t : Nat)
  | killedWritesAcked (t : Nat)
  | routePoolDispatch (f : Fd)
  | headerArrival (t : Nat)
  | routeHandoff (t : Nat)
  | unitDone (t : Nat) (rep : UnitRep) (killSameAc : Bool)
  | descriptorRelease (t : Nat) (slot : BitVec 6)
  | writeAck (iss : Issuer)
  -- task opcodes that run on the clusters or in the banks (R141, R188)
  | nop (t : Nat)
  | garm (t : Nat)
  | tcreate (t : Nat)
  | tdestroy (t : Nat)
  | matmul (t : Nat)
  | matmulG (t : Nat)
  | matmulB (t : Nat)
  | vop (t : Nat)
  | copy (t : Nat)
  | aadd (t : Nat)
  | aminmax (t : Nat)
  | aswap (t : Nat)
  | acas (t : Nat)
  -- residency and teardown (R171–R177)
  | swapSelect (f : Fd)
  | swapOutDone (f : Fd)
  | swapInDone (f : Fd)
  | pin (f : Fd) (x : BitVec 10)
  | unpin (f : Fd) (x : BitVec 10)
  | evict (f : Fd) (x : BitVec 10)
  | admission (f : Fd) (x : BitVec 10)
  | tearDown (f : Fd) (x : BitVec 10)
  | teardownComplete (x : BitVec 10)
  -- export slots (R146, R194)
  | exportDone (f : Fd) (slot : BitVec 12) (epoch : BitVec 16)
  | exportFailed (f : Fd) (slot : BitVec 12) (epoch : BitVec 16)
  | exportRearm (f : Fd) (slot : BitVec 12) (epoch : BitVec 16)
  | peerControlWrite (dev : BitVec 4) (off : Nat) (v : Word)
  -- memory (R178, R262, R266, R267)
  | homeWrite (iss : Issuer) (addr : Nat) (data mask : List Byte) (poison : Bool)
  | homeRead (iss : Issuer) (addr : Nat) (len : Nat)
  | readResponse (iss : Issuer)
  | memoryAdd (iss : Issuer) (addr : Nat) (etype : BitVec 5) (data : List Byte) (poison : Bool)
  | wcbFlush (home : Home) (base : Nat)
  -- KV service (R201–R215)
  | streamRecordOpen (stream : BitVec 16)
  | streamRecordClose (stream : BitVec 16)
  | forwardedRequest (m : FwdMsg)
  | forwardedResult (m : FwdRes)
  | kvFormatWrite (v : Word)
  | poolConfigWrite (f : Fd) (list : Bool) (v : Word)
  | kappend (t : Nat)
  | kadvance (t : Nat)
  | kfree (t : Nat)
  | kread (t : Nat)
  | kbucket (t : Nat)
  | kmigrate (t : Nat)
  | kexpand (t : Nat)
  | kvEngineYield (f : Fd) (migration : Bool)
  | advance (stream : BitVec 16) (c : BitVec 21)
  | lengthQuery (t : Nat)
  | lengthAnswer (t : Nat)
  | lengthHoldExpiry (t : Nat)
  -- attention (R216–R229)
  | astep (t : Nat)
  | alatent (t : Nat)
  | adense (t : Nat)
  | lscan (t : Nat)
  | lsum (t : Nat)
  | aring (t : Nat)
  | ringCredit (t : Nat) (half : Bool)
  | ringReady (t : Nat)
  -- stream tracker (R232–R242)
  | streamOpen (stream : BitVec 16)
  | streamClose (stream : BitVec 16)
  | cancel (stream : BitVec 16)
  | pause (stream : BitVec 16)
  | resume (stream : BitVec 16)
  | expire (stream : BitVec 16)
  | abort (stream : BitVec 16)
  | finish (stream : BitVec 16)
  | constrain (stream : BitVec 16)
  | fail (stream : BitVec 16)
  | sbegin (t : Nat)
  | semit (t : Nat)
  | sverify (t : Nat)
  | smask (t : Nat)
  | report (r : Emission)
  | outputRecordAck (f : Fd)
  -- budgets, partitions, output rings (R245–R253)
  | debit (cust : BitVec 12) (amount : Nat)
  | throttle (f : Fd) (cust : BitVec 12)
  | unthrottle (f : Fd) (cust : BitVec 12)
  | credit (cust : BitVec 12) (amount : BitVec 32)
  | customerConfigWrite (cust : BitVec 12) (v : Word)
  | partitionStateWrite (p : Fin 16) (v : BitVec 3)
  | outputRingConfig (f : Fd) (v : Word)
  -- ranges, regulators, refresh of the heath (R259–R270)
  | rangeCreate (h : BitVec 12) (both : Bool)
  | rangeDestroy (h : BitVec 12)
  | rangeUpdateComplete
  | creditRefill (home : Fin 20) (p : Fin 16)
  | regulatorConfigWrite (v : Word)
  | heathRefreshDue (dev : Fin 32)
  -- integrity (R275–R289)
  | poisonReport (r : PReport)
  | repairSourceAnswer (slot : BitVec 6) (clean : Bool) (data : List Byte)
  | repairSourceTimeout (slot : BitVec 6)
  | reload (slot : BitVec 6)
  | repairVerify (slot : BitVec 6)
  | repairStallTimeout (iss : Issuer)
  | repairBoundExpiry (slot : BitVec 6)
  | holdRelease (slot : BitVec 6)
  | holdAbandon (slot : BitVec 6)
  | remapCopyDone (slot : BitVec 6)
  | repairMapWrite (v : Word)
  | heathScrubTick (dev : Fin 32)
  | meadowScrubTick (c : Cl)
  | injectionArm (v : Word)
  | logFullWrite (v : Word)
  | traceStart
  | traceStop
  | traceConfigWrite (v : Word)
  | traceEvent (e : TraceEv)
  -- links and peers (R192, R292–R299)
  | idleExit (l : Lk)
  | retrain (l : Lk)
  | trainingStepDone (l : Lk)
  | trainingTimeout (l : Lk)
  | retrainTimer (l : Lk)
  | uncorrectableFlit (l : Lk) (seq : BitVec 10)
  | nak (l : Lk) (seq : BitVec 10)
  | linkRxTimeout (l : Lk)
  | ident (l : Lk) (dev : BitVec 4) (index : BitVec 3) (mirror : Bool) (digest : Word)
  | remoteRequest (l : Lk) (r : RemoteReq)
  | remoteResponse (l : Lk) (t : Nat) (a : PeerAnswer)
  -- mirror pair (R301–R309)
  | heartbeatSend
  | heartbeat (port : Fin 2)
  | heartbeatMiss (port : Fin 2)
  | gp3Toggle
  | hbInToggle
  | hbInMiss
  | mirrorMessage (port : Fin 3) (m : MirrorMsg)
  | mirrorAck (stream : BitVec 16)
  | form
  | breakPair
  | confirm
  | catchUpStreamDone
  -- interrupts and Ethernet (R312–R321)
  | sourceLevelChange (n : Fin 512)
  | claim (t : Fin 32)
  | complete (t : Fin 32) (n : BitVec 9)
  | completionSample (t : Fin 32)
  | softwareSourceSet (n : Fin 4) (v : Word)
  | softwareSourceClear (n : Fin 4) (v : Word)
  | machineTimerExpiry (h : Hart)
  | ccWake (n : Fin 512)
  | receiveProd (p : Fin 3) (prod : BitVec 17)
  | transmitProd (p : Fin 3) (prod : BitVec 17)
  | frameReceive (p : Fin 3) (frame : List Byte) (bad : Bool)
  | frameTransmit (p : Fin 3)
  | ethStatRead (p : Fin 3)
  | managementFrame (m : MgmtFrame)
  | managementIdent
  | read (off : Nat)
  | domain (d : Fin 76) (on : Bool) (m : MgmtFrame)
  | resetCc (m : MgmtFrame)
  | resetModule (m : MgmtFrame)
  | powerOff (m : MgmtFrame)
  | i3cIdent
  | i3cRead (off : Nat)
  | i3cPowerOff
  -- power and heat (R323–R331)
  | domainOn (d : Fin 76)
  | domainOff (d : Fin 76)
  | domainSwitchDone (d : Fin 76)
  | initialisationDone (d : Fin 76) (trained : BitVec 8)
  | governorSample (watts : BitVec 12)
  | gatingLevelArrival (island : Fin 76)
  | residencyBinRollover
  | sensorSample (n : Fin 112) (temp : BitVec 12)
  | powerApplied
  | undervoltageWarning
  | undervoltageShutdown
  | overvoltageShutdown
  | converterFault
  | senseOpen
  | powerInjectionArm (v : Word)
  | slotIdSample (pins : BitVec 4)
  -- compute commands of a stack channel (R80)
  | bset (st : St) (ch : Ch) (w : BitVec 26)
  | pcfg (st : St) (ch : Ch) (w : BitVec 26)
  | mpass (st : St) (ch : Ch) (w : BitVec 26)
  | passEnd (st : St) (ch : Ch)
  | lpass (st : St) (ch : Ch) (w : BitVec 26)
  | spass (st : St) (ch : Ch) (w : BitVec 26)
  | fpass (st : St) (ch : Ch) (w : BitVec 26)
  | ldr (st : St) (ch : Ch) (w : BitVec 26) (pins : BitVec 1024)
  | rdr (st : St) (ch : Ch) (w : BitVec 26)
  | aclr (st : St) (ch : Ch) (w : BitVec 26)
  | stat (st : St) (ch : Ch) (w : BitVec 26)
  | halt (st : St) (ch : Ch) (w : BitVec 26)
  | bpuReservedOpcode (st : St) (ch : Ch) (w : BitVec 32)
  -- ordinary column and row commands (R87, R88)
  | columnNop (st : St) (ch : Ch)
  | rd (st : St) (ch : Ch) (w : BitVec 26)
  | wr (st : St) (ch : Ch) (w : BitVec 26) (data : List Byte)
  | scrb (st : St) (ch : Ch) (w : BitVec 26)
  | wrp (st : St) (ch : Ch) (w : BitVec 26)
  | columnReservedOpcode (st : St) (ch : Ch) (w : BitVec 32)
  | rowNop (st : St) (ch : Ch)
  | act (st : St) (ch : Ch) (w : BitVec 20)
  | pre (st : St) (ch : Ch) (w : BitVec 20)
  | prea (st : St) (ch : Ch)
  | sact (st : St) (ch : Ch) (w : BitVec 20)
  | spre (st : St) (ch : Ch)
  | ref (st : St) (ch : Ch)
  | rfm (st : St) (ch : Ch) (w : BitVec 20)
  | srfm (st : St) (ch : Ch)
  -- start-up, security, self-test, scan (R332–R352)
  | bootRom
  | platformFirmwareStart
  | imagesLoaded
  | flashErase (addr : BitVec 28)
  | flashProgram (addr : BitVec 28)
  | flashOperationDone (pass : Bool)
  | svnBlow
  | measurementExtend (reg : BitVec 3)
  | identityCertificate (buf : BitVec 46)
  | attestationCertificate (buf : BitVec 46)
  | quote (buf : BitVec 46)
  | quoteDone
  | selfTestRequest (kind : BitVec 2) (unit : BitVec 6)
  | selfTestEnd (kind : BitVec 2) (unit : BitVec 6) (pass : Bool) (remaps : BitVec 8)
  | extest
  | idcode
  | samplePreload (boundary : Word)
  | clear
  | clearComplete
  | intscan
  | bypass
  -- Ethernet and address events, overruns, link writes (R170, R309, R320, R323, R331, R358, R364)
  | ethLinkChange (p : Fin 3) (up : Bool)
  | ethFecUncorrectable (p : Fin 3)
  | dynamicAddressAssignment (a : BitVec 7)
  | overvoltageEvent
  | inputLoss
  | costOverrun (t : Nat)
  | linkEnableWrite (l : Lk) (on : Bool)
  | linkInjectionArm (l : Lk) (v : Word)
  -- vector operations (R107): bits 23:0 of the chain word of R105
  | add (c : Cl) (e : Fin 2) (w : BitVec 24)
  | sub (c : Cl) (e : Fin 2) (w : BitVec 24)
  | mul (c : Cl) (e : Fin 2) (w : BitVec 24)
  | fma (c : Cl) (e : Fin 2) (w : BitVec 24)
  | min (c : Cl) (e : Fin 2) (w : BitVec 24)
  | max (c : Cl) (e : Fin 2) (w : BitVec 24)
  | abs (c : Cl) (e : Fin 2) (w : BitVec 24)
  | neg (c : Cl) (e : Fin 2) (w : BitVec 24)
  | cmplt (c : Cl) (e : Fin 2) (w : BitVec 24)
  | cmple (c : Cl) (e : Fin 2) (w : BitVec 24)
  | cmpeq (c : Cl) (e : Fin 2) (w : BitVec 24)
  | sel (c : Cl) (e : Fin 2) (w : BitVec 24)
  | mov (c : Cl) (e : Fin 2) (w : BitVec 24)
  | rcp (c : Cl) (e : Fin 2) (w : BitVec 24)
  | div (c : Cl) (e : Fin 2) (w : BitVec 24)
  | sqrt (c : Cl) (e : Fin 2) (w : BitVec 24)
  | rsqrt (c : Cl) (e : Fin 2) (w : BitVec 24)
  | exp (c : Cl) (e : Fin 2) (w : BitVec 24)
  | exp2 (c : Cl) (e : Fin 2) (w : BitVec 24)
  | log (c : Cl) (e : Fin 2) (w : BitVec 24)
  | tanh (c : Cl) (e : Fin 2) (w : BitVec 24)
  | sigm (c : Cl) (e : Fin 2) (w : BitVec 24)
  | silu (c : Cl) (e : Fin 2) (w : BitVec 24)
  | gelut (c : Cl) (e : Fin 2) (w : BitVec 24)
  | sin (c : Cl) (e : Fin 2) (w : BitVec 24)
  | cos (c : Cl) (e : Fin 2) (w : BitVec 24)
  | iadd (c : Cl) (e : Fin 2) (w : BitVec 24)
  | imul (c : Cl) (e : Fin 2) (w : BitVec 24)
  | imin (c : Cl) (e : Fin 2) (w : BitVec 24)
  | imax (c : Cl) (e : Fin 2) (w : BitVec 24)
  | cvti (c : Cl) (e : Fin 2) (w : BitVec 24)
  | cvtf (c : Cl) (e : Fin 2) (w : BitVec 24)
  | iota (c : Cl) (e : Fin 2) (w : BitVec 24)
  | rand (c : Cl) (e : Fin 2) (w : BitVec 24)
  -- prism (R110): bits 23:0 of the prism word
  | bcast (c : Cl) (e : Fin 2) (w : BitVec 24)
  | rot (c : Cl) (e : Fin 2) (w : BitVec 24)
  | shft (c : Cl) (e : Fin 2) (w : BitVec 24)
  | rev (c : Cl) (e : Fin 2) (w : BitVec 24)
  | zip (c : Cl) (e : Fin 2) (w : BitVec 24)
  | unzip (c : Cl) (e : Fin 2) (w : BitVec 24)
  | xpose16 (c : Cl) (e : Fin 2) (w : BitVec 24)
  | idx (c : Cl) (e : Fin 2) (w : BitVec 24)
  -- reductions (R112) of the row that the reduction unit of cluster c has taken in
  | sum (c : Cl)
  | reduceMax (c : Cl)
  | reduceMin (c : Cl)
  | argmax (c : Cl)
  | topk (c : Cl) (kM1 : BitVec 10)
  | sample (c : Cl) (companion : Bool)
  deriving DecidableEq, Repr

end Sys2Proof
end

