-- ==== Sys2Proof/Decode.lean ====
section
/-! DEFINITION. The command that a table word spells: no row of spec/opcode_table.json gives bits, so no word spells
one, and commands arrive as themselves. Beside it, the commands that the words on a stack channel's two command buses
spell (R80, R87, R88). -/
namespace Sys2Proof

/-- The command that the `nbits` bits `w` spell: none, since no row of the table has bits. -/
def decodeTableWord (_nbits _w : Nat) : Option Instr := none

/-- The command that a 32-bit word on a channel's column command bus spells, by its opcode in bits 31:26 (R80, R87);
`pins` is what the data pins carry for LDR and `data` what they carry for WR. -/
def columnCommand (st : St) (ch : Ch) (w : BitVec 32) (pins : BitVec 1024) (data : List Byte) : Instr :=
  let a := w.setWidth 26
  match (w >>> 26).toNat with
  | 0x00 => .columnNop st ch
  | 0x01 => .rd st ch a
  | 0x02 => .wr st ch a data
  | 0x03 => .scrb st ch a
  | 0x04 => .wrp st ch a
  | 0x30 => .bset st ch a
  | 0x31 => .pcfg st ch a
  | 0x32 => .mpass st ch a
  | 0x33 => .lpass st ch a
  | 0x34 => .spass st ch a
  | 0x35 => .fpass st ch a
  | 0x36 => .ldr st ch a pins
  | 0x37 => .rdr st ch a
  | 0x38 => .aclr st ch a
  | 0x39 => .stat st ch a
  | 0x3A => .halt st ch a
  | n => if n < 0x30 then .columnReservedOpcode st ch w else .bpuReservedOpcode st ch w

/-- The command that a 24-bit word on a channel's row command bus spells, by its opcode in bits 23:20 (R88); opcodes 0x9
to 0xF are never issued and spell none. -/
def rowCommand (st : St) (ch : Ch) (w : BitVec 24) : Option Instr :=
  let a := w.setWidth 20
  match (w >>> 20).toNat with
  | 0x0 => some (.rowNop st ch)
  | 0x1 => some (.act st ch a)
  | 0x2 => some (.pre st ch a)
  | 0x3 => some (.prea st ch)
  | 0x4 => some (.sact st ch a)
  | 0x5 => some (.spre st ch)
  | 0x6 => some (.ref st ch)
  | 0x7 => some (.rfm st ch a)
  | 0x8 => some (.srfm st ch)
  | _ => none

end Sys2Proof
end

