-- ==== Sys2Proof/Config.lean ====
section
/-! DEFINITION. What an implementation fixes and the manual leaves open: opaque constants with no body,
so that no proof can see a value. A use that needs a fresh value each time applies one to the counter
`State.free`. -/
namespace Sys2Proof

/-- A free 64-bit value, numbered by the state's counter (log entry 2). -/
opaque Config.freeWord : Nat → BitVec 64

/-- Where the result of a vector operation with an accuracy in units in the last place lies within its
bound (R107); the first argument is the operation's code, the second its operand (log entry 6). -/
opaque Config.vecUlp : Nat → BitVec 32 → Nat

/-- The INT32 lane that an INT64 element outside the INT32 range loads as (R104, log entry 14). -/
opaque Config.int64Lane : BitVec 64 → BitVec 32

/-- Bytes that a descriptor which streams leaves in a stream buffer (R58): by draw and address (log entry
23). -/
opaque Config.streamByte : Nat → Nat → BitVec 8

/-- SHAKE256 of a message, of the given number of bytes (R336). -/
opaque Config.shake256 : List (BitVec 8) → Nat → List (BitVec 8)

/-- SHAKE256 of the contents of the boot ROM (R339). -/
opaque Config.romDigest : List (BitVec 8)

/-- Ed448 verification of a signature over a message under a public key (R336). -/
opaque Config.ed448Verify : List (BitVec 8) → List (BitVec 8) → List (BitVec 8) → Bool

/-- Ed448 signature of a message by key 0 (device) or 1 (attestation) of the module (R348). -/
opaque Config.ed448Sign : Nat → List (BitVec 8) → List (BitVec 8)

/-- Public key derived from the fuse secret and the measurements of the running image (R348). -/
opaque Config.publicKey : Nat → List (BitVec 8) → List (BitVec 8)

/-- What a peer's memory holds at an address at the time of a read; the third argument numbers the read
(R192, log entry 7). -/
opaque Config.peerByte : Nat → Nat → Nat → BitVec 8

/-- Power in W that the governor counts for a domain while it switches on (R324, log entry 34). -/
opaque Config.blockWatts : Nat → Nat

/-- Bits that the boundary register samples from the pins (R351). -/
opaque Config.pinSample : Nat → BitVec 64

/-- The scale byte of a weight scale slot that no bank register holds (R71, R80): by draw and byte (log entry 12). -/
opaque Config.freeScale : Nat → Nat → BitVec 8

/-- The bank of its device that holds a device block of the heath, by block number: the manual gives only that consecutive
blocks lie in different banks (R261; log entry 111). -/
opaque Config.heathBank : Nat → Nat

/-- The activation count at which a heath device asks for refresh management, as it reports it (R259; log entry 111). -/
opaque Config.heathThreshold : Nat → Nat

/-- An entry that an ADENSE step needs of its mask past the [n, n] that R219 gives it: by draw, operand key and query (log
entry 107). -/
opaque Config.outOfMask : Nat → Nat → Nat → BitVec 32

end Sys2Proof
end

