-- ==== Sys2Proof/Machine/Code.lean ====
section
/-! DEFINITION. The granule code of R271–R274: a Reed–Solomon code over GF(2^8) with four check symbols,
keyed by the address of the unit it protects. -/
namespace Sys2Proof.Machine

/-- Multiplication by α = 0x02 in GF(2^8) with x^8 + x^4 + x^3 + x^2 + 1 (R271). -/
def gfX (a : BitVec 8) : BitVec 8 := if a.msb then (a <<< 1) ^^^ 0x1D#8 else a <<< 1

/-- Product with a field element given by its bits from bit `n` − 1 down. -/
def gfMulAux (b : BitVec 8) (a : BitVec 8) : Nat → BitVec 8
  | 0 => 0#8
  | n + 1 =>
    let r := gfX (gfMulAux b (a >>> 1) n)
    if a.getLsbD 0 then r ^^^ b else r

/-- The product in GF(2^8). -/
def gfMul (a b : BitVec 8) : BitVec 8 := gfMulAux b a 8

/-- α^p. -/
def gfPow : Nat → BitVec 8
  | 0 => 1#8
  | n + 1 => gfX (gfPow n)

/-- Multiplication by α^i, i from 0 to 3. -/
def gfXs : Nat → BitVec 8 → BitVec 8
  | 0, a => a
  | n + 1, a => gfX (gfXs n a)

/-- Four bytes: the remainder held by the encoder, or the check symbols c0–c3. -/
structure Quad where
  a0 : BitVec 8
  a1 : BitVec 8
  a2 : BitVec 8
  a3 : BitVec 8
  deriving DecidableEq, Repr

/-- Coefficients g0–g3 of g(x) = (x + 1)(x + α)(x + α²)(x + α³); g4 is 1 (R271). -/
def genPoly : Quad := ⟨0x40#8, 0x78#8, 0x36#8, 0x0F#8⟩

/-- One step of the division by g(x): take in the next lower symbol. -/
def encStep (s : BitVec 8) (r : Quad) : Quad :=
  let f := s ^^^ r.a3
  ⟨gfMul genPoly.a0 f, r.a0 ^^^ gfMul genPoly.a1 f, r.a1 ^^^ gfMul genPoly.a2 f,
   r.a2 ^^^ gfMul genPoly.a3 f⟩

/-- The check symbols of data and key symbols, low position first (R271). -/
def encodeChk (data key : List (BitVec 8)) : Quad :=
  (data ++ key).foldr encStep ⟨0#8, 0#8, 0#8, 0#8⟩

/-- S_i: the received word evaluated at α^i (R273). -/
def syndrome (i : Nat) (word : List (BitVec 8)) : BitVec 8 :=
  word.foldr (fun s acc => gfXs i acc ^^^ s) 0#8

/-- Check symbols as a list. -/
def Quad.toList (q : Quad) : List (BitVec 8) := [q.a0, q.a1, q.a2, q.a3]

/-- The 32 check bits: symbol j is bits 8j + 7:8j (R271). -/
def Quad.pack (q : Quad) : BitVec 32 := q.a3 ++ q.a2 ++ q.a1 ++ q.a0

/-- The check symbols of 32 check bits. -/
def Quad.unpack (w : BitVec 32) : Quad :=
  ⟨w.extractLsb' 0 8, w.extractLsb' 8 8, w.extractLsb' 16 8, w.extractLsb' 24 8⟩

/-- Outcomes of the decoder (R273), in ascending value. -/
inductive Outc where
  | clean | poison | corrected | address | uncorrectable
  deriving DecidableEq, Repr

/-- The value of an outcome (R273). -/
def Outc.val : Outc → BitVec 3
  | .clean => 0 | .poison => 1 | .corrected => 2 | .address => 3 | .uncorrectable => 4

/-- Outcomes that poison the value read (R273). -/
def Outc.bad : Outc → Bool
  | .poison | .address | .uncorrectable => true
  | _ => false

/-- The syndromes S_0–S_3 of a received unit with the key of the address read. -/
def syndromes (data : List (BitVec 8)) (chk : Quad) (key : List (BitVec 8)) : Quad :=
  let w := chk.toList ++ data ++ key
  ⟨syndrome 0 w, syndrome 1 w, syndrome 2 w, syndrome 3 w⟩

/-- The poison syndrome for a form with D data symbols: key symbols that differ by 0xFF (R274). -/
def poisonSyndrome (d : Nat) : Quad :=
  let w := List.replicate (d + 4) 0#8 ++ List.replicate 4 0xFF#8
  ⟨syndrome 0 w, syndrome 1 w, syndrome 2 w, syndrome 3 w⟩

/-- Whether the syndromes are those of a single symbol in error at position p (R273). -/
def singleAt (s : Quad) (p : Nat) : Bool :=
  let a := gfPow p
  s.a0 != 0#8 && s.a1 == gfMul a s.a0 && s.a2 == gfMul a s.a1 && s.a3 == gfMul a s.a2

/-- The position of a single symbol in error among the first n positions. -/
def errPos (s : Quad) : Nat → Option Nat
  | 0 => none
  | n + 1 => match errPos s n with
    | some p => some p
    | none => if singleAt s n then some n else none

/-- What a decoder reports: the outcome and the data as it stands after correction (R273). -/
structure Decoded where
  outc : Outc
  data : List (BitVec 8)
  chk : Quad
  syn : Quad
  deriving DecidableEq, Repr

/-- The decoder of R273. -/
def decodeUnit (data : List (BitVec 8)) (chk : Quad) (key : List (BitVec 8)) : Decoded :=
  let s := syndromes data chk key
  let d := data.length
  if s = ⟨0#8, 0#8, 0#8, 0#8⟩ then ⟨.clean, data, chk, s⟩
  else if s = poisonSyndrome d then ⟨.poison, data, chk, s⟩
  else match errPos s (d + 8) with
    | none => ⟨.uncorrectable, data, chk, s⟩
    | some p =>
      if p < d + 4 then
        let w := (chk.toList ++ data).modify p (· ^^^ s.a0)
        ⟨.corrected, w.drop 4,
         ⟨w.getD 0 0#8, w.getD 1 0#8, w.getD 2 0#8, w.getD 3 0#8⟩, s⟩
      else ⟨.address, data, chk, s⟩

/-- The check symbols of the poison encoding of a unit of D zero bytes (R274). -/
def poisonChk (d : Nat) (key : List (BitVec 8)) : Quad :=
  encodeChk (List.replicate d 0#8) (key.map (· ^^^ 0xFF#8))

end Sys2Proof.Machine
end

