-- ==== Sys2Proof/Machine/Num.lean ====
section
/-! DEFINITION. Exact numbers, the element and scale types of R25–R30, rounding (R37, R38), the
conversions of R39, FP32 arithmetic, and block quantisation with the escape test (R32–R36). -/
namespace Sys2Proof.Machine

/-- A number as the datapaths see it: NaN, an infinity, or the exact value
(−1)^neg × n ÷ d × 2^e with d above 0; a zero keeps its sign. -/
inductive FV where
  | nan
  | inf (neg : Bool)
  | fin (neg : Bool) (n d : Nat) (e : Int)
  deriving DecidableEq, Repr

/-- Element and scale types (R25). -/
inductive EType where
  | fp32 | bf16 | fp16 | e4m3 | e5m2 | fp4 | int4 | int8 | int16 | int32 | int64 | tern
  deriving DecidableEq, Repr

/-- The element type of a code; none for reserved codes and for the scale codes (R25, R134). -/
def EType.ofCode (c : Nat) : Option EType :=
  match c with
  | 0 => some .fp32 | 1 => some .bf16 | 2 => some .fp16 | 3 => some .e4m3 | 4 => some .e5m2
  | 5 => some .fp4 | 6 => some .int4 | 7 => some .int8 | 8 => some .int16 | 9 => some .int32
  | 10 => some .int64 | 11 => some .tern | _ => none

/-- The code of an element type (R25). -/
def EType.code : EType → Nat
  | .fp32 => 0 | .bf16 => 1 | .fp16 => 2 | .e4m3 => 3 | .e5m2 => 4 | .fp4 => 5 | .int4 => 6
  | .int8 => 7 | .int16 => 8 | .int32 => 9 | .int64 => 10 | .tern => 11

/-- Width in bits (R26, R29). -/
def EType.width : EType → Nat
  | .fp32 => 32 | .bf16 => 16 | .fp16 => 16 | .e4m3 => 8 | .e5m2 => 8 | .fp4 => 4 | .int4 => 4
  | .int8 => 8 | .int16 => 16 | .int32 => 32 | .int64 => 64 | .tern => 2

/-- Floating-point types (R26). -/
def EType.isFloat : EType → Bool
  | .fp32 | .bf16 | .fp16 | .e4m3 | .e5m2 | .fp4 => true
  | _ => false

/-- Integer types; ternary is neither (R51). -/
def EType.isInt : EType → Bool
  | .int4 | .int8 | .int16 | .int32 | .int64 => true
  | _ => false

/-- Block length (R30); 1 for types that are never scaled. -/
def EType.blockLen : EType → Nat
  | .fp4 | .int4 | .e4m3 | .e5m2 | .int8 => 32
  | .tern => 128
  | _ => 1

/-- Types that are always block-scaled (R30). -/
def EType.mustScale : EType → Bool
  | .fp4 | .int4 | .tern => true
  | _ => false

/-- Scale types (R25): none, E8M0, or FP8 E4M3 used as a positive scale. -/
inductive SType where
  | none | e8m0 | e4m3
  deriving DecidableEq, Repr

/-- The scale type of a code of word 0 bits 12:8 (R121). -/
def SType.ofCode (c : Nat) : Option SType :=
  match c with
  | 0 => some .none | 0x10 => some .e8m0 | 0x11 => some .e4m3 | _ => Option.none

/-- The scale types R30 allows for an element type. -/
def scaleAllowed (t : EType) (s : SType) : Bool :=
  match s with
  | .none => true
  | .e8m0 => match t with
    | .fp4 | .int4 | .tern | .e4m3 | .e5m2 | .int8 => true
    | _ => false
  | .e4m3 => match t with
    | .fp4 | .int4 | .tern => true
    | _ => false

/-- Exponent bits, mantissa bits and bias of a floating-point type (R26). -/
def EType.sem : EType → Nat × Nat × Nat
  | .fp32 => (8, 23, 127) | .bf16 => (8, 7, 127) | .fp16 => (5, 10, 15) | .e4m3 => (4, 3, 7)
  | .e5m2 => (5, 2, 15) | .fp4 => (2, 1, 1) | _ => (0, 0, 0)

/-- Exponent of the least significant bit of a subnormal. -/
def EType.emin (t : EType) : Int := 1 - (t.sem.2.2 : Int) - (t.sem.2.1 : Int)

/-- The code of the largest finite magnitude of a floating-point type (R26). -/
def EType.maxCode : EType → Nat
  | .fp32 => 0x7F7FFFFF | .bf16 => 0x7F7F | .fp16 => 0x7BFF | .e4m3 => 0x7E | .e5m2 => 0x7B
  | .fp4 => 7 | _ => 0

/-- The code of +Inf, where the type has one (R26). -/
def EType.infCode : EType → Option Nat
  | .fp32 => some 0x7F800000 | .bf16 => some 0x7F80 | .fp16 => some 0x7C00 | .e5m2 => some 0x7C
  | _ => none

/-- The canonical NaN, where the type has one (R26). -/
def EType.nanCode : EType → Option Nat
  | .fp32 => some 0x7FC00000 | .bf16 => some 0x7FC0 | .fp16 => some 0x7E00 | .e4m3 => some 0x7F
  | .e5m2 => some 0x7E | _ => none

/-- Two's complement value of a code of `w` bits. -/
def sext (w c : Nat) : Int :=
  let c := c % 2 ^ w
  if 2 * c < 2 ^ w then (c : Int) else (c : Int) - (2 ^ w : Nat)

/-- The `w`-bit code of an integer. -/
def intCode (w : Nat) (v : Int) : Nat := (v % ((2 ^ w : Nat) : Int)).toNat

/-- An integer as an exact number. -/
def FV.ofInt (v : Int) : FV := .fin (decide (v < 0)) v.natAbs 1 0

/-- The magnitude of a finite floating-point code without its sign bit, as n × 2^e. -/
def magOf (t : EType) (c : Nat) : Nat × Int :=
  let (eb, mb, _) := t.sem
  let ex := (c / 2 ^ mb) % 2 ^ eb
  let mt := c % 2 ^ mb
  if ex = 0 then (mt, t.emin) else (mt + 2 ^ mb, t.emin + (ex - 1 : Nat))

/-- Decode an element code (R26, R28, R29). -/
def decodeElt (t : EType) (c : Nat) : FV :=
  match t with
  | .tern => match c % 4 with
    | 1 => .fin false 1 1 0
    | 3 => .fin true 1 1 0
    | _ => .fin false 0 1 0
  | .int4 | .int8 | .int16 | .int32 | .int64 => FV.ofInt (sext t.width c)
  | _ =>
    let (eb, mb, _) := t.sem
    let c := c % 2 ^ t.width
    let neg := decide (2 ^ (eb + mb) ≤ c)
    let m := c % 2 ^ (eb + mb)
    if m ≤ t.maxCode then
      let (n, e) := magOf t m
      .fin neg n 1 e
    else match t.infCode with
      | some i => if m = i then .inf neg else .nan
      | none => .nan

/-- Decode a scale code (R30): E8M0 powers of two with 0xFF a NaN; an E4M3 scale whose sign is set or
whose code is NaN acts as NaN. -/
def decodeScale (s : SType) (c : Nat) : FV :=
  match s with
  | .none => .fin false 1 1 0
  | .e8m0 => if c % 256 = 255 then .nan else .fin false 1 1 ((c % 256 : Nat) - 127 : Int)
  | .e4m3 => if 128 ≤ c % 256 then .nan else decodeElt .e4m3 (c % 256)

/-! Exact arithmetic with the special values of IEEE 754. -/

/-- The signed numerator over denominator `d1 * d2` and exponent `e` used by addition. -/
def FV.add (a b : FV) : FV :=
  match a, b with
  | .nan, _ => .nan
  | _, .nan => .nan
  | .inf s, .inf t => if s = t then .inf s else .nan
  | .inf s, _ => .inf s
  | _, .inf t => .inf t
  | .fin s n d e, .fin t m c f =>
    let g := min e f
    let x : Int := (n * c * 2 ^ (e - g).toNat : Nat)
    let y : Int := (m * d * 2 ^ (f - g).toNat : Nat)
    let v := (if s then -x else x) + (if t then -y else y)
    if v = 0 then .fin (s && t && decide (n = 0) && decide (m = 0)) 0 1 0
    else .fin (decide (v < 0)) v.natAbs (d * c) g

/-- Exact product. -/
def FV.mul (a b : FV) : FV :=
  match a, b with
  | .nan, _ => .nan
  | _, .nan => .nan
  | .inf s, .inf t => .inf (s != t)
  | .inf s, .fin t m _ _ => if m = 0 then .nan else .inf (s != t)
  | .fin s n _ _, .inf t => if n = 0 then .nan else .inf (s != t)
  | .fin s n d e, .fin t m c f => .fin (s != t) (n * m) (d * c) (e + f)

/-- Exact quotient. -/
def FV.div (a b : FV) : FV :=
  match a, b with
  | .nan, _ => .nan
  | _, .nan => .nan
  | .inf _, .inf _ => .nan
  | .inf s, .fin t _ _ _ => .inf (s != t)
  | .fin s _ _ _, .inf t => .fin (s != t) 0 1 0
  | .fin s n d e, .fin t m c f =>
    if m = 0 then (if n = 0 then .nan else .inf (s != t))
    else .fin (s != t) (n * c) (d * m) (e - f)

/-- Negation. -/
def FV.neg : FV → FV
  | .nan => .nan
  | .inf s => .inf (!s)
  | .fin s n d e => .fin (!s) n d e

/-- Magnitude. -/
def FV.abs : FV → FV
  | .nan => .nan
  | .inf _ => .inf false
  | .fin _ n d e => .fin false n d e

/-- Whether a value is NaN. -/
def FV.isNan : FV → Bool
  | .nan => true
  | _ => false

/-- Whether a value is finite. -/
def FV.isFin : FV → Bool
  | .fin _ _ _ _ => true
  | _ => false

/-- a < b in exact arithmetic; false where either is NaN. −0 and +0 are equal. -/
def FV.lt (a b : FV) : Bool :=
  match a, b with
  | .nan, _ => false
  | _, .nan => false
  | .inf s, .inf t => s && !t
  | .inf s, _ => s
  | _, .inf t => !t
  | .fin s n d e, .fin t m c f =>
    let g := min e f
    let x : Int := (n * c * 2 ^ (e - g).toNat : Nat)
    let y : Int := (m * d * 2 ^ (f - g).toNat : Nat)
    decide ((if s then -x else x) < (if t then -y else y))

/-- a = b in exact arithmetic; false where either is NaN. -/
def FV.eq (a b : FV) : Bool :=
  !a.isNan && !b.isNan && !a.lt b && !b.lt a

/-- The value as an integer pair over 2^0 for exact integer sums: numerator scaled by 2^32 (R52's block
accumulator has weight 2^−32 on its least significant bit). Zero for non-finite values. -/
def FV.fix32 : FV → Int
  | .fin s n d e =>
    let v : Int := if 0 ≤ e + 32 then ((n * 2 ^ (e + 32).toNat / d : Nat) : Int)
                   else ((n / (d * 2 ^ (-(e + 32)).toNat) : Nat) : Int)
    if s then -v else v
  | _ => 0

/-! Rounding. -/

/-- Rounding modes (R37); 0b11 is refused at fetch and acts as RNE here. -/
inductive RMode where
  | rne | rtz | sr
  deriving DecidableEq, Repr

/-- The mode of a 2-bit rounding field. -/
def RMode.ofCode (c : Nat) : RMode :=
  match c with
  | 1 => .rtz | 2 => .sr | _ => .rne

/-- The hash z of R38, modulo 2^64. -/
def srZ (seed index : Nat) : Nat :=
  let m := 2 ^ 64
  let z0 := (seed % m) ^^^ (index * 0x9E3779B97F4A7C15 % m)
  let z1 := (z0 ^^^ (z0 / 2 ^ 30)) * 0xBF58476D1CE4E5B9 % m
  let z2 := (z1 ^^^ (z1 / 2 ^ 27)) * 0x94D049BB133111EB % m
  z2 ^^^ (z2 / 2 ^ 31)

/-- How a conversion rounds: the mode with the draw r of R38. -/
structure Rnd where
  mode : RMode
  r : Nat
  deriving DecidableEq, Repr

/-- Round to nearest even, used by all arithmetic (R37). -/
def Rnd.rne : Rnd := ⟨.rne, 0⟩

/-- The rounding of a descriptor for the element of a linear index (R38). -/
def Rnd.of (mode : RMode) (seed index : Nat) : Rnd := ⟨mode, srZ seed index / 2 ^ 48⟩

/-- Round the quotient a ÷ b to an integer. -/
def roundDiv (k : Rnd) (a b : Nat) : Nat :=
  let q := a / b
  let r := a % b
  match k.mode with
  | .rtz => q
  | .rne => if 2 * r < b then q else if b < 2 * r then q + 1 else if q % 2 = 0 then q else q + 1
  | .sr => if r = 0 then q else if k.r < r * 2 ^ 16 / b then q + 1 else q

/-- ⌊log2 (n ÷ d)⌋ for n, d above 0. -/
def log2Q (n d : Nat) : Int :=
  let k : Int := (Nat.log2 n : Int) - (Nat.log2 d : Int)
  if d * 2 ^ k.toNat ≤ n * 2 ^ (-k).toNat then k else k - 1

/-- Round n ÷ d × 2^e to `mb` mantissa bits with lowest exponent `emin` and no upper limit: the
significand m and the exponent q of its least significant bit. -/
def roundMag (mb : Nat) (emin : Int) (k : Rnd) (n d : Nat) (e : Int) : Nat × Int :=
  if n = 0 then (0, emin)
  else
    let q := max (log2Q n d + e - mb) emin
    let sh := e - q
    (roundDiv k (n * 2 ^ sh.toNat) (d * 2 ^ (-sh).toNat), q)

/-- The magnitude code of a rounded significand, possibly beyond the type's range. -/
def magCode (t : EType) (m : Nat) (q : Int) : Nat := (q - t.emin).toNat * 2 ^ t.sem.2.1 + m

/-- Put a sign on a magnitude code. -/
def signed (t : EType) (neg : Bool) (m : Nat) : Nat :=
  if neg then m + 2 ^ (t.width - 1) else m

/-- Whether a rounded magnitude lies above the type's largest finite value (R39). -/
def beyondMax (t : EType) (m : Nat) (q : Int) : Bool := decide (t.maxCode < magCode t m q)

/-- Round a finite value to an integer. -/
def roundInt (k : Rnd) (neg : Bool) (n d : Nat) (e : Int) : Int :=
  let v : Int := roundDiv k (n * 2 ^ e.toNat) (d * 2 ^ (-e).toNat)
  if neg then -v else v

/-- The largest and smallest value of an integer type (R26). -/
def intMax (w : Nat) : Int := (2 ^ (w - 1) : Nat) - 1
def intMin (w : Nat) : Int := -((2 ^ (w - 1) : Nat) : Int)

/-- Saturate to a signed width; the flag tells whether it saturated (R39). -/
def satInt (w : Nat) (v : Int) : Int × Bool :=
  if intMax w < v then (intMax w, true) else if v < intMin w then (intMin w, true) else (v, false)

/-- Convert to a floating-point destination (R39): the code, and whether it counts. -/
def convFloat (t : EType) (k : Rnd) (v : FV) : Nat × Bool :=
  match v with
  | .nan => match t with
    | .e5m2 => (0x7E, true)
    | .e4m3 => (0x7F, true)
    | .fp4 => (0, true)
    | _ => (t.nanCode.getD 0, false)
  | .inf s => match t with
    | .e4m3 => (0x7F, true)
    | .fp4 => (0, true)
    | _ => (signed t s (t.infCode.getD 0), false)
  | .fin s n d e =>
    let (m, q) := roundMag t.sem.2.1 t.emin k n d e
    if beyondMax t m q then
      match t with
      | .fp32 | .bf16 | .fp16 =>
        (signed t s (if k.mode = .rtz then t.maxCode else t.infCode.getD 0), true)
      | _ => (signed t s t.maxCode, true)
    else (signed t s (magCode t m q), false)

/-- Convert to an integer destination (R39). -/
def convInt (w : Nat) (k : Rnd) (v : FV) : Nat × Bool :=
  match v with
  | .nan => (0, true)
  | .inf s => (intCode w (if s then intMin w else intMax w), true)
  | .fin s n d e =>
    let (x, f) := satInt w (roundInt k s n d e)
    (intCode w x, f)

/-- Convert to a ternary code: the integer nearest by the mode, limited to −1, 0, +1 (R29, R37, R39). -/
def convTern (k : Rnd) (v : FV) : Nat × Bool :=
  match v with
  | .fin s n d e =>
    let x := roundInt k s n d e
    if x = 0 then (0, false) else if 0 < x then (1, decide (1 < x)) else (3, decide (x < -1))
  | _ => (0, true)

/-- Convert a value to an element code (R37, R39). -/
def convert (t : EType) (k : Rnd) (v : FV) : Nat × Bool :=
  match t with
  | .tern => convTern k v
  | .int4 | .int8 | .int16 | .int32 | .int64 => convInt t.width k v
  | _ => convFloat t k v

/-! FP32 arithmetic: decode, compute exactly, round once to nearest even. -/

/-- The value of FP32 bits. -/
def f32 (b : BitVec 32) : FV := decodeElt .fp32 b.toNat

/-- Round to FP32 bits with RNE; overflow gives ±Inf and a NaN the canonical NaN. -/
def toF32 (v : FV) : BitVec 32 := BitVec.ofNat 32 (convFloat .fp32 .rne v).1

def fadd (a b : BitVec 32) : BitVec 32 := toF32 ((f32 a).add (f32 b))
def fsub (a b : BitVec 32) : BitVec 32 := toF32 ((f32 a).add (f32 b).neg)
def fmul (a b : BitVec 32) : BitVec 32 := toF32 ((f32 a).mul (f32 b))
def ffma (a b c : BitVec 32) : BitVec 32 := toF32 (((f32 a).mul (f32 b)).add (f32 c))
def fdiv (a b : BitVec 32) : BitVec 32 := toF32 ((f32 a).div (f32 b))

/-- Integer square root by binary search on `fuel` bits. -/
def isqrtAux (n : Nat) : Nat → Nat → Nat
  | 0, r => r
  | b + 1, r => isqrtAux n b (if (r + 2 ^ b) * (r + 2 ^ b) ≤ n then r + 2 ^ b else r)

/-- √v with enough bits and a sticky bit that one rounding to FP32 is correct. -/
def FV.sqrt : FV → FV
  | .nan => .nan
  | .inf s => if s then .nan else .inf false
  | .fin s n d e =>
    if n = 0 then .fin s 0 1 0
    else if s then .nan
    else
      let e2 := if e % 2 = 0 then e else e - 1
      let n2 := if e % 2 = 0 then n else 2 * n
      let m := n2 * 2 ^ 128 / d
      let r := isqrtAux m 128 0
      let exact := decide (r * r = m ∧ m * d = n2 * 2 ^ 128)
      .fin false (2 * r + (if exact then 0 else 1)) 1 (e2 / 2 - 65)

def fsqrt (a : BitVec 32) : BitVec 32 := toF32 (f32 a).sqrt

/-- Canonical NaN of FP32. -/
def nan32 : BitVec 32 := 0x7FC00000#32

/-- Whether FP32 bits are a NaN. -/
def isNan32 (a : BitVec 32) : Bool := (f32 a).isNan

/-- a before b in the order of MIN and MAX, with −0 below +0 (R108). -/
def ordLt (a b : BitVec 32) : Bool :=
  (f32 a).lt (f32 b) || ((f32 a).eq (f32 b) && a.msb && !b.msb)

/-- MIN and MAX: canonical NaN if either is NaN (R108). -/
def fmin (a b : BitVec 32) : BitVec 32 :=
  if isNan32 a || isNan32 b then nan32 else if ordLt b a then b else a
def fmax (a b : BitVec 32) : BitVec 32 :=
  if isNan32 a || isNan32 b then nan32 else if ordLt a b then b else a

/-- 1.0 or 0.0 in FP32. -/
def fbool (p : Bool) : BitVec 32 := if p then 0x3F800000#32 else 0#32

/-- FP32 of an integer, RNE. -/
def f32OfInt (v : Int) : BitVec 32 := toF32 (FV.ofInt v)

/-! The fixed pairwise tree of R42, R113: neighbours are added with RNE, an unpaired last passes up. -/
def pairUp : List (BitVec 32) → List (BitVec 32)
  | a :: b :: t => fadd a b :: pairUp t
  | l => l

def treeFuel : Nat → List (BitVec 32) → BitVec 32
  | _, [] => 0#32
  | _, [a] => a
  | 0, a :: _ => a
  | k + 1, l => treeFuel k (pairUp l)

/-- The tree sum of a row of FP32 values. -/
def treeSum (l : List (BitVec 32)) : BitVec 32 := treeFuel l.length l

/-! Quantising one block (R32–R36). -/

/-- The largest finite value M of an element type as an integer (R32). -/
def EType.blockMax : EType → Nat
  | .fp4 => 6 | .int4 => 7 | .tern => 1 | .e4m3 => 448 | .e5m2 => 57344 | .int8 => 127 | _ => 1

/-- The largest magnitude of a list of finite values. -/
def amaxOf : List FV → FV
  | [] => .fin false 0 1 0
  | a :: t => let m := amaxOf t; if m.lt a.abs || m.eq a.abs then a.abs else m

/-- The smallest E8M0 code whose scale satisfies amax ≤ M × s, saturated to 0 and 254 (R32). -/
def scaleE8 (m : Nat) (amax : FV) : Nat :=
  match amax with
  | .fin _ n d e =>
    if n = 0 then 127
    else
      let k := log2Q n (d * m)
      let up : Int := if d * m * 2 ^ k.toNat = n * 2 ^ (-k).toNat then k else k + 1
      (min 254 (max 0 (up + e + 127))).toNat
  | _ => 255

/-- The smallest positive E4M3 scale code from `c` on that satisfies amax ≤ M × s, else 0x7E (R32). -/
def scaleE4 (m : Nat) (amax : FV) : Nat → Nat → Nat
  | 0, _ => 0x7E
  | k + 1, c =>
    if ((FV.ofInt m).mul (decodeElt .e4m3 c)).lt amax then scaleE4 m amax k (c + 1) else c

/-- The scale code of a block (R32). -/
def scaleFor (s : SType) (m : Nat) (amax : FV) : Nat :=
  match s with
  | .e4m3 => scaleE4 m amax 126 1
  | _ => scaleE8 m amax

/-- Drop the first element that has the largest magnitude (R35: the lowest-indexed one). -/
def dropMax (amax : FV) : List FV → List FV
  | [] => []
  | a :: t => if a.abs.eq amax then t else a :: dropMax amax t

/-- The escape test of R35 against a threshold of VEC_ESC_THRESH (R36). The sum of the other magnitudes
is the tree over them without a gap (DEDUCED, log entry 20). -/
def escapes (thr : Nat) (xs : List FV) : Bool :=
  if thr = 0xFFFF then false
  else
    let amax := amaxOf xs
    let s := treeSum ((dropMax amax xs).map (fun x => toF32 x.abs))
    let sv := f32 s
    if sv.eq (.fin false 0 1 0) then false
    else if thr = 0 then true
    else ((FV.fin false thr 256 0).mul sv).lt (amax.mul (FV.ofInt 31))

/-- One quantised block: element codes, low-plane codes, scale code, tag, saturation count. -/
structure QBlock where
  codes : List Nat
  low : List Nat
  scale : Nat
  tag : Bool
  sat : Nat
  deriving DecidableEq, Repr

/-- Quantise a block: `thr` is the selected threshold when the destination has a tag plane, `idx` gives
each element's rounding. -/
def quantBlock (t : EType) (s : SType) (thr : Option Nat) (rnds : List Rnd) (xs : List FV) : QBlock :=
  let bad := (xs.filter (fun x => !x.isFin)).length
  let zeros := xs.map (fun _ => 0)
  if bad ≠ 0 then ⟨zeros, zeros, if s = .e4m3 then 0x7F else 0xFF, false, bad⟩
  else
    let amax := amaxOf xs
    if amax.eq (.fin false 0 1 0) then ⟨zeros, zeros, if s = .e4m3 then 0x38 else 0x7F, false, 0⟩
    else
      let tag := decide (t = .fp4) && (match thr with | some h => escapes h xs | none => false)
      let et := if tag then EType.e4m3 else t
      let sc := scaleFor s et.blockMax amax
      let sv := decodeScale (if s = .none then .e8m0 else s) sc
      let rs := (xs.zip rnds).map (fun p => convert et p.2 (p.1.div sv))
      let cs := rs.map (·.1)
      let sat := (rs.filter (·.2)).length
      if tag then ⟨cs.map (· / 16), cs.map (· % 16), sc, true, sat⟩
      else ⟨cs, zeros, sc, false, sat⟩

end Sys2Proof.Machine
end

