-- ==== Sys2Proof/Machine/RegTable.lean ====
section
/-! DEFINITION. The register map of the SPK-9640: every register of the manual's tables, its page, its
offset, and its fields with their access types (R8) and reset values. Reset values that the manual
gives as "per fuses", "per pins" or "per configuration record" are 0 here until the step that loads
them (log entry 3). -/
namespace Sys2Proof.Machine

/-- Access types of register fields (R8). -/
inductive Acc where
  | ro | rw | w1c | w1s | rc | wo
  deriving DecidableEq, Repr

/-- A family of register pages (R7 and the register tables of each chapter). -/
inductive Page where
  | plt  -- platform, boot, readiness
  | eth  -- Ethernet port p
  | mgt  -- management responder
  | pwr  -- power
  | int  -- interrupt controller
  | itg  -- interrupt target t
  | sch  -- scheduler of field f
  | ten  -- cluster c
  | vec  -- vector engines of cluster c
  | stk  -- stack s
  | hth  -- heath controller h
  | mem  -- memory fabric
  | icx  -- integrity
  | kvf  -- KV service of field f
  | kvc  -- KV service, common
  | srf  -- front end of field f
  | src  -- front end, common
  | lnk  -- link or port l
  | lnc  -- links, common
  | sec  -- security and self-test
  | tlm  -- telemetry
  deriving DecidableEq, Repr

/-- The registers, by name. -/
inductive Reg where
  | schCtxStage
  | schCtxCtl
  | schCtxStat
  | schQDoorbell
  | schCtxSel
  | schCtxView
  | schGlintSel
  | schGlintState
  | schGlintSignal
  | schGlintDup
  | schAuditCfg
  | schAuditTiles
  | schAuditDiffs
  | schAuditCnt
  | schThinThr
  | schPerfDispatch
  | schPerfCommit
  | schPerfEnd
  | schPerfHeld
  | schClassRsv
  | schNkCap
  | schResCtl
  | schResView
  | schSwapCfg
  | schSwapStat
  | schFault
  | schPerfKill
  | schPerfPromote
  | schPerfSwapout
  | schPerfSwapin
  | schPerfTeardown
  | schTdStage
  | schTdCreate
  | schTdResult
  | schTdRefused
  | tenId
  | tenStreamCfg
  | tenTwinCtl
  | tenTwinStat
  | tenPerfBusy
  | tenPerfStall
  | tenPerfEsc
  | tenPerfAttblk
  | tenPerfEmptyrow
  | tenMremap
  | vecId
  | vecEscThresh
  | vecSreg
  | vecPerfActive
  | vecPerfPortwait
  | vecPerfPrange
  | stkArbCfg
  | stkRefStat
  | stkRhCfg
  | stkScrubCfg
  | stkScrubPtr
  | stkPerfPass
  | stkPerfRef
  | stkPerfRfm
  | stkPerfOrdwait
  | stkBpuOrg
  | stkBpuCorr
  | stkBpuPois
  | stkBpuConf
  | stkBpuFuse
  | stkRemap
  | hthStat
  | hthOdecc
  | hthWcbFlush
  | hthRemap
  | memPeerSig
  | memPeerDrop
  | memNoAnswer
  | memAtomLines
  | memRangeStage
  | memRangeCtl
  | memRangeStat
  | memRegSel
  | memRegCfg
  | memRegLevel
  | memRegWait
  | kvsSrecCfg
  | kvsSrecStage
  | kvsSrecCtl
  | kvsSrecStat
  | kvsFmtSel
  | kvsFmt
  | kvsFrame
  | kvsPoolSel
  | kvsPoolCfg
  | kvsPoolList
  | kvsPoolFree
  | kvsPoolStat
  | kvsBucket
  | kvsPerfLabmiss
  | kvsPerfFrames
  | kvsPerfNoframe
  | kvsPerfClamp
  | kvsPerfMigrated
  | kvsPerfHold
  | kvsPerfSelfill
  | srvStreamStage
  | srvStreamCtl
  | srvStreamStat
  | srvStreamSel
  | srvStreamView
  | srvCustSel
  | srvCustCfg
  | srvCustBal
  | srvCustCredit
  | srvPartSel
  | srvPartCfg
  | srvPartCtl
  | srvPartStop
  | srvPartStat
  | srvCprogSel
  | srvCprogLoc
  | srvCprogN
  | srvOutCfg
  | srvOutHead
  | srvOutStat
  | srvPerfSteps
  | srvPerfRefused
  | srvPerfTokens
  | srvPerfDiscard
  | srvPerfDrafted
  | srvPerfAccepted
  | icxCfg
  | icxStat
  | icxEvtSel
  | icxEvtView0
  | icxEvtView1
  | icxHoldCtl
  | icxReloadData
  | icxReloadCtl
  | icxRmapSel
  | icxRmapCfg
  | icxScrubHth
  | icxScrubMdw
  | icxInjSel
  | icxInjCtl
  | icxInjStat
  | icxLogCfg
  | icxLogHead
  | icxLogTail
  | icxLogDrop
  | tlmSensSel
  | tlmSensView
  | tlmEvt
  | tlmTraceCfg
  | tlmTraceCtl
  | tlmTraceStat
  | tlmTraceDrop
  | lnkCtl
  | lnkStat
  | lnkPerfFlits
  | lnkPerfReplay
  | lnkPerfFeccorr
  | lnkInj
  | lnkDev
  | lnkPeerSel
  | lnkPeerView
  | lnkEvt
  | lnkMirCfg
  | lnkMirCtl
  | lnkMirStat
  | lnkMirPart
  | intSrcCfg
  | intSwset
  | intSwclr
  | intCplBad
  | intClaim
  | intComplete
  | intTgtStat
  | intMsip
  | intMtimecmp
  | intMtime
  | pltBootStat
  | pltReady0
  | pltReady1
  | pltEthCfg
  | pltEthStat
  | pltEthEvt
  | pltEthRing
  | pltEthRx
  | pltEthTx
  | pltEthLinkack
  | pltMgmtCfg
  | pltMgmtSeq
  | pltMgmtStat
  | pltMgmtDrop
  | pwrCfg
  | pwrGovStat
  | pwrIn
  | pwrRes
  | pwrEvt
  | pwrDomCtl
  | pwrDomSel
  | pwrDomView
  | pwrInj
  | secEvt
  | secStCtl
  | secStStat
  | secStSel
  | secStView
  | secMeasSel
  | secMeasData
  | secMeasExt
  | secMeasExtCtl
  | secQuoteNonce
  | secQuoteCtl
  | secQuoteStat
  | secFlashCtl
  | secFlashStat
  | secSvnCtl
  | secFlashBuf
  | secDbg
  deriving DecidableEq, Repr

/-- A field: its highest and lowest bit, its access type and its reset value. -/
structure RField where
  hi : Nat
  lo : Nat
  acc : Acc
  rst : Nat
  deriving DecidableEq, Repr

/-- A register: its page family, its offset in the page, how many words it has, its fields. -/
structure RegInfo where
  page : Page
  off : Nat
  count : Nat
  fields : List RField
  deriving DecidableEq, Repr

/-- Base offset, stride and number of pages of each family in the control space (R7). -/
def Page.place : Page → Nat × Nat × Nat
  | .plt => (0x000000, 0x0, 1)
  | .eth => (0x000800, 0x40, 3)
  | .mgt => (0x000900, 0x0, 1)
  | .pwr => (0x100000, 0x0, 1)
  | .int => (0x200000, 0x0, 1)
  | .itg => (0x202000, 0x100, 32)
  | .sch => (0x300000, 0x40000, 4)
  | .ten => (0x400000, 0x1000, 48)
  | .vec => (0x500000, 0x1000, 48)
  | .stk => (0x600000, 0x2000, 16)
  | .hth => (0x700000, 0x1000, 4)
  | .mem => (0x800000, 0x0, 1)
  | .icx => (0x900000, 0x0, 1)
  | .kvf => (0xA00000, 0x20000, 4)
  | .kvc => (0xA80000, 0x0, 1)
  | .srf => (0xB00000, 0x20000, 4)
  | .src => (0xB80000, 0x0, 1)
  | .lnk => (0xC00000, 0x1000, 10)
  | .lnc => (0xC0A000, 0x0, 1)
  | .sec => (0xD00000, 0x0, 1)
  | .tlm => (0xE00000, 0x0, 1)

/-- The register tables (R36, R47, R65, R85, R102, R118, R136, R159, R177, R196, R215, R231, R253, R270,
R289, R290, R309, R322, R331, R353). -/
def Reg.info : Reg → RegInfo
  | .schCtxStage => ⟨.sch, 0x0000, 4, [⟨63,0,.rw,0⟩]⟩
  | .schCtxCtl => ⟨.sch, 0x0020, 1, [⟨9,0,.wo,0⟩, ⟨10,10,.wo,0⟩, ⟨11,11,.wo,0⟩]⟩
  | .schCtxStat => ⟨.sch, 0x0028, 1, [⟨0,0,.ro,0⟩, ⟨3,1,.ro,0⟩, ⟨4,4,.w1c,0⟩]⟩
  | .schQDoorbell => ⟨.sch, 0x0030, 1, [⟨9,0,.wo,0⟩, ⟨26,10,.wo,0⟩]⟩
  | .schCtxSel => ⟨.sch, 0x0038, 1, [⟨9,0,.rw,0⟩]⟩
  | .schCtxView => ⟨.sch, 0x0040, 1, [⟨16,0,.ro,0⟩, ⟨33,17,.ro,0⟩, ⟨34,34,.ro,0⟩]⟩
  | .schGlintSel => ⟨.sch, 0x0100, 1, [⟨11,0,.rw,0⟩]⟩
  | .schGlintState => ⟨.sch, 0x0108, 1, [⟨15,0,.ro,0⟩, ⟨17,16,.ro,0⟩, ⟨18,18,.ro,1⟩, ⟨28,19,.ro,0⟩]⟩
  | .schGlintSignal => ⟨.sch, 0x0110, 1, [⟨11,0,.wo,0⟩, ⟨27,12,.wo,0⟩, ⟨29,28,.wo,0⟩]⟩
  | .schGlintDup => ⟨.sch, 0x0118, 1, [⟨47,0,.rc,0⟩]⟩
  | .schAuditCfg => ⟨.sch, 0x0200, 1, [⟨15,0,.rw,4096⟩]⟩
  | .schAuditTiles => ⟨.sch, 0x0208, 1, [⟨47,0,.rc,0⟩]⟩
  | .schAuditDiffs => ⟨.sch, 0x0210, 1, [⟨47,0,.rc,0⟩]⟩
  | .schAuditCnt => ⟨.sch, 0x0218, 1, [⟨47,0,.ro,0⟩]⟩
  | .schThinThr => ⟨.sch, 0x0300, 16, [⟨4,0,.rw,4⟩]⟩
  | .schPerfDispatch => ⟨.sch, 0x0400, 1, [⟨47,0,.rc,0⟩]⟩
  | .schPerfCommit => ⟨.sch, 0x0408, 1, [⟨47,0,.rc,0⟩]⟩
  | .schPerfEnd => ⟨.sch, 0x0410, 1, [⟨47,0,.rc,0⟩]⟩
  | .schPerfHeld => ⟨.sch, 0x0418, 1, [⟨47,0,.rc,0⟩]⟩
  | .schClassRsv => ⟨.sch, 0x0500, 1, [⟨9,0,.rw,128⟩, ⟨18,10,.rw,64⟩]⟩
  | .schNkCap => ⟨.sch, 0x0508, 1, [⟨31,0,.rw,1048576⟩]⟩
  | .schResCtl => ⟨.sch, 0x0510, 1, [⟨9,0,.wo,0⟩, ⟨12,10,.wo,0⟩]⟩
  | .schResView => ⟨.sch, 0x0518, 1, [⟨2,0,.ro,0⟩, ⟨3,3,.ro,0⟩, ⟨4,4,.ro,0⟩, ⟨14,5,.ro,0⟩, ⟨15,15,.ro,0⟩]⟩
  | .schSwapCfg => ⟨.sch, 0x0520, 1, [⟨15,0,.rw,0⟩, ⟨55,16,.rw,0⟩]⟩
  | .schSwapStat => ⟨.sch, 0x0528, 1, [⟨0,0,.ro,0⟩, ⟨1,1,.ro,0⟩, ⟨2,2,.w1c,0⟩, ⟨3,3,.w1c,0⟩, ⟨13,4,.ro,0⟩, ⟨23,14,.ro,0⟩]⟩
  | .schFault => ⟨.sch, 0x0530, 1, [⟨0,0,.w1c,0⟩, ⟨10,1,.ro,0⟩, ⟨18,11,.ro,0⟩, ⟨34,19,.ro,0⟩]⟩
  | .schPerfKill => ⟨.sch, 0x0540, 1, [⟨47,0,.rc,0⟩]⟩
  | .schPerfPromote => ⟨.sch, 0x0548, 1, [⟨47,0,.rc,0⟩]⟩
  | .schPerfSwapout => ⟨.sch, 0x0550, 1, [⟨47,0,.rc,0⟩]⟩
  | .schPerfSwapin => ⟨.sch, 0x0558, 1, [⟨47,0,.rc,0⟩]⟩
  | .schPerfTeardown => ⟨.sch, 0x0560, 1, [⟨47,0,.rc,0⟩]⟩
  | .schTdStage => ⟨.sch, 0x0800, 16, [⟨63,0,.rw,0⟩]⟩
  | .schTdCreate => ⟨.sch, 0x0880, 1, [⟨9,0,.wo,0⟩, ⟨25,10,.wo,0⟩, ⟨26,26,.wo,0⟩]⟩
  | .schTdResult => ⟨.sch, 0x0888, 1, [⟨0,0,.ro,0⟩, ⟨1,1,.ro,0⟩, ⟨2,2,.w1c,0⟩, ⟨15,8,.ro,0⟩, ⟨47,16,.ro,0⟩]⟩
  | .schTdRefused => ⟨.sch, 0x0890, 1, [⟨47,0,.rc,0⟩]⟩
  | .tenId => ⟨.ten, 0x0000, 1, [⟨5,0,.ro,0⟩, ⟨7,6,.ro,0⟩, ⟨8,8,.ro,0⟩, ⟨10,9,.ro,0⟩]⟩
  | .tenStreamCfg => ⟨.ten, 0x0008, 1, [⟨7,0,.rw,192⟩, ⟨15,8,.rw,64⟩]⟩
  | .tenTwinCtl => ⟨.ten, 0x0010, 1, [⟨0,0,.w1s,0⟩, ⟨1,1,.w1s,0⟩]⟩
  | .tenTwinStat => ⟨.ten, 0x0018, 1, [⟨1,0,.ro,0⟩, ⟨2,2,.w1c,0⟩, ⟨5,3,.ro,0⟩]⟩
  | .tenPerfBusy => ⟨.ten, 0x0040, 1, [⟨47,0,.rc,0⟩]⟩
  | .tenPerfStall => ⟨.ten, 0x0048, 1, [⟨47,0,.rc,0⟩]⟩
  | .tenPerfEsc => ⟨.ten, 0x0050, 1, [⟨47,0,.rc,0⟩]⟩
  | .tenPerfAttblk => ⟨.ten, 0x0058, 1, [⟨47,0,.rc,0⟩]⟩
  | .tenPerfEmptyrow => ⟨.ten, 0x0060, 1, [⟨47,0,.rc,0⟩]⟩
  | .tenMremap => ⟨.ten, 0x0100, 8, [⟨0,0,.ro,0⟩, ⟨1,1,.ro,0⟩, ⟨28,2,.ro,0⟩, ⟨29,29,.ro,0⟩]⟩
  | .vecId => ⟨.vec, 0x0000, 1, [⟨5,0,.ro,0⟩, ⟨7,6,.ro,2⟩, ⟨16,8,.ro,256⟩, ⟨27,17,.ro,1024⟩, ⟨46,28,.ro,262144⟩]⟩
  | .vecEscThresh => ⟨.vec, 0x0040, 1, [⟨15,0,.rw,3072⟩, ⟨31,16,.rw,2048⟩, ⟨47,32,.rw,6144⟩, ⟨63,48,.rw,65535⟩]⟩
  | .vecSreg => ⟨.vec, 0x0100, 64, [⟨63,0,.rw,0⟩]⟩
  | .vecPerfActive => ⟨.vec, 0x0400, 1, [⟨47,0,.rc,0⟩]⟩
  | .vecPerfPortwait => ⟨.vec, 0x0408, 1, [⟨47,0,.rc,0⟩]⟩
  | .vecPerfPrange => ⟨.vec, 0x0410, 1, [⟨47,0,.rc,0⟩]⟩
  | .stkArbCfg => ⟨.stk, 0x0000, 1, [⟨7,0,.rw,64⟩]⟩
  | .stkRefStat => ⟨.stk, 0x0008, 1, [⟨3,0,.ro,0⟩, ⟨4,4,.ro,0⟩, ⟨5,5,.w1c,0⟩]⟩
  | .stkRhCfg => ⟨.stk, 0x0010, 1, [⟨7,0,.rw,64⟩, ⟨16,8,.rw,192⟩, ⟨32,17,.rw,4096⟩]⟩
  | .stkScrubCfg => ⟨.stk, 0x0018, 1, [⟨31,0,.rw,0⟩, ⟨39,32,.rw,8⟩, ⟨40,40,.ro,0⟩]⟩
  | .stkScrubPtr => ⟨.stk, 0x0020, 1, [⟨4,0,.ro,0⟩, ⟨18,5,.ro,0⟩, ⟨24,19,.ro,0⟩, ⟨47,32,.ro,0⟩]⟩
  | .stkPerfPass => ⟨.stk, 0x0040, 1, [⟨47,0,.rc,0⟩]⟩
  | .stkPerfRef => ⟨.stk, 0x0048, 1, [⟨47,0,.rc,0⟩]⟩
  | .stkPerfRfm => ⟨.stk, 0x0050, 1, [⟨47,0,.rc,0⟩]⟩
  | .stkPerfOrdwait => ⟨.stk, 0x0058, 1, [⟨47,0,.rc,0⟩]⟩
  | .stkBpuOrg => ⟨.stk, 0x0800, 1, [⟨4,0,.ro,16⟩, ⟨12,5,.ro,128⟩, ⟨18,13,.ro,32⟩, ⟨25,19,.ro,64⟩, ⟨40,26,.ro,16384⟩]⟩
  | .stkBpuCorr => ⟨.stk, 0x0808, 1, [⟨47,0,.rc,0⟩]⟩
  | .stkBpuPois => ⟨.stk, 0x0810, 1, [⟨47,0,.rc,0⟩]⟩
  | .stkBpuConf => ⟨.stk, 0x0818, 1, [⟨47,0,.rc,0⟩]⟩
  | .stkBpuFuse => ⟨.stk, 0x0900, 32, [⟨63,0,.ro,0⟩]⟩
  | .stkRemap => ⟨.stk, 0x0A00, 16, [⟨0,0,.ro,0⟩, ⟨1,1,.ro,0⟩, ⟨28,2,.ro,0⟩, ⟨29,29,.ro,0⟩]⟩
  | .hthStat => ⟨.hth, 0x0000, 1, [⟨7,0,.ro,0⟩, ⟨8,8,.ro,0⟩, ⟨9,9,.ro,0⟩]⟩
  | .hthOdecc => ⟨.hth, 0x0008, 1, [⟨47,0,.rc,0⟩]⟩
  | .hthWcbFlush => ⟨.hth, 0x0010, 1, [⟨47,0,.rc,0⟩]⟩
  | .hthRemap => ⟨.hth, 0x0100, 64, [⟨0,0,.ro,0⟩, ⟨1,1,.ro,0⟩, ⟨28,2,.ro,0⟩, ⟨29,29,.ro,0⟩]⟩
  | .memPeerSig => ⟨.mem, 0x0100, 1, [⟨15,0,.rw,0⟩]⟩
  | .memPeerDrop => ⟨.mem, 0x0108, 1, [⟨47,0,.rc,0⟩]⟩
  | .memNoAnswer => ⟨.mem, 0x0110, 1, [⟨47,0,.rc,0⟩]⟩
  | .memAtomLines => ⟨.mem, 0x0118, 1, [⟨47,0,.rc,0⟩]⟩
  | .memRangeStage => ⟨.mem, 0x0200, 12, [⟨63,0,.rw,0⟩]⟩
  | .memRangeCtl => ⟨.mem, 0x0260, 1, [⟨11,0,.wo,0⟩, ⟨12,12,.wo,0⟩, ⟨13,13,.wo,0⟩]⟩
  | .memRangeStat => ⟨.mem, 0x0268, 1, [⟨0,0,.ro,0⟩, ⟨1,1,.ro,0⟩, ⟨4,2,.ro,0⟩, ⟨5,5,.w1c,0⟩]⟩
  | .memRegSel => ⟨.mem, 0x0300, 1, [⟨3,0,.rw,0⟩, ⟨8,4,.rw,0⟩]⟩
  | .memRegCfg => ⟨.mem, 0x0308, 1, [⟨15,0,.rw,0⟩, ⟨31,16,.rw,16⟩, ⟨32,32,.rw,0⟩]⟩
  | .memRegLevel => ⟨.mem, 0x0310, 1, [⟨15,0,.ro,0⟩]⟩
  | .memRegWait => ⟨.mem, 0x0318, 1, [⟨47,0,.rc,0⟩]⟩
  | .kvsSrecCfg => ⟨.kvc, 0x0000, 1, [⟨15,0,.rw,0⟩, ⟨55,16,.rw,0⟩]⟩
  | .kvsSrecStage => ⟨.kvc, 0x0008, 3, [⟨63,0,.rw,0⟩]⟩
  | .kvsSrecCtl => ⟨.kvc, 0x0020, 1, [⟨15,0,.wo,0⟩, ⟨17,16,.wo,0⟩]⟩
  | .kvsSrecStat => ⟨.kvc, 0x0028, 1, [⟨0,0,.ro,0⟩, ⟨1,1,.ro,0⟩, ⟨4,2,.ro,0⟩, ⟨5,5,.w1c,0⟩]⟩
  | .kvsFmtSel => ⟨.kvc, 0x0030, 1, [⟨3,0,.rw,0⟩]⟩
  | .kvsFmt => ⟨.kvc, 0x0038, 1, [⟨7,0,.rw,0⟩, ⟨14,8,.rw,0⟩, ⟨22,15,.rw,0⟩, ⟨27,23,.rw,0⟩, ⟨28,28,.rw,0⟩, ⟨29,29,.rw,0⟩, ⟨32,30,.rw,0⟩]⟩
  | .kvsFrame => ⟨.kvc, 0x0040, 1, [⟨39,0,.ro,0⟩]⟩
  | .kvsPoolSel => ⟨.kvf, 0x0000, 1, [⟨4,0,.rw,0⟩]⟩
  | .kvsPoolCfg => ⟨.kvf, 0x0008, 1, [⟨15,0,.rw,0⟩, ⟨55,16,.rw,0⟩]⟩
  | .kvsPoolList => ⟨.kvf, 0x0010, 1, [⟨39,0,.rw,0⟩, ⟨63,40,.rw,0⟩]⟩
  | .kvsPoolFree => ⟨.kvf, 0x0018, 1, [⟨23,0,.rw,0⟩]⟩
  | .kvsPoolStat => ⟨.kvf, 0x0020, 1, [⟨0,0,.w1c,0⟩]⟩
  | .kvsBucket => ⟨.kvf, 0x0100, 4, [⟨15,0,.rw,0⟩, ⟨31,16,.rw,0⟩, ⟨47,32,.rw,0⟩, ⟨63,48,.rw,0⟩]⟩
  | .kvsPerfLabmiss => ⟨.kvf, 0x0400, 1, [⟨47,0,.rc,0⟩]⟩
  | .kvsPerfFrames => ⟨.kvf, 0x0408, 1, [⟨47,0,.rc,0⟩]⟩
  | .kvsPerfNoframe => ⟨.kvf, 0x0410, 1, [⟨47,0,.rc,0⟩]⟩
  | .kvsPerfClamp => ⟨.kvf, 0x0418, 1, [⟨47,0,.rc,0⟩]⟩
  | .kvsPerfMigrated => ⟨.kvf, 0x0420, 1, [⟨47,0,.rc,0⟩]⟩
  | .kvsPerfHold => ⟨.kvf, 0x0428, 1, [⟨47,0,.rc,0⟩]⟩
  | .kvsPerfSelfill => ⟨.kvf, 0x0430, 1, [⟨47,0,.rc,0⟩]⟩
  | .srvStreamStage => ⟨.src, 0x0000, 2, [⟨63,0,.rw,0⟩]⟩
  | .srvStreamCtl => ⟨.src, 0x0010, 1, [⟨15,0,.wo,0⟩, ⟨19,16,.wo,0⟩]⟩
  | .srvStreamStat => ⟨.src, 0x0018, 1, [⟨0,0,.ro,0⟩, ⟨1,1,.ro,0⟩, ⟨4,2,.ro,0⟩]⟩
  | .srvStreamSel => ⟨.src, 0x0020, 1, [⟨15,0,.rw,0⟩]⟩
  | .srvStreamView => ⟨.src, 0x0028, 4, [⟨63,0,.ro,0⟩]⟩
  | .srvCustSel => ⟨.src, 0x0100, 1, [⟨11,0,.rw,0⟩]⟩
  | .srvCustCfg => ⟨.src, 0x0108, 1, [⟨31,0,.rw,0⟩, ⟨35,32,.rw,0⟩, ⟨36,36,.rw,0⟩, ⟨37,37,.rw,0⟩]⟩
  | .srvCustBal => ⟨.src, 0x0110, 1, [⟨39,0,.ro,0⟩, ⟨40,40,.ro,0⟩]⟩
  | .srvCustCredit => ⟨.src, 0x0118, 1, [⟨11,0,.wo,0⟩, ⟨43,12,.wo,0⟩]⟩
  | .srvPartSel => ⟨.src, 0x0200, 1, [⟨3,0,.rw,0⟩]⟩
  | .srvPartCfg => ⟨.src, 0x0208, 1, [⟨18,0,.rw,0⟩, ⟨34,19,.rw,0⟩, ⟨35,35,.rw,0⟩]⟩
  | .srvPartCtl => ⟨.src, 0x0210, 1, [⟨2,0,.rw,0⟩, ⟨3,3,.w1c,0⟩]⟩
  | .srvPartStop => ⟨.src, 0x0218, 1, [⟨19,0,.rw,0⟩, ⟨40,21,.rw,0⟩, ⟨61,42,.rw,0⟩]⟩
  | .srvPartStat => ⟨.src, 0x0220, 1, [⟨16,0,.ro,0⟩, ⟨33,17,.ro,0⟩]⟩
  | .srvCprogSel => ⟨.src, 0x0300, 1, [⟨7,0,.rw,0⟩]⟩
  | .srvCprogLoc => ⟨.src, 0x0308, 1, [⟨15,0,.rw,0⟩, ⟨55,16,.rw,0⟩]⟩
  | .srvCprogN => ⟨.src, 0x0310, 1, [⟨15,0,.rw,0⟩]⟩
  | .srvOutCfg => ⟨.srf, 0x0000, 1, [⟨15,0,.rw,0⟩, ⟨55,16,.rw,0⟩, ⟨60,56,.rw,0⟩]⟩
  | .srvOutHead => ⟨.srf, 0x0008, 1, [⟨16,0,.rw,0⟩, ⟨33,17,.rw,0⟩]⟩
  | .srvOutStat => ⟨.srf, 0x0010, 1, [⟨16,0,.ro,0⟩, ⟨33,17,.ro,0⟩, ⟨34,34,.w1c,0⟩]⟩
  | .srvPerfSteps => ⟨.srf, 0x0400, 1, [⟨47,0,.rc,0⟩]⟩
  | .srvPerfRefused => ⟨.srf, 0x0408, 1, [⟨47,0,.rc,0⟩]⟩
  | .srvPerfTokens => ⟨.srf, 0x0410, 1, [⟨47,0,.rc,0⟩]⟩
  | .srvPerfDiscard => ⟨.srf, 0x0418, 1, [⟨47,0,.rc,0⟩]⟩
  | .srvPerfDrafted => ⟨.srf, 0x0420, 1, [⟨47,0,.rc,0⟩]⟩
  | .srvPerfAccepted => ⟨.srf, 0x0428, 1, [⟨47,0,.rc,0⟩]⟩
  | .icxCfg => ⟨.icx, 0x0000, 1, [⟨15,0,.rw,5000⟩, ⟨23,16,.rw,16⟩, ⟨26,24,.rw,7⟩, ⟨27,27,.ro,0⟩]⟩
  | .icxStat => ⟨.icx, 0x0008, 1, [⟨0,0,.w1c,0⟩, ⟨1,1,.w1c,0⟩, ⟨2,2,.w1c,0⟩, ⟨3,3,.w1c,0⟩, ⟨4,4,.w1c,0⟩, ⟨5,5,.w1c,0⟩, ⟨6,6,.w1c,0⟩, ⟨7,7,.w1c,0⟩, ⟨8,8,.ro,0⟩, ⟨9,9,.w1c,0⟩]⟩
  | .icxEvtSel => ⟨.icx, 0x0010, 1, [⟨5,0,.rw,0⟩]⟩
  | .icxEvtView0 => ⟨.icx, 0x0018, 1, [⟨51,0,.ro,0⟩]⟩
  | .icxEvtView1 => ⟨.icx, 0x0020, 1, [⟨2,0,.ro,0⟩, ⟨5,3,.ro,0⟩, ⟨31,16,.ro,0⟩, ⟨38,32,.ro,0⟩, ⟨54,39,.ro,0⟩]⟩
  | .icxHoldCtl => ⟨.icx, 0x0028, 1, [⟨5,0,.wo,0⟩, ⟨7,6,.wo,0⟩]⟩
  | .icxReloadData => ⟨.icx, 0x0040, 8, [⟨63,0,.rw,0⟩]⟩
  | .icxReloadCtl => ⟨.icx, 0x0080, 1, [⟨5,0,.wo,0⟩, ⟨6,6,.wo,0⟩]⟩
  | .icxRmapSel => ⟨.icx, 0x0100, 1, [⟨5,0,.rw,0⟩]⟩
  | .icxRmapCfg => ⟨.icx, 0x0108, 1, [⟨15,0,.rw,0⟩, ⟨16,16,.rw,0⟩, ⟨17,17,.rw,0⟩, ⟨21,18,.rw,0⟩, ⟨37,22,.rw,0⟩, ⟨38,38,.rw,0⟩, ⟨39,39,.rw,0⟩]⟩
  | .icxScrubHth => ⟨.icx, 0x0200, 1, [⟨31,0,.rw,0⟩]⟩
  | .icxScrubMdw => ⟨.icx, 0x0208, 1, [⟨31,0,.rw,0⟩]⟩
  | .icxInjSel => ⟨.icx, 0x0300, 1, [⟨3,0,.rw,0⟩, ⟨9,4,.rw,0⟩, ⟨14,10,.rw,0⟩, ⟨20,15,.rw,0⟩]⟩
  | .icxInjCtl => ⟨.icx, 0x0308, 1, [⟨2,0,.rw,0⟩, ⟨3,3,.rw,0⟩, ⟨10,4,.rw,0⟩, ⟨18,11,.rw,0⟩, ⟨19,19,.w1s,0⟩]⟩
  | .icxInjStat => ⟨.icx, 0x0310, 1, [⟨0,0,.ro,0⟩, ⟨1,1,.w1c,0⟩, ⟨2,2,.w1c,0⟩]⟩
  | .icxLogCfg => ⟨.icx, 0x0400, 1, [⟨0,0,.rw,0⟩, ⟨13,1,.rw,0⟩]⟩
  | .icxLogHead => ⟨.icx, 0x0408, 1, [⟨15,0,.rw,0⟩]⟩
  | .icxLogTail => ⟨.icx, 0x0410, 1, [⟨15,0,.ro,0⟩]⟩
  | .icxLogDrop => ⟨.icx, 0x0418, 1, [⟨47,0,.rc,0⟩]⟩
  | .tlmSensSel => ⟨.tlm, 0x0000, 1, [⟨6,0,.rw,0⟩]⟩
  | .tlmSensView => ⟨.tlm, 0x0008, 1, [⟨11,0,.ro,0⟩, ⟨12,12,.ro,0⟩]⟩
  | .tlmEvt => ⟨.tlm, 0x0010, 1, [⟨8,0,.w1c,0⟩]⟩
  | .tlmTraceCfg => ⟨.tlm, 0x0100, 1, [⟨13,1,.rw,0⟩, ⟨19,16,.rw,0⟩, ⟨35,20,.rw,0⟩, ⟨37,36,.rw,0⟩, ⟨38,38,.rw,0⟩, ⟨39,39,.rw,0⟩, ⟨49,40,.rw,0⟩, ⟨50,50,.rw,0⟩]⟩
  | .tlmTraceCtl => ⟨.tlm, 0x0108, 1, [⟨0,0,.w1s,0⟩, ⟨1,1,.w1s,0⟩]⟩
  | .tlmTraceStat => ⟨.tlm, 0x0110, 1, [⟨0,0,.ro,0⟩, ⟨1,1,.w1c,0⟩, ⟨3,2,.ro,0⟩, ⟨35,4,.ro,0⟩]⟩
  | .tlmTraceDrop => ⟨.tlm, 0x0118, 1, [⟨47,0,.rc,0⟩]⟩
  | .lnkCtl => ⟨.lnk, 0x0000, 1, [⟨0,0,.rw,0⟩, ⟨3,1,.rw,3⟩, ⟨4,4,.w1s,0⟩]⟩
  | .lnkStat => ⟨.lnk, 0x0008, 1, [⟨2,0,.ro,0⟩, ⟨10,3,.ro,0⟩, ⟨14,11,.ro,0⟩, ⟨17,15,.ro,0⟩, ⟨20,18,.ro,0⟩, ⟨22,21,.ro,0⟩]⟩
  | .lnkPerfFlits => ⟨.lnk, 0x0040, 1, [⟨47,0,.rc,0⟩]⟩
  | .lnkPerfReplay => ⟨.lnk, 0x0048, 1, [⟨47,0,.rc,0⟩]⟩
  | .lnkPerfFeccorr => ⟨.lnk, 0x0050, 1, [⟨47,0,.rc,0⟩]⟩
  | .lnkInj => ⟨.lnk, 0x0080, 1, [⟨3,0,.rw,0⟩, ⟨4,4,.rw,0⟩, ⟨5,5,.w1s,0⟩]⟩
  | .lnkDev => ⟨.lnc, 0x0000, 1, [⟨3,0,.ro,0⟩, ⟨4,4,.ro,0⟩]⟩
  | .lnkPeerSel => ⟨.lnc, 0x0008, 1, [⟨3,0,.rw,0⟩]⟩
  | .lnkPeerView => ⟨.lnc, 0x0010, 1, [⟨0,0,.ro,0⟩, ⟨8,1,.ro,0⟩]⟩
  | .lnkEvt => ⟨.lnc, 0x0018, 1, [⟨0,0,.w1c,0⟩, ⟨1,1,.w1c,0⟩, ⟨2,2,.w1c,0⟩, ⟨3,3,.w1c,0⟩, ⟨4,4,.w1c,0⟩, ⟨5,5,.w1c,0⟩, ⟨6,6,.w1c,0⟩]⟩
  | .lnkMirCfg => ⟨.lnc, 0x0020, 1, [⟨0,0,.rw,0⟩, ⟨4,1,.rw,0⟩, ⟨7,5,.rw,0⟩, ⟨8,8,.ro,0⟩]⟩
  | .lnkMirCtl => ⟨.lnc, 0x0028, 1, [⟨0,0,.w1s,0⟩, ⟨1,1,.w1s,0⟩, ⟨2,2,.w1s,0⟩]⟩
  | .lnkMirStat => ⟨.lnc, 0x0030, 1, [⟨2,0,.ro,0⟩, ⟨3,3,.ro,0⟩, ⟨4,4,.ro,0⟩, ⟨5,5,.ro,0⟩, ⟨21,6,.ro,0⟩]⟩
  | .lnkMirPart => ⟨.lnc, 0x0038, 1, [⟨15,0,.rw,0⟩, ⟨31,16,.rw,0⟩, ⟨34,32,.ro,0⟩]⟩
  | .intSrcCfg => ⟨.int, 0x0000, 512, [⟨3,0,.rw,0⟩, ⟨4,4,.rw,0⟩, ⟨5,5,.rw,0⟩, ⟨6,6,.rw,0⟩, ⟨7,7,.ro,0⟩]⟩
  | .intSwset => ⟨.int, 0x1080, 4, [⟨63,0,.w1s,0⟩]⟩
  | .intSwclr => ⟨.int, 0x10A0, 4, [⟨63,0,.w1c,0⟩]⟩
  | .intCplBad => ⟨.int, 0x1100, 1, [⟨47,0,.rc,0⟩]⟩
  | .intClaim => ⟨.itg, 0x0000, 1, [⟨8,0,.ro,0⟩, ⟨9,9,.ro,0⟩]⟩
  | .intComplete => ⟨.itg, 0x0008, 1, [⟨8,0,.wo,0⟩]⟩
  | .intTgtStat => ⟨.itg, 0x0010, 1, [⟨0,0,.ro,0⟩, ⟨9,1,.ro,0⟩, ⟨10,10,.ro,0⟩]⟩
  | .intMsip => ⟨.int, 0x4000, 16, [⟨0,0,.rw,0⟩]⟩
  | .intMtimecmp => ⟨.int, 0x4100, 16, [⟨63,0,.rw,18446744073709551615⟩]⟩
  | .intMtime => ⟨.int, 0x4200, 1, [⟨63,0,.rw,0⟩]⟩
  | .pltBootStat => ⟨.plt, 0x0000, 1, [⟨2,0,.ro,0⟩, ⟨3,3,.ro,0⟩, ⟨4,4,.ro,0⟩, ⟨10,8,.ro,0⟩, ⟨13,11,.ro,0⟩, ⟨16,14,.ro,0⟩, ⟨31,24,.ro,0⟩, ⟨38,32,.ro,0⟩]⟩
  | .pltReady0 => ⟨.plt, 0x0008, 1, [⟨47,0,.ro,0⟩, ⟨63,48,.ro,0⟩]⟩
  | .pltReady1 => ⟨.plt, 0x0010, 1, [⟨3,0,.ro,0⟩, ⟨7,4,.ro,0⟩, ⟨8,8,.ro,0⟩, ⟨10,9,.ro,0⟩, ⟨11,11,.ro,0⟩, ⟨12,12,.ro,0⟩]⟩
  | .pltEthCfg => ⟨.eth, 0x0000, 1, [⟨0,0,.rw,0⟩, ⟨1,1,.rw,0⟩]⟩
  | .pltEthStat => ⟨.eth, 0x0008, 1, [⟨0,0,.ro,0⟩, ⟨31,1,.rc,0⟩]⟩
  | .pltEthEvt => ⟨.eth, 0x0010, 1, [⟨3,0,.ro,0⟩]⟩
  | .pltEthRing => ⟨.eth, 0x0018, 1, [⟨47,0,.rw,0⟩, ⟨52,48,.rw,6⟩]⟩
  | .pltEthRx => ⟨.eth, 0x0020, 1, [⟨16,0,.rw,0⟩, ⟨33,17,.ro,0⟩, ⟨50,34,.rw,0⟩]⟩
  | .pltEthTx => ⟨.eth, 0x0028, 1, [⟨16,0,.rw,0⟩, ⟨33,17,.ro,0⟩, ⟨50,34,.rw,0⟩]⟩
  | .pltEthLinkack => ⟨.eth, 0x0030, 1, [⟨0,0,.rw,0⟩]⟩
  | .pltMgmtCfg => ⟨.mgt, 0x0000, 1, [⟨47,0,.rw,0⟩, ⟨63,48,.rw,34997⟩]⟩
  | .pltMgmtSeq => ⟨.mgt, 0x0008, 1, [⟨63,0,.ro,0⟩]⟩
  | .pltMgmtStat => ⟨.mgt, 0x0010, 1, [⟨0,0,.w1c,0⟩, ⟨8,1,.ro,0⟩]⟩
  | .pltMgmtDrop => ⟨.mgt, 0x0018, 1, [⟨47,0,.rc,0⟩]⟩
  | .pwrCfg => ⟨.pwr, 0x0000, 1, [⟨11,0,.rw,2400⟩]⟩
  | .pwrGovStat => ⟨.pwr, 0x0008, 1, [⟨4,0,.ro,16⟩, ⟨5,5,.ro,1⟩, ⟨10,6,.ro,16⟩, ⟨22,11,.ro,3000⟩, ⟨44,23,.ro,2500000⟩]⟩
  | .pwrIn => ⟨.pwr, 0x0010, 1, [⟨15,0,.ro,0⟩, ⟨27,16,.ro,0⟩]⟩
  | .pwrRes => ⟨.pwr, 0x0018, 1, [⟨39,0,.ro,0⟩, ⟨40,40,.ro,0⟩]⟩
  | .pwrEvt => ⟨.pwr, 0x0020, 1, [⟨0,0,.w1c,0⟩, ⟨1,1,.w1c,0⟩, ⟨2,2,.w1c,0⟩, ⟨3,3,.w1c,0⟩, ⟨4,4,.w1c,0⟩, ⟨5,5,.w1c,0⟩, ⟨6,6,.w1c,0⟩, ⟨7,7,.w1c,0⟩, ⟨8,8,.w1c,0⟩, ⟨9,9,.w1c,0⟩, ⟨10,10,.w1c,0⟩]⟩
  | .pwrDomCtl => ⟨.pwr, 0x0030, 1, [⟨6,0,.wo,0⟩, ⟨8,7,.wo,0⟩]⟩
  | .pwrDomSel => ⟨.pwr, 0x0038, 1, [⟨6,0,.rw,0⟩]⟩
  | .pwrDomView => ⟨.pwr, 0x0040, 1, [⟨1,0,.ro,0⟩]⟩
  | .pwrInj => ⟨.pwr, 0x0080, 1, [⟨7,0,.rw,0⟩, ⟨23,8,.rw,0⟩, ⟨24,24,.rw,0⟩]⟩
  | .secEvt => ⟨.sec, 0x0000, 1, [⟨7,0,.w1c,0⟩]⟩
  | .secStCtl => ⟨.sec, 0x0008, 1, [⟨1,0,.wo,0⟩, ⟨7,2,.wo,0⟩, ⟨8,8,.wo,0⟩]⟩
  | .secStStat => ⟨.sec, 0x0010, 1, [⟨2,0,.ro,0⟩, ⟨4,3,.ro,0⟩, ⟨5,5,.ro,0⟩, ⟨6,6,.w1c,0⟩, ⟨9,7,.ro,0⟩]⟩
  | .secStSel => ⟨.sec, 0x0018, 1, [⟨1,0,.rw,0⟩, ⟨7,2,.rw,0⟩]⟩
  | .secStView => ⟨.sec, 0x0020, 1, [⟨2,0,.ro,0⟩, ⟨10,3,.ro,0⟩]⟩
  | .secMeasSel => ⟨.sec, 0x0100, 1, [⟨2,0,.rw,0⟩]⟩
  | .secMeasData => ⟨.sec, 0x0108, 8, [⟨63,0,.ro,0⟩]⟩
  | .secMeasExt => ⟨.sec, 0x0180, 8, [⟨63,0,.rw,0⟩]⟩
  | .secMeasExtCtl => ⟨.sec, 0x01C0, 1, [⟨2,0,.wo,0⟩, ⟨3,3,.wo,0⟩]⟩
  | .secQuoteNonce => ⟨.sec, 0x0200, 8, [⟨63,0,.rw,0⟩]⟩
  | .secQuoteCtl => ⟨.sec, 0x0240, 1, [⟨1,0,.wo,0⟩, ⟨51,6,.wo,0⟩]⟩
  | .secQuoteStat => ⟨.sec, 0x0248, 1, [⟨0,0,.ro,0⟩, ⟨1,1,.ro,0⟩, ⟨2,2,.w1c,0⟩, ⟨63,32,.ro,0⟩]⟩
  | .secFlashCtl => ⟨.sec, 0x0300, 1, [⟨1,0,.wo,0⟩, ⟨29,2,.wo,0⟩]⟩
  | .secFlashStat => ⟨.sec, 0x0308, 1, [⟨0,0,.ro,0⟩, ⟨1,1,.ro,0⟩, ⟨2,2,.w1c,0⟩, ⟨3,3,.w1c,0⟩]⟩
  | .secSvnCtl => ⟨.sec, 0x0310, 1, [⟨0,0,.w1s,0⟩]⟩
  | .secFlashBuf => ⟨.sec, 0x0318, 1, [⟨51,0,.rw,0⟩]⟩
  | .secDbg => ⟨.sec, 0x0400, 1, [⟨1,0,.ro,0⟩]⟩

/-- Every register of one page family. -/
def Page.regs : Page → List Reg
  | .plt => [.pltBootStat, .pltReady0, .pltReady1]
  | .eth => [.pltEthCfg, .pltEthStat, .pltEthEvt, .pltEthRing, .pltEthRx, .pltEthTx, .pltEthLinkack]
  | .mgt => [.pltMgmtCfg, .pltMgmtSeq, .pltMgmtStat, .pltMgmtDrop]
  | .pwr => [.pwrCfg, .pwrGovStat, .pwrIn, .pwrRes, .pwrEvt, .pwrDomCtl, .pwrDomSel, .pwrDomView, .pwrInj]
  | .int => [.intSrcCfg, .intSwset, .intSwclr, .intCplBad, .intMsip, .intMtimecmp, .intMtime]
  | .itg => [.intClaim, .intComplete, .intTgtStat]
  | .sch => [.schCtxStage, .schCtxCtl, .schCtxStat, .schQDoorbell, .schCtxSel, .schCtxView, .schGlintSel, .schGlintState, .schGlintSignal, .schGlintDup, .schAuditCfg, .schAuditTiles, .schAuditDiffs, .schAuditCnt, .schThinThr, .schPerfDispatch, .schPerfCommit, .schPerfEnd, .schPerfHeld, .schClassRsv, .schNkCap, .schResCtl, .schResView, .schSwapCfg, .schSwapStat, .schFault, .schPerfKill, .schPerfPromote, .schPerfSwapout, .schPerfSwapin, .schPerfTeardown, .schTdStage, .schTdCreate, .schTdResult, .schTdRefused]
  | .ten => [.tenId, .tenStreamCfg, .tenTwinCtl, .tenTwinStat, .tenPerfBusy, .tenPerfStall, .tenPerfEsc, .tenPerfAttblk, .tenPerfEmptyrow, .tenMremap]
  | .vec => [.vecId, .vecEscThresh, .vecSreg, .vecPerfActive, .vecPerfPortwait, .vecPerfPrange]
  | .stk => [.stkArbCfg, .stkRefStat, .stkRhCfg, .stkScrubCfg, .stkScrubPtr, .stkPerfPass, .stkPerfRef, .stkPerfRfm, .stkPerfOrdwait, .stkBpuOrg, .stkBpuCorr, .stkBpuPois, .stkBpuConf, .stkBpuFuse, .stkRemap]
  | .hth => [.hthStat, .hthOdecc, .hthWcbFlush, .hthRemap]
  | .mem => [.memPeerSig, .memPeerDrop, .memNoAnswer, .memAtomLines, .memRangeStage, .memRangeCtl, .memRangeStat, .memRegSel, .memRegCfg, .memRegLevel, .memRegWait]
  | .icx => [.icxCfg, .icxStat, .icxEvtSel, .icxEvtView0, .icxEvtView1, .icxHoldCtl, .icxReloadData, .icxReloadCtl, .icxRmapSel, .icxRmapCfg, .icxScrubHth, .icxScrubMdw, .icxInjSel, .icxInjCtl, .icxInjStat, .icxLogCfg, .icxLogHead, .icxLogTail, .icxLogDrop]
  | .kvf => [.kvsPoolSel, .kvsPoolCfg, .kvsPoolList, .kvsPoolFree, .kvsPoolStat, .kvsBucket, .kvsPerfLabmiss, .kvsPerfFrames, .kvsPerfNoframe, .kvsPerfClamp, .kvsPerfMigrated, .kvsPerfHold, .kvsPerfSelfill]
  | .kvc => [.kvsSrecCfg, .kvsSrecStage, .kvsSrecCtl, .kvsSrecStat, .kvsFmtSel, .kvsFmt, .kvsFrame]
  | .srf => [.srvOutCfg, .srvOutHead, .srvOutStat, .srvPerfSteps, .srvPerfRefused, .srvPerfTokens, .srvPerfDiscard, .srvPerfDrafted, .srvPerfAccepted]
  | .src => [.srvStreamStage, .srvStreamCtl, .srvStreamStat, .srvStreamSel, .srvStreamView, .srvCustSel, .srvCustCfg, .srvCustBal, .srvCustCredit, .srvPartSel, .srvPartCfg, .srvPartCtl, .srvPartStop, .srvPartStat, .srvCprogSel, .srvCprogLoc, .srvCprogN]
  | .lnk => [.lnkCtl, .lnkStat, .lnkPerfFlits, .lnkPerfReplay, .lnkPerfFeccorr, .lnkInj]
  | .lnc => [.lnkDev, .lnkPeerSel, .lnkPeerView, .lnkEvt, .lnkMirCfg, .lnkMirCtl, .lnkMirStat, .lnkMirPart]
  | .sec => [.secEvt, .secStCtl, .secStStat, .secStSel, .secStView, .secMeasSel, .secMeasData, .secMeasExt, .secMeasExtCtl, .secQuoteNonce, .secQuoteCtl, .secQuoteStat, .secFlashCtl, .secFlashStat, .secSvnCtl, .secFlashBuf, .secDbg]
  | .tlm => [.tlmSensSel, .tlmSensView, .tlmEvt, .tlmTraceCfg, .tlmTraceCtl, .tlmTraceStat, .tlmTraceDrop]

/-- Every page family. -/
def Page.all : List Page :=
  [.plt, .eth, .mgt, .pwr, .int, .itg, .sch, .ten, .vec, .stk, .hth, .mem, .icx, .kvf, .kvc, .srf, .src, .lnk, .lnc, .sec, .tlm]

end Sys2Proof.Machine
end

