-- ==== Sys2Proof/Machine/SMap.lean ====
section
/-! DEFINITION. Sparse maps: a list of (key, value) pairs with strictly rising keys in which no entry
holds what an unlisted key reads as. Equal maps are equal lists. -/
namespace Sys2Proof.Machine

/-- The value at a key; `d k` where the key is not listed. -/
def mapGet {α : Type} (d : Nat → α) (m : SMap α) (k : Nat) : α :=
  match m with
  | [] => d k
  | (a, b) :: t => if a = k then b else mapGet d t k

/-- Insert or replace one entry, in key order. -/
def mapPut {α : Type} (m : SMap α) (k : Nat) (v : α) : SMap α :=
  match m with
  | [] => [(k, v)]
  | (a, b) :: t =>
    if k < a then (k, v) :: (a, b) :: t
    else if k = a then (k, v) :: t
    else (a, b) :: mapPut t k v

/-- Remove the entry of a key. -/
def mapDel {α : Type} (m : SMap α) (k : Nat) : SMap α :=
  match m with
  | [] => []
  | (a, b) :: t => if a = k then t else (a, b) :: mapDel t k

/-- Set the value at a key, keeping the canonical form. -/
def mapSet {α : Type} [DecidableEq α] (d : Nat → α) (m : SMap α) (k : Nat) (v : α) : SMap α :=
  if v = d k then mapDel m k else mapPut m k v

/-- Apply a function to the value at a key. -/
def mapMod {α : Type} [DecidableEq α] (d : Nat → α) (m : SMap α) (k : Nat) (f : α → α) : SMap α :=
  mapSet d m k (f (mapGet d m k))

/-- The keys from `lo` on strictly rise. -/
def mapSorted {α : Type} (lo : Nat) : SMap α → Bool
  | [] => true
  | (a, _) :: t => decide (lo ≤ a) && mapSorted (a + 1) t

/-- No entry holds the default of its key. -/
def mapClean {α : Type} [DecidableEq α] (d : Nat → α) : SMap α → Bool
  | [] => true
  | (a, b) :: t => decide (b ≠ d a) && mapClean d t

/-- The canonical form of a sparse map. -/
def mapWf {α : Type} [DecidableEq α] (d : Nat → α) (m : SMap α) : Bool :=
  mapSorted 0 m && mapClean d m

/-- A map of optional records: an unlisted key holds none. -/
def optGet {α : Type} (m : SMap α) (k : Nat) : Option α :=
  match m with
  | [] => none
  | (a, b) :: t => if a = k then some b else optGet t k

/-- Map every entry's value (for maps of optional records). -/
def optMap {α : Type} (f : Nat → α → α) (m : SMap α) : SMap α := m.map (fun p => (p.1, f p.1 p.2))

/-- A list of numbers without repeats, first occurrences kept. -/
def uniq (l : List Nat) : List Nat := l.foldl (fun a x => if a.contains x then a else a ++ [x]) []

end Sys2Proof.Machine
end

