-- ==== Sys2Proof/Machine/State.lean ====
section
/-! DEFINITION. The state of the SPK-9640: the control-space registers, and every buffer, table, queue,
counter and pin the manual gives the module, with the state after reset (the always-on domain has just
come up, R332, R336). Each field names its width, its rule and its reset value. -/
namespace Sys2Proof.Machine

/-! ## Vector engines and reduction unit -/

/-- One 32-bit lane of a working register, with its poison (R104, R116). -/
structure Lane where
  v : BitVec 32
  p : Bool
  deriving DecidableEq, Repr

/-- A vector engine and the strip it works on (R104–R111). -/
structure Engine where
  task : Option Nat        -- descriptor whose strip it holds; reset none
  lanes : SMap Lane        -- v0–v15 × 256 lanes × 32 bits, register r lane i at 256 r + i; reset 0
  vl : Nat                 -- present vector length VL, 0–512; reset 0
  packed : Bool            -- packed mode (R106); reset 0
  half : Bool              -- packed type: 0 BF16, 1 FP16 (R106); reset 0
  mode : RMode             -- rounding mode of the descriptor (R37); reset RNE
  seed : Nat               -- 32-bit seed (R38); reset 0
  pos0 : Nat               -- position along the innermost dimension of the first element; reset 0
  lin0 : Nat               -- linear position in the iteration shape of the first element; reset 0
  scal : SMap Word         -- scalars as sampled at dispatch (R109), 64 × 64 bits; reset 0
  sat : Nat                -- saturations counted for the descriptor (R39); reset 0
  prange : Nat             -- lanes zeroed by the prism range rule (R110); reset 0
  deriving DecidableEq, Repr

/-- The reduction unit of a cluster: the row taken in and the outputs of the last reduction (R112–R115). -/
structure RedUnit where
  row : List Lane          -- elements of the row in ascending position; reset empty
  comp : List Lane         -- companion register's elements (R115); reset empty
  hasComp : Bool           -- a companion is named; reset 0
  rowNo : Nat              -- row number; reset 0
  seed : Nat               -- 32-bit seed; reset 0
  vals : List (BitVec 32)  -- value outputs; reset empty
  idxs : List (BitVec 32)  -- position outputs; reset empty
  bad : Bool               -- the outputs are poisoned (R113, R116); reset 0
  pre : Nat                -- TOPK: key prefix found so far, of as many bytes as passes have ended (R114); reset 0
  need : Nat               -- TOPK: elements still needed among those with the prefix (R114); reset 0
  hist : SMap Nat          -- TOPK: 256-bin histogram of the pass (R114); reset empty
  coll : List (Nat × BitVec 32)  -- TOPK: elements collected, with their positions (R114); reset empty
  deriving DecidableEq, Repr

/-- The vector part of the clusters. -/
structure Vec where
  eng : SMap Engine        -- engine e of cluster c at 2c + e
  red : SMap RedUnit       -- by cluster
  deriving DecidableEq, Repr

/-! ## Arrays -/

/-- One lane of a cluster tile (R52). -/
structure ALane where
  acc : BitVec 32          -- FP32 or INT32 accumulator
  blk : FV                 -- 80-bit fixed-point block accumulator of weight 2^−32, as its exact value (R52)
  part : BitVec 32         -- FP32 block partial of a BF16 or FP16 operand
  p : Bool                 -- consumed poison
  deriving DecidableEq, Repr

/-- The arrays of a cluster, or of the twin it owns, with staging and drain (R50–R63). -/
structure Arrays where
  task : Option Nat        -- descriptor that holds the arrays; reset none
  tile : Nat               -- number of the cluster tile in progress; reset 0
  unit : Nat               -- K units of the tile already run; reset 0
  bank : Bool              -- accumulator bank that computes; reset 0
  acc0 : SMap ALane        -- accumulator bank 0, row r column n at 4096 r + n; reset 0
  acc1 : SMap ALane        -- accumulator bank 1; reset 0
  drain : Option Nat       -- tile that drains; reset none
  units : Nat              -- modulo-16 number of the island's ac for issue gating (R328); reset 0
  deriving DecidableEq, Repr

/-! ## Stacks -/

/-- A bank with its BPU (R70, R84, R94). -/
structure Bank where
  row : Option Nat         -- open row, 14 bits; reset none
  bk : SMap (BitVec 1024)  -- bk0–bk15; reset 0
  acc : SMap (BitVec 32)   -- acc0, acc1: set a lane l at 64 a + l; reset 0
  rp : BitVec 16           -- register poison flags; reset 0
  ap : BitVec 2            -- accumulator poison flags; reset 0
  status : Word            -- status word (R84); reset 0
  raa : Nat                -- activation count (R94); reset 0
  track : SMap Nat         -- activations of each row since its targeted refresh; the eight largest are tracked (R94); reset 0
  alert : Bool             -- row alert raised (R94); reset 0
  deriving DecidableEq, Repr

/-- What a memory request asks of its home (R178, R187). -/
inductive ReqKind where
  | rd | wr | add (etype : BitVec 5)
  deriving DecidableEq, Repr

/-- A memory request that waits at a home (R91, R268, R281). -/
structure MemReq where
  iss : Issuer
  kind : ReqKind
  addr : Nat
  len : Nat
  data : List Byte
  mask : List Byte
  poison : Bool
  part : Option Nat        -- a peer's request: the partition number that it carries (R268)
  deriving DecidableEq, Repr

/-- What waits for the ordinary allowance of a channel: a request, or a scrub that is due (R91, R95). -/
inductive OrdItem where
  | req (q : MemReq)
  | scrub
  deriving DecidableEq, Repr

/-- A descriptor that was switched out of a channel with spilled state, and the banks it was stepping (R92). -/
structure Spilled where
  task : Nat
  bset : BitVec 64
  deriving DecidableEq, Repr

/-- A channel of a stack: its bank set, pass, pins, refresh debt and queues (R80–R95). -/
structure Chan where
  bset : BitVec 64         -- bank set (R80); reset 0
  pcfg : BitVec 26         -- pass configuration (R80); reset 0
  pass : Option (BitVec 26) -- the MPASS word of the active pass (R77); reset none
  pins : BitVec 8192       -- data pins: what the last RDR, STAT or RD returned, low granule first; reset 0
  pinP : Bool              -- poison flag returned with the pins (R84); reset 0
  debt : Int               -- REF owed; negative when pulled in (R93); reset 0
  stop : Bool              -- passes not admitted: the debt is being paid (R93); reset 0
  queue : List Nat         -- bank descriptors waiting, in R92's order; reset empty
  run : Option Nat         -- bank descriptor that steps; reset none
  spilled : List Spilled   -- descriptors switched out with spilled state (R92); reset empty
  ord : List OrdItem       -- ordinary requests and due scrubs that wait, oldest first (R91, R95); reset empty
  pos : Nat                -- pairs scrubbed: pair, row, bank and sweep from the low end (R95, R102); reset 0
  deriving DecidableEq, Repr

/-- Banks and channels of the sixteen stacks. -/
structure Stacks where
  banks : SMap Bank        -- bank b of channel ch of stack s at 2048 s + 64 ch + b
  chans : SMap Chan        -- channel ch of stack s at 32 s + ch
  deriving DecidableEq, Repr

/-! ## Memory fabric -/

/-- A write-combining line: per byte its value and its mask of valid bits (R266). -/
structure WLine where
  base : Nat
  cells : SMap (Byte × Byte)
  deriving DecidableEq, Repr

/-- A line held for cluster-, field- or device-scope atomics (R189). -/
structure AtomLine where
  buf : Nat                -- 0–47 cluster, 48–51 field, 72–73 I/O die
  base : Nat
  data : List Byte         -- 64 bytes
  wrote : List Nat         -- places of the bytes that element operations changed since the last write-back
  bad : List Nat           -- units that element operations poisoned since then
  users : List Nat         -- uncommitted descriptors that use the line
  deriving DecidableEq, Repr

/-- A credit bucket of a bandwidth regulator (R268). -/
structure Bucket where
  rate : Nat               -- 16 bits; reset 0
  burst : Nat              -- 16 bits; reset 16
  enable : Bool            -- reset 0
  level : Nat              -- credits; reset 0
  wait : List MemReq       -- requests that wait for credits; reset empty
  debt : Nat               -- the model's own: credits that work in one piece has taken beyond the level (log entry 55); reset 0
  held : Bool              -- a request waited through the last refill (R270); reset 0
  waited : Nat             -- MEM_REG_WAIT of the bucket (R270); reset 0
  deriving DecidableEq, Repr

/-- A range create or destroy in progress (R265). -/
structure RangeReq where
  h : Nat
  create : Bool
  both : Bool
  words : List Word
  deriving DecidableEq, Repr

/-- Read data on its way back to the issuing unit (R262). -/
structure ReadData where
  iss : Issuer
  data : List Byte
  bad : Bool
  deriving DecidableEq, Repr

/-- A stream buffer whose contents a descriptor left unspecified (R58), but for the units written since. -/
structure Junk where
  lo : Nat
  hi : Nat
  seed : Nat
  written : SMap Bool
  deriving DecidableEq, Repr

/-- The memory fabric: stored units, write-combining lines, ranges, regulators, requests in flight. -/
structure Mem where
  mem : List Host.Cell     -- data bytes by fabric-local address; unlisted bytes read 0 (R274, R343)
  chk : SMap (BitVec 32)   -- check bits by unit address; unlisted units hold the poison encoding
  wcb : SMap (List WLine)  -- 32 lines per home 0–15 stacks, 16–19 heath, oldest written first (R266)
  atoms : List AtomLine    -- atomic lines (R189); reset empty
  ranges : SMap (List Word) -- range table, handles 1–4095: 12 words each; reset none valid (R264)
  rangeReq : Option RangeReq -- request being checked or propagated (R265); reset none
  buckets : SMap Bucket    -- bucket of partition p at home h at 16 h + p (R268)
  reads : List ReadData    -- read responses in flight; reset empty
  stalled : List MemReq    -- requests that wait on a pair in repair (R281); reset empty
  junk : SMap Junk         -- by cluster: its stream buffer after a descriptor that streamed (R58); reset none
  acks : SMap Nat          -- writes not yet acknowledged: descriptor t at 16 + t, hart h at h (R178)
  hact : SMap Nat          -- activations of a heath device's bank since its last RFM, at 2^32 device + bank (R259); reset 0
  late : Bool              -- the model's own: a descriptor's read of this step met a pass (R12); reset 0
  marked : Bool            -- the model's own: an access of this step met a pair in repair (R281); reset 0
  deriving DecidableEq, Repr

/-! ## Scheduler -/

/-- Residency of a context (R171). -/
inductive Resid where
  | absent | nonResident | swappingIn | resident | blocked | swappingOut | tornDown
  deriving DecidableEq, Repr

/-- An execution context (R137, R171–R176). -/
structure Ctx where
  cw : List Word           -- the four words of the context record
  field : Nat              -- home field
  head : BitVec 17         -- descriptors fetched (R138)
  tail : BitVec 17         -- descriptors written (R138)
  res : Resid
  pinned : Bool
  blkSeq : Nat             -- number of its last transition into blocked (R172)
  runSeq : Nat             -- order in which it became runnable (R173)
  runnable : Bool          -- runnable while non-resident (R172)
  held : Bool              -- fetch stopped at a poisoned ring entry (R139)
  dying : Bool             -- in teardown (R176)
  torn : Option (Nat × Nat) -- a teardown that waits for the end of a swap: status and ring position (R174)
  deriving DecidableEq, Repr

/-- State of a glint slot (R144). -/
structure Glint where
  epoch : BitVec 16
  st : BitVec 2            -- 0 armed, 1 done, 2 failed
  deriving DecidableEq, Repr

/-- Where a placed descriptor stands. -/
inductive Phase where
  | placed                 -- waits for its glints and its engine
  | header                 -- gathered: the header read is in flight (R151)
  | handoff                -- resolved to the tensor engine, crossing to its scoreboard (R151)
  | query                  -- the length query is in flight or held (R218)
  | running                -- an attempt runs
  | doneWait               -- every unit reported; writes not yet acknowledged (R152)
  | recWait                -- committed or ended; glints wait for the record's write (R153)
  | killed                 -- killed: engine being freed (R164)
  | killWait               -- killed: writes not yet acknowledged (R164)
  | held                   -- consumed poison (R155)
  | image                  -- in the swap image of a non-resident context (R175)
  deriving DecidableEq, Repr

/-- The engine a descriptor occupies (R149, R160, R203, R252). -/
inductive Eng where
  | arrays | vector | copy | append | migrate | banks | none
  deriving DecidableEq, Repr

/-- The counts of an attempt, as the completion record takes them (R157). -/
structure Counts where
  sat : Nat
  esc : Nat
  aud : Nat
  prange : Nat
  irange : Nat
  deriving DecidableEq, Repr

/-- A task descriptor from its fetch to its commit or end (R139–R166). -/
structure Task where
  ctx : Nat
  field : Nat
  ring : BitVec 16         -- ring index modulo 2^16
  w : List Word            -- the sixteen words (R140)
  inPool : Bool            -- in the field's route pool (R148)
  met : BitVec 4           -- awaited references that are satisfied (R144)
  issued : Bool            -- the attempt's work has been issued to its unit
  phase : Phase
  eng : Eng                -- engine of the running attempt
  kills : Nat              -- kill count, 0–4 (R165)
  promoted : Bool          -- the next attempt is non-killable under R165
  nkRun : Bool             -- the running attempt is non-killable (R166)
  dead : Option (BitVec 8 × BitVec 32) -- status with which the attempt will end
  everPoison : Bool        -- an attempt consumed poison (R155)
  poison : Bool            -- a unit reported poison for this attempt
  sel : Option Nat         -- audit selection: none before first dispatch; 0 none, m + 1 tile m (R43)
  audited : Bool           -- a tile was audited in this attempt
  route : Bool             -- 1: banks
  units : Nat              -- units that have not reported done (R152)
  entries : List (List Word) -- tensor entries A, B, C, D, audit_src as sampled (R120)
  stale : Bool             -- a scoreboard copy was invalidated (R148)
  gcount : SMap Nat        -- counts of bound operands, by position, as sampled (R132)
  scal : SMap Word         -- scalars as sampled (R109)
  esc : Word               -- VEC_ESC_THRESH as sampled (R36)
  thr : Nat                -- SCH_NK_CAP charge in ac of the cluster, as charged (R167, R170)
  counts : Counts
  svals : List (BitVec 32) -- first reduction output for the scalar destination (R109)
  slots : List Nat         -- event slots on which it is held (R277)
  pos : Nat                -- KV and attention: position as resolved (R205, R218)
  len : Nat                -- committed length sampled for the walk (R204)
  reader : Bool            -- registered as a reader of its stream (R209)
  emit : Option Emission   -- emission computed by SEMIT or SVERIFY (R238)
  answer : Option Bool     -- answer to SBEGIN or GARM that has returned
  round : Nat              -- strips of a vector descriptor done, rounds of ARING done (R104, R228)
  credits : BitVec 2       -- ARING: credits held for the halves of the next rank's buffers
  readys : Nat             -- ARING: ready messages received
  shards : List (List Nat) -- ARING: tags of each sent shard's writes that are not acknowledged, oldest shard first
  arb : List Nat           -- STK_ARB_CFG of each stack as sampled at dispatch (R102)
  shape : Nat              -- shape of a product as resolved at dispatch (R53)
  strm : List Word         -- TEN_STREAM_CFG of the home cluster and its upper neighbour as sampled at dispatch (R65)
  ran : Bool               -- an attempt has been dispatched (R157)
  img : Nat                -- place of its entry in its context's image (R175)
  frame : Option Nat       -- KMIGRATE: the frame taken for the page that is being copied (R213)
  part : List WLine        -- meadow granules that the attempt has written in part, with its bytes (R179, R274)
  expired : Bool           -- an access of the attempt to a pair in repair has waited to the stall limit (R281)
  deriving DecidableEq, Repr

/-- A tensor creation or destroy in the checker of a field (R135). -/
structure TdReq where
  ctx : Nat
  handle : Nat
  destroy : Bool
  words : List Word
  task : Option Nat        -- the TCREATE that asked, when one did
  deriving DecidableEq, Repr

/-- A context create or destroy in the checker of a field (R137). -/
structure CxReq where
  ctx : Nat
  create : Bool
  destroy : Bool
  words : List Word
  deriving DecidableEq, Repr

/-- What the swap engine of a field does (R173, R175). -/
inductive Swap where
  | idle
  | out (x : Nat) (next : Option Nat)
  | inn (x : Nat)
  deriving DecidableEq, Repr

/-- Scheduler state of one field. -/
structure Field where
  td : Option TdReq        -- creation checker; reset none
  tdq : List TdReq         -- creations that wait for the checker (R135); reset empty
  cx : Option CxReq        -- context checker; reset none
  rr : Nat                 -- context after which the round robin goes on (R139); reset 0
  blkSeq : Nat             -- next number of the blocked sequence (R172); reset 1
  runSeq : Nat             -- next number of the runnable order (R173); reset 1
  swap : Swap              -- swap engine; reset idle
  evq : List Nat           -- contexts in swapping-out that wait for the swap engine; reset empty
  deriving DecidableEq, Repr

/-- The graph scheduler. -/
structure Sched where
  ctxs : SMap Ctx          -- contexts 0–1,023; reset none
  tens : SMap Bool         -- validity of handle h of context x at 65536 x + h (R119); reset 0
  tasks : SMap Task        -- live descriptors by age (R139); reset none
  nextId : Nat             -- age of the next descriptor; reset 0
  glints : SMap Glint      -- slot k of field f at 4096 f + k; reset armed at epoch 0 (R144)
  fields : SMap Field      -- by field
  deriving DecidableEq, Repr

/-! ## KV service -/

/-- A frame pool (R207). -/
structure Pool where
  cfg : Word               -- KVS_POOL_CFG; reset 0
  list : Word              -- KVS_POOL_LIST; reset 0
  free : Nat               -- KVS_POOL_FREE, 24 bits; reset 0
  head : Nat               -- next ring entry to take; reset 0
  held : Nat               -- frames held by streams; reset 0
  deriving DecidableEq, Repr

/-- A KV engine of a field: the append or the migration engine (R203). -/
structure KvEng where
  run : Option Nat         -- reset none
  wait : List Nat          -- reset empty
  deriving DecidableEq, Repr

/-- A length query held until the committed length reaches a position (R218). -/
structure LenHold where
  task : Nat
  stream : Nat
  p0 : Nat
  deriving DecidableEq, Repr

/-- A group of eight page-table entries in the look-aside buffer: its tag, 2,048 times the stream plus the group, and its
entries (R209). -/
structure LabGroup where
  tag : Nat
  ents : List Word
  deriving DecidableEq, Repr

/-- The KV services of the four fields and the common page. -/
structure Kv where
  recs : SMap (List Word)  -- stream records held on die, four words each (R199); reset none
  opens : SMap Nat         -- partition of each open record (R215); reset none
  order : SMap (List Nat)  -- per field, streams held on die, least recently used first; reset empty
  srec : SMap Word         -- KVS_SREC_CFG as field f = 1, 2, 3 has it (R364); reset 0
  fmt : SMap Word          -- KVS_FMT of partition p as field f has it, at 4 p + f; F0's is the register (R215, R364); reset 0
  pools : SMap Pool        -- pool p of field f at 32 f + p
  lab : SMap (List LabGroup)  -- look-aside set w of field f at 64 f + w, most recent first (R209); reset empty
  engs : SMap KvEng        -- append engine of field f at 2 f, migration engine at 2 f + 1
  holds : List LenHold     -- held length answers (R218); reset empty
  fwd : Option Fwd         -- record request in progress (R364); reset none
  deriving DecidableEq, Repr

/-! ## Serving front end -/

/-- A tracker entry: its four words (R233). -/
structure Trk where
  w0 : Word
  w1 : Word
  w2 : Word
  w3 : Word
  deriving DecidableEq, Repr

/-- A customer entry (R245). -/
structure Cust where
  cap : Nat                -- 32 bits; reset 0
  promptW : Nat            -- 4 bits; reset 0
  enabled : Bool           -- reset 0
  test : Bool              -- reset 0
  bal : Int                -- 40 bits signed; reset 0
  throttled : Bool         -- reset 0
  deriving DecidableEq, Repr

/-- An output record that is written or waits for the mirror's acknowledgement (R248). -/
structure OutRec where
  stream : Nat
  words : List Word
  deriving DecidableEq, Repr

/-- The serving front ends. -/
structure Srv where
  trk : SMap Trk           -- stream tracker, 65,536 entries; reset free
  custs : SMap Cust        -- 4,096 customers
  thr : SMap Bool          -- throttle of customer u as field f has it, at 4096 f + u; reset 0
  pcfg : SMap Word         -- SRV_PART_CFG of partition p as field f has it, at 4 p + f (R364); reset 0
  pstate : SMap Word       -- state of partition p as field f has it, at 4 p + f (R249, R364); reset closed
  pstop : SMap Word        -- SRV_PART_STOP of partition p as field f has it, at 4 p + f; reset 0
  cloc : SMap Word         -- SRV_CPROG_LOC of program q as field f has it, at 4 q + f; reset 0
  cn : SMap Word           -- SRV_CPROG_N of program q as field f has it, at 4 q + f; reset 0
  outs : SMap Nat          -- output records in flight to the ring of field f (R248); reset 0
  waitMir : List OutRec    -- records that wait for the mirror partner (R248, R303); reset empty
  fwd : Option Fwd         -- stream or customer request in progress (R364); reset none
  fwdC : List Fwd          -- requests that wait for it, oldest first (R364); reset empty
  deriving DecidableEq, Repr

/-! ## Integrity -/

/-- Who is held on an event slot (R277). -/
inductive Held where
  | task (t : Nat)
  | fetch (x : Nat)        -- the fetch or swap-in of context x
  deriving DecidableEq, Repr

/-- An event slot (R277–R282, R290). -/
structure Slot where
  st : BitVec 3            -- 0 free, 1 fetching, 2 reload, 3 unowned, 4 verifying, 5 remap copy
  addr : Nat               -- fabric-local address of the pair
  tried : BitVec 3         -- sources tried
  src : Nat                -- source in use: 0 mirror, 1 peer, 2 reload, 3 full-pair write, 4 none
  held : List Held
  island : Nat
  parts : BitVec 16        -- partitions granted read on the range
  data : List Byte         -- restored pair
  word : Nat               -- remap word being filled
  deriving DecidableEq, Repr

/-- The integrity unit, the event buffer and trace capture. -/
structure Icx where
  slots : SMap Slot        -- 64 event slots; reset free
  queue : List PReport     -- reports that wait for a slot (R277); reset empty
  rels : List PReport      -- reports that were in flight when their slot was released (R277); reset empty
  rmap : SMap Word         -- repair map, 64 words of ICX_RMAP_CFG; reset 0
  last : SMap (List Nat)   -- last 16 corrected scrubs of each home's island (R278); reset empty
  hpos : SMap Nat          -- heath scrub position per device; reset 0
  mpos : SMap Nat          -- meadow scrub position per cluster; reset 0
  buf : SMap Word          -- event buffer: word w of entry i at 4 i + w (R287); reset 0
  seq : Nat                -- next log sequence number, 32 bits; reset 0
  trSeq : Nat              -- next trace sequence number, 32 bits; reset 0
  trq : List TraceEv       -- trace entries waiting, at most 16 (R289); reset empty
  trBusy : Bool            -- a trace entry was written in this platform cycle (R289); reset 0
  deriving DecidableEq, Repr

/-! ## Links and mirror -/

/-- A byte write under a mask. -/
structure ByteW where
  addr : Nat
  val : Byte
  mask : Byte
  deriving DecidableEq, Repr

/-- A request of this module outstanding at a peer (R192, R297). -/
structure Remote where
  iss : Issuer
  link : Nat
  dev : Nat
  isRead : Bool
  tag : Nat
  addr : Nat
  len : Nat
  ws : List ByteW          -- bytes that a descriptor's write carries; of an add, its operand
  bad : List Nat           -- granules that it flags as poisoned (R276)
  deriving DecidableEq, Repr

/-- A ring control message sent to a peer (R228): a ready message, or a credit for a half. -/
structure RingMsg where
  dev : Nat
  credit : Bool
  half : Nat
  deriving DecidableEq, Repr

/-- A Rhazar link or mirror port (R292–R299). Its registers hold its state, peer and counts. -/
structure Link where
  step : Nat               -- training steps done, 0–4 (R292); reset 0
  digest : Word            -- identity digest of the peer (R298); reset 0
  tx : BitVec 10           -- sequence number of the next data flit sent (R293); reset 0
  rx : BitVec 10           -- sequence number expected (R293); reset 0
  ackd : BitVec 10         -- oldest flit in the 512-flit replay buffer (R294); reset 0
  replay : Option (BitVec 10) -- flit named by the last NAK, until it is acknowledged (R294); reset none
  discard : Bool           -- flits are discarded until the replay arrives (R294); reset 0
  idle : Bool              -- lanes held in electrical idle (R309); reset 1
  spent : Bool             -- every automatic retrain has failed: it waits for LNK_CTL.retrain (R292); reset 0
  deriving DecidableEq, Repr

/-- A refusal that answers a peer's request: link and tag. -/
structure PeerResp where
  link : Nat
  tag : Nat
  deriving DecidableEq, Repr

/-- Links, peers and the mirror pair. -/
structure Links where
  links : SMap Link        -- L0–L7 at 0–7, M0, M1 at 8, 9
  remote : List Remote     -- outstanding remote requests; reset empty
  recSt : SMap (BitVec 3)  -- recorded state of a standby partition (R302); reset 0
  incr : List MirrorMsg    -- increments queued while a stream is copied (R307); reset empty
  out : List (Nat × MirrorMsg) -- messages sent on mirror ports 0, 1 and not acknowledged (R302); reset empty
  ctl : List RingMsg       -- ring control messages sent to peers (R228); reset empty
  partialRows : Bool       -- a row message is half received (R306); reset 0
  cus : Option Nat         -- catch-up: stream being copied (R307); reset none
  copied : List Nat        -- catch-up: streams copied; reset empty
  mack : List (BitVec 16)  -- acknowledgements of tracker reports sent to the partner (R303); reset empty
  sats : SMap Nat          -- saturations of adds from each peer that its acknowledgements have yet to carry (R267); reset 0
  resp : List PeerResp     -- refusals sent to peers (R264); reset empty
  hbMiss : Nat             -- consecutive HB_IN misses (R305); reset 0
  wantConfirm : Bool       -- takeover waits for LNK_MIR_CTL.confirm (R306); reset 0
  hbSent : Nat             -- heartbeats sent on up ports (R305); reset 0
  waiting : List Remote    -- core accesses to a peer's home whose link has changed (R297); reset empty
  deriving DecidableEq, Repr

/-! ## Control complex -/

/-- An interrupt target (R314). -/
structure Target where
  serv : Option Nat        -- source in service; reset none
  sample : Bool            -- the sample after a completion is due; reset 0
  deriving DecidableEq, Repr

/-- Retention of the interrupt controller while domain 74 is off (R318): its register words by offset, and the
platform cycles counted since. -/
structure Retain where
  regs : SMap Word
  ticks : Nat
  deriving DecidableEq, Repr

/-- Why the responder refused a frame (R321). -/
inductive MgmtCause where
  | none                   -- not refused
  | signature              -- the signature does not verify, or no key is loaded
  | seq                    -- seq is not above PLT_MGMT_SEQ
  | address                -- READ does not serve the address
  deriving DecidableEq, Repr

/-- Interrupt controller, Ethernet MACs and management responder. -/
structure Cc where
  lv : BitVec 512          -- levels of sources 0–511 as the controller has them (R313); reset 0
  tgts : SMap Target       -- targets 0–31
  mtip : BitVec 16         -- machine timer interrupts (R312); reset 0
  retain : Option Retain   -- reset none
  stopped : SMap Bool      -- MAC stopped at an entry with own = 0: receive of port p at 2 p, transmit at 2 p + 1
  sent : SMap (List Byte)  -- last frame sent by port p; reset empty
  mq : List MgmtFrame      -- responder queue, at most 4 frames (R321); reset empty
  reply : List Byte        -- last reply of the responder or of the I3C target; reset empty
  cause : MgmtCause        -- why the last reply refused its frame; reset none
  deriving DecidableEq, Repr

/-! ## Power and heat -/

/-- State of a power domain (R331). -/
inductive Dom where
  | off | switching | on | fused
  deriving DecidableEq, Repr

/-- Power, governor, sensors and low-speed pins. -/
structure Pwr where
  dom : SMap Dom           -- domains 0–75; reset off, but domain 75 on
  input : Bool             -- input at or above 47 V; reset 1
  below : Nat              -- consecutive samples below 97 % of the ceiling (R325); reset 0
  up : Nat                 -- samples at or below sustain since the last credit rise, 0–3 (R326); reset 0
  overs : Nat               -- consecutive samples above 3,000 W with q at 1 (R326); reset 0
  spentCr : Bool           -- credit reached 0 and is not full again (R326); reset 0
  bins : List Nat          -- residency bins, newest first, 96 (R327); reset 0
  alerts : BitVec 112      -- sensors above alert − 3 °C since an alert (R329); reset 0
  temps : SMap (BitVec 12) -- sensor readings (R329); reset 0, DESIGN CHOICE
  lvl : SMap (BitVec 11)   -- gating levels as arrived at each island: b 4:0, audit 5, q 10:6 (R328)
  onq : List Nat           -- domains being switched on, in order of their requests (R324); reset empty
  sampled : Bool           -- the slot pins have been sampled since power-on (R358); reset 0
  pins : BitVec 4          -- slot pins as sampled (R358); reset 0
  i2c : BitVec 7           -- static I2C address (R358); reset 0x40
  dyn : Option (BitVec 7)  -- dynamic address (R358); reset none
  gp3 : Bool               -- GP3 level (R359); reset 0
  hbIn : Bool              -- HB_IN level last seen (R305); reset 0
  deriving DecidableEq, Repr

/-! ## Start-up and security -/

/-- A unit's self-test (R345–R347). -/
structure StUnit where
  st : BitVec 3            -- 0 untested, 1 running, 2 passed, 3 failed, 4 aborted
  remaps : BitVec 8
  deriving DecidableEq, Repr

/-- Flash, fuses, measurements, quotes, self-test, test access port. -/
structure Sec where
  flash : SMap Byte        -- 2 Gb flash by byte offset; unlisted bytes read 0xFF (PRESUMED, log entry 5)
  owner : List Byte        -- owner fuse, 64 bytes; blank (empty) at delivery (R342)
  floor : Nat              -- security version floor (R338); 0–64
  vendor : List Byte       -- vendor key digest in fuses, 64 bytes (R336); reset 0 (log entry 3)
  opKey : List Byte        -- operator key of the accepted record (R340); reset none
  record : SMap Byte       -- accepted configuration record (R340); reset none
  attempt : Nat            -- boot attempts of this power-on (R332); reset 0
  meas : SMap (List Byte)  -- measurement registers 0–7, 64 bytes (R339); reset 0
  locked : Bool            -- registers 0–3 locked (R339); reset 0
  ownerNow : Bool          -- the owner fuse was programmed at this start (R339); reset 0
  st : SMap StUnit         -- unit u of kind k at 64 k + u
  stq : List (Nat × Nat)   -- start tests still to run: kind, unit (R345); reset empty
  flashOp : Option (Nat × Nat × List Byte) -- flash operation in progress: op, address, page (R332)
  quoteOp : Option (Nat × List Byte) -- certificate or quote in progress: address, bytes (R350); reset none
  keys : Bool              -- private keys derived and held (R348); reset 0
  ir : BitVec 8            -- JTAG instruction register (R351); reset IDCODE
  dr : Word                -- data register selected by the last instruction; reset 0
  boundary : Word          -- boundary register (R351); reset 0
  deriving DecidableEq, Repr

/-! ## What the cores see -/

/-- A posted store of a core (R311). -/
structure Post where
  hart : Nat
  addr : Nat
  data : List Byte
  deriving DecidableEq, Repr

/-- The cores' side of the fabric. -/
structure Io where
  rdata : List Byte        -- data of the last completed read or load; reset empty
  fault : Bool             -- the last core access took an access fault (R311, R255); reset 0
  faultHart : Nat          -- hart of the last access fault; reset 0
  faultAddr : Nat          -- its address, 56 bits; reset 0
  posts : List Post        -- posted stores not yet at their home (R311); reset empty
  fence : List Nat         -- harts whose FENCE waits (R183); reset empty
  deriving DecidableEq, Repr

/-! ## Messages -/

/-- A message between two islands that has been sent and has not arrived: the command of its arrival (R18, R19). -/
structure Msg where
  frm : Nat                -- island that sent it
  dest : Nat               -- island that receives it
  m : Instr
  deriving DecidableEq, Repr

/-! ## The machine -/

/-- The state of the module. -/
structure State where
  regs : SMap Word         -- control-space words by offset from 0x0_0300_0000_0000 (R7)
  vx : Vec
  ax : SMap Arrays         -- arrays by cluster
  st : Stacks
  mm : Mem
  sc : Sched
  kv : Kv
  sv : Srv
  ix : Icx
  lk : Links
  cc : Cc
  pw : Pwr
  se : Sec
  io : Io
  flight : List Msg        -- messages sent and not yet arrived, oldest first (R19)
  free : Nat               -- the model's counter of free values drawn (log entry 2)
  pending : List Instr     -- commands that wait, first in, first out
  deriving DecidableEq, Repr

/-- Why the machine stops: never, in this model (the manual gives every command an effect). -/
inductive Fault where
  /-- Raised by nobody: kept so that the host's interface has a fault type. Safe. -/
  | none
  deriving DecidableEq, Repr

/-- Why a command has no meaning. -/
inductive Refusal where
  /-- Raised by an arm of exec whose meaning is not written yet. Safe: the machine stops. -/
  | notModelled (mnemonic : String)
  deriving DecidableEq, Repr

/-! ## Reset values -/

/-- A lane of zeros. -/
def Lane.zero : Lane := ⟨0, false⟩

/-- Reset of each kind of record, which is also what an unlisted key reads as. -/
def engine0 : Engine := ⟨none, [], 0, false, false, .rne, 0, 0, 0, [], 0, 0⟩
def red0 : RedUnit := ⟨[], [], false, 0, 0, [], [], false, 0, 0, [], []⟩
def alane0 : ALane := ⟨0, .fin false 0 1 0, 0, false⟩
def arrays0 : Arrays := ⟨none, 0, 0, false, [], [], none, 0⟩
def bank0 : Bank := ⟨none, [], [], 0, 0, 0, 0, [], false⟩
def chan0 : Chan := ⟨0, 0, none, 0, false, 0, false, [], none, [], [], 0⟩
def bucket0 : Bucket := ⟨0, 16, false, 0, [], 0, false, 0⟩
def field0 : Field := ⟨none, [], none, 0, 1, 1, .idle, []⟩
def glint0 : Glint := ⟨0, 0⟩
def pool0 : Pool := ⟨0, 0, 0, 0, 0⟩
def kvEng0 : KvEng := ⟨none, []⟩
def trk0 : Trk := ⟨0, 0, 0, 0⟩
def cust0 : Cust := ⟨0, 0, false, false, 0, false⟩
def slot0 : Slot := ⟨0, 0, 0, 0, [], 0, 0, [], 0⟩
def link0 : Link := ⟨0, 0, 0, 0, 0, none, false, true, false⟩
def target0 : Target := ⟨none, false⟩
def stUnit0 : StUnit := ⟨0, 0⟩
def counts0 : Counts := ⟨0, 0, 0, 0, 0⟩

/-- Gating levels at reset: b = 16, audits allowed, q = 16 (R331). -/
def level0 : BitVec 11 := 0x430#11

/-- What an unlisted measurement register reads as: 64 zero bytes (R339). -/
def meas0 : List Byte := List.replicate 64 0#8

def Vec.reset : Vec := ⟨[], []⟩
def Stacks.reset : Stacks := ⟨[], []⟩
def Mem.reset : Mem := ⟨[], [], [], [], [], none, [], [], [], [], [], [], false, false⟩
def Sched.reset : Sched := ⟨[], [], [], 0, [], []⟩
def Kv.reset : Kv := ⟨[], [], [], [], [], [], [], [], [], none⟩
def Srv.reset : Srv := ⟨[], [], [], [], [], [], [], [], [], [], none, []⟩
def Icx.reset : Icx := ⟨[], [], [], [], [], [], [], [], 0, 0, [], false⟩
def Links.reset : Links := ⟨[], [], [], [], [], [], false, none, [], [], [], [], 0, false, 0, []⟩
def Cc.reset : Cc := ⟨0, [], 0, none, [], [], [], [], .none⟩
def Pwr.reset : Pwr :=
  ⟨[(75, .on)], true, 0, 0, 0, false, List.replicate 96 0, 0, [], [], [], false, 0, 0x40#7, none, false, false⟩
def Sec.reset : Sec :=
  ⟨[], [], 0, List.replicate 64 0#8, [], [], 0, [], false, false, [], [], none, none, false, 0x01#8, 0, 0⟩
def Io.reset : Io := ⟨[], false, 0, 0, [], []⟩

/-- The module right after its always-on domain has come up: domain 75 on, every other domain off, the
boot ROM not yet released, every register at its reset value, no command waiting. -/
def State.reset : State :=
  ⟨[], Vec.reset, [], Stacks.reset, Mem.reset, Sched.reset, Kv.reset, Srv.reset, Icx.reset, Links.reset,
   Cc.reset, Pwr.reset, Sec.reset, Io.reset, [], 0, []⟩

end Sys2Proof.Machine
end

