-- ==== Sys2Proof/Machine/Regs.lean ====
section
/-! DEFINITION. The control-space register file (R7, R8): where each register lies, its word and fields,
what each access type does with a write, and the helpers with which the blocks read and set fields. -/
namespace Sys2Proof.Machine

/-- Bits `hi`:`lo` of a number. -/
def bits (v hi lo : Nat) : Nat := v / 2 ^ lo % 2 ^ (hi + 1 - lo)

/-- Bit `n` of a number. -/
def bitOf (v n : Nat) : Bool := v / 2 ^ n % 2 = 1

/-- Bits `hi`:`lo` of a word. -/
def wb (w : Word) (hi lo : Nat) : Nat := bits w.toNat hi lo

/-- Bit `n` of a word. -/
def wbit (w : Word) (n : Nat) : Bool := w.getLsbD n

/-- `v` with bits `hi`:`lo` replaced by the low bits of `x`. -/
def putBits (v hi lo x : Nat) : Nat :=
  let m := 2 ^ (hi + 1 - lo)
  v / 2 ^ (hi + 1) * 2 ^ (hi + 1) + x % m * 2 ^ lo + v % 2 ^ lo

/-- A word with bits `hi`:`lo` replaced. -/
def wput (w : Word) (hi lo x : Nat) : Word := BitVec.ofNat 64 (putBits w.toNat hi lo x)

/-- 1 or 0. -/
def b2n (b : Bool) : Nat := if b then 1 else 0

/-- The offset of word `i` of a register of page `p` in the control space (R7). -/
def Reg.addr (r : Reg) (p i : Nat) : Nat :=
  r.info.page.place.1 + p * r.info.page.place.2.1 + r.info.off + 8 * i

/-- The number of pages of a register's family. -/
def Reg.pages (r : Reg) : Nat := r.info.page.place.2.2

/-- Find the register of a family that covers an offset inside its page. -/
def findReg (off : Nat) : List Reg → Option (Reg × Nat)
  | [] => none
  | r :: t =>
    if r.info.off ≤ off ∧ off < r.info.off + 8 * r.info.count then
      some (r, (off - r.info.off) / 8)
    else findReg off t

/-- Find the register at an offset among page families. -/
def findPage (off : Nat) : List Page → Option (Reg × Nat × Nat)
  | [] => none
  | g :: t =>
    let (b, st, n) := g.place
    if b ≤ off then
      let p := if st = 0 then 0 else (off - b) / st
      let o := if st = 0 then off - b else (off - b) % st
      if p < n then
        match findReg o g.regs with
        | some (r, i) => some (r, p, i)
        | none => findPage off t
      else findPage off t
    else findPage off t

/-- The register, page and word index at a control-space offset; none where no register lies (R7). -/
def locate (off : Nat) : Option (Reg × Nat × Nat) :=
  if off % 8 = 0 then findPage off Page.all else none

/-- The reset word that the fields of a register's table give. -/
def fieldsReset : List RField → Nat
  | [] => 0
  | f :: t => fieldsReset t + f.rst * 2 ^ f.lo

/-- Reset word of word `i` of a register of page `p`: the table's value, with the numbers that name the
page itself (R65, R118) and the default bucket bounds (R215). -/
def Reg.resetWord (r : Reg) (p i : Nat) : Word :=
  match r with
  | .tenId => BitVec.ofNat 64 (p + p / 12 * 64)
  | .vecId => BitVec.ofNat 64 (p + fieldsReset Reg.vecId.info.fields)
  | .kvsBucket => BitVec.ofNat 64 ((List.range 4).foldr (fun j a => a * 65536 +
      [1, 2, 4, 8, 16, 32, 64, 128, 256, 512, 1024, 2048, 4096, 8192, 12288, 16384].getD (4 * i + j) 0) 0)
  | _ => BitVec.ofNat 64 (fieldsReset r.info.fields)

/-- What an unlisted control-space word reads as. -/
def resetAt (off : Nat) : Word :=
  match locate off with
  | some (r, p, i) => r.resetWord p i
  | none => 0

/-- The word that a register holds. -/
def State.reg (s : State) (r : Reg) (p : Nat := 0) (i : Nat := 0) : Word :=
  mapGet (fun _ => r.resetWord p i) s.regs (r.addr p i)

/-- Hardware writes a register's word. -/
def State.setReg (s : State) (r : Reg) (p i : Nat) (v : Word) : State :=
  { s with regs := mapSet (fun _ => r.resetWord p i) s.regs (r.addr p i) v }

/-- A field of a register's first word. -/
def State.fld (s : State) (r : Reg) (p hi lo : Nat) : Nat := wb (s.reg r p 0) hi lo

/-- A one-bit field of a register's first word. -/
def State.flag (s : State) (r : Reg) (p n : Nat) : Bool := wbit (s.reg r p 0) n

/-- Hardware writes a field of a register's first word. -/
def State.setFld (s : State) (r : Reg) (p hi lo x : Nat) : State :=
  s.setReg r p 0 (wput (s.reg r p 0) hi lo x)

/-- Hardware sets or clears one bit of a register's first word. -/
def State.setBit (s : State) (r : Reg) (p n : Nat) (b : Bool) : State :=
  s.setFld r p n n (b2n b)

/-- Hardware sets the bits of a mask in a register's first word. -/
def State.orReg (s : State) (r : Reg) (p m : Nat) : State :=
  s.setReg r p 0 ((s.reg r p 0) ||| BitVec.ofNat 64 m)

/-- Add to a 48-bit counter, which stops at its largest value. -/
def State.bump (s : State) (r : Reg) (p n : Nat) : State :=
  { s with regs := if n = 0 then s.regs
                   else (s.setReg r p 0 (BitVec.ofNat 64 (min (2 ^ 48 - 1) (s.fld r p 47 0 + n)))).regs }

/-- Add a number that no rule lets the model foresee to a 48-bit counter: its word is listed whatever it is, so that no
other register's word hangs on that number. -/
def State.bumpFree (s : State) (r : Reg) (p n : Nat) : State :=
  { s with regs := mapPut s.regs (r.addr p 0) (BitVec.ofNat 64 (min (2 ^ 48 - 1) (s.fld r p 47 0 + n))) }

/-- What a write leaves in one field (R8): `hw` holds the bits that hardware sets in the same clock. -/
def RField.write (f : RField) (old v hw : Nat) : Nat :=
  let o := bits old f.hi f.lo
  let w := bits v f.hi f.lo
  let h := bits hw f.hi f.lo
  match f.acc with
  | .ro | .rc => o
  | .rw => w
  | .w1c => (o ^^^ (o &&& w)) ||| h
  | .w1s => o ||| w
  | .wo => 0

/-- What a write leaves in a register's word: reserved bits stay 0 (R7). -/
def writeFields (old v hw : Nat) : List RField → Nat
  | [] => 0
  | f :: t => writeFields old v hw t + f.write old v hw * 2 ^ f.lo

/-- What a read leaves: read-clears fields become 0 (R8). -/
def afterRead (old : Nat) : List RField → Nat
  | [] => 0
  | f :: t => afterRead old t + (if f.acc = .rc then 0 else bits old f.hi f.lo) * 2 ^ f.lo

/-- What a read returns: write-only fields read as 0 (R8). -/
def readFields (w : Nat) : List RField → Nat
  | [] => 0
  | f :: t => readFields w t + (if f.acc = .wo then 0 else bits w f.hi f.lo) * 2 ^ f.lo

end Sys2Proof.Machine
end

