-- ==== Sys2Proof/Machine/Ops.lean ====
section
/-! DEFINITION. Operations over the state that every family uses: free values, messages, readiness, the
error log and trace capture (R287, R289), the address map (R254–R261), the coded store with its
injection points (R271–R274, R286), write combining (R179, R266) and poison reports (R275). -/
namespace Sys2Proof.Machine

/-! ## Free values, messages, readiness -/

/-- Draw a fresh free word (log entry 2). -/
def State.draw (s : State) : State × Word := ({ s with free := s.free + 1 }, Config.freeWord s.free)

/-- Send a message from an island to an island: it is in flight until its arrival command takes it (R19). -/
def State.send (s : State) (frm dest : Nat) (m : Instr) : State := { s with flight := s.flight ++ [⟨frm, dest, m⟩] }

/-- Whether a message is in flight. -/
def State.inFlight (s : State) (m : Instr) : Bool := s.flight.any (fun x => x.m == m)

/-- Send a message unless the same one is already in flight. -/
def State.sendOnce (s : State) (frm dest : Nat) (m : Instr) : State := if s.inFlight m then s else s.send frm dest m

/-- Whether one message must arrive before another: both cross from one island into one other, and it was sent first
(R19). -/
def Msg.leads (x y : Msg) : Bool := x.frm == y.frm && x.dest == y.dest && x.frm != x.dest

/-- The messages without the first copy of one that no earlier message of its crossing leads; `pre` are the earlier
ones. -/
def takeMsg (m : Instr) : List Msg → List Msg → Option (List Msg)
  | _, [] => none
  | pre, x :: t =>
    if x.m = m ∧ ¬ pre.any (fun y => y.leads x) then some (pre ++ t) else takeMsg m (pre ++ [x]) t

/-- A message arrives (R19): it is in flight no more, and what it brings takes effect. One behind an earlier message
of its own crossing cannot arrive yet, so that its command changes nothing; one that is not in flight comes from
outside the model (log entry 94). -/
def State.arrive (s : State) (m : Instr) (f : State → State) : State :=
  match takeMsg m [] s.flight with
  | some l => f { s with flight := l }
  | none => if s.inFlight m then s else f s

/-- State of a power domain. -/
def State.dom (s : State) (d : Nat) : Dom := mapGet (fun _ => Dom.off) s.pw.dom d

/-- Set the state of a power domain. -/
def State.setDom (s : State) (d : Nat) (v : Dom) : State :=
  { s with pw := { s.pw with dom := mapSet (fun _ => Dom.off) s.pw.dom d v } }

/-- The register and bit that hold the readiness of an island's function (R343). -/
def readyBit (d : Nat) : Reg × Nat :=
  if d < 48 then (.pltReady0, d)
  else if d < 52 then (.pltReady1, 4 + (d - 48))
  else if d < 68 then (.pltReady0, 48 + (d - 52))
  else if d < 72 then (.pltReady1, d - 68)
  else if d < 74 then (.pltReady1, 9 + (d - 72))
  else (.pltReady1, 8)

/-- Whether the function of an island is ready (R343); the platform island always is. -/
def State.ready (s : State) (d : Nat) : Bool :=
  if d = 75 then true else s.flag (readyBit d).1 0 (readyBit d).2

/-- Set or clear an island's readiness bit. -/
def State.setReady (s : State) (d : Nat) (b : Bool) : State :=
  s.setBit (readyBit d).1 0 (readyBit d).2 b

/-- SEC_DBG.scan: 0 locked, 1 clearing, 2 enabled, 3 withheld. -/
def State.scan (s : State) : Nat := s.fld .secDbg 0 1 0

/-- Whether secrets are being cleared: fetch and dispatch have stopped (R352). -/
def State.clearing (s : State) : Bool := decide (s.scan = 1)

/-! ## Error log and trace capture -/

/-- What an error log entry carries besides its sequence number (R287). -/
structure LogRec where
  kind : Nat
  island : Nat := 0
  outcome : Nat := 0
  slot : Nat := 0
  addr : Nat := 0
  syn : Nat := 0
  ctx : Nat := 0
  part : Nat := 0
  detail : Nat := 0
  deriving DecidableEq, Repr

/-- Entries the log may hold (R287). -/
def State.logCap (s : State) : Nat := if s.flag .icxLogCfg 0 0 then 4096 else 1024

/-- Entries in the log: tail − head, wrapping at 16 bits. -/
def State.logCount (s : State) : Nat :=
  (s.fld .icxLogTail 0 15 0 + 65536 - s.fld .icxLogHead 0 15 0) % 65536

/-- Store word `w` of event buffer entry `i`. -/
def State.putEvt (s : State) (i w : Nat) (v : Nat) : State :=
  { s with ix := { s.ix with buf := mapSet (fun _ => 0#64) s.ix.buf (4 * i + w) (BitVec.ofNat 64 v) } }

/-- The `log` bit of ICX_STAT follows the level (R288). -/
def State.logLevel (s : State) : State :=
  let lv := s.fld .icxLogCfg 0 13 1
  s.setBit .icxStat 0 8 (decide (lv ≠ 0 ∧ lv ≤ s.logCount))

/-- Write an error log entry, or count it dropped; either takes a sequence number (R287). -/
def State.logE (s : State) (e : LogRec) : State :=
  let q := s.ix.seq
  let s := { s with ix := { s.ix with seq := (q + 1) % 2 ^ 32 } }
  let s := if e.kind = 0x0A then s.setBit .icxStat 0 7 true else s
  if s.logCap ≤ s.logCount then s.bump .icxLogDrop 0 1
  else
    let t := s.fld .icxLogTail 0 15 0
    let i := t % s.logCap
    let s := s.putEvt i 0 (q + e.kind * 2 ^ 32 + e.island % 128 * 2 ^ 40 + e.outcome % 8 * 2 ^ 47 +
      e.slot % 64 * 2 ^ 50)
    let s := s.putEvt i 1 (e.addr % 2 ^ 52)
    let s := s.putEvt i 2 (e.syn % 2 ^ 32 + e.ctx % 1024 * 2 ^ 32 + e.part % 16 * 2 ^ 42)
    let s := s.putEvt i 3 (e.detail % 2 ^ 32)
    (s.setFld .icxLogTail 0 15 0 ((t + 1) % 65536)).logLevel

/-- Whether trace capture wants an event of this kind, island and context (R289). -/
def State.traceWants (s : State) (kind island : Nat) (ctx : Option Nat) : Bool :=
  let c := s.reg .tlmTraceCfg
  s.flag .tlmTraceStat 0 0 && decide (1 ≤ kind ∧ kind ≤ 13) && wbit c kind &&
    (if island < 48 then wbit c (16 + island / 12)
     else if island < 52 then wbit c (16 + (island - 48))
     else if island < 68 then wbit c (20 + (island - 52))
     else if island = 72 ∨ island = 73 then wbit c (36 + (island - 72))
     else decide (island = 75) && wbit c 38) &&
    (!wbit c 39 || (match ctx with | none => true | some x => decide (x = wb c 49 40)))

/-- Send a trace entry to the always-on domain when the capture selects it. The clock word is the
source island's own count, which the model does not keep: a free value (log entry 8). -/
def State.trace (s : State) (kind island : Nat) (ctx : Option Nat) (ring status opcode cookie detail : Nat) :
    State :=
  if s.traceWants kind island ctx then
    let (s, w) := s.draw
    s.send island 75 (.traceEvent ⟨BitVec.ofNat 8 kind, island, ctx.map (BitVec.ofNat 10), BitVec.ofNat 16 ring,
      BitVec.ofNat 8 status, BitVec.ofNat 8 opcode, BitVec.ofNat 32 cookie, w.setWidth 48,
      BitVec.ofNat 64 detail⟩)
  else s

/-! ## Trace buffer and the platform cycle (R289) -/

/-- Write one trace entry at its place in the event buffer; a capture in mode 0 stops after 3,072 entries. -/
def State.putTrace (s : State) (e : TraceEv) : State :=
  let n := s.ix.trSeq
  let i := 1024 + n % 3072
  let s := { s with ix := { s.ix with trSeq := (n + 1) % 2 ^ 32, trBusy := true } }
  let s := s.putEvt i 0 (n + e.kind.toNat * 2 ^ 32 + e.island % 128 * 2 ^ 40 +
    (match e.ctx with | some x => x.toNat | none => 0) * 2 ^ 47)
  let s := s.putEvt i 1 (e.ringPos.toNat + e.status.toNat * 2 ^ 16 + e.opcode.toNat * 2 ^ 24 + e.cookie.toNat * 2 ^ 32)
  let s := s.putEvt i 2 e.clock.toNat
  let s := s.putEvt i 3 e.detail.toNat
  let w := s.fld .tlmTraceStat 0 35 4
  s.setFld .tlmTraceStat 0 35 4 (min (2 ^ 32 - 1) (w + 1))

/-- A capture stops: entries that wait are dropped with it, and TLM_EVT bit 8 sets (R289). -/
def State.stopTrace (s : State) : State :=
  if s.flag .tlmTraceStat 0 0 then
    let s := { s with ix := { s.ix with trq := [] } }
    (s.setBit .tlmTraceStat 0 0 false).orReg .tlmEvt 0 (2 ^ 8)
  else s

/-- Write an entry, and stop the capture that it fills. -/
def State.writeTrace (s : State) (e : TraceEv) : State :=
  let s := s.putTrace e
  if !s.flag .tlmTraceCfg 0 50 && s.fld .tlmTraceStat 0 35 4 = 3072 then s.stopTrace else s

/-- One platform cycle passes: the timer of the running control complex advances by one tick, or the
retention counter of the sleeping one (R312, R318), and one waiting trace entry is written (R289; DESIGN
CHOICE, log entry 1). -/
def idleTick (s : State) : State :=
  let s := if s.dom 74 = .on then s.setReg .intMtime 0 0 (s.reg .intMtime + 1)
    else match s.cc.retain with
      | some r => { s with cc := { s.cc with retain := some { r with ticks := r.ticks + 1 } } }
      | none => s
  match s.ix.trq with
  | [] => { s with ix := { s.ix with trBusy := false } }
  | e :: t => ({ s with ix := { s.ix with trq := t } }).writeTrace e

/-! ## Address map -/

/-- Bases of the regions (R254). -/
def heathBase : Nat := 0x10000000000
def meadowBase : Nat := 0x20000000000
def controlBase : Nat := 0x30000000000

/-- 60 GiB: one half of the heath. -/
def halfSize : Nat := 0xF00000000

/-- Net heath offsets of the carve-out (R254). -/
def carveLo : Nat := 0xB00000000
def carveHi : Nat := 0xF00000000

/-- A region of the fabric-local address space (R254). -/
inductive Region where
  | stack (s : Nat)
  | heath
  | meadow (c : Nat)
  | control
  | unmapped
  deriving DecidableEq, Repr

/-- The region of a fabric-local address. -/
def regionOf (a : Nat) : Region :=
  if a < heathBase then .stack (a / 2 ^ 36)
  else if a < heathBase + 2 * halfSize then .heath
  else if meadowBase ≤ a ∧ a < meadowBase + 48 * 2 ^ 24 then .meadow ((a - meadowBase) / 2 ^ 24)
  else if controlBase ≤ a ∧ a < controlBase + 0xF00000 then .control
  else .unmapped

/-- A heath address as half, block of the half, byte within the block's data (R261). -/
structure HeathPos where
  half : Nat
  block : Nat
  byte : Nat
  deriving DecidableEq, Repr

/-- Where a heath address lies (R261). -/
def heathPos (a : Nat) : HeathPos :=
  let n := a - heathBase
  let m := n % halfSize
  ⟨n / halfSize, m / 960, m % 960⟩

/-- Device number H00–H31 and device block of a heath position (R261). -/
def HeathPos.device (p : HeathPos) : Nat := 16 * p.half + p.block % 16
def HeathPos.devBlock (p : HeathPos) : Nat := p.block / 16

/-- A stack address as channel, bank, row and granule column (R256). -/
structure StackPos where
  ch : Nat
  bank : Nat
  row : Nat
  col : Nat
  deriving DecidableEq, Repr

/-- Where a stack address lies (R256). -/
def stackPos (a : Nat) : StackPos :=
  let x := a % 2 ^ 36
  ⟨bits x 14 10, bits x 20 15, bits x 35 22, bits x 21 21 * 32 + bits x 9 5⟩

/-- The address of a granule of a stack (R256). -/
def stackAddr (st ch bank row col : Nat) : Nat :=
  st * 2 ^ 36 + row * 2 ^ 22 + col / 32 * 2 ^ 21 + bank * 2 ^ 15 + ch * 2 ^ 10 + col % 32 * 32

/-- Island of the home of an address (R19, R178); none where the address has no memory home. -/
def homeIsland (a : Nat) : Option Nat :=
  match regionOf a with
  | .stack s => some (52 + s)
  | .heath => some (68 + (heathPos a).device / 8)
  | .meadow c => some c
  | _ => none

/-- Home number of an address: 0–15 stacks, 16–19 heath controllers, 20–67 meadows. -/
def homeOf (a : Nat) : Nat :=
  match regionOf a with
  | .stack s => s
  | .heath => 16 + (heathPos a).device / 8
  | .meadow c => 20 + c
  | _ => 0

/-- The island of an address's home when that home does not answer (R255, R186). -/
def State.noAnswer (s : State) (a : Nat) : Option Nat :=
  match homeIsland a with
  | some d => if s.ready d then none else some d
  | none => some 72

/-- Bytes of the unit that the code protects at an address: a granule, or a pair in the heath (R271). -/
def unitLen (a : Nat) : Nat :=
  match regionOf a with
  | .heath => 64
  | _ => 32

/-- First address of the coded unit that holds an address. -/
def unitBase (a : Nat) : Nat := a / unitLen a * unitLen a

/-- First address of the granule pair that holds an address. -/
def pairBase (a : Nat) : Nat := a / 64 * 64

/-- The key symbols of a unit's address (R272). The bank within the die is 64 × (channel mod 2) + bank
(DEDUCED, log entry 9). -/
def keyOf (a : Nat) : List Byte :=
  let l := match regionOf a with
    | .heath =>
      let p := heathPos a
      let d := p.devBlock
      [d, d / 256, bits d 21 16, p.byte / 64 + p.device % 8 * 16]
    | .meadow c =>
      let i := (a - meadowBase) % 2 ^ 24 / 32
      [i, i / 256, bits i 18 16, c]
    | _ =>
      let p := stackPos a
      [p.row, bits p.row 13 8 + p.col % 4 * 64, p.col / 4 + p.ch / 2 * 16, p.ch % 2 * 64 + p.bank]
  l.map (fun x => BitVec.ofNat 8 x)

/-! ## The coded store -/

/-- The check bits of a unit in which nothing has been written: the poison encoding (R274, R343). -/
def chkDefault (u : Nat) : BitVec 32 := (poisonChk (unitLen u) (keyOf u)).pack

/-- The stream buffer that a unit lies in and that a descriptor left unspecified, where the unit has not been
written since (R58). -/
def Mem.junkAt (m : Mem) (u : Nat) : Option Junk :=
  match regionOf u with
  | .meadow c => match optGet m.junk c with
    | some j => if j.lo ≤ u ∧ u < j.hi ∧ !mapGet (fun _ => false) j.written u then some j else none
    | none => none
  | _ => none

/-- The stored data bytes of a unit. -/
def Mem.unitData (m : Mem) (u : Nat) : List Byte :=
  match m.junkAt u with
  | some j => (List.range (unitLen u)).map (fun i => Config.streamByte j.seed (u + i))
  | none => (List.range (unitLen u)).map (fun i => mapGet (fun _ => 0#8) m.mem (u + i))

/-- The stored check symbols of a unit. -/
def Mem.unitChk (m : Mem) (u : Nat) : Quad :=
  match m.junkAt u with
  | some _ => encodeChk (m.unitData u) (keyOf u)
  | none => Quad.unpack (mapGet chkDefault m.chk u)

/-- A unit of a stream buffer is written. -/
def Mem.clearJunk (m : Mem) (u : Nat) : Mem :=
  match m.junkAt u, regionOf u with
  | some j, .meadow c => { m with junk := mapPut m.junk c { j with written := mapSet (fun _ => false) j.written u true } }
  | _, _ => m

/-- Store bytes from an address on, keeping the canonical form. -/
def putBytes (m : List Host.Cell) (a : Nat) : List Byte → List Host.Cell
  | [] => m
  | b :: t => putBytes (mapSet (fun _ => 0#8) m a b) (a + 1) t

/-- The canonical form of the stored memory: data bytes and check symbols by strictly rising addresses, no entry equal
to what an unlisted address reads as. -/
def Mem.wf (m : Mem) : Bool := mapWf (fun _ => 0#8) m.mem && mapWf chkDefault m.chk

/-- Store a unit's data and check symbols as they are. -/
def Mem.putUnit (m : Mem) (u : Nat) (data : List Byte) (c : Quad) : Mem :=
  { m.clearJunk u with mem := putBytes m.mem u data, chk := mapSet chkDefault m.chk u c.pack }

/-- Store a unit through the encoder (R67). -/
def Mem.encodeUnit (m : Mem) (u : Nat) (data : List Byte) : Mem :=
  m.putUnit u data (encodeChk data (keyOf u))

/-- Store the poison encoding in a unit (R274). -/
def Mem.poisonUnit (m : Mem) (u : Nat) : Mem :=
  m.putUnit u (List.replicate (unitLen u) 0#8) (poisonChk (unitLen u) (keyOf u))

/-- Decode a unit as stored (R273). -/
def Mem.decode (m : Mem) (u : Nat) : Decoded := decodeUnit (m.unitData u) (m.unitChk u) (keyOf u)

/-! ## Injection (R286) -/

/-- The detector, unit, channel and bank that a unit's decoder has; `bpu` where a BPU reads it. -/
def detectorOf (bpu : Bool) (u : Nat) : Nat × Nat × Nat × Nat :=
  match regionOf u with
  | .heath => (2, (heathPos u).device, 0, 0)
  | .meadow c => (3, c, 0, 0)
  | .stack st => if bpu then (1, st, (stackPos u).ch, (stackPos u).bank) else (0, st, (stackPos u).ch, 0)
  | _ => (15, 0, 0, 0)

/-- Whether an injection armed in this mode meets the detector of a unit. -/
def State.injMeets (s : State) (bpu : Bool) (u : Nat) (mode : Bool) : Bool :=
  let (d, n, ch, b) := detectorOf bpu u
  s.flag .icxInjStat 0 0 && (s.flag .icxInjCtl 0 3 == mode) &&
    decide (s.fld .icxInjSel 0 3 0 = d ∧ s.fld .icxInjSel 0 9 4 = n) &&
    (decide (2 ≤ d) || decide (s.fld .icxInjSel 0 14 10 = ch)) &&
    (decide (d ≠ 1) || decide (s.fld .icxInjSel 0 20 15 = b))

/-- Whether an event injection (detectors 4–6) is armed for a unit index. -/
def State.injEvent (s : State) (det unit : Nat) : Bool :=
  s.flag .icxInjStat 0 0 && decide (s.fld .icxInjSel 0 3 0 = det ∧ s.fld .icxInjSel 0 9 4 = unit)

/-- An armed injection fires once and disarms (R286). -/
def State.injFired (s : State) (island addr : Nat) : State :=
  let s := s.setBit .icxInjStat 0 0 false
  let s := s.setBit .icxInjStat 0 1 true
  let s := s.setBit .icxInjCtl 0 19 false
  s.logE { kind := 0x0B, island := island, addr := addr }

/-- XOR a pattern into position p of check and data symbols. -/
def xorAt (data : List Byte) (c : Quad) (p : Nat) (x : Byte) : List Byte × Quad :=
  let w := (c.toList ++ data).modify p (· ^^^ x)
  (w.drop 4, ⟨w.getD 0 0, w.getD 1 0, w.getD 2 0, w.getD 3 0⟩)

/-- Data and check symbols of a unit under the armed fault: `key` is the key that the encoder or the
decoder would use, and the third result the key it uses under the fault. -/
def State.fault (s : State) (data : List Byte) (c : Quad) (key : List Byte) : List Byte × Quad × List Byte :=
  let k := s.fld .icxInjCtl 0 2 0
  let sym := s.fld .icxInjCtl 0 10 4
  let x := BitVec.ofNat 8 (s.fld .icxInjCtl 0 18 11)
  match k with
  | 0 => let (d, c) := xorAt data c sym x; (d, c, key)
  | 1 =>
    let (d, c) := xorAt data c sym x
    let (d, c) := xorAt d c (sym + 1) x
    (d, c, key)
  | 2 => (data, c, key.modify (sym % 4) (· ^^^ x))
  | 3 => (data.map (fun _ => 0#8), poisonChk data.length key, key)
  | _ => (data, c, key)

/-- Read a unit through its decoder; an armed read injection applies at the decoder's input. -/
def State.loadUnit (s : State) (bpu : Bool) (u : Nat) : State × Decoded :=
  if s.injMeets bpu u true then
    let (d, c, k) := s.fault (s.mm.unitData u) (s.mm.unitChk u) (keyOf u)
    (s.injFired ((homeIsland u).getD 0) u, decodeUnit d c k)
  else (s, s.mm.decode u)

/-- Write a unit through its encoder; an armed write injection stores its fault. -/
def State.storeUnit (s : State) (u : Nat) (data : List Byte) : State :=
  if s.injMeets false u false then
    let k := keyOf u
    let (_, _, k2) := s.fault data (encodeChk data k) k
    let (d, c, _) := s.fault data (encodeChk data k2) k
    let s := { s with mm := s.mm.putUnit u d c }
    s.injFired ((homeIsland u).getD 0) u
  else { s with mm := s.mm.encodeUnit u data }

/-- Write the poison encoding to a unit. -/
def State.storePoison (s : State) (u : Nat) : State := { s with mm := s.mm.poisonUnit u }

/-! ## Channels and banks of the stacks -/

/-- A channel of a stack. -/
def State.chan (s : State) (st ch : Nat) : Chan := mapGet (fun _ => chan0) s.st.chans (32 * st + ch)

/-- Replace a channel. -/
def State.setChan (s : State) (st ch : Nat) (c : Chan) : State :=
  { s with st := { s.st with chans := mapSet (fun _ => chan0) s.st.chans (32 * st + ch) c } }

/-- Change a channel. -/
def State.modChan (s : State) (st ch : Nat) (f : Chan → Chan) : State := s.setChan st ch (f (s.chan st ch))

/-- Whether a channel steps: a descriptor runs in it or a pass is active. -/
def Chan.steps (c : Chan) : Bool := c.run.isSome || c.pass.isSome

/-- Whether the bank of a stack address lies in a bank set that steps (R91). -/
def State.stepping (s : State) (a : Nat) : Bool :=
  match regionOf a with
  | .stack st =>
    let p := stackPos a
    let c := s.chan st p.ch
    c.steps && c.bset.getLsbD p.bank
  | _ => false

/-- Whether the bank of a stack address is in a pass: an access to it is served at the pass boundary (R12, R91). -/
def State.midPass (s : State) (a : Nat) : Bool :=
  match regionOf a with
  | .stack st =>
    let p := stackPos a
    let c := s.chan st p.ch
    c.pass.isSome && c.bset.getLsbD p.bank
  | _ => false

/-- Whether work charged a bucket that already owed credits (R268). -/
def State.overdrawn (s r : State) : Bool :=
  s.mm.buckets.any (fun b => decide (b.2.debt ≠ 0 ∧ (mapGet (fun _ => bucket0) r.mm.buckets b.1).debt ≠ b.2.debt))

/-- Work that reads and writes for a descriptor: where one of its reads meets a pass, one of its accesses a pair in repair,
or a bucket that it charges still owes credits, none of it takes place, and it waits for the boundary, the repair or the
refill (R12, R91, R268, R281; log entry 55). -/
def State.awaitBoundary (s : State) (f : State → State) : State :=
  let r := f { s with mm := { s.mm with late := false, marked := false } }
  if r.mm.late || r.mm.marked || s.overdrawn r then s else r

/-- A bank of a channel. -/
def State.bank (s : State) (st ch b : Nat) : Bank := mapGet (fun _ => bank0) s.st.banks (2048 * st + 64 * ch + b)

/-- Replace a bank. -/
def State.setBank (s : State) (st ch b : Nat) (v : Bank) : State :=
  { s with st := { s.st with banks := mapSet (fun _ => bank0) s.st.banks (2048 * st + 64 * ch + b) v } }

/-- Change a bank. -/
def State.modBank (s : State) (st ch b : Nat) (f : Bank → Bank) : State := s.setBank st ch b (f (s.bank st ch b))

/-- The banks of a channel's bank set, ascending. -/
def State.setOf (s : State) (st ch : Nat) : List Nat :=
  (List.range 64).filter (fun b => (s.chan st ch).bset.getLsbD b)

/-- Apply a change to every bank of the bank set. -/
def State.eachBank (s : State) (st ch : Nat) (f : Bank → Bank) : State :=
  (s.setOf st ch).foldl (fun s b => s.modBank st ch b f) s

/-! ## Write combining (R179, R266) -/

/-- First address and length of the write-combining line of an address; the meadow has none. -/
def lineOf (a : Nat) : Nat × Nat :=
  match regionOf a with
  | .heath => let p := heathPos a; (heathBase + p.half * halfSize + p.block * 960, 960)
  | _ => (a / 1024 * 1024, 1024)

/-- Lines of a home, oldest written first. -/
def Mem.lines (m : Mem) (h : Nat) : List WLine := mapGet (fun _ => []) m.wcb h

/-- The line with a base address. -/
def findLine (b : Nat) : List WLine → Option WLine
  | [] => none
  | l :: t => if l.base = b then some l else findLine b t

/-- The lines without the one at a base address. -/
def dropLine (b : Nat) : List WLine → List WLine
  | [] => []
  | l :: t => if l.base = b then t else l :: dropLine b t

/-- Replace the lines of a home. -/
def Mem.setLines (m : Mem) (h : Nat) (ls : List WLine) : Mem :=
  { m with wcb := mapSet (fun _ => []) m.wcb h ls }

/-- Value and mask of a line's byte. -/
def WLine.cell (l : WLine) (a : Nat) : Byte × Byte := mapGet (fun _ => (0#8, 0#8)) l.cells (a - l.base)

/-- Merge a byte under a mask into a line. -/
def WLine.put (l : WLine) (a : Nat) (v m : Byte) : WLine :=
  let (o, k) := l.cell a
  { l with cells := mapSet (fun _ => (0#8, 0#8)) l.cells (a - l.base) ((o &&& ~~~m) ||| (v &&& m), k ||| m) }

/-- Drop the bytes of a unit from a line. -/
def WLine.clearUnit (l : WLine) (u n : Nat) : WLine :=
  { l with cells := l.cells.filter (fun p => decide (¬ (u ≤ l.base + p.1 ∧ l.base + p.1 < u + n))) }

/-- Bytes of a line's unit over what memory holds. -/
def WLine.onto (l : WLine) (u : Nat) (below : List Byte) : List Byte :=
  (List.range below.length).map (fun i =>
    let (v, m) := l.cell (u + i)
    (below.getD i 0 &&& ~~~m) ||| (v &&& m))

/-- A burst of a heath device opens a row: the activations of its bank are counted against the threshold that the device
reports, and refresh management follows it; after a read burst the device reports whether its on-die ECC corrected, which
no rule lets the module foresee: a free value (R259; log entry 111). -/
def State.heathBurst (s : State) (u : Nat) (rd : Bool) : State :=
  match regionOf u with
  | .heath =>
    let p := heathPos u
    let key := 2 ^ 32 * p.device + Config.heathBank p.devBlock
    let n := mapGet (fun _ => 0) s.mm.hact key + 1
    let n := if Config.heathThreshold p.device ≤ n then 0 else n
    let s := { s with mm := { s.mm with hact := mapSet (fun _ => 0) s.mm.hact key n } }
    if rd then
      let (s, w) := s.draw
      s.bumpFree .hthOdecc (p.device / 8) (w.toNat % 2)
    else s
  | _ => s

/-- Whether every byte of a unit is valid in a line. -/
def WLine.full (l : WLine) (u n : Nat) : Bool :=
  (List.range n).all (fun i => (l.cell (u + i)).2 == 0xFF#8)

/-- Whether any bit of a unit is valid in a line. -/
def WLine.touches (l : WLine) (u n : Nat) : Bool :=
  (List.range n).any (fun i => (l.cell (u + i)).2 != 0#8)

/-- The coded units of a granule pair: two granules, or the heath's one unit (R271). -/
def pairUnits (b : Nat) : List Nat := if unitLen b = 64 then [b] else [b, b + 32]

/-- Decode units in turn. -/
def State.loadUnits (s : State) (us : List Nat) : State × List Decoded :=
  us.foldl (fun (p : State × List Decoded) u =>
    let (s, d) := p.1.loadUnit false u
    (s, p.2 ++ [d])) (s, [])

/-- Write back one pair of a line (R266): whole, or read, merged and re-encoded. Where either granule of a pair
written in part is bad, the pair stays poisoned, its merged bytes are lost and the flush is logged as flush-bad. -/
def State.flushPair (s : State) (l : WLine) (b : Nat) : State :=
  let us := pairUnits b
  if l.full b 64 then us.foldl (fun s u => s.storeUnit u (l.onto u (List.replicate (unitLen u) 0#8))) s
  else if l.touches b 64 then
    let (s, ds) := s.loadUnits us
    match ds.find? (fun d => d.outc.bad) with
    | some d => (us.foldl (fun s u => s.storePoison u) s).logE
        { kind := 0x0D, island := (homeIsland b).getD 0, addr := b, outcome := d.outc.val.toNat, syn := d.syn.pack.toNat }
    | none => (us.zip ds).foldl (fun s p => s.storeUnit p.1 (l.onto p.1 p.2.data)) s
  else s

/-- Write back every pair of a line. -/
def State.flushLine (s : State) (l : WLine) : State :=
  let (_, n) := lineOf l.base
  let s' := (List.range (n / 64)).foldl (fun s i => s.flushPair l (l.base + i * 64)) (s.heathBurst l.base (!l.full l.base n))
  if l.full l.base n then s'
  else match regionOf l.base with
    | .heath => s'.bump .hthWcbFlush ((heathPos l.base).device / 8) 1
    | _ => s'

/-- Take the line at a base address out of its home's buffer and write it back. -/
def State.flushBase (s : State) (h b : Nat) : State :=
  match findLine b (s.mm.lines h) with
  | none => s
  | some l => ({ s with mm := s.mm.setLines h (dropLine b (s.mm.lines h)) }).flushLine l

/-- Write back every line of a home. -/
def State.flushHome (s : State) (h : Nat) : State :=
  (s.mm.lines h).foldl (fun s l => s.flushBase h l.base) s

/-- Write back the lines of one bank of a stack channel (R266: before any SACT in that bank). -/
def State.flushBank (s : State) (st ch bank : Nat) : State :=
  (s.mm.lines st).foldl (fun s l =>
    if (stackPos l.base).ch = ch ∧ (stackPos l.base).bank = bank then s.flushBase st l.base else s) s

/-- Merge byte writes into a unit of the meadow (R179). -/
def State.mergeMeadow (s : State) (u : Nat) (ws : List ByteW) : State :=
  let n := unitLen u
  let l := ws.foldl (fun l w => l.put w.addr w.val w.mask) (WLine.mk u [])
  if l.full u n then s.storeUnit u (l.onto u (List.replicate n 0#8))
  else
    let (s, d) := s.loadUnit false u
    if d.outc.bad then s.storePoison u else s.storeUnit u (l.onto u d.data)

/-- A line with byte writes merged goes to the young end of its home's buffer; it is written at once
when it is full, and an older line is written first where no line is free (R266). A line of a stepping bank is
written at the boundary before the bank's next SACT (R86, R91; log entry 106). -/
def State.mergeLine (s : State) (h b : Nat) (ws : List ByteW) : State :=
  let ls := s.mm.lines h
  let old := (findLine b ls).getD ⟨b, []⟩
  let l := ws.foldl (fun l w => l.put w.addr w.val w.mask) old
  let rest := dropLine b ls
  if l.full b (lineOf b).2 && !s.stepping b then ({ s with mm := s.mm.setLines h rest }).flushLine l
  else
    let s := if rest.length < 32 then s
      else match rest.find? (fun o => !s.stepping o.base) with
        | none => s
        | some o => s.flushBase h o.base
    { s with mm := s.mm.setLines h (dropLine b (s.mm.lines h) ++ [l]) }

/-- Group byte writes by a key of their address, keeping their order. -/
def groupBy (f : Nat → Nat) (ws : List ByteW) : List (Nat × List ByteW) :=
  ws.foldl (fun g w =>
    let k := f w.addr
    if g.any (fun p => p.1 = k) then g.map (fun p => if p.1 = k then (p.1, p.2 ++ [w]) else p)
    else g ++ [(k, [w])]) []

/-- What one write merges into: a granule of the meadow, a write-combining line elsewhere. -/
def groupKey (a : Nat) : Nat := match regionOf a with | .meadow _ => unitBase a | _ => (lineOf a).1

/-- The writes of one group reach their home (R178, R179). -/
def State.mergeGroup (s : State) (u : Nat) (ws : List ByteW) : State :=
  match regionOf u with
  | .meadow _ => s.mergeMeadow u ws
  | .stack _ | .heath => s.mergeLine (homeOf u) u ws
  | _ => s

/-- Ordinary byte writes reach their homes and become visible (R178, R179). -/
def State.writeBytes (s : State) (ws : List ByteW) : State :=
  (groupBy groupKey ws).foldl (fun s p => s.mergeGroup p.1 p.2) s

/-- A poisoned write leaves the poison encoding in a unit, whatever the write-combining line held. -/
def State.writePoison (s : State) (u : Nat) : State :=
  let h := homeOf u
  let s := match regionOf u with
    | .meadow _ => s
    | _ => { s with mm := s.mm.setLines h ((s.mm.lines h).map (fun (l : WLine) => l.clearUnit u (unitLen u))) }
  s.storePoison u

/-- Bytes written at an address under a list of masks; a missing mask byte is all ones. -/
def byteWrites (a : Nat) : List Byte → List Byte → List ByteW
  | [], _ => []
  | v :: t, [] => ⟨a, v, 0xFF#8⟩ :: byteWrites (a + 1) t []
  | v :: t, m :: ms => ⟨a, v, m⟩ :: byteWrites (a + 1) t ms

/-- The units that a run of bytes touches. -/
def unitsOf (a n : Nat) : List Nat :=
  if n = 0 then []
  else
    let k := unitLen a
    let u := unitBase a
    (List.range ((a + n - 1 - u) / k + 1)).map (fun i => u + i * k)

/-- What a read of a unit returns: its bytes and the outcome that poisons it, if any. -/
structure Got where
  data : List Byte
  bad : Bool
  outc : Outc
  syn : Nat
  deriving DecidableEq, Repr

/-- Read a unit at its home: valid bytes from the write-combining line, the rest from memory (R266). -/
def State.readUnit (s : State) (u : Nat) : State × Got :=
  let l := (findLine (lineOf u).1 (match regionOf u with
    | .meadow _ => []
    | _ => s.mm.lines (homeOf u))).getD ⟨u, []⟩
  let n := unitLen u
  if l.full u n then (s, ⟨l.onto u (List.replicate n 0#8), false, .clean, 0⟩)
  else
    let (s, d) := (s.heathBurst u true).loadUnit false u
    (s, ⟨if d.outc.bad then List.replicate n 0#8 else l.onto u d.data, d.outc.bad, d.outc, d.syn.pack.toNat⟩)

/-- Send a poison report (R275) once. -/
def State.report (s : State) (r : PReport) : State := s.sendOnce r.island 75 (.poisonReport r)

/-- Bytes read at an address, whether any unit was bad, and the bad units with their outcomes. -/
structure ReadRes where
  data : List Byte
  bad : Bool
  bads : List (Nat × Outc)
  deriving DecidableEq, Repr

/-- The other granule of a stack granule's pair. -/
def mateOf (u : Nat) : Option Nat := match regionOf u with
  | .stack _ => some (if u % 64 = 0 then u + 32 else u - 32)
  | _ => none

/-- The granules that a run of units moves beside its own: a stack read is widened to whole pairs (R263). -/
def matesOf (us : List Nat) : List Nat := (us.filterMap mateOf).filter (fun m => !us.contains m)

/-- Read a run of bytes unit by unit, with the pair-mates that move with it (R263); what a mate decodes to is told to
nobody, since nobody asked for its bytes (DESIGN CHOICE, log entry 106). -/
def State.readRun (s : State) (a n : Nat) : State × ReadRes :=
  let r := (unitsOf a n).foldl (fun (p : State × ReadRes) u =>
    let (s, g) := p.1.readUnit u
    (s, ⟨p.2.data ++ g.data, p.2.bad || g.bad, if g.bad then p.2.bads ++ [(u, g.outc)] else p.2.bads⟩))
    (s, ⟨[], false, []⟩)
  ((matesOf (unitsOf a n)).foldl (fun (s : State) u => (s.readUnit u).1) r.1,
   { r.2 with data := (r.2.data.drop (a - unitBase a)).take n })

/-- Little-endian number of a list of bytes. -/
def leNat : List Byte → Nat
  | [] => 0
  | b :: t => b.toNat + 256 * leNat t

/-- `n` little-endian bytes of a number. -/
def leBytes : Nat → Nat → List Byte
  | 0, _ => []
  | n + 1, v => BitVec.ofNat 8 v :: leBytes n (v / 256)

/-- 64-bit words of a list of bytes. -/
def wordsOf (n : Nat) (l : List Byte) : List Word :=
  (List.range n).map (fun i => BitVec.ofNat 64 (leNat ((l.drop (8 * i)).take 8)))

/-- Bytes of 64-bit words. -/
def bytesOf (l : List Word) : List Byte := l.flatMap (fun w => leBytes 8 w.toNat)

/-- Word `i` of a list; 0 past its end. -/
def wordAt (l : List Word) (i : Nat) : Word := l.getD i 0

/-! ## Marks of repair (R280, R281) -/

/-- The slot that holds an address, if any. -/
def slotAt (a : Nat) : List (Nat × Slot) → Option Nat
  | [] => none
  | (k, v) :: t => if v.st ≠ 0 ∧ v.addr = a then some k else slotAt a t

/-- The event slot of a pair. -/
def State.slotOf (s : State) (a : Nat) : Option Nat := slotAt (pairBase a) s.ix.slots

/-- A slot of the integrity unit. -/
def State.slot (s : State) (k : Nat) : Slot := mapGet (fun _ => slot0) s.ix.slots k

/-- The coded units that one remap word replaces: a row of a bank, a device block, a line of a meadow (R283). -/
def remapUnits (a : Nat) : List Nat :=
  match regionOf a with
  | .stack st => let p := stackPos a; (List.range 64).map (fun c => stackAddr st p.ch p.bank p.row c)
  | .heath => (List.range 15).map (fun i => (lineOf a).1 + 64 * i)
  | .meadow _ => (List.range 4).map (fun i => a / 128 * 128 + 32 * i)
  | _ => []

/-- Whether two addresses lie in one remap unit. -/
def sameUnit (a b : Nat) : Bool := (remapUnits a).head? == (remapUnits b).head? && !(remapUnits a).isEmpty

/-- The slot for which accesses to a pair stall: the pair is marked in repair, or a remap copy of its unit
runs (R281, R284). -/
def stallAt (a : Nat) : List (Nat × Slot) → Option Nat
  | [] => none
  | (k, v) :: t =>
    if v.st ≠ 0 ∧ v.st ≠ 3 ∧ (v.addr = pairBase a ∨ (v.st = 5 ∧ sameUnit v.addr a)) then some k else stallAt a t

/-- The slot for which accesses to a pair stall, if any. -/
def State.stallSlot (s : State) (a : Nat) : Option Nat := stallAt a s.ix.slots

/-- Whether accesses to a pair stall. -/
def State.inRepair (s : State) (a : Nat) : Bool := (s.stallSlot a).isSome

/-- Whether a row of a stack's bank holds a pair in repair, or is being copied to a spare: no pass starts over it (R281). -/
def State.markedRow (s : State) (st ch b r : Nat) : Bool :=
  s.ix.slots.any (fun p => p.2.st != 0 && p.2.st != 3 && (match regionOf p.2.addr with
    | .stack x =>
      let q := stackPos p.2.addr
      decide (x = st ∧ q.ch = ch ∧ q.bank = b ∧ q.row = r)
    | _ => false))

end Sys2Proof.Machine
end

