-- ==== Sys2Proof/Machine/Rows.lean ====
section
/-! DEFINITION. Row activations in the banks of a stack and the guards against row hammer (R94). -/
namespace Sys2Proof.Machine

/-- Limits of a stack (R102). -/
def State.raaimt (s : State) (st : Nat) : Nat := s.fld .stkRhCfg st 7 0
def State.raammt (s : State) (st : Nat) : Nat := s.fld .stkRhCfg st 16 8
def State.rowAlert (s : State) (st : Nat) : Nat := s.fld .stkRhCfg st 32 17

/-- Insert a row by falling count; of equal counts the one inserted first stays ahead. -/
def insertRow (p : Nat × Nat) : List (Nat × Nat) → List (Nat × Nat)
  | [] => [p]
  | q :: t => if q.2 < p.2 then p :: q :: t else q :: insertRow p t

/-- The rows that the base die tracks: the eight most-activated ones, of equal ones the lowest. -/
def trackedRows (m : SMap Nat) : List (Nat × Nat) := m.foldl (fun l p => (insertRow p l).take 8) []

/-- What a targeted refresh leaves in a bank: the neighbours of its most-activated tracked row are refreshed, whose
count clears. -/
def bankRfm (raaimt alert : Nat) (v : Bank) : Bank :=
  let m := match trackedRows v.track with
    | (r, _) :: _ => mapSet (fun _ => 0) v.track r 0
    | [] => v.track
  { v with raa := v.raa - raaimt, track := m, alert := (trackedRows m).any (fun p => decide (alert ≤ p.2)) }

/-- RFM of one bank, traced. -/
def State.rfmBank (s : State) (st ch b : Nat) : State :=
  let s := s.modBank st ch b (bankRfm (s.raaimt st) (s.rowAlert st))
  s.trace 9 (52 + st) none 0 0 0 0 (ch + b * 32)

/-- A targeted refresh of one bank, counted (R88, R94, R102). -/
def State.rfmOne (s : State) (st ch b : Nat) : State := (s.rfmBank st ch b).bump .stkPerfRfm st 1

/-- An activate that reaches a bank: a bank outside every stepping set gets its targeted refresh first when its
count is at the limit; at the blocking limit the activate does not happen (R94). -/
def State.activate (s : State) (st ch b row : Nat) : State :=
  let c := s.chan st ch
  let free := !(c.steps && c.bset.getLsbD b)
  let s := if free && decide (s.raaimt st ≤ (s.bank st ch b).raa) then s.rfmOne st ch b else s
  let v := s.bank st ch b
  if s.raammt st ≤ v.raa then s
  else
    let n := mapGet (fun _ => 0) v.track row + 1
    let m := mapSet (fun _ => 0) v.track row n
    s.setBank st ch b { v with row := some row, raa := v.raa + 1, track := m,
                               alert := v.alert || ((trackedRows m).any (fun p => p.1 == row) && decide (s.rowAlert st ≤ n)) }

/-- Close a bank's row. -/
def closeRow (v : Bank) : Bank := { v with row := none }

/-- An ordinary request opens each row of a stack that it reads, unless it is open, and closes it again (DESIGN CHOICE,
log entry 106: the manual names no page policy). -/
def State.ordRows (s : State) (a n : Nat) : State :=
  match regionOf a with
  | .stack st =>
    let rows := (unitsOf a n).foldl (fun (l : List StackPos) u =>
      let p : StackPos := { stackPos u with col := 0 }
      if l.contains p then l else l ++ [p]) []
    rows.foldl (fun s p =>
      if (s.bank st p.ch p.bank).row = some p.row then s
      else (s.activate st p.ch p.bank p.row).modBank st p.ch p.bank closeRow) s
  | _ => s

end Sys2Proof.Machine
end

