-- ==== Sys2Proof/Machine/Ranges.lean ====
section
/-! DEFINITION. Ranges: the fields of an entry, how offsets map onto addresses (R257, R258, R261), which
addresses an entry covers, the checks of R265, and the commands that create and destroy ranges. -/
namespace Sys2Proof.Machine

/-- Fields of a range entry (R270). -/
def rgKind (w : List Word) : Nat := wb (wordAt w 0) 3 0
def rgRd (w : List Word) (p : Nat) : Bool := wbit (wordAt w 0) (4 + p % 16)
def rgWr (w : List Word) (p : Nat) : Bool := wbit (wordAt w 0) (20 + p % 16)
def rgRdMask (w : List Word) : Nat := wb (wordAt w 0) 19 4
def rgWrMask (w : List Word) : Nat := wb (wordAt w 0) 35 20
def rgPeer (w : List Word) (n : Nat) : Bool := wbit (wordAt w 0) (36 + n % 16)
def rgPeerWr (w : List Word) : Bool := wbit (wordAt w 0) 52
def rgStacks (w : List Word) : Nat := wb (wordAt w 1) 15 0
def rgBaseRow (w : List Word) : Nat := wb (wordAt w 1) 29 16
def rgRows (w : List Word) : Nat := wb (wordAt w 1) 43 30
def rgKsplit (w : List Word) : Nat := wb (wordAt w 1) 46 44
def rgBase (w : List Word) : Nat := wb (wordAt w 1) 39 0
def rgCluster (w : List Word) : Nat := wb (wordAt w 1) 5 0
def rgWinOff (w : List Word) : Nat := wb (wordAt w 1) 30 6
def rgPeerDev (w : List Word) : Nat := wb (wordAt w 1) 3 0
def rgPeerH (w : List Word) : Nat := wb (wordAt w 1) 19 4

/-- Bits set in a mask, ascending. -/
def setBits (n v : Nat) : List Nat := (List.range n).filter (fun i => bitOf v i)

/-- Channels of one stack that a bank-resident entry names. -/
def rgChans (w : List Word) (st : Nat) : Nat :=
  bits (wordAt w (3 + st / 2)).toNat (32 * (st % 2) + 31) (32 * (st % 2))

/-- Stacks of a bank-resident region, ascending (R258). -/
def rgBrStacks (w : List Word) : List Nat := (List.range 16).filter (fun st => rgChans w st ≠ 0)

/-- The channel list of a bank-resident region: (stack, channel), ascending (R258). -/
def rgChanList (w : List Word) : List (Nat × Nat) :=
  (List.range 16).flatMap (fun st => (setBits 32 (rgChans w st)).map (fun c => (st, c)))

/-- The bank list of a bank-resident region (R258). -/
def rgBankList (w : List Word) : List Nat := setBits 64 (wordAt w 11).toNat

/-- Length of a range in bytes (R257, R258, R270). -/
def rgLen (w : List Word) : Nat :=
  match rgKind w with
  | 1 => (setBits 16 (rgStacks w)).length * rgRows w * 2 ^ 22
  | 2 => (rgChanList w).length * (rgBankList w).length * rgRows w * 2048
  | _ => wb (wordAt w 2) 39 0

/-- Addresses from here on stand for a peer's memory: 2^60 + device × 2^56 + the peer's handle × 2^40 +
the offset (R192, R264). -/
def peerSpace : Nat := 2 ^ 60

/-- The address of an offset of a range (R257, R258, R261): fabric-local, or a place at a peer. -/
def rgAddr (w : List Word) (o : Nat) : Nat :=
  match rgKind w with
  | 1 =>
    let l := setBits 16 (rgStacks w)
    let n := l.length
    let u := o / 32768
    let st := l.getD (u % max n 1) 0
    st * 2 ^ 36 + rgBaseRow w * 2 ^ 22 + (u / max n 1) * 32768 + o % 32768
  | 2 =>
    let rows := max (rgRows w) 1
    let bl := rgBankList w
    let b := max bl.length 1
    let r := o / 2048 % rows
    let j := o / (2048 * rows) % b
    let i := o / (2048 * rows * b)
    let (st, ch) := (rgChanList w).getD i (0, 0)
    stackAddr st ch (bl.getD j 0) (rgBaseRow w + r) (o % 2048 / 32) + o % 32
  | 3 => heathBase + rgBase w + o
  | 4 => meadowBase + rgCluster w * 2 ^ 24 + rgWinOff w + o
  | 5 => peerSpace + rgPeerDev w * 2 ^ 56 + rgPeerH w * 2 ^ 40 + o
  | _ => 0

/-- Whether a range holds a local address. -/
def rgCovers (w : List Word) (a : Nat) : Bool :=
  match rgKind w, regionOf a with
  | 1, .stack st =>
    let p := stackPos a
    bitOf (rgStacks w) st && decide (rgBaseRow w ≤ p.row ∧ p.row < rgBaseRow w + rgRows w)
  | 2, .stack st =>
    let p := stackPos a
    bitOf (rgChans w st) p.ch && wbit (wordAt w 11) p.bank &&
      decide (rgBaseRow w ≤ p.row ∧ p.row < rgBaseRow w + rgRows w)
  | 3, .heath => decide (heathBase + rgBase w ≤ a ∧ a < heathBase + rgBase w + rgLen w)
  | 4, .meadow _ => decide (rgAddr w 0 ≤ a ∧ a < rgAddr w 0 + rgLen w)
  | _, _ => false

/-- A valid entry of the range table. -/
def State.range (s : State) (h : Nat) : Option (List Word) := optGet s.mm.ranges h

/-- Valid handles whose ranges hold an address. -/
def State.rangesAt (s : State) (a : Nat) : List Nat :=
  (s.mm.ranges.filter (fun p => rgCovers p.2 a)).map (·.1)

/-- Partitions granted read on any range that holds an address. -/
def State.readersAt (s : State) (a : Nat) : Nat :=
  (s.mm.ranges.filter (fun p => rgCovers p.2 a)).foldl (fun m p => m ||| rgRdMask p.2) 0

/-- Whether cluster c owns a formed twin, or is its upper half (R62, R65). -/
def State.twinState (s : State) (c : Nat) : Nat := s.fld .tenTwinStat (c / 2 * 2) 1 0

/-- Bits that the kind of an entry does not use are 0 (R265). -/
def rgReservedClear (w : List Word) : Bool :=
  let z (i lo : Nat) : Bool := decide ((wordAt w i).toNat / 2 ^ lo = 0)
  let wz (i : Nat) : Bool := decide (wordAt w i = 0)
  let tail3 := (List.range 9).all (fun i => wz (3 + i))
  z 0 53 && (match rgKind w with
    | 1 => z 1 44 && wz 2 && tail3
    | 2 => z 1 47 && decide (rgStacks w = 0) && wz 2
    | 3 => z 1 40 && z 2 40 && tail3
    | 4 => z 1 31 && z 2 40 && tail3
    | 5 => z 1 20 && z 2 40 && tail3
    | _ => false)

/-- The malformed check of R265 and R74. -/
def rgMalformed (w : List Word) : Bool :=
  let k := rgKind w
  let rowsBad := decide (rgRows w = 0 ∨ 16383 < rgBaseRow w + rgRows w)
  !rgReservedClear w || (match k with
    | 1 => rowsBad || decide (rgStacks w = 0)
    | 2 =>
      let sp := 2 ^ rgKsplit w
      let sts := rgBrStacks w
      let c := (rgChanList w).length
      let ct := (setBits 32 (rgChans w (sts.headD 0))).length
      rowsBad || decide (c = 0 ∨ wordAt w 11 = 0 ∨ 5 < rgKsplit w ∨ c % sp ≠ 0) ||
        (decide (1 < sp) && (sts.any (fun st => (setBits 32 (rgChans w st)).length ≠ ct) || decide (ct % sp ≠ 0)))
    | 3 => decide (rgBase w % 65536 ≠ 0 ∨ rgLen w % 65536 ≠ 0 ∨ rgLen w = 0)
    | _ => decide (rgLen w = 0))

/-- The unmapped check of R265: a window may be 32 MiB where its cluster owns a twin (R264). -/
def State.rgUnmapped (s : State) (w : List Word) : Bool :=
  match rgKind w with
  | 3 =>
    let a := rgBase w
    let e := a + rgLen w
    decide (2 * halfSize < e ∨ a / halfSize ≠ (e - 1) / halfSize ∨ (a < carveHi ∧ carveLo < e))
  | 4 =>
    let c := rgCluster w
    let span := if c % 2 = 0 ∧ s.twinState c = 2 then 2 ^ 25 else 2 ^ 24
    decide (47 < c ∨ span < rgWinOff w + rgLen w)
  | _ => false

/-- Whether two row intervals meet. -/
def rowsMeet (v w : List Word) : Bool :=
  decide (rgBaseRow v < rgBaseRow w + rgRows w ∧ rgBaseRow w < rgBaseRow v + rgRows v)

/-- Stacks in which an entry owns rows. -/
def rgStackMask (w : List Word) : Nat :=
  match rgKind w with
  | 1 => rgStacks w
  | 2 => (rgBrStacks w).foldl (fun m st => m + 2 ^ st) 0
  | _ => 0

/-- Whether two stack regions overlap (R265). -/
def rgMeets (v w : List Word) : Bool :=
  match rgKind v, rgKind w with
  | 2, 2 =>
    rowsMeet v w && decide (wordAt v 11 &&& wordAt w 11 ≠ 0) &&
      (List.range 16).any (fun st => decide (rgChans v st &&& rgChans w st ≠ 0))
  | _, _ => rowsMeet v w && decide (rgStackMask v &&& rgStackMask w ≠ 0)

/-- The overlap check of R265: heath, window and peer ranges may overlap each other. -/
def State.rgOverlaps (s : State) (w : List Word) : Bool :=
  (decide (rgKind w = 1 ∨ rgKind w = 2)) && s.mm.ranges.any (fun p => rgMeets p.2 w)

/-- The fused check of R265. -/
def State.rgFused (s : State) (w : List Word) : Bool :=
  match rgKind w with
  | 2 => (rgChanList w).any (fun p => decide (s.reg .stkBpuFuse p.1 p.2 &&& wordAt w 11 ≠ 0))
  | 4 => decide (s.dom (rgCluster w) = .fused)
  | _ => false

/-- The first failing check of a range request (R265); 0 when accepted. -/
def State.rangeReason (s : State) (q : RangeReq) : Nat :=
  let valid := (s.range q.h).isSome
  if q.h = 0 ∨ 4095 < q.h then 1
  else if (if q.create then valid else !valid) then 1
  else if q.both then 2
  else if !q.create then 0
  else if rgMalformed q.words then 2
  else if s.rgUnmapped q.words then 3
  else if s.rgOverlaps q.words then 4
  else if s.rgFused q.words then 5
  else 0

/-- A write of MEM_RANGE_CTL starts a request, or is dropped while one runs (R265, R270). -/
def State.rangeStart (s : State) (q : RangeReq) : State :=
  if s.flag .memRangeStat 0 1 then s.setBit .memRangeStat 0 5 true
  else
    let s := s.setBit .memRangeStat 0 0 false
    let s := s.setBit .memRangeStat 0 1 true
    { s with mm := { s.mm with rangeReq := some q } }

/-- A write of MEM_RANGE_CTL that asks for nothing clears done, or is dropped while a request runs (R265, R270). -/
def State.rangeNone (s : State) : State :=
  if s.flag .memRangeStat 0 1 then s.setBit .memRangeStat 0 5 true else s.setBit .memRangeStat 0 0 false

/-- The words staged for a range. -/
def State.rangeStage (s : State) : List Word := (List.range 12).map (fun i => s.reg .memRangeStage 0 i)

/-- RANGE_CREATE (R265). -/
def execRangeCreate (h : BitVec 12) (both : Bool) (s : State) : Host.Outcome State Fault Refusal :=
  .next (s.rangeStart ⟨h.toNat, true, both, s.rangeStage⟩)

/-- RANGE_DESTROY (R265). -/
def execRangeDestroy (h : BitVec 12) (s : State) : Host.Outcome State Fault Refusal :=
  .next (s.rangeStart ⟨h.toNat, false, false, []⟩)

/-- Insert or remove an entry of the range table. -/
def Mem.setRange (m : Mem) (h : Nat) (w : Option (List Word)) : Mem :=
  match w with
  | some v => { m with ranges := mapPut m.ranges h v }
  | none => { m with ranges := mapDel m.ranges h }

/-- Every copy of the range table holds the new entry, and done is set with the result (R265). -/
def State.rangeFinish (s : State) : State :=
  match s.mm.rangeReq with
  | none => s
  | some q =>
    let r := s.rangeReason q
    let m := if r = 0 then s.mm.setRange q.h (if q.create then some q.words else none) else s.mm
    let s := { s with mm := { m with rangeReq := none } }
    let s := s.setBit .memRangeStat 0 0 true
    let s := s.setBit .memRangeStat 0 1 false
    s.setFld .memRangeStat 0 4 2 r

/-- RANGE_UPDATE_COMPLETE (R265). -/
def execRangeUpdateComplete (s : State) : Host.Outcome State Fault Refusal := .next s.rangeFinish

end Sys2Proof.Machine
end

