-- ==== Sys2Proof/Machine/Tasks.lean ====
section
/-! DEFINITION. Fields of task descriptors (R140) and context records (R137), access to the live
descriptors and contexts, and what an access on behalf of a descriptor does when its home does not answer
or its data is poisoned (R186, R255, R265, R275). -/
namespace Sys2Proof.Machine

/-! ## Context records (R137) -/

def cwTtRange (w : List Word) : Nat := wb (wordAt w 0) 15 0
def cwTtOff (w : List Word) : Nat := wb (wordAt w 0) 55 16
def cwTtCap (w : List Word) : Nat := wb (wordAt w 1) 15 0
def cwQRange (w : List Word) : Nat := wb (wordAt w 2) 15 0
def cwQOff (w : List Word) : Nat := wb (wordAt w 2) 55 16
def cwQLog (w : List Word) : Nat := wb (wordAt w 2) 60 56
def cwGBase (w : List Word) : Nat := wb (wordAt w 3) 11 0
def cwGCount (w : List Word) : Nat := wb (wordAt w 3) 24 12
def cwPart (w : List Word) : Nat := wb (wordAt w 3) 28 25
def cwBest (w : List Word) : Bool := wbit (wordAt w 3) 29

/-- A context. -/
def State.ctx (s : State) (x : Nat) : Option Ctx := optGet s.sc.ctxs x

/-- Record or remove a context. -/
def State.setCtx (s : State) (x : Nat) (c : Option Ctx) : State :=
  { s with sc := { s.sc with ctxs := match c with
    | some v => mapPut s.sc.ctxs x v
    | none => mapDel s.sc.ctxs x } }

/-- Change a context, where it exists. -/
def State.modCtx (s : State) (x : Nat) (f : Ctx → Ctx) : State :=
  match s.ctx x with
  | some c => s.setCtx x (some (f c))
  | none => s

/-- Partition of a context; 0 where it does not exist. -/
def State.partOf (s : State) (x : Nat) : Nat := match s.ctx x with
  | some c => cwPart c.cw
  | none => 0

/-- Whether a context is best-effort (R160). -/
def State.bestOf (s : State) (x : Nat) : Bool := match s.ctx x with
  | some c => cwBest c.cw
  | none => true

/-! ## Task descriptors (R140) -/

def twOpcode (w : List Word) : Nat := wb (wordAt w 0) 7 0
def twRoute (w : List Word) : Nat := wb (wordAt w 0) 9 8
def twHome (w : List Word) : Nat := wb (wordAt w 0) 15 10
def twTwin (w : List Word) : Bool := wbit (wordAt w 0) 16
def twRound (w : List Word) : RMode := RMode.ofCode (wb (wordAt w 0) 18 17)
def twThrSel (w : List Word) : Nat := wb (wordAt w 0) 20 19
def twPacked (w : List Word) : Bool := wbit (wordAt w 0) 21
def twNk (w : List Word) : Bool := wbit (wordAt w 0) 22
def twShape (w : List Word) : Nat := wb (wordAt w 0) 27 24
def twAuditTol (w : List Word) : Nat := wb (wordAt w 0) 39 32
def twRed (w : List Word) : Nat := wb (wordAt w 0) 42 40
def twRedSrc (w : List Word) : Nat := wb (wordAt w 0) 46 43
def twOutReg (w : List Word) : Nat := wb (wordAt w 0) 51 48
def twCompReg (w : List Word) : Nat := wb (wordAt w 0) 55 52
def twSdst (w : List Word) : Nat := wb (wordAt w 0) 61 56
def twSeed (w : List Word) : Nat := wb (wordAt w 1) 31 0
def twKm1 (w : List Word) : Nat := wb (wordAt w 1) 41 32
def twSmode (w : List Word) : Nat := wb (wordAt w 1) 43 42
def twChainLen (w : List Word) : Nat := wb (wordAt w 1) 47 44
def twAuditSrc (w : List Word) : Nat := wb (wordAt w 1) 63 48
def twA (w : List Word) : Nat := wb (wordAt w 2) 15 0
def twB (w : List Word) : Nat := wb (wordAt w 2) 31 16
def twC (w : List Word) : Nat := wb (wordAt w 2) 47 32
def twD (w : List Word) : Nat := wb (wordAt w 2) 63 48
def twAwait (w : List Word) : List Word := (w.drop 3).take 4
def twSignal (w : List Word) : List Word := (w.drop 7).take 2
/-- Area word 9 + i. -/
def twArea (w : List Word) (i : Nat) : Word := wordAt w (9 + i)
def twRecOff (w : List Word) : Nat := wb (wordAt w 13) 39 0
def twRecRange (w : List Word) : Nat := wb (wordAt w 13) 55 40
def twRecOrder (w : List Word) : Bool := wbit (wordAt w 13) 56
def twCookie (w : List Word) : Nat := wb (wordAt w 14) 31 0
def twStream (w : List Word) : Nat := wb (wordAt w 14) 47 32
def twStreamValid (w : List Word) : Bool := wbit (wordAt w 14) 48

/-- The handle at position 0–4: A, B, C, D, audit_src. -/
def twHandle (w : List Word) (i : Nat) : Nat :=
  match i with
  | 0 => twA w | 1 => twB w | 2 => twC w | 3 => twD w | _ => twAuditSrc w

/-- A live descriptor. -/
def State.task (s : State) (t : Nat) : Option Task := optGet s.sc.tasks t

/-- Record a descriptor. -/
def State.putTask (s : State) (t : Nat) (k : Task) : State :=
  { s with sc := { s.sc with tasks := mapPut s.sc.tasks t k } }

/-- Remove a descriptor. -/
def State.dropTask (s : State) (t : Nat) : State :=
  { s with sc := { s.sc with tasks := mapDel s.sc.tasks t } }

/-- Change a descriptor, where it is live. -/
def State.modTask (s : State) (t : Nat) (f : Task → Task) : State :=
  match s.task t with
  | some k => s.putTask t (f k)
  | none => s

/-- Whether a descriptor's context is best-effort. -/
def State.bestTaskOf (s : State) (t : Nat) : Bool := match s.task t with
  | some k => s.bestOf k.ctx
  | none => true

/-- The cluster whose scoreboard holds a descriptor. -/
def Task.home (k : Task) : Nat := twHome k.w

/-- Island of the pool that owns a descriptor: its home scoreboard, or the route pool of its field (R148). -/
def Task.owner (k : Task) : Nat := if k.inPool then 48 + k.field else twHome k.w

/-- Island of a descriptor's owner; the platform's where it is gone. -/
def State.ownerOf (s : State) (t : Nat) : Nat := match s.task t with
  | some k => k.owner
  | none => 75

/-- Island from which an issuer accesses memory. -/
def State.issuerIsland (s : State) (i : Issuer) : Nat :=
  match i with
  | .task t => s.ownerOf t
  | .core _ => 74
  | .service f => 48 + f.val
  | .integrity => 75
  | .peer _ | .mac _ => 72

/-- The running attempt will end with a status of class E or F; the first one stands (R155). -/
def Task.fail (k : Task) (status detail : Nat) : Task :=
  match k.dead with
  | some _ => k
  | none => { k with dead := some (BitVec.ofNat 8 status, BitVec.ofNat 32 detail) }

/-- An access of a descriptor found no answer: it ends with internal-error and counts (R186, R255). -/
def State.noAnswerTask (s : State) (t island : Nat) : State :=
  (s.modTask t (fun k => k.fail 0x24 island)).bump .memNoAnswer 0 1

/-- Context, partition and killability with which an issuer's poison report is made (R275). -/
def State.issuerInfo (s : State) (i : Issuer) : Nat × Nat × Bool :=
  match i with
  | .task t => match s.task t with
    | some k => (k.ctx, s.partOf k.ctx, !k.nkRun)
    | none => (0, 0, false)
  | _ => (0, 0, false)

/-- The poison report of a bad unit on behalf of an issuer (R275). A core or an Ethernet port decodes on behalf
of no descriptor and makes none. -/
def State.reportBad (s : State) (i : Issuer) (audit : Bool) (u : Nat) (o : Outc) : State :=
  match i with
  | .core _ | .mac _ => s
  | _ =>
    let (x, p, kill) := s.issuerInfo i
    s.report ⟨u, (homeIsland u).getD 0, o.val, (match i with | .task t => some t | _ => none),
      BitVec.ofNat 10 x, BitVec.ofNat 4 p, kill, audit⟩

/-- Report every bad unit of a read. -/
def State.reportBads (s : State) (i : Issuer) (audit : Bool) (l : List (Nat × Outc)) : State :=
  l.foldl (fun s p => s.reportBad i audit p.1 p.2) s

/-- Field of an island that issues: a cluster's own field. -/
def fieldOf (c : Nat) : Nat := c / 12

/-- The I/O die that carries traffic without an up link: IOD0 for F0 and F1, IOD1 for F2 and F3 (R193). -/
def iodOf (f : Nat) : Nat := if f < 2 then 72 else 73

end Sys2Proof.Machine
end

