-- ==== Sys2Proof/Machine/Slots.lean ====
section
/-! DEFINITION. Event slots of the integrity unit: assigning, joining and freeing them, choosing a repair
source and releasing what is held (R277, R280). -/
namespace Sys2Proof.Machine

/-- Replace a slot. -/
def State.setSlot (s : State) (k : Nat) (v : Slot) : State :=
  { s with ix := { s.ix with slots := mapSet (fun _ => slot0) s.ix.slots k v } }

/-- An access for an issuer to a pair in repair: a descriptor's waits for the repair, until the stall limit passes, which the
flag tells (R281). -/
def State.meetRepair (s : State) (i : Issuer) (a : Nat) : State × Bool :=
  if !s.inRepair a then (s, false)
  else match i with
    | .task t => match s.task t with
      | some k => if k.expired then (s, true) else ({ s with mm := { s.mm with marked := true } }, false)
      | none => (s, false)
    | _ => (s, false)

/-- The lowest free slot (R277). -/
def State.freeSlot (s : State) : Option Nat := (List.range 64).find? (fun k => (s.slot k).st = 0)

/-- Whether the mirror pair is in step with its partner present: the pair state is in-sync. -/
def State.mirrorUp (s : State) : Bool := decide (s.fld .lnkMirStat 0 2 0 = 3)

/-- Number of Rhazar links that are up to a device (R299). -/
def State.upLinks (s : State) (dev : Nat) : List Nat :=
  (List.range 8).filter (fun l => s.fld .lnkStat l 2 0 = 3 ∧ s.fld .lnkStat l 14 11 = dev)

/-- A link or port. -/
def State.link (s : State) (l : Nat) : Link := mapGet (fun _ => link0) s.lk.links l

/-- Replace a link. -/
def State.setLink (s : State) (l : Nat) (v : Link) : State :=
  { s with lk := { s.lk with links := mapSet (fun _ => link0) s.lk.links l v } }

/-- A link sends a data flit: its sequence number advances, and an armed injection fires on it (R293, R309). -/
def State.sendFlit (s : State) (l : Nat) : State :=
  let v := s.link l
  (s.setLink l { v with tx := v.tx + 1 }).setBit .lnkInj l 5 false

/-- A word of the repair map. -/
def State.rmapWord (s : State) (i : Nat) : Word := mapGet (fun _ => 0#64) s.ix.rmap i

/-- The repair-map entry that names a range holding an address (R279, R280). -/
def State.rmapAt (s : State) (a : Nat) : Option Word :=
  let hs := s.rangesAt a
  ((List.range 64).map (fun i => s.rmapWord i)).find? (fun w => wbit w 39 && hs.contains (wb w 15 0))

/-- Whether source 0 mirror, 1 peer or 2 reload is enabled, named and present for a slot (R280). -/
def State.sourceOk (s : State) (w : Word) (i : Nat) : Bool :=
  wbit (s.reg .icxCfg) (24 + i) && (match i with
    | 0 => wbit w 16 && s.mirrorUp
    | 1 => wbit w 17 && !(s.upLinks (wb w 21 18)).isEmpty
    | _ => wbit w 38)

/-- The next source of a slot, of those not tried (R280). -/
def State.nextSource (s : State) (v : Slot) : Option Nat :=
  match s.rmapAt v.addr with
  | none => none
  | some w => [0, 1, 2].find? (fun i => !v.tried.getLsbD i && s.sourceOk w i)

/-- Start the next source of a slot; a reload sets ICX_STAT.reload, and with no source left the slot waits
for its bound or an abandon. -/
def State.trySource (s : State) (k : Nat) : State :=
  let v := s.slot k
  match s.nextSource v with
  | none => s.setSlot k { v with st := 1, src := 4 }
  | some i =>
    let s := s.setSlot k { v with st := if i = 2 then 2 else 1, tried := v.tried ||| BitVec.ofNat 3 (2 ^ i), src := i }
    if i = 2 then s.setBit .icxStat 0 1 true else s

/-- Release what a slot holds: descriptors re-run, and a held fetch or swap-in of a context may go on
(R139, R155, R175, R277). -/
def State.releaseHeld (s : State) (k : Nat) (l : List Held) : State :=
  l.foldl (fun s h => match h with
    | .task t => s.send 75 (s.ownerOf t) (.descriptorRelease t (BitVec.ofNat 6 k))
    | .fetch x => s.modCtx x (fun c => { c with held := false })) s

/-- What a report holds on its slot: its descriptor when it is killable and not on the audit path only, or
the fetch or swap-in of its context, for which a report is made without a descriptor and marked killable
(R139, R175). -/
def heldOf (r : PReport) : List Held :=
  match r.task with
  | some t => if r.killable && !r.auditPath then [.task t] else []
  | none => if r.killable then [.fetch r.ctx.toNat] else []

/-- The log kind of a report: consumed, effect or audit (R287). -/
def reportKind (r : PReport) : Nat :=
  if r.auditPath then 0x03 else if !r.killable && r.task.isSome then 0x02 else 0x01

/-- Log a report (R275, R287). -/
def State.logReport (s : State) (r : PReport) (k : Nat) : State :=
  s.logE { kind := reportKind r, island := r.island, outcome := r.outcome.toNat, slot := k, addr := r.addr,
           ctx := r.ctx.toNat, part := r.part.toNat }

/-- Record on a descriptor that it is held on a slot. -/
def State.noteHeld (s : State) (k : Nat) (l : List Held) : State :=
  l.foldl (fun s h => match h with
    | .task t => s.modTask t (fun v => { v with slots := v.slots ++ [k] })
    | _ => s) s

/-- Assign a free slot to a pair: repair starts in the repair map, and outside it the poison encoding is
written and the slot is unowned (R277). -/
def State.assignSlot (s : State) (k : Nat) (a : Nat) (island : Nat) (hs : List Held) : State :=
  let b := pairBase a
  let v : Slot := ⟨1, b, 0, 0, hs, island, BitVec.ofNat 16 (s.readersAt b), [], 0⟩
  let s := (s.setSlot k v).setBit .icxStat 0 0 true
  let s := s.noteHeld k hs
  match s.rmapAt b with
  | some _ => s.trySource k
  | none =>
    let s := s.writePoison (unitBase a)
    let s := s.setSlot k { v with st := 3 }
    let s := s.setBit .icxStat 0 2 true
    s.logE { kind := 0x0C, island := island, slot := k, addr := b }

/-- A report takes a slot, joins one, or waits for one (R277). One on the audit path only is logged and takes
none (R275). -/
def State.takeReport (s : State) (r : PReport) : State :=
  if r.auditPath then s.logReport r 0
  else match s.slotOf r.addr with
  | some k =>
    let v := s.slot k
    let s := s.setSlot k { v with held := v.held ++ heldOf r }
    (s.noteHeld k (heldOf r)).logReport r k
  | none => match s.freeSlot with
    | some k => (s.assignSlot k r.addr r.island (heldOf r)).logReport r k
    | none =>
      let s := s.logReport r 0
      { s with ix := { s.ix with queue := s.ix.queue ++ [r] } }

/-- Reports that wait take free slots, oldest first, or join the slot that their pair has by now (R277). -/
def State.serveQueue (s : State) : List PReport → State
  | [] => s
  | r :: t =>
    let drop := { s with ix := { s.ix with queue := s.ix.queue.erase r } }
    match s.slotOf r.addr with
    | some j =>
      let v := s.slot j
      State.serveQueue ((drop.setSlot j { v with held := v.held ++ heldOf r }).noteHeld j (heldOf r)) t
    | none => match s.freeSlot with
      | some k => State.serveQueue (drop.assignSlot k r.addr r.island (heldOf r)) t
      | none => s

/-- Free a slot: reports for its pair still in flight are released on arrival, and reports that wait take the
place (R277). -/
def State.emptySlot (s : State) (k : Nat) : State :=
  let a := (s.slot k).addr
  let late := s.flight.filterMap (fun x => match x.m with
    | .poisonReport r => if pairBase r.addr = a then some r else none
    | _ => none)
  let s := s.setSlot k slot0
  let s := { s with ix := { s.ix with rels := s.ix.rels ++ late } }
  s.serveQueue s.ix.queue

/-- A repair completes: it is logged with its source, the slot is freed and what it held is released
(R280). -/
def State.repairDone (s : State) (k src : Nat) : State :=
  let v := s.slot k
  let s := s.setBit .icxStat 0 3 true
  let s := s.logE { kind := 0x06, island := v.island, slot := k, addr := v.addr, detail := src }
  (s.releaseHeld k v.held).emptySlot k

end Sys2Proof.Machine
end

