-- ==== Sys2Proof/Machine/Mem.lean ====
section
/-! DEFINITION. Memory at its homes: reads, writes and adds of an issuer, the regulators' queues, waiting
on pairs in repair and on stepping banks, flushes, and read responses (R178, R179, R187, R262–R268, R281). -/
namespace Sys2Proof.Machine

/-! ## Acknowledgements (R178) -/

/-- Key under which writes not yet acknowledged are counted: a hart at h, a descriptor at 16 + t. -/
def ackKey : Issuer → Option Nat
  | .core h => some h.val
  | .task t => some (16 + t)
  | _ => none

/-- Writes of an issuer that are not yet acknowledged. -/
def State.acksOf (s : State) (k : Nat) : Nat := mapGet (fun _ => 0) s.mm.acks k

/-- Set the count of an issuer. -/
def State.setAcks (s : State) (k n : Nat) : State :=
  { s with mm := { s.mm with acks := mapSet (fun _ => 0) s.mm.acks k n } }

/-- The home of an address accepts a write: its acknowledgement is sent. A descriptor's write counts from here, a core's
from its store (R311). -/
def State.sendAck (s : State) (a : Nat) (i : Issuer) : State :=
  let s := match i with
    | .task t => s.setAcks (16 + t) (s.acksOf (16 + t) + 1)
    | _ => s
  s.send ((homeIsland a).getD 75) (s.issuerIsland i) (.writeAck i)

/-! ## Credits (R268) -/

/-- Bucket of a partition at a home (R268). -/
def State.bucket (s : State) (h p : Nat) : Bucket := mapGet (fun _ => bucket0) s.mm.buckets (16 * h + p)

/-- Replace a bucket. -/
def State.setBucket (s : State) (h p : Nat) (b : Bucket) : State :=
  { s with mm := { s.mm with buckets := mapSet (fun _ => bucket0) s.mm.buckets (16 * h + p) b } }

/-- Credits that a request takes (R268). -/
def creditsOf (n : Nat) : Nat := (n + 63) / 64

/-- The partition whose bucket a request charges: its descriptor's, or the number that a peer's request carries; none for
uncharged traffic (R268). -/
def State.chargedPart (s : State) (q : MemReq) : Option Nat :=
  match q.iss with
  | .task t => (s.task t).map (fun k => s.partOf k.ctx)
  | _ => q.part

/-- Work that is done in one piece takes its credits at a home: those that the bucket lacks are owed, and the refills pay
them before anything else (R268; log entry 55). -/
def State.charge (s : State) (p a n : Nat) : State :=
  let h := homeOf a
  let b := s.bucket h p
  if !b.enable || 20 ≤ h || peerSpace ≤ a then s
  else s.setBucket h p { b with level := b.level - n, debt := b.debt + (n - b.level) }

/-- The credits of a descriptor's own accesses to 64-byte pairs (R268). -/
def State.chargeFor (s : State) (i : Issuer) (pairs : List Nat) : State :=
  match i with
  | .task t => match s.task t with
    | some k => let p := s.partOf k.ctx; pairs.foldl (fun s a => s.charge p a 1) s
    | none => s
  | _ => s

/-! ## Adders (R187, R267) -/

/-- The sum of two elements of an adder type and whether it saturated (R187, R39). -/
def addElt (t : EType) (x y : Nat) : Nat × Bool :=
  if t.isInt then
    let (v, f) := satInt t.width (sext t.width x + sext t.width y)
    (intCode t.width v, f)
  else ((convFloat t .rne ((decodeElt t x).add (decodeElt t y))).1, false)

/-- Apply one element add at an address: a poisoned operand or target leaves the poison encoding in the
target granule (R267). The second result tells a saturation, the third the poison met in the target. -/
def State.addOne (s : State) (t : EType) (a : Nat) (x : Nat) (bad : Bool) : State × Bool × Option Outc :=
  let n := t.width / 8
  let u := unitBase a
  if bad then (s.writePoison u, false, none)
  else
    let (s, g) := s.readUnit u
    if g.bad then (s.writePoison u, false, some g.outc)
    else
      let old := leNat ((g.data.drop (a - u)).take n)
      let (v, f) := addElt t old x
      (s.writeBytes (byteWrites a (leBytes n v) []), f, none)

/-- Before the adder of a home changes bytes, the lines of atomics that hold newer ones of them are written back (R189).
Cluster- and field-scope atomics are not guaranteed to combine with a scatter-add: the bytes that one changed and a
scatter-add meets are free (R190, log entry 110). -/
def State.settleLines (s : State) (a n : Nat) (scatter : Bool) : State :=
  (s.mm.atoms.filter (fun l => decide (l.base < a + n ∧ a < l.base + 64 ∧ l.base < peerSpace))).foldl (fun s l =>
    let (s, w) := s.draw
    let new (o : Nat) : Byte := if scatter && decide (l.buf < 52 ∧ a ≤ l.base + o ∧ l.base + o < a + n)
      then w.extractLsb' (8 * (o % 8)) 8 else l.data.getD o 0
    let s := s.writeBytes (l.wrote.map (fun o => ⟨l.base + o, new o, 0xFF#8⟩))
    let s := l.bad.foldl (fun s u => s.writePoison u) s
    { s with mm := { s.mm with atoms := s.mm.atoms.map (fun x =>
      if x.buf = l.buf ∧ x.base = l.base then { x with wrote := [], bad := [] } else x) } }) s

/-- The element values of a run of bytes. -/
def eltsOf (n : Nat) (l : List Byte) : List Nat :=
  (List.range (l.length / max n 1)).map (fun i => leNat ((l.drop (n * i)).take n))

/-- Saturations of adds from a peer that an acknowledgement has yet to carry (R267). -/
def State.satsOf (s : State) (d : Nat) : Nat := mapGet (fun _ => 0) s.lk.sats d

/-- Set them. -/
def State.setSats (s : State) (d n : Nat) : State :=
  { s with lk := { s.lk with sats := mapSet (fun _ => 0) s.lk.sats d n } }

/-- Apply an add of whole elements for an issuer, counting saturations for its descriptor; those of a peer's add go back
with its acknowledgement (R267). -/
def State.addRun (s : State) (i : Issuer) (a : Nat) (et : BitVec 5) (data : List Byte) (bad : Bool) : State :=
  match EType.ofCode et.toNat with
  | none => s
  | some t =>
    let n := t.width / 8
    let xs := eltsOf n data
    let s := s.settleLines a data.length true
    let r := (List.range xs.length).foldl (fun (p : State × Nat) j =>
      let (s, f, o) := p.1.addOne t (a + n * j) (xs.getD j 0) bad
      let s := match o with
        | some o => s.reportBad i false (unitBase (a + n * j)) o
        | none => s
      (s, p.2 + b2n f)) (s, 0)
    match i with
    | .task k => r.1.modTask k (fun v => { v with counts := { v.counts with sat := v.counts.sat + r.2 } })
    | .peer d => r.1.setSats d.toNat (r.1.satsOf d.toNat + r.2)
    | _ => r.1

/-! ## Requests at a home -/

/-- Serve an accepted request: a read's data goes back to its issuer, a write or an add takes effect and is
acknowledged. -/
def State.serveReq (s : State) (q : MemReq) : State :=
  match q.kind with
  | .rd =>
    let (s, r) := (s.ordRows q.addr q.len).readRun q.addr q.len
    let s := s.reportBads q.iss false r.bads
    { s with mm := { s.mm with reads := s.mm.reads ++ [⟨q.iss, r.data, r.bad⟩] } }
  | .wr =>
    let s := if q.poison then (unitsOf q.addr q.len).foldl (fun s u => s.writePoison u) s
      else s.writeBytes (byteWrites q.addr q.data q.mask)
    s.sendAck q.addr q.iss
  | .add et => ((s.ordRows q.addr q.len).addRun q.iss q.addr et q.data q.poison).sendAck q.addr q.iss

/-- Whether a request writes every byte of the pairs it touches, clean. -/
def fullPairs (q : MemReq) : Bool :=
  q.kind == .wr && !q.poison && decide (q.addr % 64 = 0 ∧ q.len % 64 = 0 ∧ q.len ≠ 0) &&
    q.mask.all (· == 0xFF#8)

/-- The pairs that a request touches. -/
def pairsOf (a n : Nat) : List Nat :=
  if n = 0 then [] else (List.range ((a + n - 1) / 64 - a / 64 + 1)).map (fun i => (a / 64 + i) * 64)

/-- The slots of the pairs of a request that are in repair. -/
def State.repairing (s : State) (a n : Nat) : List Nat :=
  uniq ((pairsOf a n).filterMap (fun b => s.stallSlot b))

/-- A write of the same unit to the same home, whose order a later one keeps (R178). -/
def MemReq.before (p q : MemReq) : Bool :=
  p.kind != .rd && q.kind != .rd && p.iss == q.iss && homeOf p.addr == homeOf q.addr

/-- Requests of a list that may be served, in their order, and those that stay: one waits on a pair in repair, or
behind an earlier write of its unit to its home (R178, R281). -/
def State.sortStalled (s : State) : List MemReq → List MemReq → List MemReq × List MemReq
  | [], stay => ([], stay)
  | q :: t, stay =>
    if (s.repairing q.addr q.len).isEmpty && !stay.any (fun p => p.before q) then
      let (go, rest) := s.sortStalled t stay
      (q :: go, rest)
    else s.sortStalled t (stay ++ [q])

/-- Stalled requests whose pairs are free again are served, oldest first (R281). -/
def State.serveStalled (s : State) : State :=
  let (ready, stay) := s.sortStalled s.mm.stalled []
  ready.foldl (fun s q => s.serveReq q) { s with mm := { s.mm with stalled := stay } }

/-- A write that waits for a pair which a later whole write replaces: it is applied before that write, so that the
later one wins (R179); an add to the pair adds to nothing that stays, and is acknowledged. -/
def State.beforeWhole (s : State) (ks : List Nat) : State :=
  let old (q : MemReq) : Bool := q.kind != .rd && (s.repairing q.addr q.len).all (fun k => ks.contains k)
  let go := s.mm.stalled.filter old
  let s := { s with mm := { s.mm with stalled := s.mm.stalled.filter (fun q => !old q) } }
  go.foldl (fun s q => if q.kind == .wr then s.serveReq q else s.sendAck q.addr q.iss) s

/-- Append a request to the ordinary requests of a channel. -/
def State.pushOrd (s : State) (st ch : Nat) (q : MemReq) : State :=
  s.modChan st ch (fun c => { c with ord := c.ord ++ [.req q] })

/-- The channel of a stack in which a write of the same unit to the same home waits for a boundary. -/
def State.ordBehind (s : State) (st : Nat) (q : MemReq) : Option Nat :=
  (List.range 32).find? (fun ch => (s.chan st ch).ord.any (fun x => match x with
    | .req p => p.before q
    | .scrub => false))

/-- A request to a stack that no pair in repair holds: of a stepping bank it waits for a boundary (R86, R91), and so
does a write behind an earlier one of its unit that waits there (R178). -/
def State.atStack (s : State) (st : Nat) (q : MemReq) : State :=
  match s.ordBehind st q with
  | some ch => s.pushOrd st ch q
  | none => if s.stepping q.addr then s.pushOrd st (stackPos q.addr).ch q else s.serveReq q

/-- Past the regulator: a request to a pair in repair waits or, as a clean full-pair write, completes the
repair (R281); one behind an earlier write of its unit to its home waits with it (R178); a request to a stepping
bank waits for a boundary (R91); else it is served. -/
def State.atHome (s : State) (q : MemReq) : State :=
  let ks := s.repairing q.addr q.len
  let under (p : MemReq) : Bool := fullPairs q && (s.repairing p.addr p.len).all (fun k => ks.contains k)
  if s.mm.stalled.any (fun p => p.before q && !under p) then { s with mm := { s.mm with stalled := s.mm.stalled ++ [q] } }
  else match ks with
  | [] => match regionOf q.addr with
    | .stack st => s.atStack st q
    | _ => s.serveReq q
  | ks =>
    if fullPairs q && ks.all (fun k => (s.slot k).st != 5) then
      (ks.foldl (fun s k => s.repairDone k 3) ((s.beforeWhole ks).serveReq q)).serveStalled
    else { s with mm := { s.mm with stalled := s.mm.stalled ++ [q] } }

/-- A request reaches its home: without an answer it ends (R255); it takes its credits or waits for them
(R268). -/
def State.request (s : State) (q : MemReq) : State :=
  match s.noAnswer q.addr with
  | some d => match q.iss with
    | .task t => s.noAnswerTask t d
    | _ => s.bump .memNoAnswer 0 1
  | none =>
    let h := homeOf q.addr
    match s.chargedPart q with
    | none => s.atHome q
    | some p =>
      let b := s.bucket h p
      if !b.enable || 20 ≤ h then s.atHome q
      else if b.wait.isEmpty && b.debt = 0 && creditsOf q.len ≤ b.level then
        (s.setBucket h p { b with level := b.level - creditsOf q.len }).atHome q
      else s.setBucket h p { b with wait := b.wait ++ [q] }

/-- HOME_READ (R178, R262, R266). -/
def execHomeRead (iss : Issuer) (addr : Nat) (len : Nat) (s : State) : Host.Outcome State Fault Refusal :=
  .next (s.request ⟨iss, .rd, addr, len, [], [], false, none⟩)

/-- MEMORY_ADD (R187, R267). -/
def execMemoryAdd (iss : Issuer) (addr : Nat) (etype : BitVec 5) (data : List Byte) (poison : Bool)
    (s : State) : Host.Outcome State Fault Refusal :=
  .next (s.request ⟨iss, .add etype, addr, data.length, data, [], poison, none⟩)

/-- Take the first read response of an issuer. -/
def takeRead (i : Issuer) : List ReadData → Option (ReadData × List ReadData)
  | [] => none
  | r :: t => if r.iss = i then some (r, t) else (takeRead i t).map (fun p => (p.1, r :: p.2))

/-- A read response reaches its issuer: a core takes the data, or an access fault for poison (R275); a
descriptor that consumed poison is marked (R155). -/
def State.readBack (s : State) (i : Issuer) : State :=
  match takeRead i s.mm.reads with
  | none => s
  | some (r, t) =>
    let s := { s with mm := { s.mm with reads := t } }
    match i with
    | .core h =>
      if r.bad then { s with io := { s.io with fault := true, faultHart := h.val } }
      else { s with io := { s.io with rdata := r.data, fault := false } }
    | .task k => if r.bad then s.modTask k (fun v => { v with poison := true, everPoison := true }) else s
    | _ => s

/-- READ_RESPONSE (R262). -/
def execReadResponse (iss : Issuer) (s : State) : Host.Outcome State Fault Refusal := .next (s.readBack iss)

/-- WCB_FLUSH (R266); a line of a stepping bank is written before the bank's next SACT (R86, log entry 106). -/
def execWcbFlush (home : Home) (base : Nat) (s : State) : Host.Outcome State Fault Refusal :=
  .next (if s.stepping base then s else s.flushBase home.val base)

/-- Serve waiting requests, oldest first, while the bucket holds their credits (R268). -/
def drainWait : Nat → List MemReq → Nat × List MemReq × List MemReq
  | lv, [] => (lv, [], [])
  | lv, q :: t =>
    if creditsOf q.len ≤ lv then
      let (l, go, stay) := drainWait (lv - creditsOf q.len) t
      (l, q :: go, stay)
    else (lv, [], q :: t)

/-- Clocks in which a request of a bucket waited up to this refill: the 16 since the last one where one waited through it,
else a free number of them (R270; log entry 93). -/
def State.waitClocks (s : State) (b : Bucket) : State × Nat :=
  if b.wait.isEmpty then (s, 0)
  else if b.held then (s, 16)
  else
    let (s, w) := s.draw
    (s, 1 + w.toNat % 16)

/-- A refill of a bucket, taken before requests of the same clock: it pays what is owed first (R268). -/
def State.refill (s : State) (h p : Nat) : State :=
  let b := s.bucket h p
  if !b.enable then s
  else
    let (s, n) := s.waitClocks b
    let (lv, go, stay) := drainWait (min b.burst (b.level + (b.rate - b.debt))) b.wait
    let v : Bucket := { b with level := lv, debt := b.debt - b.rate, wait := stay, held := !stay.isEmpty,
                               waited := min (2 ^ 48 - 1) (b.waited + n) }
    go.foldl (fun s q => s.atHome q) (s.setBucket h p v)

/-- CREDIT_REFILL (R268). -/
def execCreditRefill (home : Fin 20) (p : Fin 16) (s : State) : Host.Outcome State Fault Refusal :=
  .next (s.refill home.val p.val)

/-- A write of MEM_REG_CFG to the bucket that MEM_REG_SEL names: clamped, and filled when it becomes
enabled; a disabled bucket lets its queue go (R268, R270). -/
def State.regulator (s : State) (v : Word) : State :=
  let p := s.fld .memRegSel 0 3 0
  let h := s.fld .memRegSel 0 8 4
  if 20 ≤ h then s
  else
    let b := s.bucket h p
    let en := wbit v 32
    let burst := max 16 (wb v 31 16)
    let lv := if en && !b.enable then burst else min burst b.level
    let s' := s.setBucket h p { b with rate := min 1280 (wb v 15 0), burst := burst, enable := en, level := lv,
                                       wait := if en then b.wait else [], debt := if en && b.enable then b.debt else 0 }
    if en then s' else b.wait.foldl (fun s q => s.atHome q) s'

/-- REGULATOR_CONFIG_WRITE (R268, R270). -/
def execRegulatorConfigWrite (v : Word) (s : State) : Host.Outcome State Fault Refusal :=
  .next (s.regulator v)

/-- The selected bucket's MEM_REG_WAIT (R270). -/
def State.waitView (s : State) : Nat :=
  if 20 ≤ s.fld .memRegSel 0 8 4 then 0 else (s.bucket (s.fld .memRegSel 0 8 4) (s.fld .memRegSel 0 3 0)).waited

/-- A read of MEM_REG_WAIT clears the selected bucket's count but for events of the same clock (R8, R270). -/
def State.clearWait (s : State) (late : Nat) : State :=
  let h := s.fld .memRegSel 0 8 4
  let p := s.fld .memRegSel 0 3 0
  if 20 ≤ h then s else s.setBucket h p { s.bucket h p with waited := late % 2 ^ 48 }

/-- HEATH_REFRESH_DUE (R259): a refresh changes no state that the manual names. -/
def execHeathRefreshDue (_dev : Fin 32) (s : State) : Host.Outcome State Fault Refusal := .next s

/-- The first stalled read of an issuer, and the rest. -/
def takeStall (i : Issuer) : List MemReq → Option (MemReq × List MemReq)
  | [] => none
  | q :: t => if q.iss = i then some (q, t) else (takeStall i t).map (fun p => (p.1, q :: p.2))

/-- A request stalled on a pair in repair reaches the stall limit: a read is answered as poisoned and its
consumer joins the slot (R281); a partial write leaves the pair poisoned (DEDUCED, log entry 10). Where the accesses that
wait are those of a descriptor's work, it goes on so (log entry 10). -/
def State.stallOver (s : State) (i : Issuer) : State :=
  match takeStall i s.mm.stalled with
  | none => match i with
    | .task t => s.modTask t (fun k => if k.phase = .running then { k with expired := true } else k)
    | _ => s
  | some (q, t) =>
    let s := { s with mm := { s.mm with stalled := t } }
    match q.kind with
    | .rd =>
      let s := (pairsOf q.addr q.len).foldl (fun s b => if s.inRepair b then s.reportBad i false b .uncorrectable else s) s
      { s with mm := { s.mm with reads := s.mm.reads ++ [⟨i, List.replicate q.len 0#8, true⟩] } }
    | _ =>
      ((unitsOf q.addr q.len).foldl (fun s u => s.writePoison u) s).sendAck q.addr i

/-- REPAIR_STALL_TIMEOUT (R281). -/
def execRepairStallTimeout (iss : Issuer) (s : State) : Host.Outcome State Fault Refusal :=
  .next (s.stallOver iss)

end Sys2Proof.Machine
end

