-- ==== Sys2Proof/Machine/Flags.lean ====
section
/-! DEFINITION. The flags of a bank processing unit and how they are set: the status word of R84, the
register and accumulator poison flags of R70, the malformed and conflict cases of R81. -/
namespace Sys2Proof.Machine

/-- Bits of the status word (R84). -/
def stPoison : Nat := 0
def stConflict : Nat := 1
def stMalformed : Nat := 2
def stActive : Nat := 3

/-- Set or clear a bit of the status word. -/
def Bank.setStatus (b : Bank) (n : Nat) (v : Bool) : Bank :=
  { b with status := wput b.status n n (b2n v) }

/-- Add to a 16-bit count of the status word, which stops at all ones. -/
def Bank.addStatus (b : Bank) (hi lo n : Nat) : Bank :=
  { b with status := wput b.status hi lo (min 65535 (wb b.status hi lo + n)) }

/-- Whether a register is poisoned. -/
def Bank.regBad (b : Bank) (r : Nat) : Bool := b.rp.getLsbD r

/-- Set or clear the poison flag of a register. -/
def Bank.setRp (b : Bank) (r : Nat) (v : Bool) : Bank :=
  { b with rp := if v then b.rp ||| (1#16 <<< r) else b.rp &&& ~~~(1#16 <<< r) }

/-- A bank register. -/
def Bank.reg (b : Bank) (r : Nat) : BitVec 1024 := mapGet (fun _ => 0#1024) b.bk r

/-- Set a bank register. -/
def Bank.setReg (b : Bank) (r : Nat) (v : BitVec 1024) : Bank :=
  { b with bk := mapSet (fun _ => 0#1024) b.bk r v }

/-- The stack controller raises its stack's internal-error source: a log entry of kind internal, whose
cause code the manual does not number (log entry 11). -/
def State.stackInternal (s : State) (st : Nat) : State :=
  let (s, w) := s.draw
  s.logE { kind := 0x0A, island := 52 + st, detail := w.toNat }

/-- A malformed command: ignored in the banks given, their malformed flags set and counted (R81). -/
def State.bpuMalformed (s : State) (st ch : Nat) (bs : List Nat) : State :=
  if bs.isEmpty then s
  else
    let s := bs.foldl (fun s b => s.modBank st ch b (fun v => v.setStatus stMalformed true)) s
    (s.bump .stkBpuConf st bs.length).stackInternal st

/-- Rows b of a pass configuration, 1–4. -/
def cfgRows (c : BitVec 26) : Nat := (c.extractLsb' 7 2).toNat + 1

/-- Poison the running sums of row r: both registers of its pair. -/
def Bank.poisonRow (b : Bank) (r : Nat) : Bank := (b.setRp (4 + 2 * r) true).setRp (5 + 2 * r) true

/-- Whether a pass is active in a bank. -/
def Bank.active (b : Bank) : Bool := wbit b.status stActive

/-- The banks of the bank set in which a pass is active. -/
def State.activeSet (s : State) (st ch : Nat) : List Nat := (s.setOf st ch).filter (fun b => (s.bank st ch b).active)

/-- The banks of the bank set in which none is. -/
def State.freeSet (s : State) (st ch : Nat) : List Nat := (s.setOf st ch).filter (fun b => !(s.bank st ch b).active)

/-- Apply a change to each bank of a list. -/
def State.onBanks (s : State) (st ch : Nat) (bs : List Nat) (f : Bank → Bank) : State :=
  bs.foldl (fun s b => s.modBank st ch b f) s

/-- What a conflicting command leaves in a bank: the conflict flag, and the active pass's accumulators and the sums
they feed poisoned (R81, R84). -/
def conflictBank (rows : Nat) (v : Bank) : Bank :=
  let v := { (v.setStatus stConflict true) with ap := 3#2 }
  (List.range rows).foldl (fun v r => v.poisonRow r) v

/-- A command that conflicts with the active pass of the banks given: ignored there, and counted (R81). -/
def State.bpuConflict (s : State) (st ch : Nat) (bs : List Nat) : State :=
  if bs.isEmpty then s
  else ((s.onBanks st ch bs (conflictBank (cfgRows (s.chan st ch).pcfg))).bump .stkBpuConf st bs.length).stackInternal st

end Sys2Proof.Machine
end

