-- ==== Sys2Proof/Machine/Mac.lean ====
section
/-! DEFINITION. Multiply-accumulate: operand pairs (R50, R51), the accumulation orders of R40 (arrays) and
R41 (banks), and how a block partial is scaled and added (R52, R69, R77). -/
namespace Sys2Proof.Machine

/-- Operand pairs that the arrays and the banks accept (R51). -/
def pairOk (a b : EType) : Bool :=
  let big (t : EType) : Bool := match t with
    | .fp32 | .int32 | .int64 => true
    | _ => false
  !big a && !big b && (a == .tern || b == .tern || (a.isFloat && b.isFloat) || (a.isInt && b.isInt))

/-- Rate class of an operand type in MACs per lane per ac (R50). -/
def rateClass : EType → Nat
  | .tern => 16
  | .fp4 | .int4 => 8
  | .e4m3 | .e5m2 | .int8 => 2
  | _ => 1

/-- How a lane accumulates a pair. -/
inductive AccMode where
  | plainF               -- no scales: FP32, each product added with RNE
  | plainI               -- unscaled integers: INT32 with saturation
  | exact                -- block sum exact, scaled and rounded once
  | part32               -- block partial in FP32, each product added with RNE
  deriving DecidableEq, Repr

/-- An operand of a product: its type and whether it is block-scaled. -/
structure OpTy where
  t : EType
  scaled : Bool
  deriving DecidableEq, Repr

/-- Neither operand is a floating-point type; a ternary × ternary pair is always scaled. -/
def intPair (a b : OpTy) : Bool := !a.t.isFloat && !b.t.isFloat

/-- BF16 and FP16. -/
def wide16 (t : EType) : Bool := t == .bf16 || t == .fp16

/-- The mode of a pair on the arrays (R40, R52): unscaled FP8 pairs add each exact product in FP32. -/
def arrayMode (a b : OpTy) : AccMode :=
  if a.scaled || b.scaled then
    if wide16 a.t || wide16 b.t then .part32 else .exact
  else if intPair a b then .plainI else .plainF

/-- The mode of a pair in the banks (R41, R69). -/
def bankMode (a b : OpTy) : AccMode :=
  if a.scaled || b.scaled then if intPair a b then .exact else .part32
  else if intPair a b then .plainI else .plainF

/-- The block unit along K: the shorter of the block lengths of the scaled operands (R40); 0 where none
is scaled. -/
def blockUnit (a b : OpTy) : Nat :=
  if a.scaled && b.scaled then Nat.min a.t.blockLen b.t.blockLen
  else if a.scaled then a.t.blockLen
  else if b.scaled then b.t.blockLen
  else 0

/-- A lane's accumulators. -/
structure AccSt where
  run : BitVec 32
  part : BitVec 32
  blk : FV
  sat : Nat
  deriving DecidableEq, Repr

/-- Exact zero. -/
def FV.zero : FV := .fin false 0 1 0

/-- Accumulators cleared. -/
def AccSt.zero : AccSt := ⟨0, 0, FV.zero, 0⟩

/-- Add an exact integer to an INT32 accumulator with saturation (R39). -/
def satAdd32 (a : BitVec 32) (v : Int) : BitVec 32 × Bool :=
  let (x, f) := satInt 32 (a.toInt + v)
  (BitVec.ofInt 32 x, f)

/-- The integer value of a finite exact number without a fraction. -/
def FV.toInt : FV → Int
  | .fin s n d e => roundInt ⟨.rtz, 0⟩ s n d e
  | _ => 0

/-- Take in one exact product. -/
def AccSt.item (m : AccMode) (a : AccSt) (p : FV) : AccSt :=
  match m with
  | .plainF => { a with run := toF32 ((f32 a.run).add p) }
  | .plainI =>
    let (v, f) := satAdd32 a.run p.toInt
    { a with run := v, sat := a.sat + (if f then 1 else 0) }
  | .exact => { a with blk := a.blk.add p }
  | .part32 => { a with part := toF32 ((f32 a.part).add p) }

/-- End a block unit: the partial is multiplied by the scale product, rounded once and added. -/
def AccSt.fold (m : AccMode) (a : AccSt) (sc : FV) : AccSt :=
  match m with
  | .exact => { a with run := fadd a.run (toF32 (a.blk.mul sc)), blk := FV.zero }
  | .part32 => { a with run := fadd a.run (toF32 ((f32 a.part).mul sc)), part := 0 }
  | _ => a

/-- One term of a dot product: its position along K, its exact product and the scale product of its
block unit. -/
structure Term where
  k : Nat
  prod : FV
  sc : FV
  deriving DecidableEq, Repr

/-- Accumulate terms in ascending K; `u` is the block unit and `last` tells whether K ends at a position,
so that a partial block is folded. -/
def AccSt.terms (m : AccMode) (u kEnd : Nat) : AccSt → List Term → AccSt
  | a, [] => a
  | a, x :: t =>
    let a := a.item m x.prod
    let a := if u ≠ 0 ∧ ((x.k + 1) % u = 0 ∨ x.k + 1 = kEnd) then a.fold m x.sc else a
    AccSt.terms m u kEnd a t

end Sys2Proof.Machine
end

