-- ==== Sys2Proof/Machine/Banks.lean ====
section
/-! DEFINITION. Compute commands of a stack channel: BSET to HALT (R69–R84). -/
namespace Sys2Proof.Machine

/-! ## The weight expander (R72) -/

/-- Weight types that the expander takes. -/
def expands (t : EType) : Bool :=
  match t with
  | .fp32 | .int32 | .int64 => false
  | _ => true

/-- The pass configuration (R80 PCFG). -/
structure PassCfg where
  wt : EType
  form : EType             -- BF16, FP16 or INT16
  rows : Nat
  tagged : Bool            -- an FP4 weight with a tag plane; an INT4 weight never escapes (R73)
  ws : SType
  as : SType
  unit : Nat               -- block unit along K (R77); 0 where neither side is scaled
  deriving DecidableEq, Repr

/-- Read a pass configuration word; none where it is malformed (R81). The word does not tell a ternary activation
from one of block length 32: a scaled activation counts as one of 32 (DESIGN CHOICE, log entry 104). -/
def PassCfg.ofWord (w : BitVec 26) : Option PassCfg :=
  let v := w.toNat
  match EType.ofCode (bits v 4 0) with
  | none => none
  | some t =>
    if !expands t || bits v 6 5 = 3 || bits v 25 14 ≠ 0 then none
    else some
      { wt := t
        form := if bits v 6 5 = 0 then .bf16 else if bits v 6 5 = 1 then .fp16 else .int16
        rows := bits v 8 7 + 1
        tagged := bitOf v 9 && t == .fp4
        ws := if bitOf v 10 then (if bitOf v 11 then .e4m3 else .e8m0) else .none
        as := if bitOf v 12 then (if bitOf v 13 then .e4m3 else .e8m0) else .none
        unit := if bitOf v 12 then 32 else if bitOf v 10 then t.blockLen else 0 }

/-- Columns of the n-group (R72). -/
def groupWidth (t : EType) : Nat :=
  match t.width with
  | 16 => 16 | 8 => 32 | _ => 64

/-- K positions that one granule column holds. -/
def kPerGranule (t : EType) : Nat := if t = .tern then 2 else 1

/-- Scale granules of a row segment (R72). -/
def scaleGranules (t : EType) (tagged scaled : Bool) : Nat :=
  if !scaled then 0 else if (t == .fp4 || t == .int4) && !tagged then 4 else 2

/-- The weight code of column n at position j of a granule's data. -/
def granCode (t : EType) (data n j : Nat) : Nat :=
  let i := if t = .tern then 2 * n + j else n
  data / 2 ^ (i * t.width) % 2 ^ t.width

/-- Accumulation mode of a pass configuration (R69). -/
def PassCfg.mode (c : PassCfg) : AccMode := bankMode ⟨c.wt, c.ws != .none⟩ ⟨c.form, c.as != .none⟩

/-- Byte i of a bank register's 128 bytes. -/
def regByte (v : BitVec 1024) (i : Nat) : Nat := v.toNat / 2 ^ (8 * i) % 256

/-- Word i of 32 bits, and half-word i, of a bank register. -/
def regWord (v : BitVec 1024) (i : Nat) : BitVec 32 := v.extractLsb' (32 * i) 32
def regHalf (v : BitVec 1024) (i : Nat) : Nat := v.toNat / 2 ^ (16 * i) % 65536

/-- Replace word i of 32 bits. -/
def putWord (v : BitVec 1024) (i : Nat) (x : BitVec 32) : BitVec 1024 :=
  BitVec.ofNat 1024 (putBits v.toNat (32 * i + 31) (32 * i) x.toNat)

/-- A granule read by a BPU: its column, its data, and whether it was bad. -/
structure Gran where
  col : Nat
  data : Nat
  bad : Bool
  deriving DecidableEq, Repr

/-- Read one granule of the open row through the BPU's decoder, counting corrected and bad granules
(R83). A column past the row, for which the manual names no effect, gives a free value (log entry 2). -/
def State.bpuRead (s : State) (st ch b row col : Nat) : State × Gran :=
  if 64 ≤ col then
    let (s, w0) := s.draw
    let (s, w1) := s.draw
    let (s, w2) := s.draw
    let (s, w3) := s.draw
    (s, ⟨col, (w3 ++ w2 ++ w1 ++ w0).toNat, false⟩)
  else
  let (s, d) := s.loadUnit true (stackAddr st ch b row col)
  match d.outc with
  | .clean => (s, ⟨col, leNat d.data, false⟩)
  | .corrected => (s.modBank st ch b (fun v => v.addStatus 31 16 1), ⟨col, leNat d.data, false⟩)
  | _ =>
    let s := s.bump .stkBpuPois st 1
    (s.modBank st ch b (fun v => v.setStatus stPoison true), ⟨col, 0, true⟩)

/-- Read several granules of the open row. -/
def State.bpuReads (s : State) (st ch b row : Nat) (cols : List Nat) : State × List Gran :=
  cols.foldl (fun (p : State × List Gran) c =>
    let (s, g) := p.1.bpuRead st ch b row c
    (s, p.2 ++ [g])) (s, [])

/-! ## A MAC pass in one bank (R77) -/

/-- The operand fields of MPASS (R80), and where the row stands in its slice. -/
structure PassWord where
  c0 : Nat
  n : Nat
  slot : Nat
  tag : Nat
  half : Nat
  k0 : Nat := 0            -- K positions of the slice before this row
  kEnd : Nat := 0          -- K positions of the slice; 0 where the row ends on a block unit
  seed : Nat := 0          -- free value for the scales of a slot that no register holds
  deriving DecidableEq, Repr

/-- Read an MPASS word. -/
def PassWord.of (w : BitVec 26) : PassWord :=
  let v := w.toNat
  { c0 := bits v 5 0, n := bits v 12 6, slot := bits v 14 13, tag := bits v 18 15, half := bits v 19 19 }

/-- The tags of the pass's tag slot (R71, R73). -/
def Bank.tags (b : Bank) (p : PassWord) : Nat := (b.reg 15).toNat / 2 ^ (64 * p.tag) % 2 ^ 64

/-- Whether the row is an escape row (R73). -/
def Bank.escRow (b : Bank) (c : PassCfg) (p : PassWord) : Bool := c.tagged && decide (b.tags p ≠ 0)

/-- Row group in which an activation row steps (R77). -/
def PassCfg.group (c : PassCfg) (esc : Bool) (r : Nat) : Nat :=
  match groupWidth c.wt with
  | 64 => if esc then r / 2 else r
  | 32 => r / 2
  | _ => 0

/-- Number of row groups. -/
def PassCfg.groups (c : PassCfg) (esc : Bool) : Nat := c.group esc (c.rows - 1) + 1

/-- Whether a block unit spans more K positions than one load of activations holds (R77). -/
def PassCfg.spans (c : PassCfg) : Bool := decide (64 < c.unit)

/-- The accumulator word of row r, column n: groups use acc0 and acc1 in turn (R70). Where a block unit spans two
passes every row keeps its own partial between them, rows 2 and 3 in words 128 to 255 (log entry 19). -/
def PassCfg.accAt (c : PassCfg) (esc : Bool) (r n : Nat) : Nat :=
  match groupWidth c.wt with
  | 64 =>
    if esc then 64 * (n / 32) + 32 * (r % 2) + n % 32
    else if c.spans then 64 * r + n
    else 64 * (r % 2) + n
  | 32 => 64 * (r / 2 % 2) + 32 * (r % 2) + n
  | _ => 16 * r + n

/-- The accumulator sets of a row group. -/
def PassCfg.sets (c : PassCfg) (esc : Bool) (g : Nat) : List Nat :=
  if esc then [0, 1] else if groupWidth c.wt = 16 then [0] else [g % 2]

/-- Position along K, from the slice's first, of the first element of a granule column. -/
def PassWord.kAt (p : PassWord) (c : PassCfg) (col : Nat) : Nat := p.k0 + col * kPerGranule c.wt

/-- Block unit of a granule column. -/
def PassWord.unitOf (p : PassWord) (c : PassCfg) (col : Nat) : Nat := if c.unit = 0 then 0 else p.kAt c col / c.unit

/-- A step of a pass: its row group, its half of an escape row's columns, and its granule column. -/
structure Step where
  grp : Nat
  half : Nat
  col : Nat
  deriving DecidableEq, Repr

/-- The steps of a pass in their order (R72, R77): block units, row groups, columns, and in an escape row the two halves
of its columns. A ternary granule is read once for its two steps. -/
def PassCfg.steps (c : PassCfg) (p : PassWord) (esc : Bool) : List Step :=
  let cols := (List.range p.n).map (· + p.c0)
  (uniq (cols.map (p.unitOf c))).flatMap (fun u => (List.range (c.groups esc)).flatMap (fun g =>
    (cols.filter (fun x => p.unitOf c x = u)).flatMap (fun x =>
      (if esc then [0, 1] else [0]).map (fun h => ⟨g, h, x⟩))))

/-- What one step read: its granule, the low plane's code granule, and whether either was bad. -/
structure Stepped where
  step : Step
  data : Nat
  low : Nat
  bad : Bool
  deriving DecidableEq, Repr

/-- Read what one step takes from the open row: in an escape row the low plane's granule too (R73). -/
def State.bpuStep (s : State) (st ch b row : Nat) (esc : Bool) (x : Step) : State × Stepped :=
  let (s, g) := s.bpuRead st ch b row x.col
  if esc && decide (x.col < 32) then
    let (s, l) := s.bpuRead st ch b row (x.col + 32)
    (s, ⟨x, g.data, l.data, g.bad || l.bad⟩)
  else (s, ⟨x, g.data, 0, g.bad⟩)

/-- The scale register that a pass reads (R71): slot k begins at granule k × sg of bk12, bk13 (DEDUCED, log entry 12). -/
def scaleRegs (c : PassCfg) (p : PassWord) : List Nat :=
  let r := 12 + p.slot * scaleGranules c.wt c.tagged true / 4
  if c.ws = .none ∨ 13 < r then [] else [r]

/-- The scale of column n for a weight block of the row segment. Slots past bk13 name no register: their scales are free
values (log entry 12). -/
def Bank.wScale (b : Bank) (c : PassCfg) (p : PassWord) (n unit : Nat) : FV :=
  if c.ws = .none then .fin false 1 1 0
  else
    let i := p.slot * scaleGranules c.wt c.tagged true * 32 + unit * groupWidth c.wt + n
    decodeScale c.ws (if i < 256 then regByte (b.reg (12 + i / 128)) (i % 128) else (Config.freeScale p.seed i).toNat)

/-- The activation scale of row r for half u of the 64 positions loaded (R71). -/
def Bank.aScale (b : Bank) (c : PassCfg) (r u : Nat) : FV :=
  if c.as = .none then .fin false 1 1 0 else decodeScale c.as (regByte (b.reg 14) (2 * r + u))

/-- The weight value of column n at position j of a granule (R72, R73). -/
def weightVal (c : PassCfg) (tags : Nat) (g : Stepped) (n j : Nat) : FV :=
  let code := granCode c.wt g.data n j
  if c.tagged && bitOf tags n then decodeElt .e4m3 (code * 16 + granCode .fp4 g.low n 0) else decodeElt c.wt code

/-- The terms of row r, column n over the steps of a pass. -/
def passTerms (b : Bank) (c : PassCfg) (p : PassWord) (esc : Bool) (gs : List Stepped) (r n : Nat) : List Term :=
  let tags := b.tags p
  let mine := gs.filter (fun g => g.step.grp == c.group esc r && g.step.half == (if esc then n / 32 else 0))
  mine.flatMap (fun g => (List.range (kPerGranule c.wt)).map (fun j =>
    let k := g.step.col * kPerGranule c.wt + j
    let ai := if c.tagged then 32 * p.half + k % 32 else k % 64
    let a := decodeElt c.form (regHalf (b.reg r) ai)
    ⟨p.k0 + k, (weightVal c tags g n j).mul a,
      (b.wScale c p n (k / (if c.wt = .tern then 128 else 32))).mul (b.aScale c r (ai / 32))⟩))

/-- Whether a pass begins inside a block unit. -/
def PassWord.inside (p : PassWord) (c : PassCfg) : Bool := decide (c.unit ≠ 0 ∧ p.kAt c p.c0 % c.unit ≠ 0)

/-- Accumulators with which row r, column n starts: the running sum, and the partial that stayed in the
accumulator set where the pass begins inside a block unit. -/
def startAcc (b : Bank) (c : PassCfg) (p : PassWord) (esc : Bool) (r n : Nat) : AccSt :=
  let run := regWord (b.reg (4 + 2 * r + n / 32)) (n % 32)
  let acc := mapGet (fun _ => 0#32) b.acc (c.accAt esc r n)
  if p.inside c then
    match c.mode with
    | .exact => ⟨run, 0, FV.ofInt acc.toInt, 0⟩
    | _ => ⟨run, acc, FV.zero, 0⟩
  else ⟨run, 0, FV.zero, 0⟩

/-- What the accumulator set shows after a pass. -/
def endAcc (c : PassCfg) (a : AccSt) : BitVec 32 :=
  match c.mode with
  | .exact => BitVec.ofInt 32 a.blk.toInt
  | .part32 => a.part
  | _ => a.run

/-- Run the pass for row r, column n. -/
def passLane (c : PassCfg) (p : PassWord) (esc : Bool) (gs : List Stepped) (v : Bank) (r n : Nat) : Bank :=
  let a := AccSt.terms c.mode c.unit p.kEnd (startAcc v c p esc r n) (passTerms v c p esc gs r n)
  let q := 4 + 2 * r + n / 32
  let v := v.setReg q (putWord (v.reg q) (n % 32) a.run)
  let v := { v with acc := mapSet (fun _ => 0#32) v.acc (c.accAt esc r n) (endAcc c a) }
  v.addStatus 47 32 a.sat

/-- Registers that a pass reads for every row: scales, activation scales, tags. -/
def passShared (c : PassCfg) (p : PassWord) : List Nat :=
  scaleRegs c p ++ (if c.as = .none then [] else [14]) ++ (if c.tagged then [15] else [])

/-- Whether the running sum of a row is poisoned. -/
def Bank.sumBad (v : Bank) (r : Nat) : Bool := v.regBad (4 + 2 * r) || v.regBad (5 + 2 * r)

/-- Whether a row group's accumulators consume poison (R83, R84): of a granule, of a register that the pass reads, of a
running sum that they are loaded from, or of a partial that stayed in them. -/
def groupBad (c : PassCfg) (p : PassWord) (esc : Bool) (gs : List Stepped) (v : Bank) (g : Nat) : Bool :=
  let rows := (List.range c.rows).filter (fun r => c.group esc r == g)
  gs.any (fun x => x.bad && x.step.grp == g) || (passShared c p).any (fun r => v.regBad r) ||
    rows.any (fun r => v.regBad r || (c.unit == 0 && v.sumBad r)) ||
    (p.inside c && (c.sets esc g).any (fun a => v.ap.getLsbD a))

/-- The accumulator poison flags after a pass: a set that starts a partial anew holds only the poison of this pass
(DEDUCED, log entry 105). -/
def passFlags (c : PassCfg) (esc : Bool) (bad : List Bool) (v : Bank) : BitVec 2 :=
  (List.range 2).foldl (fun (f : BitVec 2) a =>
    let gs := (List.range bad.length).filter (fun g => (c.sets esc g).contains a)
    if gs.isEmpty then f
    else if gs.any (fun g => bad.getD g false) then f ||| (1#2 <<< a) else f &&& ~~~(1#2 <<< a)) v.ap

/-- The whole pass in one bank: every row and column, then the poison (R83, R84). -/
def bankPass (c : PassCfg) (p : PassWord) (esc : Bool) (gs : List Stepped) (v : Bank) : Bank :=
  let bad := (List.range (c.groups esc)).map (groupBad c p esc gs v)
  let rows := List.range c.rows
  let sums := rows.any (fun r => v.sumBad r)
  let v' := rows.foldl (fun v r => (List.range (groupWidth c.wt)).foldl (fun v n => passLane c p esc gs v r n) v) v
  let v' := if esc then v'.addStatus 63 48 1 else v'
  let v' := rows.foldl (fun v r => if bad.getD (c.group esc r) false then v.poisonRow r else v) v'
  let v' := { v' with ap := passFlags c esc bad v }
  let v' := if bad.any id || sums then v'.setStatus stPoison true else v'
  v'.setStatus stActive true

/-! ## Commands -/

/-- Whether a pass is active on a channel. -/
def State.passOn (s : State) (st ch : Nat) : Bool := (s.chan st ch).pass.isSome

/-- Registers that the active pass reads or writes (R81). -/
def State.regsInUse (s : State) (st ch : Nat) : List Nat :=
  match (s.chan st ch).pass, PassCfg.ofWord (s.chan st ch).pcfg with
  | some w, some c => List.range c.rows ++ (List.range (2 * c.rows)).map (· + 4) ++ passShared c (PassWord.of w)
  | _, _ => []

/-- Do `f` in the banks of the set; where `hit`, only in those without an active pass, and the others take a
conflict (R81). -/
def State.unlessBusy (s : State) (st ch : Nat) (hit : Bool) (f : State → List Nat → State) : State :=
  if hit then (f s (s.freeSet st ch)).bpuConflict st ch (s.activeSet st ch) else f s (s.setOf st ch)

/-- BSET: set one quarter of the channel's bank set (R80). -/
def State.bsetCmd (s : State) (st ch : Nat) (w : BitVec 26) : State :=
  let q := bits w.toNat 17 16
  s.modChan st ch (fun c =>
    { c with bset := BitVec.ofNat 64 (putBits c.bset.toNat (16 * q + 15) (16 * q) (bits w.toNat 15 0)) })

def execBset (st : St) (ch : Ch) (w : BitVec 26) (s : State) : Host.Outcome State Fault Refusal :=
  .next (s.bsetCmd st.val ch.val w)

/-- PCFG: set the pass configuration (R80, R81). R70 lists no such state in a BPU: the channel keeps it (DESIGN CHOICE, log
entry 104). -/
def State.pcfgCmd (s : State) (st ch : Nat) (w : BitVec 26) : State :=
  match PassCfg.ofWord w with
  | none => s.bpuMalformed st ch (s.setOf st ch)
  | some _ =>
    if s.passOn st ch then s.bpuConflict st ch (s.activeSet st ch) else s.modChan st ch (fun c => { c with pcfg := w })

def execPcfg (st : St) (ch : Ch) (w : BitVec 26) (s : State) : Host.Outcome State Fault Refusal :=
  .next (s.pcfgCmd st.val ch.val w)

/-- One bank's pass: its granules are read in the order of its steps, and the low plane's in an escape row. A scale slot
that no register holds draws free scales. -/
def State.bankMpass (s : State) (st ch b : Nat) (c : PassCfg) (p : PassWord) (row : Nat) : State :=
  let p := { p with seed := s.free }
  let s := if c.ws ≠ .none ∧ (scaleRegs c p).isEmpty then { s with free := s.free + 1 } else s
  let esc := (s.bank st ch b).escRow c p
  let (s, gs) := (c.steps p esc).foldl (fun (q : State × List Stepped) x =>
    let (s, g) := q.1.bpuStep st ch b row esc x
    (s, q.2 ++ [g])) (s, [])
  s.modBank st ch b (bankPass c p esc gs)

/-- The banks of a set in the power window's waves: at most 32 of a channel step at once, in ascending order (R68, R89). -/
def wavesOf (bs : List Nat) : List (List Nat) := [bs.take 32, bs.drop 32].filter (fun l => !l.isEmpty)

/-- Run a pass in banks with an open row, wave by wave; each wave is a pass of its own (R89, R102). -/
def State.runPass (s : State) (st ch : Nat) (c : PassCfg) (p : PassWord) (w : BitVec 26) (bs : List Nat) : State :=
  let s := (wavesOf bs).foldl (fun s wave => wave.foldl (fun s b => match (s.bank st ch b).row with
    | some r => s.bankMpass st ch b c p r
    | none => s) s) s
  (s.modChan st ch (fun c => { c with pass := some w })).bump .stkPerfPass st (wavesOf bs).length

/-- Run a pass in the banks of the set with an open row; the others set their malformed flag (R81). -/
def State.openPass (s : State) (st ch : Nat) (c : PassCfg) (p : PassWord) (w : BitVec 26) : State :=
  let bs := s.setOf st ch
  let closed := bs.filter (fun b => (s.bank st ch b).row.isNone)
  let opened := bs.filter (fun b => (s.bank st ch b).row.isSome)
  (if opened.isEmpty then s else s.runPass st ch c p w opened).bpuMalformed st ch closed

/-- Whether an open row of the bank set holds a pair in repair whose stall limit has not passed (R281). -/
def State.markedSet (s : State) (st ch : Nat) : Bool :=
  (s.setOf st ch).any (fun b => match (s.bank st ch b).row with
    | some r => s.markedRow st ch b r
    | none => false) &&
  !(match (s.chan st ch).run.bind s.task with
    | some k => k.expired
    | none => false)

/-- MPASS: a MAC pass over the open row in every bank of the set (R77, R81). The pass stays active until
PASS_END; banks without an open row only set their malformed flag. While the channel pays its refresh debt no pass
is admitted (R93), and none starts over a row that holds a pair in repair (R281). -/
def State.mpassCmd (s : State) (st ch : Nat) (w : BitVec 26) : State :=
  let p := PassWord.of w
  let bs := s.setOf st ch
  match PassCfg.ofWord (s.chan st ch).pcfg with
  | none => s.bpuMalformed st ch bs
  | some c =>
    if p.n = 0 ∨ 64 < p.c0 + p.n then s.bpuMalformed st ch bs
    else if (s.chan st ch).stop || s.markedSet st ch then s
    else if s.passOn st ch then s.bpuConflict st ch (s.activeSet st ch)
    else
      s.openPass st ch c p w

def execMpass (st : St) (ch : Ch) (w : BitVec 26) (s : State) : Host.Outcome State Fault Refusal :=
  .next (s.mpassCmd st.val ch.val w)

/-- PASS_END: the scale unit has finished; the pass is no longer active (R78). -/
def State.passEndCmd (s : State) (st ch : Nat) : State :=
  (s.onBanks st ch (List.range 64) (fun v => v.setStatus stActive false)).modChan st ch (fun c => { c with pass := none })

def execPassEnd (st : St) (ch : Ch) (s : State) : Host.Outcome State Fault Refusal :=
  .next (s.passEndCmd st.val ch.val)

/-- Load granules of the open row into slots of a register of one bank (LPASS, FPASS). -/
def State.bankLoad (s : State) (st ch b row : Nat) (cols : List Nat) (r slot : Nat) : State :=
  let (s, gs) := s.bpuReads st ch b row cols
  s.modBank st ch b (fun v =>
    let x := (List.range gs.length).foldl (fun (x : Nat) i =>
      match gs[i]? with
      | some g => if g.bad then x else putBits x (256 * (slot + i) + 255) (256 * (slot + i)) g.data
      | none => x) (v.reg r).toNat
    let bad := gs.any (·.bad)
    let v := v.setReg r (BitVec.ofNat 1024 x)
    v.setRp r (bad || (v.regBad r && decide (gs.length < 4))))

/-- A command that reads or writes the open row of banks: those without one set their malformed flag (R81). -/
def State.onOpenRows (s : State) (st ch : Nat) (f : State → Nat → Nat → State) (bs : List Nat) : State :=
  let closed := bs.filter (fun b => (s.bank st ch b).row.isNone)
  let s := bs.foldl (fun s b => match (s.bank st ch b).row with
    | some r => f s b r
    | none => s) s
  s.bpuMalformed st ch closed

/-- LPASS (R80): 1–4 granules from the open row into a register. -/
def State.lpassCmd (s : State) (st ch : Nat) (w : BitVec 26) : State :=
  let v := w.toNat
  let c0 := bits v 5 0
  let n := bits v 7 6 + 1
  let r := bits v 11 8
  let slot := bits v 13 12
  if 4 < slot + n then s.bpuMalformed st ch (s.setOf st ch)
  else s.unlessBusy st ch ((s.regsInUse st ch).contains r) (fun s bs => s.onOpenRows st ch (fun s b row =>
    s.bankLoad st ch b row ((List.range n).map (fun i => c0 + i)) r slot) bs)

def execLpass (st : St) (ch : Ch) (w : BitVec 26) (s : State) : Host.Outcome State Fault Refusal :=
  .next (s.lpassCmd st.val ch.val w)

/-- Spill a register of one bank to four columns of a row through the encoder; a poisoned register is
written as the poison encoding (R84). -/
def State.bankSpill (s : State) (st ch b row c0 r : Nat) : State :=
  let v := s.bank st ch b
  (List.range 4).foldl (fun s i =>
    let u := stackAddr st ch b row (c0 + i)
    if v.regBad r then s.storePoison u
    else s.storeUnit u (leBytes 32 ((v.reg r).toNat / 2 ^ (256 * i)))) s

/-- SPASS (R80, R81): it reads its register and so meets no conflict. -/
def State.spassCmd (s : State) (st ch : Nat) (w : BitVec 26) : State :=
  let c0 := bits w.toNat 5 0
  let r := bits w.toNat 9 6
  if 60 < c0 then s.bpuMalformed st ch (s.setOf st ch)
  else s.onOpenRows st ch (fun s b row => s.bankSpill st ch b row c0 r) (s.setOf st ch)

def execSpass (st : St) (ch : Ch) (w : BitVec 26) (s : State) : Host.Outcome State Fault Refusal :=
  .next (s.spassCmd st.val ch.val w)

/-- FPASS (R80, R81). -/
def State.fpassCmd (s : State) (st ch : Nat) (w : BitVec 26) : State :=
  let c0 := bits w.toNat 5 0
  let r := bits w.toNat 9 6
  if 60 < c0 then s.bpuMalformed st ch (s.setOf st ch)
  else s.unlessBusy st ch ((s.regsInUse st ch).contains r) (fun s bs => s.onOpenRows st ch (fun s b row =>
    s.bankLoad st ch b row ((List.range 4).map (fun i => c0 + i)) r 0) bs)

def execFpass (st : St) (ch : Ch) (w : BitVec 26) (s : State) : Host.Outcome State Fault Refusal :=
  .next (s.fpassCmd st.val ch.val w)

/-- LDR (R79, R80): 1,024 bits from the pins into a register of every bank of the set. -/
def State.ldrCmd (s : State) (st ch : Nat) (w : BitVec 26) (pins : BitVec 1024) : State :=
  let r := bits w.toNat 3 0
  s.unlessBusy st ch ((s.regsInUse st ch).contains r) (fun s bs =>
    s.onBanks st ch bs (fun v => (v.setReg r pins).setRp r (bitOf w.toNat 4)))

def execLdr (st : St) (ch : Ch) (w : BitVec 26) (pins : BitVec 1024) (s : State) :
    Host.Outcome State Fault Refusal :=
  .next (s.ldrCmd st.val ch.val w pins)

/-- RDR (R80): one bank's register, with its poison flag, onto the data pins. -/
def State.rdrCmd (s : State) (st ch : Nat) (w : BitVec 26) : State :=
  let r := bits w.toNat 3 0
  let v := s.bank st ch (bits w.toNat 9 4)
  s.modChan st ch (fun c => { c with pins := (v.reg r).setWidth 8192, pinP := v.regBad r })

def execRdr (st : St) (ch : Ch) (w : BitVec 26) (s : State) : Host.Outcome State Fault Refusal :=
  .next (s.rdrCmd st.val ch.val w)

/-- Clear what an ACLR word names in one bank (R80): accumulator words 64 r + l belong to set r mod 2. The active bit shows
a pass that runs and stays while it does. -/
def bankClear (w : Nat) (v : Bank) : Bank :=
  let v := (setBits 16 (bits w 15 0)).foldl (fun v r => (v.setReg r 0).setRp r false) v
  let v := { v with acc := v.acc.filter (fun p => !(bitOf w 16 && decide (p.1 / 64 % 2 = 0) ||
    bitOf w 17 && decide (p.1 / 64 % 2 = 1))) }
  let v := { v with ap := v.ap &&& ~~~(BitVec.ofNat 2 (bits w 17 16)) }
  if bitOf w 18 then { v with status := BitVec.ofNat 64 (8 * b2n v.active) } else v

/-- ACLR (R80, R81). -/
def State.aclrCmd (s : State) (st ch : Nat) (w : BitVec 26) : State :=
  let v := w.toNat
  let hit := (s.regsInUse st ch).any (fun r => bitOf v r) || (s.passOn st ch && decide (bits v 17 16 ≠ 0))
  s.unlessBusy st ch hit (fun s bs => s.onBanks st ch bs (bankClear v))

def execAclr (st : St) (ch : Ch) (w : BitVec 26) (s : State) : Host.Outcome State Fault Refusal :=
  .next (s.aclrCmd st.val ch.val w)

/-- STAT (R80, R84): one bank's status word onto the data pins. -/
def State.statCmd (s : State) (st ch : Nat) (w : BitVec 26) : State :=
  let v := s.bank st ch (bits w.toNat 5 0)
  s.modChan st ch (fun c => { c with pins := v.status.setWidth 8192, pinP := false })

def execStat (st : St) (ch : Ch) (w : BitVec 26) (s : State) : Host.Outcome State Fault Refusal :=
  .next (s.statCmd st.val ch.val w)

/-- What HALT clears in one bank (R80): registers, accumulators and poison flags; the status word keeps
its counts and sticky flags (R84). -/
def bankHalt (v : Bank) : Bank :=
  { v with bk := [], acc := [], rp := 0, ap := 0, status := wput v.status 3 3 0 }

/-- HALT (R80–R82): the pass is over when no bank of the channel is left in it. -/
def State.haltCmd (s : State) (st ch : Nat) : State :=
  let s := s.eachBank st ch bankHalt
  if (List.range 64).any (fun b => (s.bank st ch b).active) then s else s.modChan st ch (fun c => { c with pass := none })

def execHalt (st : St) (ch : Ch) (_w : BitVec 26) (s : State) : Host.Outcome State Fault Refusal :=
  .next (s.haltCmd st.val ch.val)

/-- BPU_RESERVED_OPCODE (R80, R81). -/
def execBpuReservedOpcode (st : St) (ch : Ch) (_w : BitVec 32) (s : State) : Host.Outcome State Fault Refusal :=
  .next (s.bpuMalformed st.val ch.val (s.setOf st.val ch.val))

/-- COLUMN_RESERVED_OPCODE (R87): treated as malformed. -/
def execColumnReservedOpcode (st : St) (ch : Ch) (_w : BitVec 32) (s : State) :
    Host.Outcome State Fault Refusal :=
  .next (s.bpuMalformed st.val ch.val (s.setOf st.val ch.val))

end Sys2Proof.Machine
end

