-- ==== Sys2Proof/Machine/Entries.lean ====
section
/-! DEFINITION. Tensor entries: the fields of R121, where an element and its planes lie (R122–R124, R74,
R75), reading an entry of a context's table, and the checks of creation (R125–R134). -/
namespace Sys2Proof.Machine

/-! ## Fields (R121) -/

def teRank (e : List Word) : Nat := wb (wordAt e 0) 2 0
def teTypeCode (e : List Word) : Nat := wb (wordAt e 0) 7 3
def teType (e : List Word) : EType := (EType.ofCode (teTypeCode e)).getD .fp32
def teStypeCode (e : List Word) : Nat := wb (wordAt e 0) 12 8
def teStype (e : List Word) : SType := (SType.ofCode (teStypeCode e)).getD .none
def teBlockDim (e : List Word) : Nat := wb (wordAt e 0) 15 13
def teTagged (e : List Word) : Bool := wbit (wordAt e 0) 16
def teUse (e : List Word) : Nat := wb (wordAt e 0) 18 17
def teBound (e : List Word) : Bool := wbit (wordAt e 0) 19
def teIdxDim (e : List Word) : Nat := wb (wordAt e 0) 22 20
def tePadMode (e : List Word) : Nat := wb (wordAt e 0) 24 23
def teResident (e : List Word) : Bool := wbit (wordAt e 0) 25
def teHdr (e : List Word) : Bool := wbit (wordAt e 0) 26
def tePadBits (e : List Word) : Nat := wb (wordAt e 0) 63 32
def teBase (e : List Word) : Nat := wb (wordAt e 1) 39 0
def teRange (e : List Word) : Nat := wb (wordAt e 1) 55 40
def teScaleOff (e : List Word) : Nat := wb (wordAt e 2) 39 0
def teIndex (e : List Word) : Nat := wb (wordAt e 2) 55 40
def teLowOff (e : List Word) : Nat := wb (wordAt e 3) 39 0
def teSize (e : List Word) (d : Nat) : Nat := wb (wordAt e (4 + 2 * d)) 31 0
def tePadLo (e : List Word) (d : Nat) : Nat := wb (wordAt e (4 + 2 * d)) 47 32
def tePadHi (e : List Word) (d : Nat) : Nat := wb (wordAt e (4 + 2 * d)) 63 48
def teStride (e : List Word) (d : Nat) : Int := sext 48 (wb (wordAt e (5 + 2 * d)) 47 0)

/-- The dimensions of an entry, innermost first. -/
def teDims (e : List Word) : List Nat := List.range (teRank e)

/-- Unpadded sizes. -/
def teSizes (e : List Word) : List Nat := (teDims e).map (teSize e)

/-- Size of a dimension with its padding (R126). -/
def tePadded (e : List Word) (d : Nat) : Nat := teSize e d + tePadLo e d + tePadHi e d

/-- Whether the tensor has a scale plane. -/
def teScaled (e : List Word) : Bool := teStype e != .none

/-- Whether blocks may escape: an FP4 tensor with a tag plane (R34, R73). -/
def teEscapes (e : List Word) : Bool := teTagged e && teType e == .fp4

/-- The operand as the multiply-accumulate units see it. -/
def teOp (e : List Word) : OpTy := ⟨teType e, teScaled e⟩

/-- Product of a list of sizes. -/
def prodOf (l : List Nat) : Nat := l.foldl (fun a b => a * b) 1

/-- Linear position of coordinates in a shape, the first dimension innermost (R38, R123). -/
def linOf : List Nat → List Nat → Nat
  | n :: ns, c :: cs => c + n * linOf ns cs
  | _, _ => 0

/-- Coordinates of a linear position. -/
def coordsOf : List Nat → Nat → List Nat
  | [], _ => []
  | n :: ns, i => i % max n 1 :: coordsOf ns (i / max n 1)

/-- Replace an element of a list. -/
def setAt {α : Type} (l : List α) (i : Nat) (v : α) : List α := l.set i v

/-! ## Planes (R122–R124) -/

/-- The planes of a tensor. -/
inductive Plane where
  | elem | low | scale | tag
  deriving DecidableEq, Repr

/-- Sum of stride × coordinate, in elements. -/
def strideSum (e : List Word) (c : List Nat) : Int :=
  (teDims e).foldl (fun a d => a + teStride e d * (c.getD d 0 : Nat)) 0

/-- The shape of the blocks: size of block_dim replaced by its block count (R123). -/
def blockShape (e : List Word) : List Nat :=
  let l := (teType e).blockLen
  setAt (teSizes e) (teBlockDim e) ((teSize e (teBlockDim e) + l - 1) / l)

/-- Linear position of the block of an element. -/
def blockLin (e : List Word) (c : List Nat) : Nat :=
  linOf (blockShape e) (setAt c (teBlockDim e) (c.getD (teBlockDim e) 0 / (teType e).blockLen))

/-- Bytes of the scale plane. -/
def scaleBytes (e : List Word) : Nat := prodOf (blockShape e)

/-- First byte of the tag plane. -/
def tagOff (e : List Word) : Nat := teScaleOff e + 64 * ((scaleBytes e + 63) / 64)

/-- Width in bits of one item of a plane. -/
def planeWidth (e : List Word) (p : Plane) : Nat :=
  match p with
  | .elem | .low => (teType e).width
  | .scale => 8
  | .tag => 1

/-- Bit offset of an item in the range of a strided tensor. -/
def planeBit (e : List Word) (p : Plane) (c : List Nat) : Nat :=
  match p with
  | .elem => ((8 * teBase e : Nat) + ((teType e).width : Int) * strideSum e c).toNat
  | .low => ((8 * teLowOff e : Nat) + ((teType e).width : Int) * strideSum e c).toNat
  | .scale => 8 * (teScaleOff e + blockLin e c)
  | .tag => 8 * tagOff e + blockLin e c

/-! ## Bank-resident layout (R72, R74, R75) -/

/-- K positions of a row segment. -/
def segLen (t : EType) (esc : Bool) : Nat := if t = .tern then 128 else if esc then 32 else 64

/-- The placement figures of a bank-resident matrix over its region. -/
structure Layout where
  w : Nat                  -- n-group width
  p : Nat                  -- K positions of a row segment
  s : Nat                  -- K-split factor
  q : Nat                  -- row segments of a slice
  side : Nat               -- side rows of an n-group
  nst : Nat                -- S
  ct : Nat                 -- channels per stack
  cs : Nat                 -- channels per slice set
  sg : Nat                 -- scale granules of a row segment
  deriving DecidableEq, Repr

/-- The placement of an entry over its range's words. -/
def layoutOf (e rg : List Word) : Layout :=
  let t := teType e
  let esc := teEscapes e
  let s := 2 ^ rgKsplit rg
  let p := segLen t esc
  let q := (teSize e 1 + p * s - 1) / (p * s)
  let sg := scaleGranules t esc (teScaled e)
  let st := if s = 1 then 1 else max 1 (rgBrStacks rg).length
  let ct := (rgChanList rg).length / st
  ⟨groupWidth t, p, s, q, (q * sg + (q + 15) / 16 * 4 * b2n esc + 63) / 64, st, ct, max 1 (ct / s), sg⟩

/-- Number of n-groups. -/
def Layout.groups (l : Layout) (n : Nat) : Nat := (n + l.w - 1) / l.w

/-- Stack, channel, bank and first row of slice i of n-group g. -/
def Layout.place (l : Layout) (rg : List Word) (g i : Nat) : Nat × Nat × Nat × Nat :=
  let h := g / l.nst
  let (st, ch) := (rgChanList rg).getD (g % l.nst * l.ct + i * l.cs + h % l.cs) (0, 0)
  let bl := rgBankList rg
  let b := max 1 bl.length
  (st, ch, bl.getD (h / l.cs % b) 0, rgBaseRow rg + h / (l.cs * b) * (l.q + l.side))

/-- Bit address, counted from fabric-local address 0, of an item of a bank-resident matrix at column n
and position k of K. -/
def residentBit (e rg : List Word) (p : Plane) (n k : Nat) : Nat :=
  let l := layoutOf e rg
  let t := teType e
  let per := max 1 (l.q * l.p)
  let (st, ch, b, r0) := l.place rg (n / l.w) (k / per)
  let q := k % per / l.p
  let kk := k % l.p
  let x := n % l.w
  let col := kk / kPerGranule t
  let bit := (if t = .tern then 2 * x + kk % 2 else x) * t.width
  let side (byte : Nat) : Nat :=
    8 * (stackAddr st ch b (r0 + l.q + byte / 2048) (byte % 2048 / 32) + byte % 32)
  match p with
  | .elem => 8 * stackAddr st ch b (r0 + q) col + bit
  | .low => 8 * stackAddr st ch b (r0 + q) (col + 32) + bit
  | .scale => side (32 * l.sg * q + kk / t.blockLen * l.w + x)
  | .tag => side (32 * (l.q * l.sg) + 128 * (q / 16) + 8 * (q % 16) + x / 8) + x % 8

/-- The byte addresses of an item and its bit shift in the first byte. -/
def itemBytes (e rg : List Word) (p : Plane) (c : List Nat) : List Nat × Nat :=
  let w := planeWidth e p
  if teResident e then
    let b := residentBit e rg p (c.getD 0 0) (c.getD 1 0)
    ((List.range ((b % 8 + w + 7) / 8)).map (fun i => b / 8 + i), b % 8)
  else
    let b := planeBit e p c
    ((List.range ((b % 8 + w + 7) / 8)).map (fun i => rgAddr rg (b / 8 + i)), b % 8)

/-! ## Extents (R130) -/

/-- Lowest and highest byte offset of a strided plane at a base, of a tensor with elements. -/
def hullOf (e : List Word) (base : Nat) : Int × Int :=
  let w : Int := (teType e).width
  let lo := (teDims e).foldl (fun a d => a + min 0 (teStride e d * ((teSize e d : Nat) - 1 : Int))) 0
  let hi := (teDims e).foldl (fun a d => a + max 0 (teStride e d * ((teSize e d : Nat) - 1 : Int))) 0
  ((8 * (base : Int) + w * lo) / 8, (8 * (base : Int) + w * hi + w - 1) / 8)

/-- Whether the tensor has no elements (R126). -/
def teEmpty (e : List Word) : Bool := (teSizes e).any (· == 0)

/-- Byte intervals of the planes of a strided tensor with elements: element, low, scale, tag (R130); an
index tensor counts from its header. -/
def planeHulls (e : List Word) : List (Int × Int) :=
  let (lo, hi) := hullOf e (if teHdr e then teBase e + 64 else teBase e)
  let el : List (Int × Int) := [(if teHdr e then (teBase e : Int) else lo, hi)]
  let sb : Int := scaleBytes e
  let so : Int := teScaleOff e
  let tg : Int := tagOff e
  el ++ (if teTagged e then [hullOf e (teLowOff e)] else []) ++
    (if teScaled e then [(so, so + sb - 1)] else []) ++
    (if teTagged e then [(tg, tg + (sb + 7) / 8 - 1)] else [])

/-- Bytes that a bank-resident matrix takes lie inside its region when its last row does. -/
def residentFits (e rg : List Word) : Bool :=
  let l := layoutOf e rg
  let h := (l.groups (teSize e 0) + l.nst - 1) / l.nst
  let rows := (h + l.cs * max 1 (rgBankList rg).length - 1) / (l.cs * max 1 (rgBankList rg).length)
  decide (rows * (l.q + l.side) ≤ rgRows rg)

/-- Whether every byte lies in the range (R130). -/
def teInside (e rg : List Word) : Bool :=
  if teResident e then teEmpty e || residentFits e rg
  else if teHdr e && teEmpty e then decide (teBase e + 64 ≤ rgLen rg)
  else if teEmpty e then decide (teBase e ≤ rgLen rg)
  else (planeHulls e).all (fun h => decide (0 ≤ h.1 ∧ h.2 < (rgLen rg : Int)))

/-! ## Creation (R125–R134) -/

/-- Whether an entry is an index tensor as R131 demands. -/
def teIsIndex (e : List Word) : Bool :=
  teHdr e && decide (teRank e = 1 ∧ (teTypeCode e = 9 ∨ teTypeCode e = 10) ∧ teStride e 0 = 1 ∧ teUse e = 0 ∧
    tePadLo e 0 = 0 ∧ tePadHi e 0 = 0 ∧ teBase e % 64 = 0 ∧ teStypeCode e = 0) &&
    !teBound e && !teResident e

/-- Bits that R121 reserves, and the fields of unused dimensions, are 0. -/
def teReservedClear (e : List Word) : Bool :=
  decide (wb (wordAt e 0) 31 27 = 0 ∧ wb (wordAt e 1) 63 56 = 0 ∧ wb (wordAt e 2) 63 56 = 0 ∧
    wb (wordAt e 3) 63 40 = 0) &&
  (List.range 6).all (fun d => decide (wb (wordAt e (5 + 2 * d)) 63 48 = 0) &&
    (decide (d < teRank e) || decide (wordAt e (4 + 2 * d) = 0 ∧ wordAt e (5 + 2 * d) = 0)))

/-- Check 0x41. -/
def teMalformed (e : List Word) : Bool :=
  decide (teRank e = 0 ∨ 6 < teRank e ∨ teUse e = 3 ∨ teRank e ≤ teBlockDim e) ||
  (if teBound e then decide (teRank e ≤ teIdxDim e) else decide (teIdxDim e ≠ 0)) ||
  !teReservedClear e || (teHdr e && !teIsIndex e)

/-- Check 0x42. -/
def teBadType (e : List Word) : Bool :=
  match EType.ofCode (teTypeCode e), SType.ofCode (teStypeCode e) with
  | some t, some s => !scaleAllowed t s
  | _, _ => true

/-- Check 0x43. -/
def teBadPlane (e : List Word) : Bool :=
  ((teType e).mustScale && !teScaled e) || (teTagged e && !(teType e == .fp4 || teType e == .int4))

/-- Check 0x45. -/
def teBadLayout (e rg : List Word) : Bool :=
  if teResident e then
    decide (rgKind rg ≠ 2 ∨ teRank e ≠ 2 ∨ teBase e ≠ 0 ∨ teScaleOff e ≠ 0 ∨ teLowOff e ≠ 0 ∨ tePadMode e ≠ 0) ||
    teBound e || (teScaled e && decide (teBlockDim e ≠ 1)) ||
    (teDims e).any (fun d => decide (teStride e d ≠ 0 ∨ tePadLo e d ≠ 0 ∨ tePadHi e d ≠ 0))
  else decide (rgKind rg = 2)

/-- The size that means to the end of the range (R125). -/
def toEnd : Nat := 0xFFFFFFFF

/-- Check 0x46. -/
def teBadToEnd (e : List Word) : Bool :=
  (teDims e).any (fun d => decide (teSize e d = toEnd) &&
    (decide (d + 1 ≠ teRank e ∨ teStride e d = 0) || teResident e))

/-- The entry with another outermost size. -/
def teWithOuter (e : List Word) (n : Nat) : List Word :=
  let i := 4 + 2 * (teRank e - 1)
  setAt e i (wput (wordAt e i) 31 0 n)

/-- The largest size in 0..hi whose tensor lies in the range, by bisection; every smaller size with an
element lies in the range too. -/
def fitOuter (e rg : List Word) : Nat → Nat → Nat → Nat
  | 0, lo, _ => lo
  | k + 1, lo, hi =>
    if hi ≤ lo then lo
    else
      let m := (lo + hi + 1) / 2
      if teInside (teWithOuter e m) rg then fitOuter e rg k m hi else fitOuter e rg k lo (m - 1)

/-- The entry with its to-end size resolved (R125). -/
def teResolve (e rg : List Word) : List Word :=
  if teSize e (teRank e - 1) = toEnd then teWithOuter e (fitOuter e rg 33 0 0xFFFFFFFE) else e

/-- Check 0x47. -/
def teOverflow (e : List Word) : Bool :=
  (teDims e).any (fun d => decide (0xFFFFFFFE < tePadded e d)) ||
    decide (2 ^ 40 ≤ prodOf ((teDims e).map (tePadded e)))

/-- Elements per byte of a sub-byte type; 1 for the others. -/
def EType.perByte (t : EType) : Nat :=
  match t with
  | .fp4 | .int4 => 2
  | .tern => 4
  | _ => 1

/-- Check 0x48 (R127). -/
def teBadSubByte (e : List Word) : Bool :=
  let n := (teType e).perByte
  !teResident e && decide (1 < n) &&
    (decide (1 < teSize e 0 ∧ teStride e 0 ≠ 1) ||
     (teDims e).any (fun d => decide (0 < d ∧ 1 < teSize e d ∧ teStride e d % (n : Int) ≠ 0)))

/-- Whether a pad value is exactly representable in the element type (R129). -/
def padExact (e : List Word) : Bool :=
  let t := teType e
  let b := tePadBits e
  if t.isFloat then
    let v := decodeElt .fp32 b
    let (c, _) := convert t .rne v
    match v with
    | .nan => t.nanCode.isSome
    | .inf _ => t.infCode.isSome
    | _ => (decodeElt t c).eq v
  else
    let v := sext 32 b
    decide (intMin t.width ≤ v ∧ v ≤ intMax t.width)

/-- Check 0x49. -/
def teBadPad (e : List Word) : Bool :=
  let padded (d : Nat) : Bool := decide (0 < tePadLo e d + tePadHi e d)
  decide (tePadMode e = 3) || (decide (tePadMode e = 1) && !padExact e) ||
    (decide (tePadMode e = 2) && (teDims e).any (fun d => padded d && decide (teSize e d = 0))) ||
    (teScaled e && (decide (tePadMode e = 1) || padded (teBlockDim e))) || (teBound e && padded (teIdxDim e))

/-- Whether the tensor may be written. -/
def teWrites (e : List Word) : Bool := decide (teUse e = 1 ∨ teUse e = 2)

/-- Check 0x4B. -/
def teZeroStride (e : List Word) : Bool :=
  !teResident e && teWrites e && (teDims e).any (fun d => decide (1 < teSize e d ∧ teStride e d = 0))

/-- Insert a dimension by ascending stride magnitude, ties by ascending number. -/
def insertDim (e : List Word) (d : Nat) : List Nat → List Nat
  | [] => [d]
  | x :: t => if (teStride e d).natAbs < (teStride e x).natAbs then d :: x :: t else x :: insertDim e d t

/-- The overlap proof (R128). -/
def overlapFree (e : List Word) : Bool :=
  let ds := ((teDims e).filter (fun d => decide (1 < teSize e d))).foldl (fun l d => insertDim e d l) []
  (ds.foldl (fun (p : Bool × Nat) d =>
    let a := (teStride e d).natAbs
    (p.1 && decide (p.2 < a), p.2 + a * (teSize e d - 1))) (true, 0)).1

/-- Whether any two of a list of intervals meet. -/
def anyMeet : List (Int × Int) → Bool
  | [] => false
  | h :: t => t.any (fun g => decide (h.1 ≤ g.2 ∧ g.1 ≤ h.2)) || anyMeet t

/-- Check 0x4C. -/
def teOverlaps (e : List Word) : Bool :=
  !teResident e && teWrites e && (!overlapFree e || (!teEmpty e && anyMeet (planeHulls e)))

/-- Read words from a range: the words, and whether a granule was bad. -/
def State.rangeWords (s : State) (rg : List Word) (off n : Nat) : State × List Word × List (Nat × Outc) :=
  let (s, r) := s.readRun (rgAddr rg off) (8 * n)
  (s, wordsOf n r.data, r.bads)

/-- Whether a handle of a context is valid (R119). -/
def State.teValid (s : State) (x h : Nat) : Bool := mapGet (fun _ => false) s.sc.tens (65536 * x + h)

/-- Set the validity of a handle. -/
def State.setValid (s : State) (x h : Nat) (v : Bool) : State :=
  { s with sc := { s.sc with tens := mapSet (fun _ => false) s.sc.tens (65536 * x + h) v } }

/-- What a read of the tensor table finds: no valid entry, its words, or no answer from an island (R119, R255, R265). -/
inductive EntryRead where
  | absent
  | words (w : List Word)
  | gone (island : Nat)
  deriving DecidableEq, Repr

/-- The words that a read of the tensor table gives, none where it gives no entry. -/
def EntryRead.toWords : EntryRead → List Word
  | .words w => w
  | _ => []

/-- The island that left a read of the tensor table without an answer. -/
def EntryRead.island : EntryRead → Option Nat
  | .gone d => some d
  | _ => none

/-- The words of a valid entry, read from the table's memory (R119): absent where the handle is 0, not below the capacity or
not valid. Where the table's range is gone, the field has no answer (R265), nor has it from a home that is off (R255); both
count. A table granule that does not decode is reported by the field (log entry 13). -/
def State.entry (s : State) (x h : Nat) : State × EntryRead :=
  match s.ctx x with
  | none => (s, .absent)
  | some c =>
    if h = 0 ∨ cwTtCap c.cw ≤ h || !s.teValid x h then (s, .absent)
    else match s.range (cwTtRange c.cw) with
      | none => (s.bump .memNoAnswer 0 1, .gone (48 + c.field))
      | some rg =>
        let off := cwTtOff c.cw + 128 * h
        match s.noAnswer (rgAddr rg off) with
        | some d => (s.bump .memNoAnswer 0 1, .gone d)
        | none =>
          let (s, w, bads) := s.rangeWords rg off 16
          (s.reportBads (.service (Fin.ofNat 4 c.field)) false bads, .words w)

/-- The first failing check of a creation of R134, and the entry with its size resolved. -/
def State.creationCheck (s : State) (f x h : Nat) (e : List Word) : State × Nat × List Word :=
  match s.ctx x with
  | none => (s, 0x40, e)
  | some c =>
    if c.field ≠ f ∨ h = 0 ∨ cwTtCap c.cw ≤ h then (s, 0x40, e)
    else if teMalformed e then (s, 0x41, e)
    else if teBadType e then (s, 0x42, e)
    else if teBadPlane e then (s, 0x43, e)
    else match (if teRange e = 0 then none else s.range (teRange e)) with
      | none => (s, 0x44, e)
      | some rg =>
        let p := cwPart c.cw
        if (teUse e ≠ 1 && !rgRd rg p) || (teUse e ≠ 0 && !rgWr rg p) then (s, 0x44, e)
        else if teBadLayout e rg then (s, 0x45, e)
        else if teBadToEnd e then (s, 0x46, e)
        else
          let e := teResolve e rg
          if teOverflow e then (s, 0x47, e)
          else if teBadSubByte e then (s, 0x48, e)
          else if teBadPad e then (s, 0x49, e)
          else if !teInside e rg then (s, 0x4A, e)
          else if teZeroStride e then (s, 0x4B, e)
          else if teOverlaps e then (s, 0x4C, e)
          else if teBound e then
            let (s, i) := s.entry x (teIndex e)
            if !teIsIndex i.toWords || (teScaled e && teIdxDim e = teBlockDim e) || teResident e then (s, 0x4D, e) else (s, 0, e)
          else (s, 0, e)

end Sys2Proof.Machine
end

