-- ==== Sys2Proof/Machine/Operands.lean ====
section
/-! DEFINITION. Operand forms of task descriptors: views with padding and index binding (R129, R132),
element and block values (R26–R30, R34), reading operands through their homes with poison (R275, R276), and
storing outputs, converted, quantised or scattered (R32–R39, R104, R111, R133). -/
namespace Sys2Proof.Machine

/-- An operand: its entry, its range's words, and, where a dimension is bound, the data index of each view
index (none where it is out of range) with its poison (R132). -/
structure Opnd where
  e : List Word
  rg : List Word
  ids : List (Option Nat × Bool)
  deriving DecidableEq, Repr

/-- View size of a dimension for a reader: padded, or the count of the bound dimension (R129, R132). -/
def Opnd.dim (o : Opnd) (d : Nat) : Nat :=
  if teBound o.e ∧ d = teIdxDim o.e then o.ids.length else tePadded o.e d

/-- View size of a dimension for a writer: unpadded (R129). -/
def Opnd.wdim (o : Opnd) (d : Nat) : Nat :=
  if teBound o.e ∧ d = teIdxDim o.e then o.ids.length else teSize o.e d

/-- View shapes. -/
def Opnd.shape (o : Opnd) : List Nat := (teDims o.e).map o.dim
def Opnd.wshape (o : Opnd) : List Nat := (teDims o.e).map o.wdim

/-- What a view position addresses. -/
inductive Loc where
  | pad
  | skip (bad : Bool)
  | hit (c : List Nat) (bad : Bool)
  deriving DecidableEq, Repr

/-- Address one dimension: the coordinate, or none where it is a pad position. -/
def padCoord (e : List Word) (d i : Nat) : Option Nat :=
  let lo := tePadLo e d
  let n := teSize e d
  if lo ≤ i ∧ i < lo + n then some (i - lo)
  else if tePadMode e = 2 then some (if i < lo then 0 else n - 1)
  else none

/-- Resolve a view position; `pads` is false for a writer, which ignores padding. -/
def Opnd.loc (o : Opnd) (pads : Bool) (v : List Nat) : Loc :=
  let e := o.e
  let (x, bad) := if teBound e then o.ids.getD (v.getD (teIdxDim e) 0) (none, false) else (some 0, false)
  match x with
  | none => .skip bad
  | some xi =>
    let cs := (teDims e).map (fun d =>
      if teBound e ∧ d = teIdxDim e then some xi
      else if pads then padCoord e d (v.getD d 0) else some (v.getD d 0))
    if cs.all Option.isSome then .hit (cs.map (fun c => c.getD 0)) bad else .pad

/-! ## Reading -/

/-- The units that a descriptor has read, as their homes returned them. -/
abbrev Snap := SMap Got

/-- A byte of a snapshot and its poison. -/
def snapByte (m : Snap) (a : Nat) : Nat × Bool :=
  match optGet m (unitBase a) with
  | some g => ((g.data.getD (a - unitBase a) 0).toNat, g.bad)
  | none => (0, false)

/-- An item of `w` bits whose bytes lie at the addresses, `sh` bits into the first. -/
def snapItem (m : Snap) (as : List Nat) (sh w : Nat) : Nat × Bool :=
  let (v, bad) := as.foldr (fun a (p : Nat × Bool) =>
    let (b, k) := snapByte m a
    (b + 256 * p.1, k || p.2)) (0, false)
  (v / 2 ^ sh % 2 ^ w, bad)

/-- An access of an issuer found no answer (R255). -/
def State.noAnswerOf (s : State) (i : Issuer) (island : Nat) : State :=
  match i with
  | .task t => s.noAnswerTask t island
  | _ => s.bump .memNoAnswer 0 1

/-- The up links to a device that ordinary accesses use: the catch-up link is the mirror's while it is enabled
(R297, R308). -/
def State.peerLinks (s : State) (dev : Nat) : List Nat :=
  (s.upLinks dev).filter (fun l => !(s.flag .lnkMirCfg 0 0 && decide (l = s.fld .lnkMirCfg 0 7 5)))

/-- An access to a device that no link carries: where only the mirror's catch-up link reaches it, a descriptor ends
with resource-held and the link's number (R308), else it finds no answer at the I/O die of its own half (R193). -/
def State.noPeer (s : State) (i : Issuer) (f dev : Nat) : State :=
  match i, s.upLinks dev with
  | .task t, l :: _ => s.modTask t (fun k => k.fail 0x23 l)
  | _, _ => s.noAnswerOf i (iodOf f)

/-- The link that carries one access to a device: its home key modulo the count of links (R297). The manual lets
no module see a peer's layout, so that the key is free (log entry 25). -/
def State.pickLink (s : State) (ls : List Nat) : State × Nat :=
  let (s, w) := s.draw
  (s, ls.getD (w.toNat % max 1 ls.length) 0)

/-- A request to a device leaves over a link and is outstanding until the peer answers (R192, R264). -/
def State.sendPeer (s : State) (l : Nat) (r : Remote) : State :=
  let s := s.sendFlit l
  { s with lk := { s.lk with remote := s.lk.remote ++ [{ r with link := l }] } }

/-- Count one more answer that a descriptor waits for before it can commit. -/
def State.owe (s : State) (i : Issuer) : State :=
  match i with
  | .task t => s.setAcks (16 + t) (s.acksOf (16 + t) + 1)
  | _ => s

/-- A descriptor's reads through one range of a peer are outstanding until the peer has answered: it may refuse them, or
flag poison (R264, R276). The model lets one answer stand for those of a range that are outstanding together (log
entry 7). -/
def State.readPeer (s : State) (i : Issuer) (dev o : Nat) : State :=
  match i with
  | .task _ =>
    if s.lk.remote.any (fun r => r.iss == i && r.isRead && decide (r.dev = dev ∧ r.addr / 2 ^ 40 = o / 2 ^ 40)) then s
    else
      let (s, l) := s.pickLink (s.peerLinks dev)
      (s.owe i).sendPeer l ⟨i, l, dev, true, s.free, o, 32, [], []⟩
  | _ => s

/-- Read one unit for an issuer of field f: a peer's bytes are free (log entry 7), a home that does not
answer ends the issuer, a bad unit is reported, and a unit in a pass or a pair in repair makes the work wait (R12, R91,
R281). -/
def State.fetchUnit (s : State) (i : Issuer) (f : Nat) (audit : Bool) (u : Nat) : State × Got :=
  let none' : Got := ⟨List.replicate 32 0#8, false, .clean, 0⟩
  if peerSpace ≤ u then
    let dev := (u - peerSpace) / 2 ^ 56
    if (s.peerLinks dev).isEmpty then (s.noPeer i f dev, none')
    else
      let s := s.readPeer i dev (u % 2 ^ 56)
      ({ s with free := s.free + 1 },
       ⟨(List.range 32).map (fun b => Config.peerByte dev (u % 2 ^ 56 + b) s.free), false, .clean, 0⟩)
  else match s.noAnswer u with
    | some d => (s.noAnswerOf i d, none')
    | none =>
      let (s, late) := s.meetRepair i u
      let (s, g) := s.readUnit u
      let g : Got := if late then ⟨g.data, true, .uncorrectable, g.syn⟩ else g
      let s := if s.midPass u then { s with mm := { s.mm with late := true } } else s
      if g.bad then
        let s := s.reportBad i audit u g.outc
        let s := match i with
          | .task t => if audit then s else s.modTask t (fun k => { k with poison := true, everPoison := true })
          | _ => s
        (s, g)
      else (s, g)

/-- Read the units of byte addresses that the snapshot lacks; a pair takes its credits once (R268). -/
def State.fetchBytes (s : State) (i : Issuer) (f : Nat) (audit : Bool) (as : List Nat) (m : Snap) :
    State × Snap :=
  as.foldl (fun (p : State × Snap) a =>
    let u := unitBase a
    match optGet p.2 u with
    | some _ => p
    | none =>
      let paid := match mateOf u with
        | some v => (optGet p.2 v).isSome
        | none => false
      let (s, g) := (if paid then p.1 else p.1.chargeFor i [u]).fetchUnit i f audit u
      (s, mapPut p.2 u g)) (s, m)

/-- Data coordinates that a list of view positions addresses. -/
def Opnd.coords (o : Opnd) (vs : List (List Nat)) : List (List Nat) :=
  vs.filterMap (fun v => match o.loc true v with
    | .hit c _ => some c
    | _ => none)

/-- Byte addresses of a plane at data coordinates. -/
def Opnd.bytesAt (o : Opnd) (p : Plane) (cs : List (List Nat)) : List Nat :=
  cs.flatMap (fun c => (itemBytes o.e o.rg p c).1)

/-- An item of a plane at data coordinates. -/
def Opnd.item (o : Opnd) (m : Snap) (p : Plane) (c : List Nat) : Nat × Bool :=
  let (as, sh) := itemBytes o.e o.rg p c
  snapItem m as sh (planeWidth o.e p)

/-- Read what view positions of an operand need: elements with their scales and tags, then the low plane of
tag-1 blocks (R34). -/
def State.fetchViews (s : State) (i : Issuer) (f : Nat) (audit : Bool) (o : Opnd) (vs : List (List Nat))
    (m : Snap) : State × Snap :=
  let cs := o.coords vs
  let as := o.bytesAt .elem cs ++ (if teScaled o.e then o.bytesAt .scale cs else []) ++
    (if teTagged o.e then o.bytesAt .tag cs else [])
  let (s, m) := s.fetchBytes i f audit as m
  if teEscapes o.e then
    s.fetchBytes i f audit (o.bytesAt .low (cs.filter (fun c => decide ((o.item m .tag c).1 = 1)))) m
  else (s, m)

/-- An element as stored: code, low code, scale code, tag, and whether any of them was poisoned. -/
structure Raw where
  code : Nat
  low : Nat
  scale : Nat
  tag : Bool
  bad : Bool
  deriving DecidableEq, Repr

/-- The scale code of 1.0 (R33). -/
def scaleOne (t : SType) : Nat := if t = .e4m3 then 0x38 else 0x7F

/-- The element of a pad position or a skipped index that reads as +0 (R129, R132, R33). -/
def rawZero (e : List Word) (bad : Bool) : Raw := ⟨0, 0, scaleOne (teStype e), false, bad⟩

/-- The code of pad_value in the element type, in which it is exact (R129). -/
def padCode (e : List Word) : Nat :=
  let t := teType e
  if t.isFloat then (convert t .rne (decodeElt .fp32 (tePadBits e))).1
  else intCode t.width (sext 32 (tePadBits e))

/-- The element at data coordinates. -/
def Opnd.rawAt (o : Opnd) (m : Snap) (c : List Nat) (bad : Bool) : Raw :=
  let (code, b0) := o.item m .elem c
  let (sc, b1) := if teScaled o.e then o.item m .scale c else (scaleOne (teStype o.e), false)
  let (tg, b2) := if teTagged o.e then o.item m .tag c else (0, false)
  let (lo, b3) := if tg = 1 && teEscapes o.e then o.item m .low c else (0, false)
  ⟨code, lo, sc, decide (tg = 1), bad || b0 || b1 || b2 || b3⟩

/-- The element at a view position. -/
def Opnd.raw (o : Opnd) (m : Snap) (v : List Nat) : Raw :=
  match o.loc true v with
  | .pad => if tePadMode o.e = 1 then { rawZero o.e false with code := padCode o.e } else rawZero o.e false
  | .skip bad => rawZero o.e bad
  | .hit c bad => o.rawAt m c bad

/-- The decoded code of an element, without its scale: only an FP4 element escapes (R34). -/
def Raw.codeVal (r : Raw) (t : EType) : FV :=
  if r.tag && t == .fp4 then decodeElt .e4m3 (r.code * 16 + r.low) else decodeElt t r.code

/-- The scale of an element. -/
def Raw.scaleVal (r : Raw) (t : SType) : FV := decodeScale t r.scale

/-- The exact value of an element. -/
def Opnd.val (o : Opnd) (r : Raw) : FV := (r.codeVal (teType o.e)).mul (r.scaleVal (teStype o.e))

/-- Whether the vector engines hold the operand's elements as INT32: an unscaled integer type (R104). -/
def teIntLanes (e : List Word) : Bool := (teType e).isInt && !teScaled e

/-- The lane that an element loads as (R104): widened to FP32, or sign-extended to INT32. The manual gives
no lane for an INT64 element beyond INT32: a free value (log entry 14). -/
def Opnd.lane (o : Opnd) (r : Raw) : Lane :=
  if teIntLanes o.e then
    let v := sext (teType o.e).width r.code
    ⟨if intMin 32 ≤ v ∧ v ≤ intMax 32 then BitVec.ofInt 32 v else Config.int64Lane (BitVec.ofNat 64 r.code), r.bad⟩
  else ⟨toF32 (o.val r), r.bad⟩

/-! ## Opening operands -/

/-- The entry words that a descriptor sampled at a position: A, B, C, D, audit source, then the index
tensors that bind them. -/
def Task.entryAt (k : Task) (i : Nat) : List Word := k.entries.getD i []

/-- Whether one of A–D has a dimension of size 0: the transfer is then none, whatever its padding (R126). -/
def Task.empty (k : Task) : Bool := (List.range 4).any (fun i => !(k.entryAt i).isEmpty && teEmpty (k.entryAt i))

/-- The issuing unit's field island ends an access whose range handle is not valid (R265). -/
def State.badRange (s : State) (t f : Nat) : State := s.noAnswerTask t (48 + f)

/-- The data indexes of a bound operand: each element of the index tensor, none where it lies outside the
data extent (R132). -/
def idsOf (e ie irg : List Word) (m : Snap) (n : Nat) : List (Option Nat × Bool) :=
  (List.range n).map (fun i =>
    let w := (teType ie).width / 8
    let as := (List.range w).map (fun b => rgAddr irg (teBase ie + 64 + w * i + b))
    let (v, bad) := snapItem m as 0 (8 * w)
    let x := sext (8 * w) v
    if 0 ≤ x ∧ x < teSize e (teIdxDim e) then (some x.toNat, bad) else (none, bad))

/-- Where the entry of the index tensor that binds a position is kept: for A–D and the audit source at 5 on, for the area's
handles at 20 on. -/
def idxPos (pos : Nat) : Nat := if pos < 5 then 5 + pos else pos + 10

/-- Open the operand at a position for a running descriptor: its range must be valid, and the elements of
its index tensor are read. Out-of-range indexes are counted when `count` is set (R132). -/
def State.openOpnd (s : State) (t : Nat) (k : Task) (pos : Nat) (count : Bool) : State × Option Opnd :=
  let e := k.entryAt pos
  if e.isEmpty then (s, none)
  else match s.range (teRange e) with
    | none => (s.badRange t k.field, none)
    | some rg =>
      if !teBound e then (s, some ⟨e, rg, []⟩)
      else
        let ie := k.entryAt (idxPos pos)
        match s.range (teRange ie) with
        | none => (s.badRange t k.field, none)
        | some irg =>
          let n := (optGet k.gcount pos).getD 0
          let w := (teType ie).width / 8
          let as := (List.range (w * n)).map (fun b => rgAddr irg (teBase ie + 64 + b))
          let (s, m) := s.fetchBytes (.task t) k.field false as []
          let ids := idsOf e ie irg m n
          let out := (ids.filter (fun p => p.1.isNone)).length
          let s := if count then s.modTask t (fun v =>
            { v with counts := { v.counts with irange := v.counts.irange + out } }) else s
          (s, some ⟨e, rg, ids⟩)

/-- Sample the count of an index tensor (R132): the count clamped to the capacity, what lay above it, and
the header's outcome where it was bad; none where the index tensor's range is gone. -/
def State.sampleCount (s : State) (t f : Nat) (ie : List Word) : State × Option (Nat × Nat × Bool) :=
  match s.range (teRange ie) with
  | none => (s.badRange t f, none)
  | some irg =>
    let as := (List.range 4).map (fun b => rgAddr irg (teBase ie + b))
    let (s, m) := s.fetchBytes (.task t) f false as []
    let (v, bad) := snapItem m as 0 32
    let cap := teSize ie 0
    (s, some (min v cap, v - cap, bad))

/-! ## Storing -/

/-- What an operation stores: byte writes, and addresses whose units take the poison encoding. -/
structure Out where
  ws : List ByteW
  bad : List Nat
  deriving DecidableEq, Repr

def Out.nil : Out := ⟨[], []⟩
def Out.app (a b : Out) : Out := ⟨a.ws ++ b.ws, a.bad ++ b.bad⟩

/-- Byte writes of an item of `w` bits, `sh` bits into the first byte. -/
def itemWrites (sh w v : Nat) : Nat → List Nat → List ByteW
  | _, [] => []
  | i, a :: t =>
    let m := (2 ^ w - 1) * 2 ^ sh / 256 ^ i % 256
    ⟨a, BitVec.ofNat 8 (v % 2 ^ w * 2 ^ sh / 256 ^ i), BitVec.ofNat 8 m⟩ :: itemWrites sh w v (i + 1) t

/-- Store an item of a plane at data coordinates; a poisoned item poisons its units. -/
def Opnd.put (o : Opnd) (p : Plane) (c : List Nat) (v : Nat) (bad : Bool) : Out :=
  let (as, sh) := itemBytes o.e o.rg p c
  if bad then ⟨[], as⟩ else ⟨itemWrites sh (planeWidth o.e p) v 0 as, []⟩

/-- Store a raw element with its scale and tag, and its low code where the tag is 1. The codes are stored bit for bit
(R141): a ternary 0b10 that came from outside goes on as it stands, although R29 has the device write none (DESIGN
CHOICE, log entry 109). -/
def Opnd.putRaw (o : Opnd) (c : List Nat) (r : Raw) : Out :=
  let a := o.put .elem c r.code r.bad
  let a := if teScaled o.e then a.app (o.put .scale c r.scale r.bad) else a
  if teEscapes o.e then
    let a := a.app (o.put .tag c (b2n r.tag) r.bad)
    if r.tag || r.bad then a.app (o.put .low c r.low r.bad) else a
  else a

/-- Whether D takes values without block logic (R111). -/
def tePlain (e : List Word) : Bool := !teScaled e

/-- A value that an operation stores: FP32 lane bits, INT32 lane bits, or an exact value, with poison. -/
structure OutVal where
  v : FV
  bad : Bool
  deriving DecidableEq, Repr

/-- What is stored besides the bytes: saturations and tag-1 blocks (R157). -/
structure OutCnt where
  sat : Nat
  esc : Nat
  deriving DecidableEq, Repr

/-- Store one value of an unscaled destination at data coordinates (R37, R39, R104). -/
def Opnd.putVal (o : Opnd) (mode : RMode) (seed : Nat) (c : List Nat) (x : OutVal) : Out × OutCnt :=
  let idx := linOf (teSizes o.e) c
  let (code, f) := convert (teType o.e) (Rnd.of mode seed idx) x.v
  (o.put .elem c code x.bad, ⟨b2n (f && !x.bad), 0⟩)

/-- Quantise one block of a scaled destination, whose elements run from data coordinates c along the block
dimension (R32–R35, R111). A block with a poisoned source is poisoned in all of its planes. -/
def Opnd.putBlock (o : Opnd) (mode : RMode) (seed thr : Nat) (c : List Nat) (xs : List OutVal) : Out × OutCnt :=
  let d := teBlockDim o.e
  let place (j : Nat) : List Nat := setAt c d (c.getD d 0 + j)
  let bad := xs.any (·.bad)
  let rnds := (List.range xs.length).map (fun j => Rnd.of mode seed (linOf (teSizes o.e) (place j)))
  let q := quantBlock (teType o.e) (teStype o.e) (if teEscapes o.e then some thr else none) rnds (xs.map (·.v))
  let els := (List.range xs.length).foldl (fun (a : Out) j =>
    let a := a.app (o.put .elem (place j) (q.codes.getD j 0) bad)
    if teEscapes o.e && (q.tag || bad) then a.app (o.put .low (place j) (q.low.getD j 0) bad) else a) Out.nil
  let a := els.app (o.put .scale c q.scale bad)
  let a := if teTagged o.e then a.app (o.put .tag c (b2n q.tag) bad) else a
  (a, if bad then ⟨0, 0⟩ else ⟨q.sat, b2n q.tag⟩)

/-- Cut a list into runs of n. -/
def chunks {α : Type} (n : Nat) : Nat → List α → List (List α)
  | 0, _ => []
  | k + 1, l => if l.isEmpty then [] else l.take n :: chunks n k (l.drop n)

/-- Store a run of values along dimension 0 of the view, from view position v on (a strip or a tile row):
skipped indexes store nothing (R132). -/
def Opnd.putRun (o : Opnd) (mode : RMode) (seed thr : Nat) (v : List Nat) (xs : List OutVal) : Out × OutCnt :=
  match o.loc false v with
  | .hit c ib =>
    let xs := xs.map (fun (x : OutVal) => { x with bad := x.bad || ib })
    if tePlain o.e then
      (List.range xs.length).foldl (fun (p : Out × OutCnt) j =>
        match xs[j]? with
        | some x =>
          let (a, n) := o.putVal mode seed (setAt c 0 (c.getD 0 0 + j)) x
          (p.1.app a, ⟨p.2.sat + n.sat, p.2.esc + n.esc⟩)
        | none => p) (Out.nil, ⟨0, 0⟩)
    else
      let bl := (teType o.e).blockLen
      let bs := chunks bl xs.length xs
      (List.range bs.length).foldl (fun (p : Out × OutCnt) j =>
        let (a, n) := o.putBlock mode seed thr (setAt c 0 (c.getD 0 0 + bl * j)) (bs.getD j [])
        (p.1.app a, ⟨p.2.sat + n.sat, p.2.esc + n.esc⟩)) (Out.nil, ⟨0, 0⟩)
  | _ => (Out.nil, ⟨0, 0⟩)

/-- Whether the last view position that carries a view position's in-range index is this one: only the
highest position writes in overwrite mode (R133). -/
def Opnd.lastView (o : Opnd) (i : Nat) : Bool :=
  match (o.ids.getD i (none, false)).1 with
  | none => false
  | some x => (o.ids.drop (i + 1)).all (fun p => p.1 != some x)

/-- A write or add of an issuer leaves for a peer over a link; the counter of free values numbers it, which the caller has
just advanced. -/
def State.sendWrite (s : State) (i : Issuer) (l dev : Nat) (ws : List ByteW) (bad : List Nat) : State :=
  (s.owe i).sendPeer l ⟨i, l, dev, false, s.free, 0, ws.length, ws, bad⟩

/-- A write or add of an issuer of field f leaves for a peer, with its poison flags; with no link up the issuer ends
(R192, R193, R276). -/
def State.toPeer (s : State) (i : Issuer) (f dev : Nat) (ws : List ByteW) (bad : List Nat) : State :=
  if (s.peerLinks dev).isEmpty then s.noPeer i f dev
  else
    let (s, l) := s.pickLink (s.peerLinks dev)
    s.sendWrite i l dev ws bad

/-- Write bytes of a descriptor to a granule of the meadow: merged at the home (R179), except that writes of one
attempt that together cover a poisoned granule replace it (log entry 45). -/
def State.mergeOwn (s : State) (t u : Nat) (ws : List ByteW) : State :=
  match s.task t with
  | none => s.mergeMeadow u ws
  | some k =>
    let n := unitLen u
    let l := ws.foldl (fun (l : WLine) w => l.put w.addr w.val w.mask) ((findLine u k.part).getD ⟨u, []⟩)
    let rest := dropLine u k.part
    let own := ws.foldl (fun (l : WLine) w => l.put w.addr w.val w.mask) ⟨u, []⟩
    if own.full u n then (s.putTask t { k with part := rest }).mergeMeadow u ws
    else if l.full u n then
      let s := s.putTask t { k with part := rest }
      let (s, d) := s.loadUnit false u
      if d.outc.bad then s.storeUnit u (l.onto u (List.replicate n 0#8)) else s.mergeMeadow u ws
    else (s.putTask t { k with part := l :: rest }).mergeMeadow u ws

/-- Ordinary byte writes of an issuer. -/
def State.writeFor (s : State) (i : Issuer) (ws : List ByteW) : State :=
  match i with
  | .task t =>
    let inMeadow (w : ByteW) : Bool := match regionOf w.addr with
      | .meadow _ => true
      | _ => false
    let s := s.writeBytes (ws.filter (fun w => !inMeadow w))
    (groupBy unitBase (ws.filter inMeadow)).foldl (fun s p => s.mergeOwn t p.1 p.2) s
  | _ => s.writeBytes ws

/-- Whether writes replace a whole pair. -/
def wholePair (ws : List ByteW) (b : Nat) : Bool :=
  (List.range 64).all (fun i => ws.any (fun w => decide (w.addr = b + i) && w.mask == 0xFF#8))

/-- Writes of an issuer to pairs in repair (R281): the whole of a pair, which is not being copied, completes its repair; a
partial write waits, and at the stall limit leaves its units poisoned (log entry 10). The writes that remain, the units to
poison, and the slots whose repair is complete. -/
def State.meetWrites (s : State) (i : Issuer) (ws : List ByteW) (bad : List Nat) : State × List ByteW × List Nat × List Nat :=
  (uniq ((ws.map (·.addr) ++ bad).map pairBase)).foldl (fun (p : State × List ByteW × List Nat × List Nat) b =>
    let (s, ws, bad, done) := p
    match s.stallSlot b with
    | none => p
    | some k =>
      if (s.slot k).st != 5 && wholePair ws b then (s, ws, bad, done ++ [k])
      else
        let (s, late) := s.meetRepair i b
        if late then
          (s, ws.filter (fun w => decide (pairBase w.addr ≠ b)),
            uniq (bad ++ (ws.filter (fun w => decide (pairBase w.addr = b))).map (fun w => unitBase w.addr)), done)
        else (s, ws, bad, done)) (s, ws, bad, [])

/-- Write the outputs of an issuer at their homes: peers get messages, homes that do not answer end the
issuer, poisoned units take the poison encoding, and the homes' acceptance is acknowledged once. -/
def State.landOut (s : State) (i : Issuer) (f : Nat) (o : Out) : State :=
  if o.ws.isEmpty && o.bad.isEmpty then s
  else
    let bad := uniq (o.bad.map unitBase)
    let ws := o.ws.filter (fun w => !bad.contains (unitBase w.addr))
    let devOf (a : Nat) : Option Nat := if peerSpace ≤ a then some ((a - peerSpace) / 2 ^ 56) else none
    let far := (ws.map (·.addr) ++ bad).filterMap devOf
    let near := ws.filter (fun w => decide (w.addr < peerSpace))
    let dead := uniq ((near.map (·.addr) ++ bad.filter (fun a => decide (a < peerSpace))).filterMap (fun a => s.noAnswer a))
    let live := near.filter (fun w => (s.noAnswer w.addr).isNone)
    let s := dead.foldl (fun s d => s.noAnswerOf i d) s
    let s := s.chargeFor i (uniq ((live.map (·.addr) ++ bad.filter (fun a => decide (a < peerSpace))).map pairBase))
    let (s, go, ill, done) := s.meetWrites i live (bad.filter (fun u => decide (u < peerSpace) && (s.noAnswer u).isNone))
    let s := s.writeFor i go
    let s := ill.foldl (fun s u => s.writePoison u) s
    let s := if done.isEmpty then s else (done.foldl (fun s k => s.repairDone k 3) s).serveStalled
    let s := (uniq far).foldl (fun s dev => s.toPeer i f dev (ws.filter (fun w => devOf w.addr == some dev))
      (bad.filter (fun u => devOf u == some dev))) s
    match live.map (·.addr) ++ bad.filter (fun u => decide (u < peerSpace)) with
    | [] => s
    | a :: _ => s.sendAck a i

/-- Add the counts of a store to a descriptor. -/
def State.addCnt (s : State) (t : Nat) (n : OutCnt) : State :=
  s.modTask t (fun k => { k with counts := { k.counts with sat := k.counts.sat + n.sat, esc := k.counts.esc + n.esc } })

/-- A descriptor's add of one element reaches its home's adder, at this module or a peer (R187, R192). -/
def State.addAt (s : State) (t f : Nat) (ty : EType) (a code : Nat) (bad : Bool) : State :=
  if peerSpace ≤ a then s.toPeer (.task t) f ((a - peerSpace) / 2 ^ 56) (byteWrites a (leBytes (ty.width / 8) code) [])
    (if bad then [unitBase a] else [])
  else match s.noAnswer a with
    | some d => s.noAnswerTask t d
    | none =>
      let (s, late) := (s.chargeFor (.task t) [a]).meetRepair (.task t) a
      s.addRun (.task t) a (BitVec.ofNat 5 ty.code) (leBytes (ty.width / 8) code) (bad || late)

/-- Add values of a run along dimension 0 into memory through the memory-side adders (R133, R267): each
value is converted to the target's type first. -/
def State.scatterAdd (s : State) (t : Nat) (o : Opnd) (mode : RMode) (seed : Nat) (v : List Nat)
    (xs : List OutVal) : State :=
  let f := match s.task t with
    | some k => k.field
    | none => 0
  match o.loc false v with
  | .hit c ib =>
    let ty := teType o.e
    let addr (j : Nat) : Nat := (itemBytes o.e o.rg .elem (setAt c 0 (c.getD 0 0 + j))).1.headD 0
    let s' := (List.range xs.length).foldl (fun s j =>
      match xs[j]? with
      | some x =>
        let (code, sat) := convert ty (Rnd.of mode seed (linOf (teSizes o.e) (setAt c 0 (c.getD 0 0 + j)))) x.v
        (s.addAt t f ty (addr j) code (x.bad || ib)).addCnt t ⟨b2n sat, 0⟩
      | none => s) s
    if (List.range xs.length).any (fun j => decide (addr j < peerSpace) && (s.noAnswer (addr j)).isNone) then
      s'.sendAck (addr 0) (.task t)
    else s'
  | _ => s

end Sys2Proof.Machine
end

