-- ==== Sys2Proof/Machine/AtomLines.lean ====
section
/-! DEFINITION. The buffers in which atomics of cluster, field and device scope hold lines of 64 bytes: fetching,
changing and writing back (R189). -/
namespace Sys2Proof.Machine

/-- Lines that a buffer holds (R189); the manual gives no figure for the I/O die's, which takes the field's. -/
def atomCap (buf : Nat) : Nat := if buf < 48 then 64 else 256

/-- The line of a buffer at a base address. -/
def State.atomLine (s : State) (buf base : Nat) : Option AtomLine :=
  s.mm.atoms.find? (fun l => l.buf = buf && l.base = base)

/-- Replace the lines. -/
def State.setAtoms (s : State) (l : List AtomLine) : State := { s with mm := { s.mm with atoms := l } }

/-- Write what element operations changed of a line back to its home for a descriptor of field f: bytes as data, poisoned
units as poison. Bytes that they did not change are left alone. -/
def State.writeLine (s : State) (t f : Nat) (l : AtomLine) : State :=
  s.landOut (.task t) f ⟨l.wrote.map (fun o => ⟨l.base + o, l.data.getD o 0, 0xFF#8⟩), l.bad⟩

/-- Drop a line from its buffer. -/
def State.dropAtom (s : State) (l : AtomLine) : State :=
  s.setAtoms (s.mm.atoms.filter (fun x => !(x.buf = l.buf && x.base = l.base)))

/-- Replace the contents of a line. -/
def State.putLine (s : State) (l : AtomLine) : State :=
  s.setAtoms (s.mm.atoms.map (fun x => if x.buf = l.buf && x.base = l.base then l else x))

/-- A full buffer writes its oldest line back. -/
def State.makeRoom (s : State) (t f buf : Nat) : State :=
  let ls := s.mm.atoms.filter (fun l => l.buf = buf)
  if ls.length < atomCap buf then s
  else match ls with
    | [] => s
    | l :: _ => (s.dropAtom l).writeLine t f l

/-- Take the line of an address into a buffer for a descriptor, or join it there (R189). The bytes of a line of this module
are read from their home when an element operation meets them, so that they are what R180 has it see (log entry 110); a
peer's are read when the line is fetched. -/
def State.fetchLine (s : State) (t f buf base : Nat) : State × AtomLine :=
  match s.atomLine buf base with
  | some l =>
    let l := if l.users.contains t then l else { l with users := l.users ++ [t] }
    (s.putLine l, l)
  | none =>
    let s := (s.makeRoom t f buf).bump .memAtomLines 0 1
    let (s, d) := if base < peerSpace then (s, [])
      else (unitsOf base 64).foldl (fun (p : State × List Byte) u =>
        let (s, g) := p.1.fetchUnit (.task t) f false u
        (s, p.2 ++ g.data)) (s, [])
    let l : AtomLine := ⟨buf, base, (List.range 64).map (fun i => d.getD i 0), [], [], [t]⟩
    (s.setAtoms (s.mm.atoms ++ [l]), l)

/-- Whether element operations in two buffers are guaranteed to combine: those of a field's unit and of its clusters, and
those of the I/O die with any of this module (R189). -/
def combines (a b : Nat) : Bool :=
  a == b || decide (52 ≤ a ∨ 52 ≤ b) || decide (48 ≤ a ∧ a < 52 ∧ b < 48 ∧ b / 12 = a - 48) ||
    decide (48 ≤ b ∧ b < 52 ∧ a < 48 ∧ a / 12 = b - 48)

/-- What an element operation finds in its line: the old code, whether it is poisoned, and whether an atomic of too narrow a
scope holds the element elsewhere. -/
structure LineElt where
  l : AtomLine
  old : Nat
  bad : Bool
  mixed : Bool
  deriving DecidableEq, Repr

/-- The element of n bytes at place o of a line: changed bytes that another buffer holds move over where the scopes
combine (R189), else the line's own changed bytes or the home's stand. -/
def State.lineElt (s : State) (t f : Nat) (l : AtomLine) (o n : Nat) : State × LineElt :=
  let span := (List.range n).map (fun i => o + i)
  let u := unitBase (l.base + o)
  let changed (m : AtomLine) : Bool := span.any (fun i => m.wrote.contains i) || m.bad.contains u
  let code (d : List Byte) : Nat := leNat ((d.drop o).take n)
  match s.mm.atoms.find? (fun m => decide (m.base = l.base ∧ m.buf ≠ l.buf) && changed m) with
  | some m =>
    if !combines l.buf m.buf then (s, ⟨l, 0, false, true⟩)
    else
      let s := s.putLine { m with wrote := m.wrote.filter (fun i => !span.contains i), bad := m.bad.erase u }
      let l := { l with data := l.data.take o ++ (m.data.drop o).take n ++ l.data.drop (o + n),
                        bad := if m.bad.contains u then uniq (l.bad ++ [u]) else l.bad }
      (s, ⟨l, code l.data, l.bad.contains u, false⟩)
  | none =>
    if changed l || peerSpace ≤ l.base then (s, ⟨l, code l.data, l.bad.contains u, false⟩)
    else
      let (s, g) := s.fetchUnit (.task t) f false u
      (s, ⟨l, leNat ((g.data.drop (l.base + o - u)).take n), g.bad, false⟩)

/-- A descriptor is ready to commit: what was changed in its lines, wherever it stands by now, goes back to its home, and a
line goes with its last user (R189, R190). -/
def State.atomsBack (s : State) (t f : Nat) : State :=
  (s.mm.atoms.filter (fun l => s.mm.atoms.any (fun m => decide (m.base = l.base) && m.users.contains t))).foldl (fun s l =>
    let rest := l.users.erase t
    let s := s.writeLine t f l
    if rest.isEmpty then s.dropAtom l else s.putLine { l with users := rest, wrote := [], bad := [] }) s

end Sys2Proof.Machine
end

