-- ==== Sys2Proof/Machine/BankQueue.lean ====
section
/-! DEFINITION. The queue of bank descriptors of a stack channel: which one steps, switching with spilled
state, and leaving the channel (R82, R91, R92). -/
namespace Sys2Proof.Machine

/-- A descriptor joins a queue: latency-critical ones first, and by arrival within a class (R92). -/
def State.enqueue (s : State) (t : Nat) (q : List Nat) : List Nat :=
  if s.bestTaskOf t then q ++ [t]
  else q.filter (fun x => !s.bestTaskOf x) ++ [t] ++ q.filter (fun x => s.bestTaskOf x)

/-- The banks of a descriptor's weight in its region (R74). -/
def State.weightBanks (s : State) (t : Nat) : BitVec 64 :=
  match s.task t with
  | none => 0
  | some k => match s.range (teRange (k.entries.getD 1 [])) with
    | some rg => wordAt rg 11
    | none => 0

/-- Column of the scratch row at which register r, 4 to 15, is spilled. -/
def scratchCol (r : Nat) : Nat := 4 * (r - 4)

/-- Spill bk4–bk15 of every bank of the set to its scratch row (R82, R92). -/
def State.spillSet (s : State) (st ch : Nat) : State :=
  (s.setOf st ch).foldl (fun s b => ((List.range 12).map (· + 4)).foldl (fun s r =>
    s.bankSpill st ch b 16383 (scratchCol r) r) s) s

/-- Fill bk4–bk15 of every bank of the set from its scratch row. -/
def State.fillSet (s : State) (st ch : Nat) : State :=
  (s.setOf st ch).foldl (fun s b => ((List.range 12).map (· + 4)).foldl (fun s r =>
    s.bankLoad st ch b 16383 ((List.range 4).map (fun i => scratchCol r + i)) r 0) s) s

/-- The bank set of wave i of a set of banks: its 32 banks from the 32 i-th on (R89). -/
def waveMask (m : BitVec 64) (i : Nat) : BitVec 64 :=
  BitVec.ofNat 64 (((((List.range 64).filter (fun b => m.getLsbD b)).drop (32 * i)).take 32).foldl (fun n b => n + 2 ^ b) 0)

/-- A descriptor begins stepping in a channel: its first wave's banks are the bank set (R89). -/
def State.startBank (s : State) (st ch t : Nat) : State :=
  let s := s.modChan st ch (fun c => { c with run := some t, bset := waveMask (s.weightBanks t) 0, queue := c.queue.erase t })
  match s.task t with
  | some k => s.trace 7 (52 + st) (some k.ctx) k.ring.toNat 0 (twOpcode k.w) (twCookie k.w) ch
  | none => s

/-- A descriptor that was switched out resumes in the banks it stepped, and what was spilled is filled back (R92). -/
def State.resumeBank (s : State) (st ch : Nat) (p : Spilled) : State :=
  (s.modChan st ch (fun c => { c with run := some p.task, bset := p.bset, spilled := c.spilled.erase p })).fillSet st ch

/-- An idle channel that admits passes takes its next descriptor: a latency-critical one, then one that was
switched out, then the next best-effort one (R92, R93). -/
def State.chanNext (s : State) (st ch : Nat) : State :=
  let c := s.chan st ch
  if c.run.isSome || c.stop then s
  else match c.queue.find? (fun t => !s.bestTaskOf t) with
    | some t => s.startBank st ch t
    | none => match c.spilled with
      | p :: _ => s.resumeBank st ch p
      | [] => match c.queue with
        | t :: _ => s.startBank st ch t
        | [] => s

/-- A descriptor leaves a channel. -/
def State.leaveBank (s : State) (st ch t : Nat) : State :=
  let c := s.chan st ch
  if c.run = some t then
    (s.modChan st ch (fun c => { c with run := none, pass := none, bset := 0 })).chanNext st ch
  else s.setChan st ch { c with queue := c.queue.erase t, spilled := c.spilled.filter (fun p => p.task != t) }

/-- Whether a channel holds a descriptor. -/
def Chan.holds (c : Chan) (t : Nat) : Bool :=
  c.run == some t || c.queue.contains t || c.spilled.any (fun p => p.task == t)

/-- Channels that hold a descriptor. -/
def State.chansWith (s : State) (t : Nat) : List (Nat × Nat) :=
  (s.st.chans.filter (fun (p : Nat × Chan) => p.2.holds t)).map (fun p => (p.1 / 32, p.1 % 32))

/-- A kill reaches every channel that holds a descriptor: HALT where it steps; its spilled state is abandoned
(R82, R92). -/
def State.dropBank (s : State) (t : Nat) : State :=
  (s.chansWith t).foldl (fun s p =>
    let s := if (s.chan p.1 p.2).run = some t then s.haltCmd p.1 p.2 else s
    s.leaveBank p.1 p.2 t) s

end Sys2Proof.Machine
end

