-- ==== Sys2Proof/Machine/Copies.lean ====
section
/-! DEFINITION. The configuration of the KV service and the serving front end as each field has it (R364): the registers
of the common pages lie in F0, and a write is copied to every field, which applies its copy on arrival. -/
namespace Sys2Proof.Machine

/-- Place of item i of a configuration as field f has it. -/
def copyAt (f i : Nat) : Nat := 4 * i + f

/-- A configuration word as field f has it; F0 holds the register itself. -/
def State.cfg (s : State) (f : Nat) (r : CfgReg) (i : Nat) : Word :=
  match r with
  | .srec => if f = 0 then s.reg .kvsSrecCfg 0 0 else mapGet (fun _ => 0#64) s.kv.srec f
  | .fmt => mapGet (fun _ => 0#64) s.kv.fmt (copyAt f i)
  | .partCfg => mapGet (fun _ => 0#64) s.sv.pcfg (copyAt f i)
  | .partState => mapGet (fun _ => 0#64) s.sv.pstate (copyAt f i)
  | .partStop => mapGet (fun _ => 0#64) s.sv.pstop (copyAt f i)
  | .cprogLoc => mapGet (fun _ => 0#64) s.sv.cloc (copyAt f i)
  | .cprogN => mapGet (fun _ => 0#64) s.sv.cn (copyAt f i)

/-- Store a configuration word in field f. -/
def State.setCfg (s : State) (f : Nat) (r : CfgReg) (i : Nat) (v : Word) : State :=
  match r with
  | .srec => if f = 0 then s.setReg .kvsSrecCfg 0 0 v
    else { s with kv := { s.kv with srec := mapSet (fun _ => 0#64) s.kv.srec f v } }
  | .fmt => { s with kv := { s.kv with fmt := mapSet (fun _ => 0#64) s.kv.fmt (copyAt f i) v } }
  | .partCfg => { s with sv := { s.sv with pcfg := mapSet (fun _ => 0#64) s.sv.pcfg (copyAt f i) v } }
  | .partState => { s with sv := { s.sv with pstate := mapSet (fun _ => 0#64) s.sv.pstate (copyAt f i) v } }
  | .partStop => { s with sv := { s.sv with pstop := mapSet (fun _ => 0#64) s.sv.pstop (copyAt f i) v } }
  | .cprogLoc => { s with sv := { s.sv with cloc := mapSet (fun _ => 0#64) s.sv.cloc (copyAt f i) v } }
  | .cprogN => { s with sv := { s.sv with cn := mapSet (fun _ => 0#64) s.sv.cn (copyAt f i) v } }

/-- A configuration write (R364): the register changes, and a copy crosses to each other field. -/
def State.writeCfg (s : State) (r : CfgReg) (i : Nat) (v : Word) : State :=
  ([1, 2, 3] : List (Fin 4)).foldl (fun s f => s.send 48 (48 + f.val) (.forwardedRequest ⟨f, .copy r i v⟩)) (s.setCfg 0 r i v)

/-- Hardware changes a configuration word in every field (R282, R301, R306). -/
def State.forceCfg (s : State) (r : CfgReg) (i : Nat) (g : Word → Word) : State :=
  (List.range 4).foldl (fun s f => s.setCfg f r i (g (s.cfg f r i))) s

/-- State of a partition as field f has it (R249). -/
def State.pstate (s : State) (f p : Nat) : BitVec 3 := (s.cfg f .partState p).extractLsb' 0 3

/-- Configuration word of a partition as field f has it (R253). -/
def State.pcfgOf (s : State) (f p : Nat) : Word := s.cfg f .partCfg p
def State.vocab (s : State) (f p : Nat) : Nat := wb (s.pcfgOf f p) 18 0
def State.mirrored (s : State) (f p : Nat) : Bool := wbit (s.pcfgOf f p) 35

/-- Stop tokens of a partition as field f has them (R253). -/
def State.pstopOf (s : State) (f p : Nat) : Word := s.cfg f .partStop p

/-- Location and state count of a constraint program as field f has them (R243). -/
def State.progLoc (s : State) (f q : Nat) : Word := s.cfg f .cprogLoc q
def State.progN (s : State) (f q : Nat) : Nat := wb (s.cfg f .cprogN q) 15 0

end Sys2Proof.Machine
end

