-- ==== Sys2Proof/Machine/Costs.lean ====
section
/-! DEFINITION. Charged costs (R18, R60, R61, R97–R99, R117, R141, R211, R224–R230, R262, R269): what
dispatch would charge a descriptor on a cluster engine, which R167 holds against the field's cap and R53
uses to choose an automatic shape. Times are in 1/1428 ns, in which every clock's period is whole. -/
namespace Sys2Proof.Machine

/-- Periods: ac, bs, ns, link cycle. -/
def tAc : Nat := 2040
def tBs : Nat := 2856
def tNs : Nat := 1428
def tLink : Nat := 1344

/-- Quotient rounded up. -/
def cdiv (a b : Nat) : Nat := if b = 0 then 0 else (a + b - 1) / b

/-- Distance of two fields in stitches. -/
def hops (f g : Nat) : Nat := if f < g then g - f else f - g

/-- First access of each kind of home (R99, R262): a stack's interleaved and bank-resident regions, the heath, a window. -/
def firstStack (resident : Bool) : Nat := (if resident then 568 else 308) * tBs
def firstHeath : Nat := 354 * tNs
def firstWindow : Nat := 10 * tAc

/-- Both crossings between cluster c and a stack, a heath half, and a window (R18). -/
def crossStack (c st : Nat) : Nat := (4 + 8 * hops (c / 12) (st / 4) + 3) * tAc + 2 * tBs
def crossHeath (c half : Nat) : Nat := (4 + 8 * hops (c / 12) (3 * half) + 4) * tAc + 7 * tLink + 2 * tNs
def crossWindow (c d : Nat) : Nat := (8 + 8 * hops (c / 12) (d / 12)) * tAc

/-- Both crossings between cluster c and the I/O die that carries a link: IOD0 lies beyond F0, IOD1 beyond F3 (R14,
R18, R297). -/
def crossLink (c l : Nat) : Nat := (4 + 8 * hops (c / 12) (3 * (l / 4)) + 4) * tAc + 4 * tLink

/-- First access and crossings of a peer over its links, the farthest of them, with the link round trip of R296. R296
adds to the round trip the crossings between field and I/O die and the remote home's first access; the kind of home
is the peer's to know, so that the largest of R262 is charged, and the crossings inside the peer are not (log entry
108). -/
def pathPeer (c : Nat) (links : List Nat) : Nat :=
  (links.foldl (fun a l => Nat.max a (crossLink c l)) (if links.isEmpty then crossLink c (4 * (c / 24)) else 0)) +
    280 * tLink + firstStack true

/-- Whether a range lies in the windows of cluster c, or of the twin that c owns. -/
def ownWindow (c : Nat) (twin : Bool) (rg : List Word) : Bool :=
  decide (rgKind rg = 4) && (decide (rgCluster rg = c) || (twin && decide (rgCluster rg = c + 1)))

/-- Largest of a list. -/
def maxOf (l : List Nat) : Nat := l.foldl Nat.max 0

/-- Homes 0–19 that a range spans. -/
def rgHomes (rg : List Word) : List Nat :=
  match rgKind rg with
  | 1 => setBits 16 (rgStacks rg)
  | 2 => rgBrStacks rg
  | 3 => let h := rgBase rg / halfSize; [16 + 2 * h, 17 + 2 * h]
  | _ => []

/-- Homes 0–19 that an interval of a range's offsets touches: it is walked in the steps after which the home changes
(R257, R258, R261). -/
def hullHomes (rg : List Word) (h : Int × Int) : List Nat :=
  let lo := h.1.toNat
  let hi := h.2.toNat
  let walk (org step cap : Nat) : List Nat :=
    let u := (org + lo) / step
    (List.range (min cap ((org + hi) / step - u + 1))).map (fun i => homeOf (rgAddr rg (max lo ((u + i) * step - org))))
  match rgKind rg with
  | 1 => walk 0 32768 (setBits 16 (rgStacks rg)).length
  | 2 => walk 0 (2048 * max 1 (rgRows rg) * max 1 (rgBankList rg).length) 512
  | 3 => walk (rgBase rg % halfSize) 960 16
  | _ => []

/-- Homes 0–19 that a tensor spans; all of the range's where no entry is given (R99, R269). -/
def teHomes (e rg : List Word) : List Nat :=
  if e.isEmpty || teResident e || teEmpty e then rgHomes rg else uniq ((planeHulls e).flatMap (hullHomes rg))

/-- Extra clocks of a regulated first access (R269). -/
def State.regLatency (s : State) (p : Nat) (e rg : List Word) : Nat :=
  maxOf ((teHomes e rg).map (fun h =>
    let b := s.bucket h p
    if b.enable then cdiv 256 b.rate * 16 * (if h < 16 then tBs else tNs) else 0))

/-- First-access latency of a range's farthest home, without crossings (R262). -/
def rgFirst (rg : List Word) : Nat :=
  match rgKind rg with
  | 1 => firstStack false
  | 2 => firstStack true
  | 3 => firstHeath
  | 4 => firstWindow
  | 5 => 280 * tLink + firstStack true
  | _ => 0

/-- First-access latency with the crossings of a cluster's path to a tensor of a range; 0 for its own window. -/
def State.farLatency (s : State) (c p : Nat) (twin : Bool) (e rg : List Word) : Nat :=
  if ownWindow c twin rg then 0
  else (match rgKind rg with
    | 1 | 2 => maxOf (((teHomes e rg).filter (· < 16)).map (crossStack c)) + rgFirst rg
    | 3 => crossHeath c (rgBase rg / halfSize) + firstHeath
    | 4 => crossWindow c (rgCluster rg) + firstWindow
    | _ => pathPeer c (s.peerLinks (rgPeerDev rg))) + s.regLatency p e rg

/-- Seven times a rate in bytes per ac, held to a peer's link rate and to the partition's regulators at the tensor's
homes (R192, R269). -/
def State.heldRate7 (s : State) (p : Nat) (e rg : List Word) (r7 : Nat) : Nat :=
  let r := if rgKind rg = 5 then min r7 (7 * 285) else r7
  let hs := (teHomes e rg).filter (fun h => (s.bucket h p).enable)
  if hs.isEmpty then r
  else min r (hs.foldl (fun a h => a + (s.bucket h p).rate * 4 * (if h < 16 then 5 else 10)) 0)

/-- Seven times the bytes per ac of the port that reaches a range: the meadow's, or the fabric port (R117, R141). -/
def State.portRate7 (s : State) (c p : Nat) (twin : Bool) (e rg : List Word) : Nat :=
  let x := if twin then 2 else 1
  if ownWindow c twin rg then 7 * 2048 * x else s.heldRate7 p e rg (7 * 1536 * x)

/-- Seven times the bytes per ac at which an operand of a product streams, under R60, R99, R192 and R269. -/
def State.streamRate7 (s : State) (p : Nat) (twin : Bool) (e rg : List Word) : Nat :=
  let base := 7 * 1536 * (if twin then 2 else 1)
  s.heldRate7 p e rg (if rgKind rg = 2 then min base (7 * 314 * ((teHomes e rg).filter (· < 16)).length) else base)

/-- Time to move amounts one after another, each at seven times a rate: the sum of the quotients, rounded up. -/
def sumTimes (l : List (Nat × Nat)) : Nat :=
  let q := l.foldl (fun (a : Nat × Nat) x =>
    let r := max 1 x.2
    (a.1 * r + 7 * x.1 * a.2, a.2 * r)) (0, 1)
  cdiv q.1 q.2

/-- Bytes of n runs of k elements along the block dimension, with scale, tag and low planes. -/
def planeBytes (e : List Word) (n k : Nat) : Nat :=
  let w := (teType e).width
  let bl := (teType e).blockLen
  n * (cdiv (k * w) 8 + (if teScaled e then cdiv k bl else 0) +
    (if teTagged e then cdiv (k * w) 8 + cdiv (cdiv k bl) 8 else 0))

/-- The g of a shape code 1–6 (or with K-split 9–14). -/
def shapeG (code : Nat) : Nat := 2 ^ ((code - 1) % 8)

/-- Whether a shape code asks for K-split. -/
def shapeSplit (code : Nat) : Bool := decide (8 ≤ code)

/-- c(u) of R56 by shape and class. -/
def unitCost (g cls : Nat) : Nat :=
  match cls with
  | 1 => if g = 1 then 43 else 32
  | 2 => if g = 1 then 23 else 16
  | 8 => if g = 1 then 12 else if g = 2 then 6 else 4
  | _ => if g = 1 then 23 else if g = 2 then 12 else 8

/-- Positions of a K unit (R55). -/
def unitLenK (a b : EType) : Nat := if a = .tern ∧ b = .tern then 128 else 32

/-- Factor a of an audit tile's cost (R61). -/
def auditFactor (a : EType) (es : List Word) : Nat := if es.isEmpty && decide (rateClass a = 1) then 32 else 16

/-- Whether a product's operands make it eligible for audit (R43). -/
def auditTypes (a b : EType) : Bool := [a, b].any (fun t => t == .fp4 || t == .tern)

/-- Rows that a descriptor is charged for: the size of dimension 1, or the index tensor's capacity. -/
def chargedRows (es : List (List Word)) (pos : Nat) : Nat :=
  let e := es.getD pos []
  if teBound e then teSize (es.getD (5 + pos) []) 0 else tePadded e 1

/-- What a product's cost needs: rows, depth, columns, batch. -/
structure MatDims where
  m : Nat
  k : Nat
  n : Nat
  batch : Nat
  deriving DecidableEq, Repr

/-- What the charge of a product needs of an operand: its type, whether it has a tag plane, whether it is streamed and
at seven times which rate, and the bytes of n runs of k elements with their planes. -/
structure Feed where
  t : EType
  tagged : Bool
  far : Bool
  rate7 : Nat
  bytes : Nat → Nat → Nat

/-- A tensor operand of a product of cluster c. -/
def State.feed (s : State) (c p : Nat) (twin : Bool) (e rg : List Word) : Feed :=
  ⟨teType e, teTagged e, !ownWindow c twin rg, s.streamRate7 p twin e rg, planeBytes e⟩

/-- C of R60 in ac for one batch entry, without the latencies, for a resolved shape; `sbuf` is the stream buffer's size
and `out7` seven times the rate at which D's home takes bytes. -/
def matAc (twin : Bool) (a b : Feed) (ed : List Word) (sbuf out7 : Nat) (d : MatDims) (code : Nat) : Nat :=
  let g := shapeG code
  let split := shapeSplit code && twin
  let rows := 16 * g
  let cols := 64 * (32 / g) * (if twin && !split then 2 else 1)
  let cls := min (rateClass a.t) (rateClass b.t)
  let cls := if a.tagged || b.tagged then min cls 2 else cls
  let u := cdiv d.k (unitLenK a.t b.t)
  let sT := (if split then cdiv u 2 else u) * unitCost g cls
  let drain := cdiv (7 * (rows * cols * ((teType ed).width / 8))) (min (7 * (if twin && !split then 2048 else 1024)) out7)
  let mt := cdiv d.m rows
  let nt := cdiv d.n cols
  16 + drain + (List.range nt).foldl (fun acc j =>
    let panel := b.bytes (min cols (d.n - j * cols)) d.k
    let keep := decide (panel ≤ sbuf)
    acc + (List.range mt).foldl (fun acc i =>
      let xa := if a.far then a.bytes (min rows (d.m - i * rows)) d.k else 0
      let xb := if b.far && (!keep || decide (i = 0)) then panel else 0
      acc + max (max sT drain) (sumTimes [(xa, a.rate7), (xb, b.rate7)])) 0) 0

/-- Size of the stream buffer of a cluster, or of a twin's halves together, under TEN_STREAM_CFG (R58). -/
def streamBuf (twin : Bool) (lo hi : Word) : Nat := wb lo 15 8 * 65536 + (if twin then wb hi 15 8 * 65536 else 0)

/-- Latencies that R60 adds for streamed operands and outputs beyond the meadow: the farthest of each. -/
def State.farIo (s : State) (w : List Word) (p : Nat) (ins outs : List (List Word × List Word)) : Nat :=
  let f (l : List (List Word × List Word)) : Nat :=
    maxOf (l.map (fun x => if x.1.isEmpty then 0 else s.farLatency (twHome w) p (twTwin w) x.1 x.2))
  f ins + f outs

/-- C_audit of R61 for a product, in ac. -/
def State.auditCharge (s : State) (w : List Word) (f : Nat) (a : EType) (src : List Word) (elig : Bool) (k : Nat) : Nat :=
  if s.fld .schAuditCfg f 15 0 ≠ 0 && elig && !bitOf (twAuditTol w) 7 then 16 + auditFactor a src * cdiv k 32 else 0

/-- C of a product without its audit and latencies, in ac, for a resolved shape. -/
def State.prodAc (s : State) (w : List Word) (p : Nat) (a b : Feed) (ed rd : List Word) (d : MatDims) (code : Nat) : Nat :=
  let c := twHome w
  let t := twTwin w
  let out7 := if ownWindow c t rd then 7 * 2048 else s.heldRate7 p ed rd (7 * 2048)
  d.batch * matAc t a b ed (streamBuf t (s.reg .tenStreamCfg c) (s.reg .tenStreamCfg (c + 1))) out7 d code

/-- The two operands of a product. -/
def State.matFeeds (s : State) (w : List Word) (p : Nat) (es rs : List (List Word)) : Feed × Feed :=
  (s.feed (twHome w) p (twTwin w) (es.getD 0 []) (rs.getD 0 []), s.feed (twHome w) p (twTwin w) (es.getD 1 []) (rs.getD 1 []))

/-- Charge of a product with a resolved shape, in time units. -/
def State.matCharge (s : State) (w : List Word) (f p : Nat) (es : List (List Word)) (rs : List (List Word))
    (d : MatDims) (code : Nat) : Nat :=
  let ab := s.matFeeds w p es rs
  let aud := s.auditCharge w f ab.1.t (es.getD 4 []) (auditTypes ab.1.t ab.2.t) d.k
  (s.prodAc w p ab.1 ab.2 (es.getD 3 []) (rs.getD 3 []) d code + aud) * tAc +
    s.farIo w p [(es.getD 0 [], rs.getD 0 []), (es.getD 1 [], rs.getD 1 [])] [(es.getD 3 [], rs.getD 3 [])]

/-- Shape codes among which an automatic shape is chosen: K-split needs a twin and a scaled operand. -/
def shapeChoices (w : List Word) (scaled : Bool) : List Nat :=
  [1, 2, 3, 4, 5, 6] ++ (if twTwin w && scaled then [9, 10, 11, 12, 13, 14] else [])

/-- The first of the list with the smallest figure. -/
def bestBy (f : Nat → Nat) : List Nat → Nat
  | [] => 0
  | [a] => a
  | a :: t => let b := bestBy f t; if f a ≤ f b then a else b

/-- The shape of a product (R53): the descriptor's, or the cheapest of the choices. -/
def State.pickShape (s : State) (w : List Word) (p : Nat) (a b : Feed) (scaled : Bool) (ed rd : List Word) (d : MatDims) : Nat :=
  if twShape w = 0 then bestBy (fun c => s.prodAc w p a b ed rd d c) (shapeChoices w scaled) else twShape w

/-- The shape of a product from its entries. -/
def State.shapeOf (s : State) (w : List Word) (p : Nat) (es rs : List (List Word)) (d : MatDims) : Nat :=
  let ab := s.matFeeds w p es rs
  s.pickShape w p ab.1 ab.2 (teScaled (es.getD 0 []) || teScaled (es.getD 1 [])) (es.getD 3 []) (rs.getD 3 []) d

/-- Dimensions of a product as charged (R60, R101). -/
def matDims (es : List (List Word)) : MatDims :=
  let ea := es.getD 0 []
  ⟨chargedRows es 0, tePadded ea 0, teSize (es.getD 1 []) 0 + tePadLo (es.getD 1 []) 0 + tePadHi (es.getD 1 []) 0,
   if teRank ea = 3 then tePadded ea 2 else 1⟩

/-! ## Vector and copy (R117, R141) -/

/-- Cost of one chain step (R107, R110). -/
def stepCost (op : Nat) : Nat :=
  match op with
  | 0x10 | 0x13 | 0x15 | 0x37 => 2
  | 0x11 | 0x12 | 0x14 | 0x16 | 0x17 | 0x18 | 0x19 | 0x1B | 0x1C => 4
  | 0x1A => 6
  | _ => 1

/-- Chain step i of a vector descriptor (R140). -/
def twStep (w : List Word) (i : Nat) : BitVec 32 := (twArea w (i / 2)).extractLsb' (32 * (i % 2)) 32

/-- Operation of a chain step. -/
def stepOp (x : BitVec 32) : Nat := bits x.toNat 31 24

/-- The steps of a chain. -/
def twChain (w : List Word) : List (BitVec 32) := (List.range (twChainLen w)).map (twStep w)

/-- Bytes of a full strip of an operand. -/
def stripBytes (e : List Word) (n : Nat) : Nat := if e.isEmpty then 0 else planeBytes e 1 n

/-- Smallest s of at least 1 with k ≤ 2^s, from a start. -/
def logUp (k : Nat) : Nat := if k ≤ 2 then 1 else Nat.log2 (k - 1) + 1

/-- Whether C of a vector descriptor takes the positions of ARGMAX or TOPK: the manual names no place for them, and a C that
may be written takes them; one that is only read is the third source of R104 (DESIGN CHOICE, log entry 114). -/
def posOut (w c : List Word) : Bool := decide (twRed w = 4 ∨ twRed w = 5) && !c.isEmpty && teWrites c

/-- C of R117 in ac for an iteration shape: a reduction's strips write nothing, so that only the operands that a strip
loads count in its round. -/
def State.vecAc (s : State) (w : List Word) (es : List (List Word)) (c p : Nat) (rs : List (List Word)) (shape : List Nat) : Nat :=
  let twin := twTwin w
  let e := if twin then 4 else 2
  let n := if twPacked w then 512 else 256
  let l := shape.headD 0
  let rows := prodOf (shape.drop 1)
  let used := if twRed w = 0 then [0, 1, 2, 3] else if posOut w (es.getD 2 []) then [0, 1] else [0, 1, 2]
  let far (i : Nat) : Bool := !ownWindow c twin (rs.getD i [])
  let bytes (i : Nat) : Nat := e * stripBytes (es.getD i []) n
  let own := (used.filter (fun i => !far i)).foldl (fun a i => a + bytes i) 0
  let out := sumTimes ((used.filter far).map (fun i => (bytes i, s.portRate7 c p twin (es.getD i []) (rs.getD i []))))
  let cq := if teScaled (es.getD 3 []) then 2 else 0
  let chain := (twChain w).foldl (fun a x => a + stepCost (stepOp x)) 0
  let cr := max (max 1 (chain + cq)) (max (cdiv own (if twin then 4096 else 2048)) out)
  if twRed w = 0 then 8 + cdiv (cdiv l n * rows) e * cr
  else
    let rr := cdiv (cdiv l n) 2
    let k := twKm1 w + 1
    let sl := logUp k
    let row := match twRed w with
      | 5 => 5 * rr * cr + 64 + sl * (sl + 1) / 2 * cdiv (2 ^ sl) 512 + cdiv (8 * k) 2048
      | 6 => rr * cr + l + 8
      | _ => rr * cr + 10
    8 + (if twin then cdiv rows 2 else rows) * row

/-- Iteration shape of a vector descriptor from its entries as charged (R104). -/
def vecShape (w : List Word) (es : List (List Word)) : List Nat :=
  let p := if twRed w ≠ 0 then 0 else 3
  let e := es.getD p []
  (teDims e).map (fun d => if teBound e ∧ d = teIdxDim e then teSize (es.getD (5 + p) []) 0
    else if p = 0 then tePadded e d else teSize e d)

/-- C of COPY in ac (R141). -/
def State.copyAc (s : State) (es : List (List Word)) (c p : Nat) (twin : Bool) (rs : List (List Word)) : Nat :=
  let a := es.getD 0 []
  let shape := (teDims a).map (fun d => if teBound a ∧ d = teIdxDim a then teSize (es.getD 5 []) 0 else tePadded a d)
  let r (i : Nat) : Nat := s.portRate7 c p twin (es.getD i []) (rs.getD i [])
  8 + cdiv (7 * planeBytes a (prodOf (shape.drop 1)) (shape.headD 0)) (min (r 0) (r 3))

/-! ## Attention (R224, R225, R230) -/

/-- Fields of the partition's KV format that costs and shapes need (R198). -/
structure KvFmt where
  layers : Nat
  dk : Nat
  dv : Nat
  et : EType
  scaled : Bool
  latent : Bool
  rope : Nat
  deriving DecidableEq, Repr

/-- The KV format of a partition. -/
def KvFmt.of (v : Word) : KvFmt :=
  ⟨wb v 7 0, 32 * (wb v 14 8 + 1), 32 * wb v 22 15, (EType.ofCode (wb v 27 23)).getD .fp32, wbit v 28, wbit v 29,
   wb v 32 30⟩

/-- The format of a partition as the field holds it. -/
def State.kvFmt (s : State) (f p : Nat) : KvFmt := KvFmt.of (s.cfg f .fmt p)

/-- Whether a format is valid (R198, R215): a latent format keeps at least one element besides the rotary
tail. -/
def KvFmt.ok (k : KvFmt) : Bool :=
  decide (k.layers ≠ 0) &&
    (match k.et with
      | .bf16 | .fp16 => !k.scaled
      | .e4m3 | .e5m2 => true
      | _ => false) &&
    (if k.latent then decide (k.dv = 0 ∧ 32 * k.rope < k.dk) else decide (k.dv ≠ 0 ∧ k.rope = 0)) &&
    decide (k.dv ≤ 4096)

/-- Bytes of an element. -/
def KvFmt.eb (k : KvFmt) : Nat := k.et.width / 8

/-- Lb and F of R198. -/
def KvFmt.lb (k : KvFmt) : Nat := 64 * (k.dk + k.dv) * k.eb + 2 * b2n k.scaled * (k.dk + k.dv)
def KvFmt.frame (k : KvFmt) : Nat := k.layers * k.lb

/-- Rate class of the scores or the value product. -/
def pairClass (a b : EType) : Nat := min (rateClass a) (rateClass b)

/-- The blocks of R224: nb × (max(C_mm, C_vec, C_kv) + 2), halved on a twin. -/
def attBlocks (twin : Bool) (u d dv rs' rv ckv nb : Nat) : Nat :=
  let h := if twin then 2 else 1
  nb * (max (max (cdiv (cdiv (u * (d * rv + dv * rs')) (32 * rs' * rv)) h) (cdiv (8 * u) h)) (cdiv ckv h) + 2)

/-- C_fin of R224. -/
def attFin (twin : Bool) (u dv : Nat) : Nat := 8 + 6 * cdiv (u * dv) (if twin then 64 else 32)

end Sys2Proof.Machine
end

