-- ==== Sys2Proof/Machine/Checks.lean ====
section
/-! DEFINITION. The checks of a task descriptor at fetch and dispatch, in the order of R142: its own fields
(R140, R141), glint ownership (R143), the record's range, placement, tensors and their use, operand pairs,
shapes and bindings (R141, R104–R112, R188, R202, R217–R228, R236), and in-place outputs (R153). -/
namespace Sys2Proof.Machine

/-! ## The descriptor's own fields -/

/-- Matrix products on the arrays or in the banks. -/
def isMatrix (op : Nat) : Bool := decide (0x10 ≤ op ∧ op ≤ 0x12)

/-- Bank-capable opcodes (R141, R216). -/
def bankCapable (op : Nat) : Bool := isMatrix op || decide (op = 0x53)

/-- KV, attention, serving and atomic opcodes. -/
def isKv (op : Nat) : Bool := decide (0x40 ≤ op ∧ op ≤ 0x46)
def isAttn (op : Nat) : Bool := decide (0x50 ≤ op ∧ op ≤ 0x55)
def isSrv (op : Nat) : Bool := decide (0x60 ≤ op ∧ op ≤ 0x63)
def isAtom (op : Nat) : Bool := decide (0x70 ≤ op ∧ op ≤ 0x73)

/-- The opcodes of R141. -/
def opcodeOk (op : Nat) : Bool :=
  decide (op ≤ 3) || isMatrix op || decide (op = 0x20 ∨ op = 0x30) || isKv op || isAttn op || isSrv op || isAtom op

/-- Bits of the area words 9–12 that an opcode's fields use, as the number of low bits, with holes listed by
`areaHoles`. -/
def areaWidth (op : Nat) : Nat × Nat × Nat × Nat :=
  match op with
  | 0x01 => (48, 0, 0, 0)
  | 0x02 => (56, 16, 0, 0)
  | 0x03 => (0, 16, 0, 0)
  | 0x20 => (64, 64, 64, 64)
  | 0x50 | 0x51 | 0x52 | 0x53 => (45, 58, 64, 53)
  | 0x54 => (24, 14, 16, 0)
  | 0x55 => (46, 64, 64, 0)
  | 0x60 => (1, 0, 0, 0)
  | 0x61 => (21, 0, 0, 0)
  | 0x70 | 0x72 | 0x73 => (2, 0, 0, 0)
  | 0x71 => (3, 0, 0, 0)
  | _ => if isKv op then (58, 49, 0, 0) else (0, 0, 0, 0)

/-- A reserved bit of the area is set. -/
def areaBad (w : List Word) : Bool :=
  let op := twOpcode w
  let (a, b, c, d) := areaWidth op
  decide ((twArea w 0).toNat / 2 ^ a ≠ 0 ∨ (twArea w 1).toNat / 2 ^ b ≠ 0 ∨ (twArea w 2).toNat / 2 ^ c ≠ 0 ∨
    (twArea w 3).toNat / 2 ^ d ≠ 0) || (isKv op && wbit (twArea w 1) 19)

/-- Vector operations of R107 and prism operations of R110. -/
def vecOpOk (op : Nat) : Bool :=
  decide ((1 ≤ op ∧ op ≤ 0x0D) ∨ (0x10 ≤ op ∧ op ≤ 0x1C) ∨ (0x20 ≤ op ∧ op ≤ 0x27) ∨ (0x30 ≤ op ∧ op ≤ 0x37))

/-- Operations that packed mode takes (R106). -/
def packedOk (op : Nat) : Bool := decide ((1 ≤ op ∧ op ≤ 0x0D) ∨ (0x30 ≤ op ∧ op ≤ 0x37))

/-- Bits of p that a prism operation names (R110). -/
def prismBits (op : Nat) : Nat :=
  match op with
  | 0x30 | 0x31 => 8
  | 0x32 => 9
  | _ => 0

/-- A chain step with a reserved field (R105, R110). -/
def stepBad (packed : Bool) (x : BitVec 32) : Bool :=
  let v := x.toNat
  let op := bits v 31 24
  !vecOpOk op || (packed && !packedOk op) ||
    (if 0x30 ≤ op then decide (bits v 11 0 / 2 ^ prismBits op ≠ 0) else decide (bits v 7 6 = 3))

/-- Fields of a vector descriptor outside their limits. -/
def vopBad (w : List Word) : Bool :=
  let n := twChainLen w
  (List.range 8).any (fun i => decide (n ≤ i ∧ twStep w i ≠ 0)) ||
    (twChain w).any (stepBad (twPacked w)) || (twPacked w && decide (twRed w ≠ 0)) ||
    decide (twSdst w ≠ 0 ∧ twRed w = 0) || decide (twSmode w ≠ 0)

/-- Tensor handles that an opcode must leave 0. -/
def handlesBad (w : List Word) : Bool :=
  let b := twB w ≠ 0
  let c := twC w ≠ 0
  match twOpcode w with
  | 0x10 | 0x11 | 0x12 => decide c
  | 0x51 => decide c
  | 0x70 | 0x71 | 0x72 => decide b
  | _ => false

/-- ARING's own fields (R228, R229). -/
def ringBad (w : List Word) (dev : Nat) : Bool :=
  let v := (twArea w 0).toNat
  let n := bits v 3 0
  let pop (x : Nat) : Nat := (setBits 4 x).length
  !twNk w || decide (n < 2 ∨ 8 < n ∨ n ≤ bits v 7 4 ∨ bits v 19 16 = dev ∨ bits v 23 20 = dev ∨
    pop (bits v 11 8) = 0 ∨ pop (bits v 11 8) ≠ pop (bits v 15 12))

/-- Step 1 of R142: malformed by the descriptor's own fields. -/
def twMalformed (w : List Word) (dev : Nat) : Bool :=
  let op := twOpcode w
  let w0 := wordAt w 0
  !opcodeOk op ||
  decide (wb w0 23 23 ≠ 0 ∨ wb w0 31 28 ≠ 0 ∨ wb w0 47 47 ≠ 0 ∨ wb w0 63 62 ≠ 0 ∨
    wb (wordAt w 13) 63 57 ≠ 0 ∨ wb (wordAt w 14) 63 49 ≠ 0 ∨ wordAt w 15 ≠ 0) ||
  decide (twRoute w = 3 ∨ wb w0 18 17 = 3 ∨ twSmode w = 3 ∨ bits (twAuditTol w) 6 5 ≠ 0 ∨ twRed w = 7 ∨
    8 < twChainLen w ∨ twRecOff w % 32 ≠ 0) ||
  (!bankCapable op && decide (twRoute w ≠ 0)) || areaBad w || handlesBad w ||
  ((isMatrix op || decide (op = 0x46 ∨ op = 0x53)) && decide (twShape w = 7 ∨ twShape w = 8 ∨ twShape w = 15)) ||
  (decide (op = 0x20) && vopBad w) ||
  (isSrv op && !twStreamValid w) ||
  (decide (op = 0x55) && ringBad w dev) ||
  (isAtom op && decide (twSmode w ≠ 0)) ||
  (decide (op = 0x40 ∨ op = 0x43) && decide (wb (twArea w 1) 15 8 = 0)) ||
  (decide (op = 0x45) && decide (16384 < wb (twArea w 1) 48 34)) ||
  (decide (op = 0x52) && decide (wb (twArea w 0) 15 0 ≠ 0))

/-! ## Glints (R143) -/

/-- The context of a field whose range holds a slot; none for an export slot (R137). -/
def State.slotOwner (s : State) (f slot : Nat) : Option Nat :=
  (s.sc.ctxs.find? (fun p => decide (p.2.field = f ∧ cwGBase p.2.cw ≤ slot ∧
    slot < cwGBase p.2.cw + cwGCount p.2.cw))).map (·.1)

/-- Reserved bits of a glint reference. -/
def refClean (r : Word) : Bool := decide (wb r 31 14 = 0 ∧ wb r 62 48 = 0)

def refSlot (r : Word) : Nat := wb r 11 0
def refField (r : Word) : Nat := wb r 13 12
def refEpoch (r : Word) : Nat := wb r 47 32
def refValid (r : Word) : Bool := wbit r 63

/-- Whether a reference names a slot of the context in its home field. -/
def State.ownSlot (s : State) (f x : Nat) (r : Word) : Bool :=
  decide (refField r = f) && decide (s.slotOwner f (refSlot r) = some x)

/-- Step 2 of R142: the detail of the first reference that breaks R143. -/
def State.glintBad (s : State) (f x : Nat) (w : List Word) : Option Nat :=
  let aw := (List.range 4).find? (fun i =>
    let r := (twAwait w).getD i 0
    refValid r && !(refClean r && (s.ownSlot f x r || (s.slotOwner (refField r) (refSlot r)).isNone)))
  let sg := (List.range 2).find? (fun i =>
    let r := (twSignal w).getD i 0
    refValid r && !(refClean r && s.ownSlot f x r))
  let ga := decide (twOpcode w = 1) &&
    !(decide (wb (twArea w 0) 31 14 = 0) && s.ownSlot f x (twArea w 0))
  match aw, sg with
  | some i, _ => some i
  | none, some i => some (4 + i)
  | none, none => if ga then some 6 else none

/-- Step 3: the record's range. -/
def State.recordBad (s : State) (p : Nat) (w : List Word) : Bool :=
  if twRecRange w = 0 then false
  else match s.range (twRecRange w) with
    | none => true
    | some rg => !rgWr rg p || decide (rgLen rg < twRecOff w + 32)

/-- Step 4: placement. -/
def State.placementBad (s : State) (f : Nat) (w : List Word) : Bool :=
  let c := twHome w
  let tw := s.twinState c
  decide (48 ≤ c ∨ c / 12 ≠ f) || s.flag .tenId c 8 || !s.ready c ||
    (if twTwin w then decide (c % 2 = 1 ∨ tw ≠ 2) else decide (c % 2 = 1 ∧ tw = 2))

/-! ## Tensors -/

/-- Handles named in the area, which follow A–D, audit_src and the index tensors in the sampled entries, at
positions 10 on. -/
def areaHandles (w : List Word) : List Nat :=
  let h (i lo : Nat) : Nat := wb (twArea w i) (lo + 15) lo
  match twOpcode w with
  | 0x50 | 0x51 | 0x52 => [h 2 32, h 2 48, h 3 0, h 3 16]
  | 0x54 => [h 2 0]
  | 0x55 => [h 1 32, h 1 48, h 2 0, h 2 16, h 2 32, h 2 48]
  | _ => []

/-- A tensor operand of an opcode: its position, whether it must be given, whether it is an output. -/
structure Role where
  pos : Nat
  need : Bool
  out : Bool
  deriving DecidableEq, Repr

/-- The operands of an opcode. -/
def twRoles (w : List Word) (dv : Nat) : List Role :=
  match twOpcode w with
  | 0x10 | 0x11 | 0x12 => [⟨0, true, false⟩, ⟨1, true, false⟩, ⟨3, true, true⟩, ⟨4, false, false⟩]
  | 0x20 =>
    if twRed w = 0 then [⟨0, false, false⟩, ⟨1, false, false⟩, ⟨2, false, false⟩, ⟨3, true, true⟩]
    else [⟨0, true, false⟩, ⟨1, false, false⟩, ⟨2, false, decide (twRed w = 4 ∨ twRed w = 5)⟩,
      ⟨3, decide (twSdst w = 0), true⟩]
  | 0x30 => [⟨0, true, false⟩, ⟨3, true, true⟩]
  | 0x40 => [⟨0, true, false⟩, ⟨1, decide (dv ≠ 0), false⟩]
  | 0x43 => [⟨3, true, true⟩, ⟨2, decide (dv ≠ 0), true⟩]
  | 0x44 => [⟨0, true, false⟩, ⟨3, true, true⟩]
  | 0x46 => [⟨1, true, false⟩, ⟨3, true, true⟩, ⟨4, false, false⟩]
  | 0x50 | 0x52 => [⟨0, true, false⟩, ⟨1, true, false⟩, ⟨2, true, false⟩, ⟨3, true, true⟩, ⟨10, false, false⟩,
      ⟨11, false, false⟩, ⟨12, false, false⟩, ⟨13, false, true⟩]
  | 0x51 => [⟨0, true, false⟩, ⟨1, true, false⟩, ⟨3, true, true⟩, ⟨10, false, false⟩, ⟨11, false, false⟩,
      ⟨12, false, false⟩, ⟨13, false, true⟩]
  | 0x53 => [⟨0, true, false⟩, ⟨1, true, false⟩, ⟨3, true, true⟩]
  | 0x54 => [⟨10, true, true⟩]
  | 0x55 => [⟨0, true, false⟩, ⟨1, true, false⟩, ⟨2, true, false⟩, ⟨3, true, true⟩, ⟨10, false, false⟩,
      ⟨11, false, true⟩, ⟨12, true, false⟩, ⟨13, true, false⟩, ⟨14, true, true⟩, ⟨15, true, true⟩]
  | 0x61 => [⟨0, true, false⟩]
  | 0x62 => [⟨0, true, false⟩, ⟨1, true, false⟩]
  | 0x63 => [⟨1, false, false⟩, ⟨3, true, true⟩]
  | 0x70 | 0x71 | 0x72 => [⟨0, true, false⟩, ⟨2, false, true⟩, ⟨3, true, true⟩]
  | 0x73 => [⟨0, true, false⟩, ⟨1, true, false⟩, ⟨2, false, true⟩, ⟨3, true, true⟩]
  | _ => []

/-- The handle at a position. -/
def handleAt (w : List Word) (pos : Nat) : Nat :=
  if pos < 5 then twHandle w pos else (areaHandles w).getD (pos - 10) 0

/-- Insert a role by position. -/
def insertRole (r : Role) : List Role → List Role
  | [] => [r]
  | x :: t => if r.pos < x.pos then r :: x :: t else x :: insertRole r t

/-- Roles in ascending position: A, B, C, D, audit source, area. -/
def sortRoles (l : List Role) : List Role := l.foldl (fun a r => insertRole r a) []

/-- Entries read so far, and the first island that gave no answer to a read. -/
abbrev EntryList := List (List Word) × Option Nat

/-- Read the entry of a handle, if one is given, and append it. -/
def State.fetchEntry (x h : Nat) (p : State × EntryList) : State × EntryList :=
  if h = 0 then (p.1, p.2.1 ++ [[]], p.2.2)
  else
    let (s, e) := p.1.entry x h
    (s, p.2.1 ++ [e.toWords], p.2.2 <|> e.island)

/-- Read every entry that a descriptor names: A–D and audit source, the index tensors that bind them, the area's handles,
and the index tensors that bind those (R120, R132, R148). -/
def State.readEntries (s : State) (x : Nat) (w : List Word) (dv : Nat) : State × EntryList :=
  let used := (twRoles w dv).map (·.pos)
  let own (pos : Nat) (p : State × EntryList) := State.fetchEntry x (if used.contains pos then handleAt w pos else 0) p
  let bind (pos : Nat) (p : State × EntryList) :=
    let e := p.2.1.getD pos []
    State.fetchEntry x (if teBound e then teIndex e else 0) p
  let p := (List.range 5).foldl (fun p i => own i p) (s, [], none)
  let p := (List.range 5).foldl (fun p i => bind i p) p
  let p := (List.range (if (areaHandles w).isEmpty then 0 else 10)).foldl (fun p i => own (10 + i) p) p
  (List.range (areaHandles w).length).foldl (fun p i => bind (10 + i) p) p

/-- Step 5: the position of the first handle that is required and 0, or not valid, or whose index tensor
does not meet R131. -/
def badTensor (w : List Word) (dv : Nat) (es : List (List Word)) : Option Nat :=
  ((sortRoles (twRoles w dv)).find? (fun r =>
    let e := es.getD r.pos []
    (r.need || decide (handleAt w r.pos ≠ 0)) && (e.isEmpty ||
      (teBound e && !teIsIndex (es.getD (idxPos r.pos) []))))).map (·.pos)

/-- Whether a role's tensor is written. -/
def Role.writes (r : Role) (w : List Word) (es : List (List Word)) : Bool :=
  r.out && (decide (twOpcode w ≠ 0x20 ∨ r.pos ≠ 2) || posOut w (es.getD 2 []))

/-- Step 6: the position of the first tensor whose use does not fit its role. -/
def badUse (w : List Word) (dv : Nat) (es : List (List Word)) : Option Nat :=
  ((sortRoles (twRoles w dv)).find? (fun r =>
    let e := es.getD r.pos []
    !e.isEmpty &&
      (if r.writes w es then
        decide (teUse e = 0) || (teResident e && decide (twOpcode w ≠ 0x54)) ||
          ((isAtom (twOpcode w) && decide (r.pos = 3) || decide (twOpcode w = 0x54)) && decide (teUse e ≠ 2))
      else decide (teUse e = 1)))).map (·.pos)

/-- The multiplicands of a product: A and B, or for KEXPAND the latent rows and B. -/
def pairBad (w : List Word) (k : KvFmt) (es : List (List Word)) : Bool :=
  let b := es.getD 1 []
  match twOpcode w with
  | 0x10 | 0x11 | 0x12 | 0x53 => !pairOk (teType (es.getD 0 [])) (teType b)
  | 0x46 => !pairOk k.et (teType b)
  | 0x50 | 0x51 | 0x52 | 0x55 =>
    let v := if twOpcode w = 0x51 then b else es.getD 2 []
    let pt : EType := if twOpcode w ≠ 0x55 ∧ wbit (twArea w 1) 16 then .e4m3 else .bf16
    !pairOk (teType (es.getD 0 [])) (teType b) || !pairOk pt (if teScaled v then .bf16 else teType v)
  | _ => false

/-! ## Shapes -/

/-- A size of a view: fixed, or the count of an index tensor. -/
inductive DimSz where
  | fixed (n : Nat)
  | counted (h : Nat)
  deriving DecidableEq, Repr

/-- Counts of index tensors by handle, once they are sampled (R132). -/
abbrev IdxCounts := Nat → Option Nat

/-- No count is sampled yet. -/
def noCounts : IdxCounts := fun _ => none

/-- View sizes of a tensor: a bound dimension has its count's size once that is sampled. -/
def dimsOf (cs : IdxCounts) (e : List Word) (reads : Bool) : List DimSz :=
  (teDims e).map (fun d => if teBound e ∧ d = teIdxDim e then
      (match cs (teIndex e) with
        | some n => .fixed n
        | none => .counted (teIndex e))
    else .fixed (if reads then tePadded e d else teSize e d))

/-- Whether two sizes may agree; a count is compared when it is sampled. -/
def dimAgrees (a b : DimSz) : Bool :=
  match a, b with
  | .fixed n, .fixed m => decide (n = m)
  | _, _ => true

/-- Whether two view shapes may agree. -/
def shapesAgree (a b : List DimSz) : Bool :=
  decide (a.length = b.length) && (a.zip b).all (fun p => dimAgrees p.1 p.2)

/-- Whether an entry has exactly these sizes as a reader or writer sees them. -/
def hasShape (cs : IdxCounts) (e : List Word) (reads : Bool) (l : List Nat) : Bool :=
  shapesAgree (dimsOf cs e reads) (l.map .fixed)

/-- Floating types that the arrays drain to; INT32 for an unscaled integer pair (R59). -/
def drainType (e : List Word) (ints : Bool) : Bool :=
  tePlain e && (match teType e with
    | .fp32 | .bf16 | .fp16 => true
    | .int32 => ints
    | _ => false)

/-- Types into which a scatter may add (R133). -/
def addType (e : List Word) : Bool :=
  tePlain e && (match teType e with
    | .fp32 | .bf16 | .fp16 | .int32 | .int64 => true
    | _ => false)

/-- The pairing of a bound D and the scatter mode (R133). -/
def scatterBad (w : List Word) (d : List Word) : Bool :=
  (teBound d != decide (twSmode w = 1 ∨ twSmode w = 2)) || (decide (twSmode w = 2) && !addType d)

/-- A product's shapes, bindings and block dimensions (R141). -/
def matBad (cs : IdxCounts) (w : List Word) (es : List (List Word)) : Bool :=
  let a := es.getD 0 []
  let b := es.getD 1 []
  let d := es.getD 3 []
  let op := twOpcode w
  let r := if op = 0x12 then 3 else 2
  let da := dimsOf cs a true
  let db := dimsOf cs b true
  let dd := dimsOf cs d false
  let g (l : List DimSz) (i : Nat) : DimSz := l.getD i (.fixed 0)
  let rows := if op = 0x11 && teBound a && !teBound d then decide (teSize d 1 = teSize (es.getD 5 []) 0)
    else dimAgrees (g da 1) (g dd 1)
  let unscaled := !teScaled a && !teScaled b
  decide (teRank a ≠ r ∨ teRank b ≠ r ∨ teRank d ≠ r) || !dimAgrees (g da 0) (g db 1) ||
    !dimAgrees (g db 0) (g dd 0) || !rows ||
    (decide (r = 3) && !(dimAgrees (g da 2) (g db 2) && dimAgrees (g da 2) (g dd 2))) ||
    (teScaled a && decide (teBlockDim a ≠ 0)) || (teScaled b && decide (teBlockDim b ≠ 1)) ||
    (if op = 0x11 then !(teBound a && decide (teIdxDim a = 1)) else teBound a) || teBound b ||
    (teBound d && decide (teIdxDim d ≠ 1)) || scatterBad w d ||
    !drainType d (unscaled && intPair (teOp a) (teOp b)) ||
    (shapeSplit (twShape w) && unscaled)

/-- Fields of the KV area (R202). -/
def kvStream (w : List Word) : Nat := wb (twArea w 0) 15 0
def kvPos (w : List Word) : Nat := wb (twArea w 0) 36 16
def kvCount (w : List Word) : Nat := wb (twArea w 0) 57 37
def kvLayer (w : List Word) : Nat := wb (twArea w 1) 7 0
def kvNlayer (w : List Word) : Nat := wb (twArea w 1) 15 8
def kvCommit (w : List Word) : Bool := wbit (twArea w 1) 16
def kvTrunc (w : List Word) : Bool := wbit (twArea w 1) 17
def kvDest (w : List Word) : Nat := wb (twArea w 1) 18 18
def kvPage (w : List Word) : Nat := wb (twArea w 1) 33 20
def kvNpages (w : List Word) : Nat := wb (twArea w 1) 48 34

/-- An audit source that breaks R44: it is unscaled and of a wide type, with the logical shape of A, which for KEXPAND is
that of its latent rows. A gathered A is read through its index, and so are the source's rows, unless the source binds an
index of its own. -/
def auditBad (cs : IdxCounts) (w : List Word) (k : KvFmt) (es : List (List Word)) : Bool :=
  let a := es.getD 0 []
  let t := es.getD 4 []
  let rows : List DimSz := [.fixed (k.dk - 32 * k.rope), .fixed (kvCount w)]
  !t.isEmpty && (teScaled t || !(match teType t with
    | .fp32 | .bf16 | .fp16 => true
    | _ => false) || !(if twOpcode w = 0x46 then shapesAgree rows (dimsOf cs t true) else if teBound t then shapesAgree (dimsOf cs a true) (dimsOf cs t true)
      else shapesAgree ((teDims a).map (fun d => .fixed (tePadded a d))) (dimsOf cs t true)))

/-- A vector descriptor's shapes (R104, R109, R111, R112). -/
def vecBad (cs : IdxCounts) (w : List Word) (es : List (List Word)) : Bool :=
  let red := twRed w
  let d := es.getD 3 []
  let it := if red ≠ 0 then dimsOf cs (es.getD 0 []) true else dimsOf cs d false
  let ins := if posOut w (es.getD 2 []) then [0, 1] else [0, 1, 2]
  let src := ins.any (fun i => let e := es.getD i []; !e.isEmpty && !shapesAgree (dimsOf cs e true) it)
  if red = 0 then
    src || teBound d || (teScaled d && decide (teBlockDim d ≠ 0)) ||
      (twPacked w && !(match teType d with
        | .bf16 | .fp16 => tePlain d
        | _ => false))
  else
    let l := match it.headD (.fixed 0) with
      | .fixed n => n
      | .counted _ => teSize (es.getD 5 []) 0
    let want : List DimSz := .fixed (if red = 5 then twKm1 w + 1 else 1) :: it.drop 1
    let outBad (e : List Word) (ix : Bool) : Bool :=
      !e.isEmpty && (teScaled e || teBound e || !shapesAgree (dimsOf cs e false) want ||
        (ix && decide (teType e ≠ .int32)))
    src || decide (262144 < l ∨ (red = 6 ∧ 4096 < l)) ||
      (decide (twSdst w ≠ 0) && !(it.drop 1).all (fun x => dimAgrees x (.fixed 1))) ||
      outBad d (decide (red = 6)) || (posOut w (es.getD 2 []) && outBad (es.getD 2 []) true)

/-- The type of an operand that packed mode takes from a list of entries. -/
def packedTypes (w : List Word) (es : List (List Word)) : Bool :=
  !twPacked w || [0, 1, 2].all (fun i =>
    let e := es.getD i []
    e.isEmpty || (tePlain e && decide (teType e = teType (es.getD 3 []))))

/-- COPY's operands (R141). -/
def copyBad (cs : IdxCounts) (w : List Word) (es : List (List Word)) : Bool :=
  let a := es.getD 0 []
  let d := es.getD 3 []
  decide (teTypeCode a ≠ teTypeCode d ∨ teStypeCode a ≠ teStypeCode d) || (teTagged a != teTagged d) ||
    (teScaled a && decide (teBlockDim a ≠ teBlockDim d)) || !shapesAgree (dimsOf cs a true) (dimsOf cs d false) ||
    scatterBad w d

/-- An atomic's operands (R188). -/
def atomBad (cs : IdxCounts) (w : List Word) (es : List (List Word)) : Bool :=
  let d := es.getD 3 []
  let t := teType d
  let ok := match twOpcode w with
    | 0x70 => addType d
    | 0x71 => t == .fp32 || t == .int32 || t == .int64
    | 0x72 => decide (t.width = 16 ∨ t.width = 32 ∨ t.width = 64)
    | _ => t == .int32 || t == .int64
  !ok || [0, 1, 2, 3].any (fun i =>
    let e := es.getD i []
    !e.isEmpty && (teScaled e || decide (teType e ≠ t) ||
      !shapesAgree (dimsOf cs e (decide (i = 0 ∨ i = 1))) (dimsOf cs d false)))

/-- Whether an entry has the format's types (R202, R217). -/
def kvTyped (k : KvFmt) (e : List Word) : Bool :=
  decide (teType e = k.et) && decide (teStype e = if k.scaled then .e8m0 else .none) &&
    (!k.scaled || decide (teBlockDim e = 0))

/-- A KV descriptor's operands (R202, R211, R212). -/
def kvBad (cs : IdxCounts) (w : List Word) (k : KvFmt) (es : List (List Word)) : Bool :=
  let row (pos n : Nat) (reads : Bool) : Bool :=
    let e := es.getD pos []
    !(kvTyped k e && hasShape cs e reads [n, kvCount w, kvNlayer w])
  let layers := decide (k.layers < kvLayer w + kvNlayer w)
  match twOpcode w with
  | 0x40 => !k.ok || layers || row 0 k.dk true ||
      (if k.dv = 0 then decide (twB w ≠ 0) else row 1 k.dv true)
  | 0x43 => !k.ok || layers || row 3 k.dk false ||
      (if k.dv = 0 then decide (twC w ≠ 0) else row 2 k.dv false)
  | 0x44 =>
    let d := es.getD 3 []
    let m := teSize (es.getD 0 []) 0
    !teIsIndex (es.getD 0 []) || !(tePlain d && !teBound d && !teHdr d && decide (teRank d = 1 ∧ teType d = .int32 ∧
      teStride d 0 = 1 ∧ teBase d % 64 = 0 ∧ 4 * (64 + 64 * cdiv (4 * m) 64) ≤ teSize d 0))
  | 0x46 =>
    let b := es.getD 1 []
    let d := es.getD 3 []
    let kk := k.dk - 32 * k.rope
    !k.ok || !k.latent || decide (kvNlayer w ≠ 1 ∨ k.layers ≤ kvLayer w ∨ teRank b ≠ 2) ||
      (teScaled b && decide (teBlockDim b ≠ 1)) || teBound b || teBound d ||
      (shapeSplit (twShape w) && !k.scaled && !teScaled b) ||
      !hasShape cs d false [tePadded b 0, kvCount w] || !dimAgrees (.fixed (tePadded b 1)) (.fixed kk) ||
      !drainType d false
  | _ => false

/-- Fields of the attention area (R217). -/
def atLayer (w : List Word) : Nat := wb (twArea w 0) 23 16
def atQpos (w : List Word) : Nat := wb (twArea w 0) 44 24
def atMaxpages (w : List Word) : Nat := wb (twArea w 1) 14 0
def atCausal (w : List Word) : Bool := wbit (twArea w 1) 15
def atPfmt (w : List Word) : Bool := wbit (twArea w 1) 16
def atD (w : List Word) : Nat := 32 * (wb (twArea w 1) 20 17 + 1)
def atWindow (w : List Word) : Nat := wb (twArea w 1) 41 21
def atNsink (w : List Word) : Nat := wb (twArea w 1) 49 42
def atNrecent (w : List Word) : Nat := wb (twArea w 1) 57 50
def atScale (w : List Word) : BitVec 32 := (twArea w 2).extractLsb' 0 32
def atKpos (w : List Word) : Nat := wb (twArea w 3) 52 32

/-- Shapes of an attention step: head dimension, key-value heads, query heads, value dimension, queries,
operand keys. -/
structure AttShape where
  d : Nat
  hkv : Nat
  g : Nat
  dv : Nat
  n : Nat
  nk : Nat
  deriving DecidableEq, Repr

/-- Size of dimension d of the operand at a position as charged: a bound dimension counts with its capacity (R101). -/
def chargedSize (es : List (List Word)) (pos d : Nat) : Nat :=
  let e := es.getD pos []
  if teBound e ∧ d = teIdxDim e then teSize (es.getD (idxPos pos) []) 0 else tePadded e d

/-- The shapes of a step from the sizes of its operands by position and dimension and the KV format (R217, R228). -/
def attShape (w : List Word) (k : KvFmt) (sz : Nat → Nat → Nat) : AttShape :=
  let n := sz 0 2
  match twOpcode w with
  | 0x50 =>
    let d := atD w
    let h := k.dk / d
    ⟨d, h, sz 0 1 / max h 1, k.dv / max h 1, n, n⟩
  | 0x51 => ⟨k.dk, 1, sz 0 1, k.dk - 32 * k.rope, n, n⟩
  | 0x52 =>
    let h := sz 1 1
    ⟨atD w, h, sz 0 1 / max h 1, sz 2 0, n, sz 1 2⟩
  | _ =>
    let h := sz 1 1
    ⟨sz 0 0, h, sz 0 1 / max h 1, sz 2 0, n, sz 1 2⟩

/-- D of an attention step is BF16 or FP32 (R217), bound exactly where the descriptor scatters (R133). -/
def attOut (w e : List Word) : Bool := tePlain e && (teType e == .bf16 || teType e == .fp32) && !scatterBad w e

/-- Whether FP8 weights may be used: unscaled FP8 values (R217). -/
def fp8Plain (t : EType) (scaled : Bool) : Bool := !scaled && (t == .e4m3 || t == .e5m2)

/-- An attention descriptor's operands (R217–R219, R222, R225–R228). A size that a count gives is compared once it is
sampled. -/
def attBad (cs : IdxCounts) (w : List Word) (k : KvFmt) (es : List (List Word)) : Bool :=
  let e (i : Nat) : List Word := es.getD i []
  let sz (i d : Nat) : DimSz := (dimsOf cs (e i) true).getD d (.fixed 0)
  let num (x : DimSz) (f : Nat → Bool) : Bool := match x with
    | .fixed n => f n
    | .counted _ => true
  let hasDims (i : Nat) (reads : Bool) (l : List DimSz) : Bool := shapesAgree (dimsOf cs (e i) reads) l
  let nq := sz 0 2
  let heads := sz 0 1
  let opt (i : Nat) (ok : List Word → Bool) : Bool := !(e i).isEmpty && !ok (e i)
  let bias := opt 10 (fun t => tePlain t && decide (teType t = .fp32) && hasDims 10 true [.fixed 256, heads])
  let mask := opt 11 (fun t => tePlain t && (teType t == .bf16 || teType t == .fp32) && hasDims 11 true [nq, nq])
  let sel := opt 12 (fun t => teIsIndex t && decide (teType t = .int32))
  let stats (i : Nat) := opt i (fun t => tePlain t && decide (teType t = .fp32) && hasDims i false [.fixed 3, heads, nq])
  let blk (i : Nat) : Bool := teScaled (e i) && decide (teBlockDim (e i) ≠ 0)
  let d := atD w
  match twOpcode w with
  | 0x50 =>
    let h := k.dk / d
    !k.ok || k.latent || decide (k.dk % d ≠ 0 ∨ h = 0 ∨ k.dv % max h 1 ≠ 0 ∨ k.layers ≤ atLayer w) ||
      !num heads (fun n => n % max h 1 == 0) || (atPfmt w && !fp8Plain k.et k.scaled) ||
      blk 0 || !kvTyped k (e 1) || !kvTyped k (e 2) || !hasDims 0 true [.fixed d, heads, nq] ||
      !hasDims 1 true [.fixed d, .fixed h, nq] || !hasDims 2 true [.fixed (k.dv / max h 1), .fixed h, nq] ||
      !hasDims 3 false [.fixed (k.dv / max h 1), heads, nq] || !attOut w (e 3) || bias || mask || sel || stats 13
  | 0x51 =>
    !k.ok || !k.latent || decide (k.layers ≤ atLayer w) || (atPfmt w && !fp8Plain k.et k.scaled) || blk 0 ||
      !kvTyped k (e 1) || !hasDims 0 true [.fixed k.dk, heads, nq] || !hasDims 1 true [.fixed k.dk, .fixed 1, nq] ||
      !hasDims 3 false [.fixed (k.dk - 32 * k.rope), heads, nq] || !attOut w (e 3) || bias || mask || sel || stats 13
  | 0x52 =>
    let h := sz 1 1
    let nk := sz 1 2
    !num h (fun h => decide (h ≠ 0) && num heads (fun n => n % max h 1 == 0)) ||
      (atPfmt w && !fp8Plain (teType (e 2)) (teScaled (e 2))) || blk 0 || blk 1 || blk 2 ||
      !hasDims 0 true [.fixed d, heads, nq] || !hasDims 1 true [.fixed d, h, nk] ||
      !hasDims 2 true [sz 2 0, h, nk] || !hasDims 3 false [sz 2 0, heads, nq] || !attOut w (e 3) ||
      bias || mask || stats 13
  | 0x53 =>
    let n := if atMaxpages w = 0 then .fixed (teSize (e 1) 0) else .fixed (atMaxpages w)
    decide (teType (e 0) ≠ .bf16 ∨ teRank (e 1) ≠ 2 ∨ teRank (e 0) ≠ 2) || teScaled (e 0) ||
      (shapeSplit (twShape w) && !teScaled (e 1)) ||
      !dimAgrees (sz 0 0) (sz 1 1) || !hasDims 3 false [n, heads] ||
      !(tePlain (e 3) && decide (teType (e 3) = .fp32)) || scatterBad w (e 3) ||
      decide (tePadded (e 1) 0 < (if atMaxpages w = 0 then teSize (e 1) 0 else atMaxpages w))
  | 0x54 =>
    let l := e 10
    !k.ok || decide (k.layers ≤ atLayer w) || !(teResident l && decide (teType l = .fp4 ∧ teStype l = .e8m0)) ||
      teTagged l || decide (teSize l 1 ≠ k.dk ∨ teSize l 0 ≤ wb (twArea w 1) 13 0)
  | 0x55 =>
    let n := wb (twArea w 0) 45 25
    let h := sz 1 1
    let buf (i j : Nat) : Bool := !(decide (teTypeCode (e i) = teTypeCode (e j) ∧ teStypeCode (e i) = teStypeCode (e j)) &&
      hasDims i true [sz j 0, h, .fixed (2 * n)])
    !num h (fun h => decide (h ≠ 0) && num heads (fun n => n % max h 1 == 0)) || !dimAgrees nq (.fixed n) ||
      blk 0 || blk 1 || blk 2 ||
      !hasDims 0 true [sz 0 0, heads, .fixed n] || !hasDims 1 true [sz 0 0, h, .fixed n] || !hasDims 2 true [sz 2 0, h, .fixed n] ||
      !hasDims 3 false [sz 2 0, heads, .fixed n] || !attOut w (e 3) || bias || stats 11 ||
      buf 12 1 || buf 13 2 || buf 14 1 || buf 15 2
  | _ => false

/-- A serving descriptor's operands (R236); v is the vocabulary of its context's partition, which the stream's must be. -/
def srvBad (cs : IdxCounts) (v : Nat) (w : List Word) (es : List (List Word)) : Bool :=
  let e (i : Nat) : List Word := es.getD i []
  let int1 (t : List Word) (n : Nat) : Bool :=
    tePlain t && decide (teType t = .int32) && !teBound t && hasShape cs t true [n]
  match twOpcode w with
  | 0x61 => !int1 (e 0) 1
  | 0x62 =>
    let k := tePadded (e 1) 0
    decide (k = 0 ∨ 7 < k) || !int1 (e 0) (k + 1) || !int1 (e 1) k
  | 0x63 =>
    let r := if (e 1).isEmpty then 1 else tePadded (e 1) 0 + 1
    let d := e 3
    decide (8 < r) || (!(e 1).isEmpty && !int1 (e 1) (r - 1)) ||
      !(tePlain d && decide (teType d = .bf16 ∧ teRank d = 2 ∧ teSize d 0 = v ∧ teSize d 1 = r) && !teBound d)
  | _ => false

/-- A TCREATE whose source breaks R141. -/
def State.tcreateBad (s : State) (p : Nat) (w : List Word) : Bool :=
  let off := wb (twArea w 0) 55 16
  match s.range (wb (twArea w 0) 15 0) with
  | none => true
  | some rg => !rgRd rg p || decide (off % 64 ≠ 0 ∨ rgLen rg < off + 128)

/-- Step 8: shapes, types, bindings and block dimensions; the detail. -/
def State.shapeBad (s : State) (cs : IdxCounts) (p : Nat) (w : List Word) (k : KvFmt) (es : List (List Word)) : Option Nat :=
  let op := twOpcode w
  let bad := (isMatrix op && matBad cs w es) ||
    ((isMatrix op || decide (op = 0x46)) && auditBad cs w k es) ||
    (decide (op = 0x20) && (vecBad cs w es || !packedTypes w es)) || (decide (op = 0x30) && copyBad cs w es) ||
    (isAtom op && atomBad cs w es) || (isKv op && kvBad cs w k es) || (isAttn op && attBad cs w k es) ||
    (isSrv op && srvBad cs (s.vocab (twHome w / 12) p) w es)
  if op = 2 && s.tcreateBad p w then some 1 else if bad then some 0 else none

/-- Hull intervals of a tensor's planes with elements, or none. -/
def extentOf (e : List Word) : List (Int × Int) := if e.isEmpty || teEmpty e || teResident e then [] else planeHulls e

/-- Whether one hull of each list meets: extents are the hulls of all planes (R153). -/
def extentsMeet (a b : List (Int × Int)) : Bool :=
  a.any (fun x => b.any (fun y => decide (x.1 ≤ y.2 ∧ y.1 ≤ x.2)))

/-- Step 9: a D that meets an input of the same range, an audit source and the area's inputs among them, without nk
(R153). -/
def inPlaceBad (w : List Word) (dv : Nat) (es : List (List Word)) : Bool :=
  let d := es.getD 3 []
  !twNk w && !d.isEmpty && (twRoles w dv).any (fun r =>
    !r.writes w es && decide (teRange (es.getD r.pos []) = teRange d) &&
      extentsMeet (extentOf (es.getD r.pos [])) (extentOf d))

end Sys2Proof.Machine
end

