-- ==== Sys2Proof/Machine/KvRec.lean ====
section
/-! DEFINITION. The KV service's records, page tables, pools and lengths (R197–R209), shared by the KV
descriptors, attention steps, the stream tracker and the scheduler. -/
namespace Sys2Proof.Machine

/-! ## Fields of a stream record (R199) -/

def reCommitted (r : List Word) : Nat := wb (wordAt r 0) 20 0
def reTentative (r : List Word) : Nat := wb (wordAt r 0) 41 21
def reOpen (r : List Word) : Bool := wbit (wordAt r 0) 42
def reField (r : List Word) : Nat := wb (wordAt r 0) 44 43
def rePart (r : List Word) : Nat := wb (wordAt r 0) 48 45
def reTracked (r : List Word) : Bool := wbit (wordAt r 0) 49
def reInflight (r : List Word) : Bool := wbit (wordAt r 0) 50
def reMoving (r : List Word) : Bool := wbit (wordAt r 0) 51
def rePtRange (r : List Word) : Nat := wb (wordAt r 1) 15 0
def rePtOff (r : List Word) : Nat := wb (wordAt r 1) 55 16
def reCap (r : List Word) : Nat := wb (wordAt r 2) 14 0
def reInflightPos (r : List Word) : Nat := wb (wordAt r 2) 35 15
def rePages (r : List Word) : Nat := wb (wordAt r 2) 50 36
def reClamps (r : List Word) : Nat := wb (wordAt r 3) 31 0
def reReaders (r : List Word) : Nat := wb (wordAt r 3) 47 32

/-- Replace bits of word i of a record. -/
def reSet (r : List Word) (i hi lo x : Nat) : List Word := r.set i (wput (wordAt r i) hi lo x)

/-- The largest number of positions of a stream (R197). -/
def maxPos : Nat := 1048576

/-! ## Access to records -/

/-- Address of a stream's record in memory, where the record range is valid at a field (R199, R364). -/
def State.recAddr (s : State) (f x : Nat) : Option Nat :=
  let c := s.cfg f .srec 0
  (s.range (wb c 15 0)).map (fun rg => rgAddr rg (wb c 55 16 + 32 * x))

/-- Streams whose records field f holds on the die, least recently used first. -/
def State.recOrder (s : State) (f : Nat) : List Nat := mapGet (fun _ => []) s.kv.order f

/-- Write a record back to memory (R182, R199). -/
def State.recWriteBack (s : State) (f x : Nat) (r : List Word) : State :=
  match s.recAddr f x with
  | none => s.bump .memNoAnswer 0 1
  | some a => match s.noAnswer a with
    | some _ => s.bump .memNoAnswer 0 1
    | none => s.writeBytes (byteWrites a (bytesOf r) [])

/-- Hold a record on the die of field f as the most recently used; the least recently used of more than 256
goes back to memory. -/
def State.recPut (s : State) (f x : Nat) (r : List Word) : State :=
  let o := (s.recOrder f).erase x ++ [x]
  let s := { s with kv := { s.kv with recs := mapPut s.kv.recs x r, order := mapSet (fun _ => []) s.kv.order f o } }
  if o.length ≤ 256 then s
  else match o with
    | [] => s
    | y :: t =>
      let s := match optGet s.kv.recs y with
        | some v => s.recWriteBack f y v
        | none => s
      { s with kv := { s.kv with recs := mapDel s.kv.recs y, order := mapSet (fun _ => []) s.kv.order f t } }

/-- Read a stream's record in field f for an issuer: from the die, or from memory; the last result tells
that its granule was bad, so that the reader consumed poison (R210). -/
def State.recGet (s : State) (i : Issuer) (f x : Nat) : State × List Word × Bool :=
  match optGet s.kv.recs x with
  | some r => (if reField r = f then s.recPut f x r else s, r, false)
  | none => match s.recAddr f x with
    | none => (s.noAnswerOf i (48 + f), [0, 0, 0, 0], false)
    | some a => match s.noAnswer a with
      | some d => (s.noAnswerOf i d, [0, 0, 0, 0], false)
      | none =>
        let (s, r) := s.readRun a 32
        let s := s.reportBads i false r.bads
        let w := wordsOf 4 r.data
        if r.bad then (s, [0, 0, 0, 0], true)
        else if reOpen w ∧ reField w = f then (s.recPut f x w, w, false) else (s, w, false)

/-- A record leaves the die, written back to memory (R182). -/
def State.recDrop (s : State) (f x : Nat) (r : List Word) : State :=
  let s := s.recWriteBack f x r
  { s with kv := { s.kv with recs := mapDel s.kv.recs x, order := mapSet (fun _ => []) s.kv.order f ((s.recOrder f).erase x) } }

/-- Mark a descriptor as a consumer of poison (R155, R210). -/
def State.consume (s : State) (t : Nat) : State :=
  s.modTask t (fun k => { k with poison := true, everPoison := true })

/-! ## Pools (R207) -/

/-- Pool p of field f. -/
def State.pool (s : State) (f p : Nat) : Pool := mapGet (fun _ => pool0) s.kv.pools (32 * f + p)

/-- Replace a pool. -/
def State.setPool (s : State) (f p : Nat) (v : Pool) : State :=
  { s with kv := { s.kv with pools := mapSet (fun _ => pool0) s.kv.pools (32 * f + p) v } }

def plRange (v : Pool) : Nat := wb v.cfg 15 0
def plOff (v : Pool) : Nat := wb v.cfg 55 16
def plListOff (v : Pool) : Nat := wb v.list 39 0
def plFrames (v : Pool) : Nat := wb v.list 63 40

/-- The place of an entry of a pool's free list: its address, or the island that an access to it finds no answer at. -/
def State.listPlace (s : State) (f : Nat) (v : Pool) (i : Nat) : Except Nat Nat :=
  match s.range (plRange v) with
  | none => .error (48 + f)
  | some rg =>
    let a := rgAddr rg (plListOff v + 4 * (i % plFrames v))
    match s.noAnswer a with
    | some d => .error d
    | none => .ok a

/-- Take a frame from a pool for an issuer: none where it is empty, or its list does not answer; the last result tells
that the list entry was bad. Pool p is of partition p / 2, whose credits the access takes (R207, R268). -/
def State.takeFrame (s : State) (i : Issuer) (f p : Nat) : State × Option Nat × Bool :=
  let v := s.pool f p
  if v.free = 0 ∨ plFrames v = 0 then (s, none, false)
  else match s.listPlace f v v.head with
    | .error d => (s.noAnswerOf i d, none, false)
    | .ok a =>
      let (s, r) := (s.charge (p / 2) a 1).readRun a 4
      let s := s.reportBads i false r.bads
      if r.bad then (s, none, true)
      else
        let s := s.setPool f p { v with head := (v.head + 1) % plFrames v, free := v.free - 1, held := v.held + 1 }
        (s.bump .kvsPerfFrames f 1, some (leNat r.data), false)

/-- Return a frame to its pool for an issuer. -/
def State.returnFrame (s : State) (i : Issuer) (f p n : Nat) : State :=
  let v := s.pool f p
  if plFrames v = 0 then s
  else match s.listPlace f v (v.head + v.free) with
    | .error d => s.noAnswerOf i d
    | .ok a =>
      let s := (s.charge (p / 2) a 1).writeBytes (byteWrites a (leBytes 4 n) [])
      s.setPool f p { v with free := v.free + 1, held := v.held - 1 }

/-! ## Page tables and the look-aside buffer (R200, R209) -/

def ptValid (e : Word) : Bool := wbit e 0
def ptLoc (e : Word) : Nat := wb e 1 1
def ptSealed (e : Word) : Bool := wbit e 2
def ptFrame (e : Word) : Nat := wb e 31 8

/-- A page-table entry that holds a frame. -/
def ptEntry (loc : Nat) (closed : Bool) (frame : Nat) : Word :=
  BitVec.ofNat 64 (1 + 2 * loc + 4 * b2n closed + 256 * frame)

/-- Groups of a look-aside set of field f, most recent first. -/
def State.labSet (s : State) (f w : Nat) : List LabGroup := mapGet (fun _ => []) s.kv.lab (64 * f + w)

/-- Replace a set. -/
def State.setLab (s : State) (f w : Nat) (l : List LabGroup) : State :=
  { s with kv := { s.kv with lab := mapSet (fun _ => []) s.kv.lab (64 * f + w) l } }

/-- The tag of group g of a stream, and its set. -/
def labTag (x g : Nat) : Nat := 2048 * x + g
def labIndex (x g : Nat) : Nat := (x + g) % 64

/-- The group with a tag among those of a set. -/
def findGroup (t : Nat) (l : List LabGroup) : Option LabGroup := l.find? (fun e => decide (e.tag = t))

/-- A group becomes the most recent of a set of eight ways (R209). -/
def touchGroup (e : LabGroup) (l : List LabGroup) : List LabGroup := (e :: l.filter (fun x => decide (x.tag ≠ e.tag))).take 8

/-- Invalidate a stream's groups (R209 Close). -/
def State.labDrop (s : State) (f x : Nat) : State :=
  (List.range 64).foldl (fun s w => s.setLab f w ((s.labSet f w).filter (fun e => decide (e.tag / 2048 ≠ x)))) s

/-- The place of a byte of a stream's page table: its address, or the island that an access to it finds no answer at. -/
def State.ptPlace (s : State) (f : Nat) (r : List Word) (o : Nat) : Except Nat Nat :=
  match s.range (rePtRange r) with
  | none => .error (48 + f)
  | some rg =>
    let a := rgAddr rg (rePtOff r + o)
    match s.noAnswer a with
    | some d => .error d
    | none => .ok a

/-- Look a group of eight entries up for an issuer: a hit gives the buffered entries; a miss fetches the group, counts,
and keeps it unless it was bad, which the last result tells (R209, R210). -/
def State.pteGroup (s : State) (iss : Issuer) (f x : Nat) (r : List Word) (g : Nat) : State × List Word × Bool :=
  let w := labIndex x g
  match findGroup (labTag x g) (s.labSet f w) with
  | some e => (s.setLab f w (touchGroup e (s.labSet f w)), e.ents, false)
  | none => match s.ptPlace f r (64 * g) with
    | .error d => (s.noAnswerOf iss d, [], false)
    | .ok a =>
      let (s, b) := (s.charge (rePart r) a 1).readRun a 64
      let s := (s.reportBads iss false b.bads).bump .kvsPerfLabmiss f 1
      let e : LabGroup := ⟨labTag x g, wordsOf 8 b.data⟩
      (if b.bad then s else s.setLab f w (touchGroup e (s.labSet f w)), e.ents, b.bad)

/-- Read page-table entry i: the walker's translation. The last result tells that the group was bad. -/
def State.pteGet (s : State) (iss : Issuer) (f x : Nat) (r : List Word) (i : Nat) : State × Word × Bool :=
  let (s, l, bad) := s.pteGroup iss f x r (i / 8)
  (s, l.getD (i % 8) 0, bad)

/-- Write page-table entry i for an issuer, in memory and, where its group is buffered, in the look-aside buffer (R209). -/
def State.ptePut (s : State) (iss : Issuer) (f x : Nat) (r : List Word) (i : Nat) (e : Word) : State :=
  let w := labIndex x (i / 8)
  let s := match findGroup (labTag x (i / 8)) (s.labSet f w) with
    | some g => s.setLab f w (touchGroup { g with ents := g.ents.set (i % 8) e } (s.labSet f w))
    | none => s
  match s.ptPlace f r (8 * i) with
  | .error d => s.noAnswerOf iss d
  | .ok a => (s.charge (rePart r) a 1).writeBytes (byteWrites a (leBytes 8 e.toNat) [])

/-- The address of each byte of a page's frame; none where the pool's range is gone (R265). -/
def State.framePlace (s : State) (f p : Nat) (e : Word) : Option (Nat → Nat) :=
  let v := s.pool f (2 * p + ptLoc e)
  (s.range (plRange v)).map (fun rg o => rgAddr rg (plOff v + ptFrame e * (s.kvFmt f p).frame + o))

/-! ## Planes within a layer block (R198) -/

/-- Offset in a frame of a byte of a key or value row of a page. -/
def KvFmt.rowOff (k : KvFmt) (layer : Nat) (isVal : Bool) (j : Nat) : Nat :=
  let s := b2n k.scaled
  let kp := 64 * k.dk * k.eb
  layer * k.lb + (if isVal then kp + s * 2 * k.dk + j * k.dv * k.eb else j * k.dk * k.eb)

/-- Offset in a frame of the scales of a row. -/
def KvFmt.scaleOff (k : KvFmt) (layer : Nat) (isVal : Bool) (j : Nat) : Nat :=
  let kp := 64 * k.dk * k.eb
  layer * k.lb + (if isVal then kp + 2 * k.dk + 64 * k.dv * k.eb + j * (k.dv / 32) else kp + j * (k.dk / 32))

/-- Offsets in a frame of the bytes of a position's key row, its scales, value row and its scales, in that
order. -/
def KvFmt.rowOffs (k : KvFmt) (layer j : Nat) : List Nat :=
  let part (b n : Nat) : List Nat := (List.range n).map (fun i => b + i)
  part (k.rowOff layer false j) (k.dk * k.eb) ++ part (k.scaleOff layer false j) (b2n k.scaled * (k.dk / 32)) ++
    part (k.rowOff layer true j) (k.dv * k.eb) ++ part (k.scaleOff layer true j) (b2n k.scaled * (k.dv / 32))

/-! ## The mirror's copy of lengths and records (R302) -/

/-- Whether this module sends the state of a partition to its mirror partner: the pair is catching up or in sync,
and the partition is mirrored and active here. -/
def State.mirActive (s : State) (p : Nat) : Bool :=
  decide (s.fld .lnkMirStat 0 2 0 = 2 ∨ s.fld .lnkMirStat 0 2 0 = 3) && bitOf (s.fld .lnkMirPart 0 15 0) p &&
    bitOf (s.fld .lnkMirPart 0 31 16) p

/-- The mirror port that carries the traffic of a field: M0 for F0 and F1, M1 for F2 and F3, or the other one
where that port is not up (R302, R304). -/
def State.mirPort (s : State) (f : Nat) : Nat :=
  let m := f / 2
  if s.fld .lnkStat (8 + m) 2 0 ≠ 3 ∧ s.fld .lnkStat (9 - m) 2 0 = 3 then 1 - m else m

/-- Send a mirror message of a partition's state from field f; it stays outstanding until it is acknowledged. -/
def State.mirrorOut (s : State) (p f : Nat) (m : MirrorMsg) : State :=
  if s.mirActive p then
    let s := s.sendFlit (8 + s.mirPort f)
    { s with lk := { s.lk with out := s.lk.out ++ [(s.mirPort f, m)] } }
  else s

/-- Bytes at addresses as their homes hold them, without consuming poison: the bytes and the places of the
poisoned ones. -/
def State.peekBytes (s : State) (as : List Nat) : State × List Byte × List Nat :=
  let (s, m) := (uniq (as.map unitBase)).foldl (fun (p : State × Snap) u =>
    match p.1.noAnswer u with
    | some _ => (p.1.bump .memNoAnswer 0 1, p.2)
    | none =>
      let (s, g) := p.1.readUnit u
      (s, mapPut p.2 u g)) (s, [])
  let l := as.map (snapByte m)
  (s, l.map (fun b => BitVec.ofNat 8 b.1), (List.range l.length).filter (fun i => (l.getD i (0, false)).2))

/-- Addresses of a position's rows of one layer, where its page holds a frame. -/
def State.rowAddrs (s : State) (f x : Nat) (r : List Word) (layer q : Nat) : State × List Nat :=
  let (s, e, bad) := s.pteGet (.service (Fin.ofNat 4 f)) f x r (q / 64)
  if bad || !ptValid e then (s, [])
  else match s.framePlace f (rePart r) e with
    | none => (s.bump .memNoAnswer 0 1, [])
    | some place => (s, ((s.kvFmt f (rePart r)).rowOffs layer (q % 64)).map place)

/-- A rise of a committed length is copied to the partner: every layer's rows from the old to the new length
(R302). Poison travels by payload granule. -/
def State.mirrorRows (s : State) (f x : Nat) (r : List Word) (old new : Nat) : State :=
  if !s.mirActive (rePart r) then s
  else (List.range (s.kvFmt f (rePart r)).layers).foldl (fun s l =>
    let (s, as) := (List.range (new - old)).foldl (fun (p : State × List Nat) i =>
      let (s, a) := p.1.rowAddrs f x r l (old + i)
      (s, p.2 ++ a)) (s, [])
    let (s, d, bad) := s.peekBytes as
    s.mirrorOut (rePart r) f (.rows (BitVec.ofNat 16 x) old (new - old) l d (uniq (bad.map (· / 32))))) s

/-! ## Lengths (R204, R205) -/

/-- Set the sealed bits of the pages whose end the committed length has reached (R204). -/
def State.sealPages (s : State) (f x : Nat) (r : List Word) (old new : Nat) : State :=
  (List.range (new / 64 - old / 64)).foldl (fun s j =>
    let i := old / 64 + j
    let (s, e, bad) := s.pteGet (.service (Fin.ofNat 4 f)) f x r i
    if bad || !ptValid e then s else s.ptePut (.service (Fin.ofNat 4 f)) f x r i (wput e 2 2 1)) s

/-- Length answers whose position the committed length has reached are released (R218). -/
def State.releaseLens (s : State) (x c : Nat) : State :=
  let go := s.kv.holds.filter (fun h => decide (h.stream = x ∧ h.p0 ≤ c))
  let s := { s with kv := { s.kv with holds := s.kv.holds.filter (fun h => !decide (h.stream = x ∧ h.p0 ≤ c)) } }
  go.foldl (fun s h => (s.modTask h.task (fun k => { k with len := c })).sendOnce (48 + x / 16384) (s.ownerOf h.task) (.lengthAnswer h.task)) s

/-- Set the committed length of a record, sealing pages, copying the rows to the mirror and releasing held
answers. -/
def State.setCommitted (s : State) (f x : Nat) (r : List Word) (c : Nat) : State :=
  let old := reCommitted r
  let s := s.recPut f x (reSet r 0 20 0 c)
  let s := if old < c then (s.sealPages f x r old c).mirrorRows f x r old c else s
  s.releaseLens x c

/-- Count a clamped or dropped advance. -/
def State.clamp (s : State) (f : Nat) : State := s.bump .kvsPerfClamp f 1

/-- An advance message from the tracker is applied (R205). -/
def State.advanceTo (s : State) (f x c : Nat) : State :=
  let (s, r, bad) := s.recGet (.service (Fin.ofNat 4 f)) f x
  if bad || !reOpen r || decide (reField r ≠ f) then s.clamp f
  else
    let m := min (min c (reTentative r)) (if reInflight r then reInflightPos r else maxPos)
    let r := if m < c then reSet r 3 31 0 (min 0xFFFFFFFF (reClamps r + 1)) else r
    let s := if m < c then s.clamp f else s
    s.setCommitted f x r m

/-! ## What a descriptor leaves at its stream -/

/-- Whether a descriptor itself has set inflight or moving at its stream (R205, R213). -/
def Task.claims (k : Task) : Bool := k.answer == some true && (twOpcode k.w == 0x40 || twOpcode k.w == 0x45)

/-- Length answers held for a descriptor are forgotten with its attempt (R218). -/
def State.dropHolds (s : State) (t : Nat) : State :=
  { s with kv := { s.kv with holds := s.kv.holds.filter (fun h => decide (h.task ≠ t)) } }

/-- Release what a descriptor holds at its stream's record at its commit, end or kill: its registration as a
reader, inflight or moving, and the frame of a page that a migration has not finished (R205, R209, R213). -/
def State.kvLeave (s : State) (t : Nat) (k : Task) : State :=
  let x := if isAttn (twOpcode k.w) then wb (twArea k.w 0) 15 0 else kvStream k.w
  let s := s.dropHolds t
  if !k.reader && !k.claims then s
  else
    let s := s.modTask t (fun k => { k with reader := false, answer := none, frame := none })
    let (s, r, bad) := s.recGet (.service (Fin.ofNat 4 k.field)) k.field x
    if bad then s
    else
      let r := if k.reader then reSet r 3 47 32 (reReaders r - 1) else r
      let r := if k.claims && twOpcode k.w == 0x40 then reSet r 0 50 50 0 else r
      let r := if k.claims && twOpcode k.w == 0x45 then reSet r 0 51 51 0 else r
      let s := s.recPut k.field x r
      match k.frame with
      | some n => s.returnFrame (.service (Fin.ofNat 4 k.field)) k.field (2 * rePart r + kvDest k.w) n
      | none => s

/-- The effect of a KV descriptor's commit on its record (R205). -/
def State.kvFinish (s : State) (k : Task) : State :=
  let f := k.field
  let x := kvStream k.w
  match twOpcode k.w with
  | 0x40 =>
    if kvCount k.w = 0 then s
    else
      let (s, r, bad) := s.recGet (.service (Fin.ofNat 4 f)) f x
      if bad then s
      else
        let e := k.pos + kvCount k.w
        let r := reSet r 0 41 21 e
        if kvCommit k.w then s.setCommitted f x r e else s.recPut f x r
  | 0x41 =>
    let (s, r, bad) := s.recGet (.service (Fin.ofNat 4 f)) f x
    if bad then s
    else
      let m := min (min (kvPos k.w) (reTentative r)) (if reInflight r then reInflightPos r else maxPos)
      let r := if m < kvPos k.w then reSet r 3 31 0 (min 0xFFFFFFFF (reClamps r + 1)) else r
      let s := if m < kvPos k.w then s.clamp f else s
      let r := if kvTrunc k.w then reSet r 0 41 21 m else r
      s.setCommitted f x r m
  | _ => s

/-! ## The KV engines (R203) -/

/-- KV engine j: the append engine of field f at 2 f, the migration engine at 2 f + 1. -/
def State.kvEng (s : State) (j : Nat) : KvEng := mapGet (fun _ => kvEng0) s.kv.engs j

/-- Replace an engine. -/
def State.setKvEng (s : State) (j : Nat) (v : KvEng) : State :=
  { s with kv := { s.kv with engs := mapSet (fun _ => kvEng0) s.kv.engs j v } }

/-- The descriptor that an engine takes next: latency-critical first, the oldest of a class first (R203). -/
def State.kvPick (s : State) : List Nat → Option Nat
  | [] => none
  | t :: l => match s.kvPick l with
    | none => some t
    | some u => if (s.bestTaskOf t && !s.bestTaskOf u) || (s.bestTaskOf t == s.bestTaskOf u && decide (u < t)) then some u
        else some t

/-- A descriptor leaves the KV engines; an engine that it frees takes the next one that waits. -/
def State.kvEngLeave (s : State) (t : Nat) : State :=
  (List.range 8).foldl (fun s j =>
    let e := s.kvEng j
    let w := e.wait.filter (· ≠ t)
    if e.run = some t then
      let n := s.kvPick w
      s.setKvEng j ⟨n, w.filter (fun u => decide (some u ≠ n))⟩
    else s.setKvEng j ⟨e.run, w⟩) s

end Sys2Proof.Machine
end

