-- ==== Sys2Proof/Machine/Charges.lean ====
section
/-! DEFINITION. What dispatch would charge a descriptor on a cluster engine (R60, R117, R141, R191, R210, R211, R224–R226,
R230, R252), which R167 holds against the field's cap, and the checks of R142 in their order. -/
namespace Sys2Proof.Machine

/-! ## What a charge needs of a stream -/

/-- A stream's record as it stands, on the die or in memory, for field f; zeros where no home answers. -/
def State.recPeek (s : State) (f x : Nat) : List Word :=
  match optGet s.kv.recs x with
  | some r => r
  | none => match s.recAddr f x with
    | none => [0, 0, 0, 0]
    | some a => if (s.noAnswer a).isSome then [0, 0, 0, 0] else wordsOf 4 (s.readRun a 32).2.data

/-- The stream that a KV descriptor or an attention step names. -/
def areaStream (w : List Word) : Nat := if isAttn (twOpcode w) then wb (twArea w 0) 15 0 else kvStream w

/-- The KV format that a descriptor's operands must have: its open stream's partition's, else its context's (R202). -/
def State.fmtOf (s : State) (f ctx : Nat) (w : List Word) : KvFmt :=
  s.kvFmt f ((optGet s.kv.opens (areaStream w)).getD (s.partOf ctx))

/-- T_walk of R210 for P pages, in time units: P ac of the field and a first access of the page table for each 128. -/
def State.walkCharge (s : State) (r : List Word) (p : Nat) : Nat :=
  p * tAc + cdiv p 128 * ((s.range (rePtRange r)).map rgFirst).getD 0

/-- The range of a stream's stack pool, where its pages lie. -/
def State.pagesRange (s : State) (f : Nat) (r : List Word) : List Word := (s.range (plRange (s.pool f (2 * rePart r)))).getD []

/-! ## Charges -/

/-- KEXPAND: a product whose A is the latent rows, streamed from the pages, with its walk (R211). -/
def State.expandFeeds (s : State) (w : List Word) (f p : Nat) (k : KvFmt) (eb rb : List Word) : Feed × Feed :=
  let pages := s.pagesRange f (s.recPeek f (kvStream w))
  (⟨k.et, false, true, s.streamRate7 p (twTwin w) [] pages, fun n m => n * (m * k.eb + b2n k.scaled * cdiv m 32)⟩,
    s.feed (twHome w) p (twTwin w) eb rb)

/-- Dimensions of KEXPAND's product. -/
def expandDims (w : List Word) (k : KvFmt) (eb : List Word) : MatDims :=
  ⟨kvCount w, k.dk - 32 * k.rope, teSize eb 0 + tePadLo eb 0 + tePadHi eb 0, 1⟩

/-- The shape of KEXPAND's product (R53, R211). -/
def State.expandShape (s : State) (w : List Word) (f p : Nat) (k : KvFmt) (es rs : List (List Word)) : Nat :=
  let ab := s.expandFeeds w f p k (es.getD 1 []) (rs.getD 1 [])
  s.pickShape w p ab.1 ab.2 (k.scaled || teScaled (es.getD 1 [])) (es.getD 3 []) (rs.getD 3 []) (expandDims w k (es.getD 1 []))

def State.expandCharge (s : State) (w : List Word) (f p : Nat) (k : KvFmt) (es rs : List (List Word)) : Nat :=
  let eb := es.getD 1 []
  let ab := s.expandFeeds w f p k eb (rs.getD 1 [])
  let r := s.recPeek f (kvStream w)
  let d := expandDims w k eb
  let aud := s.auditCharge w f k.et (es.getD 4 []) (auditTypes k.et (teType eb)) d.k
  (s.prodAc w p ab.1 ab.2 (es.getD 3 []) (rs.getD 3 []) d (s.expandShape w f p k es rs) + aud) * tAc +
    max (s.farLatency (twHome w) p (twTwin w) [] (s.pagesRange f r)) (s.farIo w p [(eb, rs.getD 1 [])] []) +
    s.farIo w p [] [(es.getD 3 [], rs.getD 3 [])] + s.walkCharge r (cdiv (kvCount w) 64 + 1)

/-- LSUM (R225). -/
def State.lsumCharge (s : State) (w : List Word) (f p : Nat) (k : KvFmt) (lens rg : List Word) : Nat :=
  (24 + max (cdiv k.dk 8) (cdiv (64 * k.dk * k.eb + 2 * k.dk * b2n k.scaled + 66 * k.dk) 1536)) * tAc +
    s.walkCharge (s.recPeek f (areaStream w)) 1 + 2 * s.farLatency (twHome w) p (twTwin w) lens rg

/-- ASTEP, ALATENT, ADENSE (R224) and ARING (R230). -/
def State.attCharge (s : State) (w : List Word) (f p : Nat) (k : KvFmt) (es rs : List (List Word)) : Nat :=
  let op := twOpcode w
  let c := twHome w
  let twin := twTwin w
  let a := attShape w k (chargedSize es)
  let u := a.hkv * cdiv (a.g * a.n) 16
  let ek := es.getD 1 []
  let ev := if op = 0x51 then ek else es.getD 2 []
  let paged := decide (op = 0x50 ∨ op = 0x51)
  let (kt, ks, vt, vs) := if paged then (k.et, k.scaled, k.et, k.scaled)
    else (teType ek, teScaled ek, teType ev, teScaled ev)
  let rs' := pairClass (teType (es.getD 0 [])) (if ks then .bf16 else kt)
  let rv := pairClass (if atPfmt w then .e4m3 else .bf16) (if vs then .bf16 else vt)
  let r := s.recPeek f (areaStream w)
  let sel := es.getD 12 []
  let pc := if !paged then 0
    else if sel.isEmpty then (if atMaxpages w = 0 then reCap r else atMaxpages w)
    else atNsink w + teSize sel 0 + atNrecent w
  let nb := pc + cdiv a.nk 64
  let kv (n : Nat) : Nat := planeBytes ek (n * a.hkv) a.d + planeBytes ev (n * a.hkv) a.dv
  let ckv := cdiv (if op = 0x50 then k.lb else if op = 0x51 then 64 * k.dk * k.eb else kv 64) 1536
  if op = 0x55 then
    let n := wb (twArea w 0) 3 0
    let nf := max 1 (setBits 4 (wb (twArea w 0) 11 8)).length
    let one := attBlocks twin u a.d a.dv rs' rv ckv (cdiv a.nk 64) * tAc
    let round (b : Nat) : Nat := max one (cdiv b (285 * nf) * tAc + 416 * tLink) + 4 * tAc
    (16 + attFin twin u a.dv) * tAc + (n - 1) * round (kv a.nk) + round 0 + crossLink c 0
  else
    let at' (i : Nat) : Nat := if (es.getD i []).isEmpty then 0 else s.farLatency c p twin (es.getD i []) (rs.getD i [])
    let pages := if paged then s.farLatency c p twin [] (s.pagesRange f r) else 0
    (16 + attBlocks twin u a.d a.dv rs' rv ckv nb + attFin twin u a.dv + (if paged && reTracked r then 68 else 0)) * tAc +
      (if paged then s.walkCharge r pc else 0) + (if paged && !sel.isEmpty then (8 + 2 * nb) * tAc else 0) +
      max pages (maxOf ([0, 1, 2, 3, 10, 11, 13].map at'))

/-- An atomic (R191): its lines are fetched and written back at the farthest home of D. -/
def State.atomCharge (s : State) (w : List Word) (p : Nat) (es rs : List (List Word)) : Nat :=
  let c := twHome w
  let twin := twTwin w
  let d := es.getD 3 []
  let ec := es.getD 2 []
  let l := if ownWindow c twin (rs.getD 3 []) then firstWindow else s.farLatency c p twin d (rs.getD 3 [])
  (8 + prodOf ((teDims (es.getD 0 [])).map (chargedSize es 0)) +
    (if ec.isEmpty then 0 else cdiv (7 * planeBytes ec (prodOf ((teSizes ec).drop 1)) (teSize ec 0)) (s.portRate7 c p twin ec (rs.getD 2 [])))) * tAc +
    2 * l

/-- A serving descriptor (R252). -/
def State.srvCharge (s : State) (w : List Word) (f p : Nat) (es rs : List (List Word)) : Nat :=
  let l (i : Nat) : Nat := if (es.getD i []).isEmpty then 0 else rgFirst (rs.getD i []) + s.regLatency p (es.getD i []) (rs.getD i [])
  let q := wb (mapGet (fun _ => trk0) s.sv.trk (twStream w)).w0 47 40
  let lc := ((s.range (wb (s.progLoc f q) 15 0)).map rgFirst).getD 0
  match twOpcode w with
  | 0x60 => (8 + 6 + 4) * tAc
  | 0x61 => (8 + 18 + 4) * tAc + l 0 + 2 * lc
  | 0x62 => (8 + 12 + 6 * (chargedSize es 1 0 + 1) + 4) * tAc + l 0 + l 1 + (chargedSize es 1 0 + 1) * (2 * lc)
  | _ =>
    let v := teSize (es.getD 3 []) 0
    let r := teSize (es.getD 3 []) 1
    (8 + r * cdiv (7 * (v / 8 + 2 * v)) (s.portRate7 (twHome w) p (twTwin w) (es.getD 3 []) (rs.getD 3 []))) * tAc + r * (2 * lc)

/-- The cost in time units that R167 holds against the cap; none where no cluster engine is charged. -/
def State.capCharge (s : State) (w : List Word) (f p : Nat) (k : KvFmt) (es : List (List Word)) : Option Nat :=
  let rs := es.map (fun e => (s.range (teRange e)).getD [])
  let op := twOpcode w
  if isMatrix op || decide (op = 0x53) then
    if twRoute w = 2 then none
    else
      let d := if op = 0x53 then { matDims es with n := if atMaxpages w = 0 then (matDims es).n else atMaxpages w }
        else matDims es
      some (s.matCharge w f p es rs d (s.shapeOf w p es rs d))
  else if op = 0x46 then some (s.expandCharge w f p k es rs)
  else if op = 0x20 then
    some (s.vecAc w es (twHome w) p rs (vecShape w es) * tAc +
      s.farIo w p (([0, 1, 2] : List Nat).map (fun i => (es.getD i [], rs.getD i []))) [(es.getD 3 [], rs.getD 3 [])])
  else if op = 0x30 then
    some (s.copyAc es (twHome w) p (twTwin w) rs * tAc + s.farIo w p [(es.getD 0 [], rs.getD 0 [])] [(es.getD 3 [], rs.getD 3 [])])
  else if op = 0x54 then some (s.lsumCharge w f p k (es.getD 10 []) (rs.getD 10 []))
  else if isAttn op then some (s.attCharge w f p k es rs)
  else if isAtom op then some (s.atomCharge w p es rs)
  else if isSrv op then some (s.srvCharge w f p es rs)
  else none

/-- Whether a best-effort descriptor exceeds the cap (R167). -/
def State.overCap (s : State) (x f : Nat) (w : List Word) (k : KvFmt) (es : List (List Word)) : Bool :=
  s.bestOf x && (match s.capCharge w f (s.partOf x) k es with
    | some c => decide (s.fld .schNkCap f 31 0 * tAc < c)
    | none => false)

/-! ## The checks of R142 -/

/-- The first failing check of R142 other than route-refused: status and detail. A detail past 4 stands for
a tensor named in the area, for which the manual gives no position. -/
def State.firstFail (s : State) (f x : Nat) (w : List Word) (es : List (List Word)) : Option (Nat × Nat) :=
  let p := s.partOf x
  let k := s.fmtOf f x w
  if twMalformed w (s.fld .lnkDev 0 3 0) then some (0x30, 0)
  else match s.glintBad f x w with
    | some d => some (0x12, d)
    | none =>
      if s.recordBad p w then some (0x36, 0)
      else if s.placementBad f w then some (0x37, 0)
      else match badTensor w k.dv es with
        | some d => some (0x33, d)
        | none => match badUse w k.dv es with
          | some d => some (0x34, d)
          | none =>
            if pairBad w k es then some (0x32, 0)
            else match s.shapeBad noCounts p w k es with
              | some d => some (0x30, d)
              | none =>
                if inPlaceBad w k.dv es then some (0x35, 0)
                else if s.overCap x f w k es then some (0x30, 0)
                else none

end Sys2Proof.Machine
end

