-- ==== Sys2Proof/Machine/Graph.lean ====
section
/-! DEFINITION. The life of a task descriptor: glint slots and evaluation (R143–R147), records (R157), ending,
teardown, commit, hold, kill and release (R152–R156, R163–R166, R176). -/
namespace Sys2Proof.Machine

/-! ## Fields and glints -/

/-- Scheduler state of a field. -/
def State.fieldAt (s : State) (f : Nat) : Field := mapGet (fun _ => field0) s.sc.fields f

/-- Change a field's scheduler state. -/
def State.modField (s : State) (f : Nat) (g : Field → Field) : State :=
  { s with sc := { s.sc with fields := mapSet (fun _ => field0) s.sc.fields f (g (s.fieldAt f)) } }

/-- A glint slot. -/
def State.glint (s : State) (f k : Nat) : Glint := mapGet (fun _ => glint0) s.sc.glints (4096 * f + k)

/-- A context became runnable while non-resident; it takes the next place in the runnable order (R172). In
swapping-out the event is recorded, and the place is taken when the swap-out ends (R174). -/
def State.makeRunnable (s : State) (x : Nat) : State :=
  match s.ctx x with
  | some c =>
    if c.runnable || !(c.res == .nonResident || c.res == .swappingOut) then s
    else if c.res = .swappingOut then s.setCtx x (some { c with runnable := true })
    else
      let n := (s.fieldAt c.field).runSeq
      (s.setCtx x (some { c with runnable := true, runSeq := n })).modField c.field (fun v => { v with runSeq := n + 1 })
  | none => s

/-- Indices of a descriptor's awaited references to a slot that are not yet met. -/
def awaitsOn (k : Task) (f slot : Nat) : Bool :=
  (List.range 4).any (fun i =>
    let r := (twAwait k.w).getD i 0
    refValid r && decide (refField r = f ∧ refSlot r = slot))

/-- The pool in which a descriptor waits: its cluster's scoreboard in its field, or the route pool (12). -/
def poolOf (k : Task) : Nat × Nat := (k.field, if k.inPool then 12 else twHome k.w % 12)

/-- A change of a slot is sent to every pool in its waiter mask, and a saved descriptor that awaits it makes
its context runnable (R147, R172). -/
def State.glintChanged (s : State) (f slot : Nat) : State :=
  let ws := s.sc.tasks.filter (fun p => awaitsOn p.2 f slot)
  ws.foldl (fun s p =>
    if p.2.phase = .image then s.makeRunnable p.2.ctx
    else
      let (g, q) := poolOf p.2
      s.sendOnce (48 + f) p.2.owner (.glintChange (Fin.ofNat 4 g) (Fin.ofNat 13 q) (Fin.ofNat 4 f) (BitVec.ofNat 12 slot))) s

/-- Replace a slot and tell the pools that wait for it. -/
def State.setGlint (s : State) (f k : Nat) (g : Glint) : State :=
  ({ s with sc := { s.sc with glints := mapSet (fun _ => glint0) s.sc.glints (4096 * f + k) g } }).glintChanged f k

/-- A signal is applied to its slot: from armed at the epoch to done or failed, else it is counted as a
duplicate (R145). -/
def State.signal (s : State) (f slot epoch : Nat) (failed : Bool) : State :=
  let g := s.glint f slot
  if g.st = 0 ∧ g.epoch.toNat = epoch then s.setGlint f slot { g with st := if failed then 2 else 1 }
  else s.bump .schGlintDup f 1

/-- A re-arm is applied: from done or failed to armed at the next epoch (R147); whether it was applied. -/
def State.rearm (s : State) (f slot epoch : Nat) : State × Bool :=
  let g := s.glint f slot
  if g.st ≠ 0 ∧ epoch = (g.epoch.toNat + 1) % 65536 then
    (s.setGlint f slot ⟨BitVec.ofNat 16 epoch, 0⟩, true)
  else (s, false)

/-- How an awaited reference resolves (R144). -/
inductive AwaitRes where
  | waits | met | failed | stale
  deriving DecidableEq, Repr

/-- Resolve a reference against a slot. -/
def resolve (g : Glint) (epoch : Nat) : AwaitRes :=
  if g.epoch.toNat = epoch then
    (if g.st = 0 then .waits else if g.st = 1 then .met else .failed)
  else if 32768 ≤ (epoch + 65536 - g.epoch.toNat) % 65536 then .stale
  else .waits

/-- Send the valid signals of a descriptor to its field; a reference that is not its own context's signals nothing
(R143). -/
def State.sendSignals (s : State) (k : Task) (failed : Bool) : State :=
  (twSignal k.w).foldl (fun s r =>
    if refValid r && refClean r && s.ownSlot k.field k.ctx r then
      s.send k.owner (48 + refField r) (.glintSignalArrival (Fin.ofNat 4 (refField r)) (BitVec.ofNat 12 (refSlot r))
        (BitVec.ofNat 16 (refEpoch r)) failed)
    else s) s

/-! ## The completion record (R157) -/

/-- Stop a count at all ones of 32 bits. -/
def cap32 (n : Nat) : Nat := min n 0xFFFFFFFF

/-- The four words of a completion record. -/
def recordWords (k : Task) (status detail : Nat) : List Word :=
  [BitVec.ofNat 64 (status + k.kills * 2 ^ 8 + b2n k.everPoison * 2 ^ 11 + b2n k.route * 2 ^ 12 +
      b2n k.audited * 2 ^ 13 + b2n k.nkRun * 2 ^ 14 + b2n (twTwin k.w && k.ran && !k.route) * 2 ^ 15 + k.ring.toNat * 2 ^ 16 +
      twCookie k.w * 2 ^ 32),
   BitVec.ofNat 64 (cap32 k.counts.sat + cap32 k.counts.esc * 2 ^ 32),
   BitVec.ofNat 64 (cap32 k.counts.aud + cap32 k.counts.prange * 2 ^ 32),
   BitVec.ofNat 64 (cap32 k.counts.irange + cap32 detail * 2 ^ 32)]

/-- Write a descriptor's record where it can be; the flag tells that its write is on its way. -/
def State.writeRecord (s : State) (t : Nat) (k : Task) (status detail : Nat) : State × Bool :=
  if twRecRange k.w = 0 then (s, false)
  else match s.range (twRecRange k.w) with
    | none => (s.bump .memNoAnswer 0 1, false)
    | some rg =>
      if !rgWr rg (s.partOf k.ctx) || rgLen rg < twRecOff k.w + 32 then (s.bump .memNoAnswer 0 1, false)
      else
        let b := bytesOf (recordWords k status detail)
        let ws := (List.range 32).map (fun i => (⟨rgAddr rg (twRecOff k.w + i), b.getD i 0, 0xFF#8⟩ : ByteW))
        let n := s.acksOf (16 + t)
        let s := s.landOut (.task t) k.field ⟨ws, []⟩
        (s, decide (n < s.acksOf (16 + t)))

/-! ## Residency states (R171, R172) -/

/-- The contexts of a field. -/
def State.ctxsOf (s : State) (f : Nat) : List (Nat × Ctx) := s.sc.ctxs.filter (fun p => decide (p.2.field = f))

/-- Whether a context holds a residency slot. -/
def Ctx.holdsSlot (c : Ctx) : Bool :=
  match c.res with
  | .resident | .blocked | .swappingIn | .swappingOut => true
  | _ => false

/-- Entries of a cluster's scoreboard in use, and those of best-effort descriptors (R148, R162). -/
def State.entriesOf (s : State) (c : Nat) (best : Bool) : Nat :=
  (s.sc.tasks.filter (fun (p : Nat × Task) => decide (twHome p.2.w = c) && p.2.phase != Phase.recWait &&
    (p.2.phase != Phase.image || (match s.ctx p.2.ctx with
      | some x => x.res == .swappingOut
      | none => false)) && (!best || s.bestOf p.2.ctx))).length

/-- Whether the upper cluster of a pair is changing its clock, when its scoreboard takes no descriptors (R17, R62): what
names it waits in its ring (DESIGN CHOICE, log entry 116). -/
def State.relocking (s : State) (c : Nat) : Bool := decide (c % 2 = 1 ∧ (s.twinState c = 1 ∨ s.twinState c = 3))

/-- Whether a context's descriptor finds a free entry at a cluster that takes descriptors (R139, R162). -/
def State.entryFree (s : State) (f x c : Nat) : Bool :=
  !s.relocking c &&
  decide (s.entriesOf c false < 512) &&
    (!s.bestOf x || decide (s.entriesOf c true < 512 - s.fld .schClassRsv f 9 0))

/-- Address of ring entry i of a context. -/
def ringOff (c : Ctx) (i : Nat) : Nat := cwQOff c.cw + 128 * (i % 2 ^ cwQLog c.cw)

/-- The home cluster named by the next ring entry, read as it stands. -/
def State.nextHome (s : State) (c : Ctx) : Option Nat :=
  (s.range (cwQRange c.cw)).map (fun rg =>
    (s.readUnit (unitBase (rgAddr rg (ringOff c c.head.toNat)))).2.data.getD 1 0 |>.toNat |> (· / 4))

/-- Whether every valid awaited reference is met. -/
def allMet (k : Task) : Bool :=
  (List.range 4).all (fun i => !refValid ((twAwait k.w).getD i 0) || k.met.getLsbD i)

/-- Whether a context is blocked (R172). -/
def State.isBlocked (s : State) (x : Nat) (c : Ctx) : Bool :=
  let ts := s.sc.tasks.filter (fun p => decide (p.2.ctx = x))
  ts.all (fun p => match p.2.phase with
    | .held | .recWait | .image => true
    | .placed => !allMet p.2
    | _ => false) &&
  (decide (c.head = c.tail) || c.held || (match s.nextHome c with
    | some h => !s.entryFree c.field x h
    | none => true))

/-- Bring the blocked state of a field's resident contexts up to date, numbering each transition (R172). -/
def State.settle (s : State) (f : Nat) : State :=
  (s.ctxsOf f).foldl (fun s p =>
    let (x, c) := p
    match c.res with
    | .resident =>
      if s.isBlocked x c then
        let n := (s.fieldAt f).blkSeq
        (s.setCtx x (some { c with res := .blocked, blkSeq := n })).modField f (fun v => { v with blkSeq := n + 1 })
      else s
    | .blocked => if s.isBlocked x c then s else s.setCtx x (some { c with res := .resident })
    | _ => s) s

/-! ## Leaving -/

/-- Every write of a descriptor is forgotten with it: acknowledgements still on their way find no one. -/
def State.leaveTask (s : State) (t : Nat) : State :=
  match s.task t with
  | some k => (s.dropTask t).settle k.field
  | none => s

/-- Whether a context has a descriptor left. -/
def State.hasTasks (s : State) (x : Nat) : Bool := s.sc.tasks.any (fun p => p.2.ctx == x)

/-- A torn-down context without descriptors goes on to step 6 of R176. -/
def State.checkTorn (s : State) (x : Nat) : State :=
  match s.ctx x with
  | some c => if c.dying && c.res != .tornDown && !s.hasTasks x then s.sendOnce (48 + c.field) (48 + c.field) (.teardownComplete (BitVec.ofNat 10 x)) else s
  | none => s

/-- The glints of a committed or ended descriptor leave, and it is gone. -/
def State.closeTask (s : State) (t : Nat) (k : Task) (failed : Bool) : State :=
  ((s.sendSignals k failed).leaveTask t).checkTorn k.ctx

/-- After its record: with rec_order the glints wait for the record's acknowledgement (R153). -/
def State.afterRecord (s : State) (t : Nat) (k : Task) (sent failed : Bool) (dead : Option (BitVec 8 × BitVec 32)) :
    State :=
  if twRecOrder k.w && sent then
    (s.putTask t { k with phase := .recWait, eng := .none, dead := if failed then some (dead.getD (0, 0)) else none }).settle k.field
  else s.closeTask t k failed

/-! ## Endings (R156, R158) -/

/-- Whether a status is of class F (R158). -/
def classF (st : Nat) : Bool := decide ((0x11 ≤ st ∧ st ≤ 0x13) ∨ (0x30 ≤ st ∧ st ≤ 0x37))

/-- Trace an event of a descriptor at its owner. -/
def State.traceTask (s : State) (kind : Nat) (k : Task) (status detail : Nat) : State :=
  s.trace kind (if k.inPool || k.route then 48 + k.field else twHome k.w) (some k.ctx) k.ring.toNat status
    (twOpcode k.w) (twCookie k.w) detail

/-- A descriptor ends without commit; the context is left alone. A detail that the manual does not give is
free (log entry 2). -/
def State.endCore (s : State) (t status detail : Nat) : State :=
  match s.task t with
  | none => s
  | some k =>
    let (s, detail) := if (status = 0x33 ∨ status = 0x34) ∧ 4 < detail then
      let (s, w) := s.draw
      (s, w.toNat % 2 ^ 32) else (s, detail)
    let s := (s.bump .schPerfEnd k.field 1).traceTask 3 k status detail
    let s := s.kvLeave t k
    let (s, sent) := s.writeRecord t k status detail
    s.afterRecord t k sent true (some (BitVec.ofNat 8 status, BitVec.ofNat 32 detail))

/-- A kill is issued to a running descriptor; a pre-emption counts (R163–R165). -/
def State.killTask (s : State) (t : Nat) (counts : Bool) : State :=
  match s.task t with
  | none => s
  | some k =>
    let n := if counts then min 4 (k.kills + 1) else k.kills
    let s := s.putTask t { k with phase := .killed, kills := n, promoted := decide (n = 4) }
    let s := if counts then (s.bump .schPerfKill k.field 1).traceTask 4 k 0 n else s
    s.send k.owner k.owner (.killComplete t)

/-- Steps 3 and 4 of a teardown for one descriptor (R176). -/
def State.tearTask (s : State) (t : Nat) (k : Task) : State :=
  match k.phase with
  | .running | .doneWait => if k.nkRun then s else s.killTask t false
  | .killed | .recWait => s
  | _ => s.endCore t 0x20 0

/-- Tear down what a context holds, once it is not being swapped. -/
def State.tearRun (s : State) (x : Nat) : State :=
  (((s.sc.tasks.filter (fun p => p.2.ctx == x)).foldl (fun s p => s.tearTask p.1 p.2) s).checkTorn x)

/-- Record a fault in SCH_FAULT unless one is held there (R176). -/
def State.recordFault (s : State) (f x status ring : Nat) : State :=
  if s.flag .schFault f 0 then s
  else s.setReg .schFault f 0 (BitVec.ofNat 64 (1 + x % 1024 * 2 + status % 256 * 2 ^ 11 + ring % 65536 * 2 ^ 19))

/-- A context is torn down (R176); one that reaches a swapping context waits until the swap has completed (R174). -/
def State.teardown (s : State) (x status ring : Nat) : State :=
  match s.ctx x with
  | none => s
  | some c =>
    if c.dying || c.torn.isSome then s
    else if c.res = .swappingIn ∨ c.res = .swappingOut then s.setCtx x (some { c with torn := some (status, ring) })
    else
      let s := s.recordFault c.field x status ring
      (s.setCtx x (some { c with dying := true, held := false, runnable := false })).tearRun x

/-- A swap of a context has completed: a teardown that waited for it acts now. -/
def State.tearWaiting (s : State) (x : Nat) : State :=
  match s.ctx x with
  | none => s
  | some c => match c.torn with
    | some (st, r) => (s.setCtx x (some { c with torn := none })).teardown x st r
    | none => s

/-- A descriptor ends with a status; class F starts the teardown of its context (R156). -/
def State.endTask (s : State) (t status detail : Nat) : State :=
  match s.task t with
  | none => s
  | some k =>
    let s := s.endCore t status detail
    if classF status then s.teardown k.ctx status k.ring.toNat else s

/-! ## Evaluation (R144, R149) -/

/-- Attention steps that ask for the committed length when they become ready (R218, R226). -/
def asksLength (op : Nat) : Bool := decide (op = 0x50 ∨ op = 0x51 ∨ op = 0x53)

/-- A placed descriptor whose references are all met: a gathered product reads its header (R151), and an
attention step over a stream asks for its length (R218). -/
def State.whenReady (s : State) (t : Nat) : State :=
  match s.task t with
  | none => s
  | some k =>
    let s :=
      if k.phase ≠ .placed || !allMet k then s
      else if twOpcode k.w = 0x11 && (optGet k.gcount 0).isNone then
        (s.putTask t { k with phase := .header }).send k.owner k.owner (.headerArrival t)
      else if asksLength (twOpcode k.w) && k.answer.isNone then
        (s.putTask t { k with phase := .query }).send k.owner (48 + wb (twArea k.w 0) 15 0 / 16384) (.lengthQuery t)
      else s
    s.settle k.field

/-- Evaluate a descriptor's awaited references against their slots as they stand, the satisfied ones again (R144). -/
def State.evaluate (s : State) (t : Nat) : State :=
  match s.task t with
  | none => s
  | some k =>
    let res (i : Nat) : AwaitRes :=
      let r := (twAwait k.w).getD i 0
      if !refValid r then .met else resolve (s.glint (refField r) (refSlot r)) (refEpoch r)
    match (List.range 4).find? (fun i => res i == .failed || res i == .stale) with
    | some i => if res i == .failed then s.endTask t 0x10 i else s.endTask t 0x11 i
    | none =>
      let m := (List.range 4).foldl (fun (m : BitVec 4) i => if res i == .met then m ||| BitVec.ofNat 4 (2 ^ i) else m) 0
      (s.putTask t { k with met := m }).whenReady t

/-! ## Hold and release (R155) -/

/-- The attempt's own state is cleared for the next attempt. What a descriptor holds at its stream, it holds through a
hold for re-run: its place as a reader, inflight or moving, and a frame taken for a page (R205, R209, R213). -/
def Task.again (k : Task) : Task :=
  { k with phase := .placed, eng := .none, poison := false, issued := false, units := 0, dead := none, audited := false,
           counts := counts0, gcount := [], svals := [], answer := if k.claims then k.answer else none, emit := none,
           nkRun := false, round := 0, part := [], shards := [], expired := false }

/-- Whether a poison report of a descriptor is still on its way or waits for a slot. -/
def State.reportsOf (s : State) (t : Nat) : Bool :=
  s.flight.any (fun x => match x.m with
    | .poisonReport r => r.task == some t && !r.auditPath
    | _ => false) || s.ix.queue.any (fun r => r.task == some t && !r.auditPath)

/-- A held descriptor whose last slot is released re-dispatches (R155, R280). -/
def State.tryRelease (s : State) (t : Nat) : State :=
  match s.task t with
  | some k =>
    if k.slots.isEmpty && !s.reportsOf t then
      match k.phase with
      | .held => (s.putTask t k.again).whenReady t
      | .image => (s.putTask t { k.again with phase := .image }).makeRunnable k.ctx
      | _ => s
    else s
  | none => s

/-- The address of a bad granule that a descriptor reported, for the trace. -/
def State.holdAddr (s : State) (t : Nat) : Nat :=
  match s.flight.findSome? (fun x => match x.m with
    | .poisonReport r => if r.task = some t then some r.addr else none
    | _ => none) with
  | some a => a
  | none => match s.task t with
    | some k => match k.slots with
      | j :: _ => (s.slot j).addr
      | [] => 0
    | none => 0

/-- A killable descriptor that consumed poison is held for re-run (R155). -/
def State.holdTask (s : State) (t : Nat) : State :=
  match s.task t with
  | none => s
  | some k =>
    let s := (s.bump .schPerfHeld k.field 1).traceTask 5 k 0 (s.holdAddr t)
    let s := s.dropHolds t
    let s := s.modTask t (fun k => { k with phase := .held, eng := .none, audited := false, counts := counts0 })
    (s.settle k.field).tryRelease t

/-! ## Commit (R152, R153) -/

/-- Write a tensor table entry and make it valid; scoreboard copies of the handle become stale (R119, R148). -/
def State.writeEntry (s : State) (x h : Nat) (e : List Word) : State :=
  match s.ctx x with
  | none => s
  | some c => match s.range (cwTtRange c.cw) with
    | none => s.bump .memNoAnswer 0 1
    | some rg =>
      let a := rgAddr rg (cwTtOff c.cw + 128 * h)
      let s := match s.noAnswer a with
        | some _ => s.bump .memNoAnswer 0 1
        | none => s.writeBytes (byteWrites a (bytesOf e) [])
      s.setValid x h true

/-- Handles whose entries a descriptor's scoreboard keeps: its own, its area's, and those of the index tensors that bind
them (R148). -/
def Task.handles (k : Task) : List Nat :=
  (List.range 5).map (twHandle k.w) ++ areaHandles k.w ++ (k.entries.filter teBound).map teIndex

/-- Invalidate the scoreboard copies of a handle (R148). -/
def State.staleCopies (s : State) (x h : Nat) : State :=
  { s with sc := { s.sc with tasks := optMap (fun _ k =>
    if k.ctx = x ∧ k.handles.contains h then { k with stale := true } else k) s.sc.tasks } }

/-- Scalar destination of a one-row reduction (R109). -/
def State.writeScalar (s : State) (k : Task) : State :=
  if twOpcode k.w = 0x20 && twRed k.w ≠ 0 && twSdst k.w ≠ 0 then
    match k.svals with
    | v :: _ => s.setReg .vecSreg (twHome k.w) (twSdst k.w)
        (if twRed k.w = 6 then BitVec.ofInt 64 v.toInt else v.setWidth 64)
    | [] => s
  else s

/-- Everything that a commit applies at once before the glints leave (R153). -/
def State.commitEffects (s : State) (t : Nat) (k : Task) : State :=
  let s := s.writeScalar k
  let s := match twOpcode k.w with
    | 0x02 =>
      let h := wb (twArea k.w 1) 15 0
      (s.writeEntry k.ctx h (k.entryAt 0)).staleCopies k.ctx h
    | 0x03 =>
      let h := wb (twArea k.w 1) 15 0
      (s.setValid k.ctx h false).staleCopies k.ctx h
    | _ => s
  let s := s.kvFinish k
  let s := s.kvLeave t k
  match k.emit with
  | some e => s.send k.owner (48 + e.stream.toNat / 16384) (.report e)
  | none => s

/-- A descriptor commits (R153). -/
def State.commitTask (s : State) (t : Nat) : State :=
  match s.task t with
  | none => s
  | some k =>
    let s := s.commitEffects t k
    let s := (s.bump .schPerfCommit k.field 1).bump .schAuditDiffs k.field k.counts.aud
    let s := s.traceTask 2 k 0 k.kills
    let (s, sent) := s.writeRecord t k 0 0
    s.afterRecord t k sent false none

/-- Every unit has reported: the descriptor ends, is held, waits for its writes, or commits (R152–R155). -/
def State.allDone (s : State) (t : Nat) : State :=
  match s.task t with
  | none => s
  | some k => match k.dead with
    | some (st, d) => s.endTask t st.toNat d.toNat
    | none =>
      if k.poison then (if k.nkRun then s.endTask t 0x22 0 else s.holdTask t)
      else if s.acksOf (16 + t) ≠ 0 then
        s.putTask t { k with phase := .doneWait, eng := if isSrv (twOpcode k.w) then k.eng else .none }
      else s.commitTask t

/-- A unit's report reaches the owner (R152, R154, R155). A kill that meets the last done has no effect, one that meets a
poison report holds the descriptor without a kill (R154), and a descriptor with several units is on the banks, which no
pre-emption kills (R163). -/
def State.unitReport (s : State) (t : Nat) (r : UnitRep) : State :=
  match s.task t with
  | none => s
  | some k =>
    if k.phase ≠ .running then s
    else
      let k := match r with
        | .done => k
        | .poison => { k with poison := true, everPoison := true }
        | .error st d => k.fail st.toNat d.toNat
      let k := { k with units := k.units - 1 }
      let s := s.putTask t k
      if k.units = 0 then ((s.atomsBack t k.field).kvEngLeave t).allDone t else s

/-- An injection on the cost bound of a cluster or stack makes the next descriptor that completes there report an overrun: it
is logged, and the attempt ends with internal-error (R98, R170, R286). -/
def State.injectOverrun (s : State) (unit island t : Nat) : State :=
  match s.task t with
  | none => s
  | some k =>
    if !s.injEvent 5 unit || k.dead.isSome then s
    else
      let (s, w) := (s.injFired island 0).draw
      (s.logE { kind := 0x0A, island := island, ctx := k.ctx, part := s.partOf k.ctx, detail := w.toNat }).modTask t
        (fun k => k.fail 0x24 island)

/-- Completion on a cluster's engines meets an injection there. -/
def State.injectCluster (s : State) (t : Nat) : State :=
  match s.task t with
  | none => s
  | some k => match k.eng with
    | .arrays | .vector | .copy => s.injectOverrun (16 + twHome k.w) (twHome k.w) t
    | _ => s

/-- The unit that ran a descriptor's work reports what became of it. -/
def State.sendDone (s : State) (t : Nat) : State :=
  let s := s.injectCluster t
  match s.task t with
  | none => s
  | some k => s.sendOnce k.owner k.owner (.unitDone t (match k.dead with
    | some (st, d) => .error st d
    | none => if k.poison then .poison else .done) false)

/-- Run the work of a descriptor that has been dispatched and not yet issued, when its opcode is the one
given, once no read of it meets a pass; the work's end is reported by the work itself. -/
def State.runOp (s : State) (t op : Nat) (f : State → Task → State) : State :=
  match s.task t with
  | none => s
  | some k =>
    if k.phase = .running ∧ !k.issued ∧ twOpcode k.w = op then
      s.awaitBoundary (fun s => f (s.putTask t { k with issued := true }) k)
    else s

/-- Work that ends with its own report. -/
def State.runUnit (s : State) (t op : Nat) (f : State → Task → State) : State :=
  s.runOp t op (fun s k => (f s k).sendDone t)

/-! ## Commands -/

/-- Whether a descriptor waits in its pool, not yet dispatched. -/
def Task.waiting (k : Task) : Bool := k.phase == .placed || k.phase == .header || k.phase == .query || k.phase == .handoff

/-- The pool of a cluster or route pool re-evaluates what awaits a slot (R144). -/
def State.reevaluate (s : State) (f pool gf slot : Nat) : State :=
  (s.sc.tasks.filter (fun p => p.2.waiting && decide (poolOf p.2 = (f, pool)) && awaitsOn p.2 gf slot)).foldl
    (fun s p => s.evaluate p.1) s

/-- GLINT_CHANGE (R144, R147). -/
def execGlintChange (f : Fd) (pool : Fin 13) (gf : Fd) (slot : BitVec 12) (s : State) :
    Host.Outcome State Fault Refusal :=
  .next (s.arrive (.glintChange f pool gf slot) (fun s => s.reevaluate f.val pool.val gf.val slot.toNat))

/-- GLINT_SIGNAL_ARRIVAL (R145). -/
def execGlintSignalArrival (f : Fd) (slot : BitVec 12) (epoch : BitVec 16) (failed : Bool) (s : State) :
    Host.Outcome State Fault Refusal :=
  .next (s.arrive (.glintSignalArrival f slot epoch failed) (fun s => s.signal f.val slot.toNat epoch.toNat failed))

/-- A re-arm request reaches its slot and is answered (R147). -/
def State.rearmFor (s : State) (f slot epoch t : Nat) : State :=
  let (s, ok) := s.rearm f slot epoch
  s.send (48 + f) (s.ownerOf t) (.garmAnswer t ok)

/-- REARM_REQUEST (R147). -/
def execRearmRequest (f : Fd) (slot : BitVec 12) (epoch : BitVec 16) (t : Nat) (s : State) :
    Host.Outcome State Fault Refusal :=
  .next (s.arrive (.rearmRequest f slot epoch t) (fun s => s.rearmFor f.val slot.toNat epoch.toNat t))

/-- The answer to a re-arm ends the GARM's attempt (R147). -/
def State.garmAnswered (s : State) (t : Nat) (applied : Bool) : State :=
  s.unitReport t (if applied then .done else .error 0x13 0)

/-- GARM_ANSWER (R147). -/
def execGarmAnswer (t : Nat) (applied : Bool) (s : State) : Host.Outcome State Fault Refusal :=
  .next (s.arrive (.garmAnswer t applied) (fun s => s.garmAnswered t applied))

/-- UNIT_DONE (R152). -/
def execUnitDone (t : Nat) (rep : UnitRep) (_killSameAc : Bool) (s : State) : Host.Outcome State Fault Refusal :=
  .next (s.arrive (.unitDone t rep false) (fun s => s.unitReport t rep))

/-- A release reaches a held descriptor's owner (R155). -/
def State.released (s : State) (t slot : Nat) : State :=
  match s.task t with
  | none => s
  | some k =>
    let s := s.traceTask 6 k 0 slot
    (s.putTask t { k with slots := k.slots.erase slot }).tryRelease t

/-- DESCRIPTOR_RELEASE (R155). -/
def execDescriptorRelease (t : Nat) (slot : BitVec 6) (s : State) : Host.Outcome State Fault Refusal :=
  .next (s.arrive (.descriptorRelease t slot) (fun s => s.released t slot.toNat))

/-- The killed attempt's arrays, vector engines, reduction state, bank work and place on a KV engine are
discarded (R82, R164, R176). -/
def State.discard (s : State) (t : Nat) (k : Task) : State :=
  let c := twHome k.w
  let cs := if twTwin k.w then [c, c + 1] else [c]
  match k.eng with
  | .arrays => cs.foldl (fun s c => { s with ax := mapSet (fun _ => arrays0) s.ax c arrays0 }) s
  | .vector => cs.foldl (fun s c => { s with vx :=
      ⟨mapSet (fun _ => engine0) (mapSet (fun _ => engine0) s.vx.eng (2 * c) engine0) (2 * c + 1) engine0,
       mapSet (fun _ => red0) s.vx.red c red0⟩ }) s
  | .banks => s.dropBank t
  | .append | .migrate => s.kvEngLeave t
  | .copy => s.setAtoms ((s.mm.atoms.map (fun (l : AtomLine) => { l with users := l.users.erase t })).filter (fun l => !l.users.isEmpty))
  | _ => s

/-- A killed attempt leaves its engine; under teardown the descriptor ends, else it waits for its writes and
returns to the ready set (R164, R176). -/
def State.killDone (s : State) (t : Nat) : State :=
  match s.task t with
  | none => s
  | some k =>
    if k.phase ≠ .killed then s
    else
      let s := s.discard t k
      let s := s.kvLeave t k
      let dying := match s.ctx k.ctx with
        | some c => c.dying
        | none => false
      if dying then (s.modTask t (fun k => { k with counts := counts0 })).endCore t 0x20 0
      else if s.acksOf (16 + t) = 0 then (s.putTask t k.again).whenReady t
      else s.putTask t { k.again with phase := .killWait }

/-- KILL_COMPLETE (R164). -/
def execKillComplete (t : Nat) (s : State) : Host.Outcome State Fault Refusal :=
  .next (s.arrive (.killComplete t) (fun s => s.killDone t))

/-- The last write of a killed attempt is acknowledged. -/
def State.killAcked (s : State) (t : Nat) : State :=
  match s.task t with
  | some k => if k.phase = .killWait ∧ s.acksOf (16 + t) = 0 then (s.putTask t { k with phase := .placed }).whenReady t else s
  | none => s

/-- KILLED_WRITES_ACKED (R164). -/
def execKilledWritesAcked (t : Nat) (s : State) : Host.Outcome State Fault Refusal :=
  .next (s.arrive (.killedWritesAcked t) (fun s => s.killAcked t))

/-- The shards of an ARING whose acknowledgements have all returned, oldest first: one ready message for each goes to the
next rank, in whatever phase the descriptor is (R228). -/
def State.readyShards (s : State) (t : Nat) : State :=
  match s.task t with
  | none => s
  | some k =>
    let n := (k.shards.takeWhile (·.isEmpty)).length
    let m : RingMsg := ⟨wb (twArea k.w 0) 19 16, false, 0⟩
    { (s.putTask t { k with shards := k.shards.drop n }) with lk := { s.lk with ctl := s.lk.ctl ++ List.replicate n m } }

/-- A peer has acknowledged the write with a tag: the shard that it belongs to waits for one less (R228). -/
def State.shardAcked (s : State) (t tag : Nat) : State :=
  (s.modTask t (fun k => { k with shards := k.shards.map (fun l => l.erase tag) })).readyShards t

/-- What waits for the last acknowledgement of a descriptor's writes goes on. -/
def State.acked (s : State) (t : Nat) : State :=
  match s.task t with
  | none => s
  | some k =>
    let s := s.readyShards t
    match k.phase with
    | .doneWait => s.allDone t
    | .recWait => s.closeTask t k k.dead.isSome
    | .killWait => s.sendOnce k.owner k.owner (.killedWritesAcked t)
    | _ => s

/-- An acknowledgement reaches its issuer (R178); a core's FENCE completes with its last one (R183); a peer's carries the
saturations of its adds (R267). -/
def State.writeAcked (s : State) (i : Issuer) : State :=
  match ackKey i with
  | none => match i with
    | .peer d => s.setSats d.toNat 0
    | _ => s
  | some key =>
    let n := s.acksOf key - 1
    let s := s.setAcks key n
    if n ≠ 0 then s
    else match i with
      | .task t => s.acked t
      | .core h => { s with io := { s.io with fence := s.io.fence.filter (· ≠ h.val) } }
      | _ => s

/-- WRITE_ACK (R178). -/
def execWriteAck (iss : Issuer) (s : State) : Host.Outcome State Fault Refusal :=
  .next (s.arrive (.writeAck iss) (fun s => s.writeAcked iss))

/-- Island of the unit that reports a descriptor's overrun: its cluster, or one of the stack controllers that still hold
it, of several a free one (R98, R170). -/
def State.overrunIsland (s : State) (t : Nat) (k : Task) : State × Nat :=
  if !k.route then (s, twHome k.w)
  else
    let l := uniq ((s.chansWith t).map (·.1))
    let (s, w) := s.draw
    (s, if l.isEmpty then 48 + k.field else 52 + l.getD (w.toNat % l.length) 0)

/-- COST_OVERRUN (R170): a device fault; the descriptor ends with internal-error and it is logged. -/
def State.overrun (s : State) (t : Nat) : State :=
  match s.task t with
  | none => s
  | some k =>
    if k.phase = .running ∨ k.phase = .doneWait then
      let (s, isl) := s.overrunIsland t k
      let (s, w) := s.draw
      let s := s.logE { kind := 0x0A, island := isl, ctx := k.ctx, part := s.partOf k.ctx, detail := w.toNat }
      (s.discard t k).endTask t 0x24 isl
    else s

def execCostOverrun (t : Nat) (s : State) : Host.Outcome State Fault Refusal := .next (s.overrun t)

/-- TEARDOWN_COMPLETE (R176): armed slots of the range fail, the slot and entries are freed. -/
def State.tornDown (s : State) (x : Nat) : State :=
  match s.ctx x with
  | none => s
  | some c =>
    if !c.dying || c.res == .tornDown || s.hasTasks x then s
    else
      let s := (List.range (cwGCount c.cw)).foldl (fun s i =>
        let g := s.glint c.field (cwGBase c.cw + i)
        if g.st = 0 then s.setGlint c.field (cwGBase c.cw + i) { g with st := 2 } else s) s
      (s.setCtx x (some { c with res := .tornDown, pinned := false, runnable := false, held := false })).bump
        .schPerfTeardown c.field 1

def execTeardownComplete (x : BitVec 10) (s : State) : Host.Outcome State Fault Refusal :=
  .next (s.arrive (.teardownComplete x) (fun s => s.tornDown x.toNat))

end Sys2Proof.Machine
end

