-- ==== Sys2Proof/Machine/Sched.lean ====
section
/-! DEFINITION. The field scheduler: contexts (R137), rings and fetch (R138, R139, R142, R148), dispatch and
routes (R149–R151, R161–R166, R10, R11, R43), tensor creation (R119, R134–R136). -/
namespace Sys2Proof.Machine

/-! ## Contexts (R137) -/

/-- Reserved bits and limits of a context record. -/
def cwMalformed (w : List Word) : Bool :=
  decide (wb (wordAt w 0) 63 56 ≠ 0 ∨ wb (wordAt w 1) 63 16 ≠ 0 ∨ wb (wordAt w 2) 63 61 ≠ 0 ∨
    wb (wordAt w 3) 63 30 ≠ 0 ∨ cwQLog w < 6 ∨ 16 < cwQLog w ∨ cwQOff w % 128 ≠ 0 ∨
    (0 < cwTtCap w ∧ cwTtOff w % 128 ≠ 0))

/-- The range checks of a context record. -/
def State.cwRangeBad (s : State) (w : List Word) : Bool :=
  (match s.range (cwQRange w) with
    | none => true
    | some rg => !rgRd rg (cwPart w) || decide (rgLen rg < cwQOff w + 128 * 2 ^ cwQLog w)) ||
  (decide (0 < cwTtCap w) && (match s.range (cwTtRange w) with
    | none => true
    | some rg => decide (rgRdMask rg ≠ 0 ∨ rgWrMask rg ≠ 0 ∨ rgLen rg < cwTtOff w + 128 * cwTtCap w)))

/-- The glint range checks of a context record in a field. -/
def State.cwGlintBad (s : State) (f : Nat) (w : List Word) : Bool :=
  decide (4096 < cwGBase w + cwGCount w) || (s.ctxsOf f).any (fun p =>
    decide (0 < cwGCount w ∧ 0 < cwGCount p.2.cw ∧ cwGBase w < cwGBase p.2.cw + cwGCount p.2.cw ∧
      cwGBase p.2.cw < cwGBase w + cwGCount w))

/-- The reason of a context request (R137, R159): 0 accepted. -/
def State.ctxReason (s : State) (f : Nat) (q : CxReq) : Nat :=
  if q.create && q.destroy then 4
  else if q.create then
    if cwMalformed q.words then 4
    else if (s.ctx q.ctx).isSome then 1
    else if s.cwRangeBad q.words then 2
    else if s.cwGlintBad f q.words then 3
    else 0
  else match s.ctx q.ctx with
    | some c => if c.field ≠ f || s.hasTasks q.ctx || c.res == .swappingIn || c.res == .swappingOut then 5 else 0
    | none => 5

/-- A context as created: non-resident, nothing fetched. -/
def newCtx (f : Nat) (w : List Word) : Ctx := ⟨w, f, 0, 0, .nonResident, false, 0, 0, false, false, false, none⟩

/-- The context checker finishes (R137). -/
def State.ctxFinish (s : State) (f : Nat) : State :=
  match (s.fieldAt f).cx with
  | none => s
  | some q =>
    let s := s.modField f (fun v => { v with cx := none })
    let r := s.ctxReason f q
    let s := s.setFld .schCtxStat f 3 1 r
    let s := s.setBit .schCtxStat f 0 true
    if r ≠ 0 then s
    else if q.create then
      let s := s.setCtx q.ctx (some (newCtx f q.words))
      (List.range (cwGCount q.words)).foldl (fun s i => s.setGlint f (cwGBase q.words + i) ⟨0, 0⟩) s
    else
      let s := s.setCtx q.ctx none
      { s with sc := { s.sc with tens := s.sc.tens.filter (fun p => decide (p.1 / 65536 ≠ q.ctx)) } }

/-- A write of SCH_CTX_CTL (R137, R159): a request still in the checker finishes first. -/
def State.ctxStart (s : State) (f : Nat) (v : Word) : State :=
  let s := s.ctxFinish f
  let s := s.setBit .schCtxStat f 0 false
  if !wbit v 10 && !wbit v 11 then s
  else s.modField f (fun t => { t with cx := some ⟨wb v 9 0, wbit v 10, wbit v 11,
    (List.range 4).map (fun i => s.reg .schCtxStage f i)⟩ })

/-- CONTEXT_CREATE: a write of SCH_CTX_CTL with create set (R137). -/
def execContextCreate (f : Fd) (v : Word) (s : State) : Host.Outcome State Fault Refusal :=
  .next (s.ctxStart f.val (v ||| BitVec.ofNat 64 (2 ^ 10)))

/-- CONTEXT_DESTROY: a write of SCH_CTX_CTL with destroy set (R137). -/
def execContextDestroy (f : Fd) (v : Word) (s : State) : Host.Outcome State Fault Refusal :=
  .next (s.ctxStart f.val (v ||| BitVec.ofNat 64 (2 ^ 11)))

/-- CONTEXT_CHECK_COMPLETE (R137). -/
def execContextCheckComplete (f : Fd) (s : State) : Host.Outcome State Fault Refusal := .next (s.ctxFinish f.val)

/-- A write of SCH_Q_DOORBELL (R138, R174, R176). -/
def State.ring (s : State) (f : Nat) (v : Word) : State :=
  let x := wb v 9 0
  let tail := BitVec.ofNat 17 (wb v 26 10)
  let overCap := s.setBit .schCtxStat f 4 true
  match s.ctx x with
  | none => overCap
  | some c =>
    if c.field ≠ f || c.dying || decide (2 ^ cwQLog c.cw < (tail - c.head).toNat) then overCap
    else
      let s := s.setCtx x (some { c with tail := tail })
      let s := if tail ≠ c.head then s.makeRunnable x else s
      s.settle f

/-- DOORBELL (R138). -/
def execDoorbell (f : Fd) (v : Word) (s : State) : Host.Outcome State Fault Refusal := .next (s.ring f.val v)

/-! ## Tensor creation (R134–R136) -/

/-- The checker is free: it takes the next creation that waits. -/
def State.tdNext (s : State) (f : Nat) : State :=
  match (s.fieldAt f).tdq with
  | [] => (s.modField f (fun v => { v with td := none })).setBit .schTdResult f 1 false
  | q :: t => (s.modField f (fun v => { v with td := some q, tdq := t })).setBit .schTdResult f 1 true

/-- A creation reaches the checker, or waits for it (R135). -/
def State.tdSubmit (s : State) (f : Nat) (q : TdReq) : State :=
  match (s.fieldAt f).td with
  | none => (s.modField f (fun v => { v with td := some q })).setBit .schTdResult f 1 true
  | some _ => s.modField f (fun v => { v with tdq := v.tdq ++ [q] })

/-- A write of SCH_TD_CREATE, dropped while busy (R136). -/
def State.tdWrite (s : State) (f : Nat) (v : Word) : State :=
  if s.flag .schTdResult f 1 then s.setBit .schTdResult f 2 true
  else
    (s.setBit .schTdResult f 0 false).tdSubmit f
      ⟨wb v 9 0, wb v 25 10, wbit v 26, (List.range 16).map (fun i => s.reg .schTdStage f i), none⟩

/-- The checker finishes: a register's creation is written and reported, a graph's returns to its TCREATE
(R134, R135). -/
def State.tdFinish (s : State) (f : Nat) : State :=
  match (s.fieldAt f).td with
  | none => s
  | some q =>
    let s := s.tdNext f
    if q.destroy then
      let s := match s.ctx q.ctx with
        | some c => if c.field = f then (s.setValid q.ctx q.handle false).staleCopies q.ctx q.handle else s
        | none => s
      let s := s.setBit .schTdResult f 0 true
      (s.setFld .schTdResult f 15 8 0).setFld .schTdResult f 47 16 0
    else
      let (s, r, e) := s.creationCheck f q.ctx q.handle q.words
      let s := if r = 0 then s else s.bump .schTdRefused f 1
      match q.task with
      | some t =>
        let s := s.modTask t (fun k => if r = 0 then { k with entries := [e] } else k.fail r 0)
        s.sendDone t
      | none =>
        let s := if r = 0 then (s.writeEntry q.ctx q.handle e).staleCopies q.ctx q.handle else s
        let s := s.setBit .schTdResult f 0 true
        let s := s.setFld .schTdResult f 15 8 r
        s.setFld .schTdResult f 47 16 (if r = 0 then teSize e (teRank e - 1) else 0)

/-- TENSOR_CREATE (R134, R136). -/
def execTensorCreate (f : Fd) (v : Word) (s : State) : Host.Outcome State Fault Refusal :=
  .next (s.tdWrite f.val (wput v 26 26 0))

/-- TENSOR_DESTROY (R135, R136). -/
def execTensorDestroy (f : Fd) (v : Word) (s : State) : Host.Outcome State Fault Refusal :=
  .next (s.tdWrite f.val (wput v 26 26 1))

/-- TENSOR_CREATION_COMPLETE (R134). -/
def execTensorCreationComplete (f : Fd) (s : State) : Host.Outcome State Fault Refusal := .next (s.tdFinish f.val)

/-! ## Fetch (R139, R142, R148) -/

/-- A new descriptor. -/
def newTask (f x ring : Nat) (w : List Word) (pool : Bool) : Task :=
  { ctx := x, field := f, ring := BitVec.ofNat 16 ring, w := w, inPool := pool, met := 0, issued := false,
    phase := .placed, eng := .none, kills := 0, promoted := false, nkRun := false, dead := none,
    everPoison := false, poison := false, sel := none, audited := false, route := false, units := 0, entries := [],
    stale := false, gcount := [], scal := [], esc := 0, thr := 0, counts := counts0, svals := [], slots := [],
    pos := 0, len := 0, reader := false, emit := none, answer := none, round := 0, credits := 3, readys := 0, shards := [], frame := none,
    part := [], arb := [], shape := 0, strm := [], ran := false, img := 0, expired := false }

/-- Whether a descriptor waits in the route pool (R148, R151). -/
def poolsRoute (w : List Word) : Bool :=
  (isMatrix (twOpcode w) && decide (twRoute w ≠ 1)) || decide (twOpcode w = 0x53)

/-- What a fetch of one ring entry came to. -/
inductive FetchRes where
  | more | stop
  deriving DecidableEq, Repr

/-- Fetch one descriptor of a context: a bad entry holds the fetch (R139), a failing one ends at once, one
without a free entry blocks the ring, and the others are placed. A tensor table that gives no answer ends a descriptor that
no earlier check ends (R255, R265). -/
def State.fetchOne (s : State) (f x : Nat) : State × FetchRes :=
  match s.ctx x with
  | none => (s, .stop)
  | some c =>
    if c.head = c.tail || c.held || c.dying then (s, .stop)
    else match s.range (cwQRange c.cw) with
      | none => ((s.bump .memNoAnswer 0 1).setCtx x (some { c with held := true }), .stop)
      | some rg =>
        let a := rgAddr rg (ringOff c c.head.toNat)
        match s.noAnswer a with
        | some _ => ((s.bump .memNoAnswer 0 1).setCtx x (some { c with held := true }), .stop)
        | none =>
          let (s, r) := s.readRun a 128
          if r.bad then
            let s := r.bads.foldl (fun s b => s.report ⟨b.1, (homeIsland b.1).getD 0, b.2.val, none,
              BitVec.ofNat 10 x, BitVec.ofNat 4 (cwPart c.cw), true, false⟩) s
            (s.setCtx x (some { c with held := true }), .stop)
          else
            let w := wordsOf 16 r.data
            let k := s.fmtOf f x w
            let own := twMalformed w (s.fld .lnkDev 0 3 0) || (s.glintBad f x w).isSome ||
              s.recordBad (cwPart c.cw) w || s.placementBad f w
            let (s, es, gone) := if own then (s, [], none) else s.readEntries x w k.dv
            let t := s.sc.nextId
            let nt := newTask f x c.head.toNat w (poolsRoute w)
            match (match gone with
              | some d => some (0x24, d)
              | none => s.firstFail f x w es) with
            | some (st, d) =>
              let s := { s with sc := { s.sc with nextId := t + 1 } }
              let s := s.setCtx x (some { c with head := c.head + 1 })
              ((s.putTask t nt).endTask t st d, if classF st then .stop else .more)
            | none =>
              if !s.entryFree f x (twHome w) then (s, .stop)
              else
                let s := { s with sc := { s.sc with nextId := t + 1 } }
                let s := s.setCtx x (some { c with head := c.head + 1 })
                ((s.putTask t { nt with entries := es }).evaluate t, .more)

/-- Up to n fetches of a context in one turn. -/
def State.fetchTurn (s : State) (f x : Nat) : Nat → State
  | 0 => s
  | n + 1 => match s.fetchOne f x with
    | (s, .more) => s.fetchTurn f x n
    | (s, .stop) => s

/-- The context whose turn it is: the first after the last one served, in ascending number, that is resident
and has something to fetch (R139). -/
def State.fetchNext (s : State) (f : Nat) : Option Nat :=
  let xs := ((s.ctxsOf f).filter (fun p => (p.2.res == .resident || p.2.res == .blocked) && !p.2.held && !p.2.dying &&
    decide (p.2.head ≠ p.2.tail))).map (·.1)
  let r := (s.fieldAt f).rr
  match xs.find? (fun x => decide (r < x)) with
  | some x => some x
  | none => xs.head?

/-- One turn of fetch in a field. -/
def State.fetchField (s : State) (f : Nat) : State :=
  let s := s.settle f
  match s.fetchNext f with
  | none => s
  | some x => ((s.modField f (fun v => { v with rr := x })).fetchTurn f x 8).settle f

/-- FETCH (R139); it has stopped while secrets are cleared (R352). -/
def execFetch (f : Fd) (s : State) : Host.Outcome State Fault Refusal := .next (if s.clearing then s else s.fetchField f.val)

/-! ## Dispatch (R149–R151, R161–R166) -/

/-- The engine that a descriptor needs when its home scoreboard runs it. -/
def engOf (op : Nat) : Eng :=
  match op with
  | 0x10 | 0x11 | 0x12 | 0x46 | 0x50 | 0x51 | 0x52 | 0x53 | 0x55 => .arrays
  | 0x20 | 0x54 => .vector
  | 0x30 | 0x70 | 0x71 | 0x72 | 0x73 => .copy
  | 0x40 | 0x41 | 0x42 | 0x43 | 0x44 => .append
  | 0x45 => .migrate
  | 0x60 | 0x61 | 0x62 | 0x63 => .copy
  | _ => .none

/-- The cluster engines by number: arrays, vector, copy. -/
def engNo (e : Nat) : Eng := if e = 0 then .arrays else if e = 1 then .vector else .copy

/-- Whether a descriptor may be selected (R149, R151, R218). -/
def selectable (k : Task) : Bool :=
  k.phase == .placed && allMet k && (twOpcode k.w != 0x11 || (optGet k.gcount 0).isSome) &&
    (!asksLength (twOpcode k.w) || k.answer.isSome)

/-- Rank of a descriptor (R161): class, then promotion, then age. -/
def State.rankOf (s : State) (t : Nat) (k : Task) : Nat × Nat :=
  (if !s.bestOf k.ctx then 0 else if k.promoted then 1 else 2, t)

/-- The first of a list of descriptors in the ranking of R161. -/
def State.bestTask (s : State) (l : List (Nat × Task)) : Option (Nat × Task) :=
  l.foldl (fun b p => match b with
    | none => some p
    | some q =>
      let (a, x) := s.rankOf p.1 p.2
      let (c, y) := s.rankOf q.1 q.2
      if a < c ∨ (a = c ∧ x < y) then some p else b) none

/-- The descriptor that holds a cluster engine, if any; a serving descriptor holds the copy path until it commits or
ends (R252). -/
def State.holder (s : State) (c : Nat) (e : Eng) : Option (Nat × Task) :=
  s.sc.tasks.find? (fun (p : Nat × Task) => p.2.eng == e && decide (twHome p.2.w = c) && !p.2.route &&
    (p.2.phase == .running || p.2.phase == .killed || p.2.phase == .doneWait))

/-- The gating level in an island (R328, R331): b in bits 4:0, audits allowed in bit 5, q in bits 10:6. -/
def State.gate (s : State) (island : Nat) : Nat := (mapGet (fun _ => level0) s.pw.lvl island).toNat

/-- Sixteenths at which a descriptor's attempt may issue in an island: b for killable best-effort work, else q
(R328). -/
def State.issueLevel (s : State) (island : Nat) (k : Task) : Nat :=
  let v := s.gate island
  if s.bestOf k.ctx && !k.nkRun then bits v 4 0 else bits v 10 6

/-- Whether work may start in the ac whose number modulo 16 is a (R328). -/
def State.mayIssue (s : State) (island : Nat) (k : Task) (a : Nat) : Bool :=
  let g := s.issueLevel island k
  decide (a * g / 16 < (a + 1) * g / 16)

/-- Attempts that are non-killable from first issue (R166, R228, R237). -/
def nonKillable (k : Task) : Bool :=
  isAtom (twOpcode k.w) || decide (twSmode k.w = 2) || twNk k.w || k.promoted || decide (twOpcode k.w = 1) ||
    decide (twOpcode k.w = 0x60)

/-- Tiles of a product counted by R43, for the route taken. -/
def auditTiles (d : MatDims) (banks : Bool) : Nat :=
  d.batch * cdiv d.n 64 * (if banks then min 1 d.m else cdiv d.m 16)

/-- The rows, depth, columns and batch of a product or expansion as it runs. -/
def State.runDims (k : Task) (f : KvFmt) : MatDims :=
  if twOpcode k.w = 0x46 then ⟨kvCount k.w, f.dk - 32 * f.rope, tePadded (k.entryAt 1) 0, 1⟩
  else
    let d := matDims k.entries
    { d with m := (optGet k.gcount 0).getD (tePadded (k.entryAt 0) 1) }

/-- The audit selection at a first dispatch (R43): the counter advances over the descriptor's tiles, and a
multiple of the rate among them selects one. -/
def State.selectAudit (s : State) (t : Nat) (banks : Bool) : State :=
  match s.task t with
  | none => s
  | some k =>
    let n := s.fld .schAuditCfg k.field 15 0
    let op := twOpcode k.w
    let f := s.fmtOf k.field k.ctx k.w
    let narrow := auditTypes (if op = 0x46 then f.et else teType (k.entryAt 0)) (teType (k.entryAt 1))
    if k.sel.isSome || !(isMatrix op || op = 0x46) then s
    else if n = 0 || !narrow || bitOf (twAuditTol k.w) 7 then s.putTask t { k with sel := some 0 }
    else
      let tiles := auditTiles (State.runDims k f) banks
      let c := s.fld .schAuditCnt k.field 47 0
      let m := (c / n + 1) * n
      let s := s.setFld .schAuditCnt k.field 47 0 ((c + tiles) % 2 ^ 48)
      s.putTask t { k with sel := some (if m ≤ c + tiles then m - c else 0) }

/-- The scalars that a chain names, as they stand (R109). -/
def State.sampleScalars (s : State) (w : List Word) : SMap Word :=
  (twChain w).foldl (fun (m : SMap Word) x =>
    let v := x.toNat
    if bits v 31 24 < 0x30 ∧ bits v 7 6 ≠ 0 ∧ bits v 5 0 ≠ 0 then
      mapPut m (bits v 5 0) (s.reg .vecSreg (twHome w) (bits v 5 0))
    else m) []

/-- Positions whose counts a dispatch reads: bound operands, and the page list of a paged attention step (R132, R227). -/
def Task.countPos (k : Task) : List Nat :=
  ((twRoles k.w 1).map (·.pos)).filter (fun i => teBound (k.entryAt i) ||
    (decide (i = 12 ∧ (twOpcode k.w = 0x50 ∨ twOpcode k.w = 0x51)) && !(k.entryAt i).isEmpty))

/-- The index tensor whose header gives a position's count: the one that binds it, or the page list itself. -/
def Task.countEntry (k : Task) (i : Nat) : List Word := if teBound (k.entryAt i) then k.entryAt (idxPos i) else k.entryAt i

/-- Sample the counts of bound operands but for a gathered product's A, whose header was read before (R132):
the flag tells that a header was bad. -/
def State.sampleCounts (s : State) (t : Nat) : State × Bool :=
  match s.task t with
  | none => (s, false)
  | some k => k.countPos.foldl (fun (p : State × Bool) i =>
    match p.1.task t with
    | none => p
    | some k =>
      if (optGet k.gcount i).isSome then p
      else match p.1.sampleCount t k.field (k.countEntry i) with
        | (s, none) => (s, p.2)
        | (s, some (n, overCap, bad)) =>
          (s.modTask t (fun k => { k with gcount := mapPut k.gcount i n, counts := { k.counts with irange := k.counts.irange + overCap } }),
           p.2 || bad)) (s, false)

/-- The counts that a descriptor has sampled, by the handle of the index tensor. -/
def Task.idxCounts (k : Task) : IdxCounts := fun h =>
  (k.countPos.find? (fun i => teBound (k.entryAt i) && decide (teIndex (k.entryAt i) = h))).bind (fun i => optGet k.gcount i)

/-- The checks of R142 on the entries that dispatch samples, up to the shapes: the status of the first failing one. -/
def State.entryFail (s : State) (k : Task) (cs : IdxCounts) : Option (Nat × Nat) :=
  let f := s.fmtOf k.field k.ctx k.w
  let w := k.w
  let es := k.entries
  match badTensor w f.dv es with
  | some d => some (0x33, d)
  | none => match badUse w f.dv es with
    | some d => some (0x34, d)
    | none =>
      if pairBad w f es then some (0x32, 0)
      else match s.shapeBad cs (s.partOf k.ctx) w f es with
        | some d => some (0x30, d)
        | none => none

/-- Every check that dispatch repeats, with the counts that it sampled (R132, R142, R167). -/
def State.dispatchFail (s : State) (k : Task) : Option (Nat × Nat) :=
  let f := s.fmtOf k.field k.ctx k.w
  match s.entryFail k k.idxCounts with
  | some e => some e
  | none =>
    if inPlaceBad k.w f.dv k.entries then some (0x35, 0)
    else if s.overCap k.ctx k.field k.w f k.entries then some (0x30, 0)
    else none

/-- Sample a descriptor's entries, scalars and thresholds and repeat the checks of the entries (R120, R150): the failing
status, if any. The scoreboard's copies are used unless one was invalidated since placement (R148). -/
def State.sample (s : State) (t : Nat) : State × Option (Nat × Nat) :=
  match s.task t with
  | none => (s, none)
  | some k =>
    let (s, es, gone) := if k.stale then s.readEntries k.ctx k.w (s.fmtOf k.field k.ctx k.w).dv else (s, k.entries, none)
    let k := { k with entries := es, stale := false, scal := s.sampleScalars k.w, esc := s.reg .vecEscThresh (twHome k.w) }
    (s.putTask t k, match gone with
      | some d => some (0x24, d)
      | none => s.entryFail k noCounts)

/-- A dispatch counts and is traced. -/
def State.countDispatch (s : State) (t : Nat) (route : Nat) : State :=
  match s.task t with
  | none => s
  | some k =>
    let s := if k.promoted then s.bump .schPerfPromote k.field 1 else s
    (s.bump .schPerfDispatch k.field 1).traceTask 1 k 0 route

/-- The shape of a product as dispatch resolves it (R53, R211, R226). -/
def State.resolveShape (s : State) (k : Task) : Nat :=
  let es := k.entries
  let rs := es.map (fun e => (s.range (teRange e)).getD [])
  let p := s.partOf k.ctx
  if twOpcode k.w = 0x46 then s.expandShape k.w k.field p (s.fmtOf k.field k.ctx k.w) es rs
  else if isMatrix (twOpcode k.w) || decide (twOpcode k.w = 0x53) then
    let d := matDims es
    s.shapeOf k.w p es rs (if twOpcode k.w = 0x53 ∧ atMaxpages k.w ≠ 0 then { d with n := atMaxpages k.w } else d)
  else 0

/-- The page that LSUM summarises must be sealed at its dispatch (R225); the flag tells that its stream's record was
bad. -/
def State.unsealed (s : State) (t : Nat) (k : Task) : State × Bool × Bool :=
  if twOpcode k.w ≠ 0x54 then (s, false, false)
  else
    let (s, r, bad) := s.recGet (.task t) k.field (areaStream k.w)
    (s, !bad && decide (reOpen r ∧ reField r = k.field ∧ reCommitted r < 64 * (wb (twArea k.w 1) 13 0 + 1)), bad)

/-- Dispatch a selected descriptor on its home scoreboard (R150): a failing check ends it, a bad index header
holds it (R101), else its attempt runs with the shape and stream buffer that it finds (R53, R65). -/
def State.dispatchTask (s : State) (t : Nat) : State :=
  match s.sample t with
  | (s, some (st, d)) => s.endTask t st d
  | (s, none) =>
    let (s, bad) := s.sampleCounts t
    if bad then (s.consume t).holdTask t
    else match s.task t with
      | none => s
      | some k => match s.dispatchFail k with
        | some (st, d) => s.endTask t st d
        | none =>
          let (s, open', bad) := s.unsealed t k
          if bad then (s.consume t).holdTask t
          else if open' then s.endTask t 0x50 0x54
          else
            let nk := nonKillable k
            let k : Task := { k with phase := .running, eng := engOf (twOpcode k.w), units := 1, ran := true }
            let k : Task := { k with nkRun := nk, route := false, shape := s.resolveShape k }
            let k : Task := { k with strm := [s.reg .tenStreamCfg (twHome k.w), s.reg .tenStreamCfg (twHome k.w + 1)] }
            let s := (s.putTask t k).selectAudit t false
            let s := s.countDispatch t 0
            match k.dead with
            | some _ => s.allDone t
            | none => s

/-- Whether the engine that a descriptor needs is free at its cluster; the engines of the field and front end
queue what they are given (R149, R203). -/
def State.engineFree (s : State) (c : Nat) (k : Task) : Bool :=
  match engOf (twOpcode k.w) with
  | .arrays => (s.holder c .arrays).isNone
  | .vector => (s.holder c .vector).isNone
  | .copy => (s.holder c .copy).isNone
  | _ => true

/-- DISPATCH on cluster c for one of its engines: the best ready descriptor that needs this engine, or none
of the cluster's, is dispatched if its engine is free; a latency-critical one kills a killable best-effort
holder (R149, R161, R163). -/
def State.dispatchAt (s : State) (c e : Nat) : State :=
  let forming := decide (s.twinState c = 1)
  let shut := decide (bits (s.gate c) 4 0 = 0)
  let cand := s.sc.tasks.filter (fun p => selectable p.2 && decide (twHome p.2.w = c) && !p.2.inPool &&
    !(shut && s.bestOf p.2.ctx && engOf (twOpcode p.2.w) != Eng.none) &&
    (match engOf (twOpcode p.2.w) with
      | .arrays | .vector | .copy => engOf (twOpcode p.2.w) == engNo e
      | _ => true))
  if forming then s
  else
    let s' := match s.bestTask (cand.filter (fun p => engOf (twOpcode p.2.w) == engNo e)), s.holder c (engNo e) with
      | some p, some h => if !s.bestOf p.2.ctx && s.bestOf h.2.ctx && !h.2.nkRun && h.2.phase == Phase.running
          then s.killTask h.1 true else s
      | _, _ => s
    match s'.bestTask (cand.filter (fun p => s'.engineFree c p.2)) with
    | none => s'
    | some p => (s'.dispatchTask p.1).settle (c / 12)

/-- DISPATCH (R150). -/
def execDispatch (c : Cl) (eng : Fin 3) (s : State) : Host.Outcome State Fault Refusal :=
  .next (if s.clearing then s else s.awaitBoundary (fun s => s.dispatchAt c.val eng.val))

/-- The thin-batch threshold of a partition in a field (R100). -/
def State.thinThr (s : State) (f p : Nat) : Nat := wb (s.reg .schThinThr f p) 4 0

/-- Rows of a product or scan as they decide its route (R11, R101, R226). -/
def routeRows (k : Task) : Nat := (optGet k.gcount 0).getD (tePadded (k.entryAt 0) 1)

/-- The route of a descriptor whose entries are sampled: none where a bank route is refused (R10, R11). -/
def State.routeOf (s : State) (k : Task) : Option Bool :=
  let res := teResident (k.entryAt 1)
  match twRoute k.w with
  | 1 => some false
  | 2 => if res then some true else none
  | _ =>
    if !res then some false
    else if routeRows k = 0 then some true
    else some (decide (routeRows k ≤ s.thinThr k.field (s.partOf k.ctx)))

/-- The channels of the region that hold a descriptor's weight, with their stacks (R74, R151). -/
def State.weightChans (s : State) (k : Task) : List (Nat × Nat) :=
  match s.range (teRange (k.entryAt 1)) with
  | none => []
  | some rg =>
    let l := layoutOf (k.entryAt 1) rg
    let n := tePadded (k.entryAt 1) 0
    ((List.range (l.groups n)).flatMap (fun g => (List.range l.s).map (fun i =>
      let (st, ch, _, _) := l.place rg g i
      (st, ch)))).foldl (fun a x => if a.contains x then a else a ++ [x]) []

/-- Issue a descriptor to the stack controllers that hold its weight; without rows it completes at once
(R78, R101, R151). A weight whose range is gone ends it (R265). -/
def State.issueBanks (s : State) (t : Nat) : State :=
  match s.task t with
  | none => s
  | some k =>
    let chs := s.weightChans k
    let sts := uniq (chs.map (·.1))
    let k := { k with phase := .running, eng := .banks, route := true, nkRun := nonKillable k, issued := false, ran := true,
                      units := if routeRows k = 0 then 0 else sts.length }
    let k := { k with arb := (List.range 16).map (fun st => s.fld .stkArbCfg st 7 0) }
    let s := (s.putTask t k).selectAudit t true
    let s := s.countDispatch t 1
    match k.dead with
    | some _ => s.allDone t
    | none =>
      if routeRows k = 0 then s.allDone t
      else if (s.range (teRange (k.entryAt 1))).isNone then (s.badRange t k.field).allDone t
      else chs.foldl (fun s p => s.send (48 + k.field) (52 + p.1) (.bankDescriptorIssue (Fin.ofNat 16 p.1) (Fin.ofNat 32 p.2) t)) s

/-- The route pool dispatches its best ready descriptor (R151). -/
def State.poolDispatch (s : State) (f : Nat) : State :=
  let cand := s.sc.tasks.filter (fun p => selectable p.2 && decide (p.2.field = f) && p.2.inPool)
  match s.bestTask cand with
  | none => s
  | some (t, _) =>
    match s.sample t with
    | (s, some (st, d)) => (s.endTask t st d).settle f
    | (s, none) => match s.task t with
      | none => s
      | some k => match s.routeOf k with
        | some false => ((s.putTask t { k with phase := .handoff }).countDispatch t 0).send (48 + f) (twHome k.w) (.routeHandoff t)
        | r =>
          let (s, bad) := s.sampleCounts t
          if bad then (s.consume t).holdTask t
          else match s.task t with
            | none => s
            | some k => match s.dispatchFail k with
              | some (st, d) => (s.endTask t st d).settle f
              | none => if r.isNone then (s.endTask t 0x31 0).settle f else (s.issueBanks t).settle f

/-- ROUTE_POOL_DISPATCH (R151). -/
def execRoutePoolDispatch (f : Fd) (s : State) : Host.Outcome State Fault Refusal :=
  .next (if s.clearing then s else s.awaitBoundary (fun s => s.poolDispatch f.val))

/-- The index header of a gathered product returns (R101, R151): a bad one holds the descriptor. -/
def State.headerRead (s : State) (t : Nat) : State :=
  match s.task t with
  | none => s
  | some k =>
    if k.phase ≠ .header then s
    else
      let (s, es, gone) := if k.stale then s.readEntries k.ctx k.w 0 else (s, k.entries, none)
      let ie := es.getD 5 []
      if let some d := gone then s.endTask t 0x24 d
      else if !teBound (es.getD 0 []) || !teIsIndex ie then
        match s.entryFail { k with entries := es } noCounts with
        | some (st, d) => s.endTask t st d
        | none => s
      else match s.sampleCount t k.field ie with
        | (s, none) => s.allDone t
        | (s, some (n, overCap, bad)) =>
          if bad then (s.consume t).holdTask t
          else s.modTask t (fun k =>
            let c : Counts := { k.counts with irange := k.counts.irange + overCap }
            { k with phase := .placed, gcount := mapPut k.gcount 0 n, counts := c })

/-- HEADER_ARRIVAL (R101); while the read has to wait, the header is still on its way. -/
def execHeaderArrival (t : Nat) (s : State) : Host.Outcome State Fault Refusal :=
  .next (s.awaitBoundary (fun s => s.arrive (.headerArrival t) (fun s => s.headerRead t)))

/-- A descriptor resolved to the tensor engine reaches its home scoreboard (R151). -/
def State.handedOff (s : State) (t : Nat) : State :=
  match s.task t with
  | some k => if k.phase = .handoff then s.putTask t { k with phase := .placed, inPool := false } else s
  | none => s

/-- ROUTE_HANDOFF (R151). -/
def execRouteHandoff (t : Nat) (s : State) : Host.Outcome State Fault Refusal :=
  .next (s.arrive (.routeHandoff t) (fun s => s.handedOff t))

/-! ## Descriptors that need no engine (R141) -/

/-- NOP runs nothing (R141). -/
def execNop (t : Nat) (s : State) : Host.Outcome State Fault Refusal := .next (s.runUnit t 0x00 (fun s _ => s))

/-- GARM sends its re-arm request to the slot (R147). -/
def State.garmSend (s : State) (t : Nat) (k : Task) : State :=
  let r := twArea k.w 0
  s.send k.owner (48 + refField r) (.rearmRequest (Fin.ofNat 4 (refField r)) (BitVec.ofNat 12 (refSlot r)) (BitVec.ofNat 16 (refEpoch r)) t)

def execGarm (t : Nat) (s : State) : Host.Outcome State Fault Refusal := .next (s.runOp t 0x01 (fun s k => s.garmSend t k))

/-- TCREATE reads its 128 bytes and asks the checker of its field (R135, R141); poison in them is consumed. -/
def State.tcreateRun (s : State) (t : Nat) (k : Task) : State :=
  match s.range (wb (twArea k.w 0) 15 0) with
  | none => (s.badRange t k.field).sendDone t
  | some rg =>
    let off := wb (twArea k.w 0) 55 16
    let as := (List.range 128).map (fun i => rgAddr rg (off + i))
    let (s, m) := s.fetchBytes (.task t) k.field false as []
    let b := as.map (fun a => BitVec.ofNat 8 (snapByte m a).1)
    match s.task t with
    | none => s
    | some v =>
      if v.poison || v.dead.isSome then s.sendDone t
      else s.tdSubmit k.field ⟨k.ctx, wb (twArea k.w 1) 15 0, false, wordsOf 16 b, some t⟩

def execTcreate (t : Nat) (s : State) : Host.Outcome State Fault Refusal :=
  .next (s.runOp t 0x02 (fun s k => s.tcreateRun t k))

/-- TDESTROY invalidates its handle at commit (R141). -/
def execTdestroy (t : Nat) (s : State) : Host.Outcome State Fault Refusal := .next (s.runUnit t 0x03 (fun s _ => s))

/-! ## Export slots (R146, R194) -/

/-- A write of SCH_GLINT_SIGNAL (R146): a context's slot is ignored and counted. -/
def State.exportOp (s : State) (f slot epoch op : Nat) : State :=
  if (s.slotOwner f slot).isSome then s.bump .schGlintDup f 1
  else match op with
    | 0 => s.signal f slot epoch false
    | 1 => s.signal f slot epoch true
    | 2 =>
      let (s, ok) := s.rearm f slot epoch
      if ok then s else s.bump .schGlintDup f 1
    | _ => s.bump .schGlintDup f 1

def execExportDone (f : Fd) (slot : BitVec 12) (epoch : BitVec 16) (s : State) : Host.Outcome State Fault Refusal :=
  .next (s.exportOp f.val slot.toNat epoch.toNat 0)

def execExportFailed (f : Fd) (slot : BitVec 12) (epoch : BitVec 16) (s : State) :
    Host.Outcome State Fault Refusal :=
  .next (s.exportOp f.val slot.toNat epoch.toNat 1)

def execExportRearm (f : Fd) (slot : BitVec 12) (epoch : BitVec 16) (s : State) :
    Host.Outcome State Fault Refusal :=
  .next (s.exportOp f.val slot.toNat epoch.toNat 2)

end Sys2Proof.Machine
end

