-- ==== Sys2Proof/Machine/Swap.lean ====
section
/-! DEFINITION. Residency: choosing and moving the images of contexts, and the operations of SCH_RES_CTL
(R171–R177). The layout of an image's header and of the attempt state is not given: those bytes are free
(log entry 21). -/
namespace Sys2Proof.Machine

/-! ## Images (R175) -/

/-- Live descriptors of a context in its image, by age. -/
def State.imageTasks (s : State) (x : Nat) : List (Nat × Task) :=
  s.sc.tasks.filter (fun (p : Nat × Task) => decide (p.2.ctx = x) && p.2.phase == Phase.image)

/-- Address of byte i of a context's image, where swapping is enabled and its range is valid. -/
def State.imageAddr (s : State) (f x i : Nat) : Option Nat :=
  match s.range (s.fld .schSwapCfg f 15 0) with
  | none => none
  | some rg => if s.fld .schSwapCfg f 15 0 = 0 then none else some (rgAddr rg (s.fld .schSwapCfg f 55 16 + 131072 * x + i))

/-- Write 64-bit words of a context's image. -/
def State.imageWrite (s : State) (f x i : Nat) (w : List Word) : State :=
  match s.imageAddr f x i with
  | none => s.bump .memNoAnswer 0 1
  | some a => match s.noAnswer a with
    | some _ => s.bump .memNoAnswer 0 1
    | none => s.writeBytes (byteWrites a (bytesOf w) [])

/-- n free words. -/
def State.draws (s : State) (n : Nat) : State × List Word :=
  (List.range n).foldl (fun (p : State × List Word) _ =>
    let (s, w) := p.1.draw
    (s, p.2 ++ [w])) (s, [])

/-- Write the image of a context: a header, then each descriptor with its attempt state. -/
def State.writeImage (s : State) (f x : Nat) : State :=
  let (s, h) := s.draws 32
  let s := s.imageWrite f x 0 h
  ((s.imageTasks x).foldl (fun (p : State × Nat) q =>
    let (s, st) := (p.1.modTask q.1 (fun k => { k with img := p.2 })).draws 2
    (s.imageWrite f x (256 + 144 * p.2) ((List.range 16).map (wordAt q.2.w) ++ st), p.2 + 1)) (s, 0)).1

/-- Read the image of a context that has one, for the descriptors that are still in it: their words, or the bad granules
met. -/
def State.readImage (s : State) (f x : Nat) : State × List (List Word) × List (Nat × Outc) :=
  match s.imageAddr f x 0 with
  | none => (s.bump .memNoAnswer 0 1, (s.imageTasks x).map (fun p => p.2.w), [])
  | some a => match s.noAnswer a with
    | some _ => (s.bump .memNoAnswer 0 1, (s.imageTasks x).map (fun p => p.2.w), [])
    | none =>
      let (s, h) := s.readRun a 256
      (s.imageTasks x).foldl (fun (p : State × List (List Word) × List (Nat × Outc)) q =>
        let (s, r) := p.1.readRun ((s.imageAddr f x (256 + 144 * q.2.img)).getD a) 144
        (s, p.2.1 ++ [wordsOf 16 r.data], p.2.2 ++ r.bads)) (s, [], h.bads)

/-- Whether a context has an image: it was blocked, which a swap-out needs (R173). -/
def Ctx.hasImage (c : Ctx) : Bool := decide (c.blkSeq ≠ 0)

/-! ## Slots and order (R162, R173) -/

/-- Residency slots that a field's contexts hold. -/
def State.slotsHeld (s : State) (f : Nat) (best : Bool) : Nat :=
  ((s.ctxsOf f).filter (fun p => p.2.holdsSlot && (!best || cwBest p.2.cw))).length

/-- Whether a residency slot within a context's share is free. -/
def State.slotFree (s : State) (f : Nat) (best : Bool) : Bool :=
  decide (s.slotsHeld f false < 256) && (!best || decide (s.slotsHeld f true < 256 - s.fld .schClassRsv f 18 10))

/-- The runnable non-resident context that is brought in first: latency-critical ones, then by the order in
which they became runnable. -/
def State.nextIn (s : State) (f : Nat) : Option (Nat × Ctx) :=
  ((s.ctxsOf f).filter (fun p => p.2.res == .nonResident && p.2.runnable && !p.2.held && !p.2.dying)).foldl
    (fun b p => match b with
      | none => some p
      | some q =>
        if b2n (cwBest p.2.cw) < b2n (cwBest q.2.cw) ∨
          (cwBest p.2.cw = cwBest q.2.cw ∧ p.2.runSeq < q.2.runSeq) then some p else some q) none

/-- The victim for a runnable context: blocked and unpinned, best-effort first, blocked longest first. -/
def State.victim (s : State) (f : Nat) (forBest : Bool) : Option Nat :=
  if s.fld .schSwapCfg f 15 0 = 0 then none
  else
    let c := (s.ctxsOf f).filter (fun p => p.2.res == .blocked && !p.2.pinned && !p.2.dying)
    let first (l : List (Nat × Ctx)) : Option Nat := (l.foldl (fun (b : Option (Nat × Ctx)) p => match b with
      | none => some p
      | some q => if p.2.blkSeq < q.2.blkSeq then some p else some q) none).map (·.1)
    match first (c.filter (fun p => cwBest p.2.cw)) with
    | some v => some v
    | none => if forBest then none else first (c.filter (fun p => !cwBest p.2.cw))

/-- A context enters swapping-out: its placed and held descriptors go into the image. -/
def State.leaveResidency (s : State) (x : Nat) : State :=
  let s := s.modCtx x (fun c => { c with res := .swappingOut, runnable := false })
  { s with sc := { s.sc with tasks := optMap (fun _ k =>
    if k.ctx = x ∧ (k.phase = .placed ∨ k.phase = .held) then { k with phase := .image } else k) s.sc.tasks } }

/-- The swap engine begins to write an image. -/
def State.startOut (s : State) (f x : Nat) (next : Option Nat) : State :=
  let s := (s.leaveResidency x).modField f (fun v => { v with swap := .out x next })
  (s.setBit .schSwapStat f 0 true).send (48 + f) (48 + f) (.swapOutDone (Fin.ofNat 4 f))

/-- The swap engine begins to bring a context in: it takes its slot. -/
def State.startIn (s : State) (f x : Nat) : State :=
  let s := s.modCtx x (fun c => { c with res := .swappingIn, runnable := false })
  let s := s.modField f (fun v => { v with swap := .inn x })
  (s.setBit .schSwapStat f 0 true).send (48 + f) (48 + f) (.swapInDone (Fin.ofNat 4 f))

/-- The swap engine is free: an eviction that waits is next. -/
def State.swapIdle (s : State) (f : Nat) : State :=
  match (s.fieldAt f).evq with
  | [] => (s.modField f (fun v => { v with swap := .idle })).setBit .schSwapStat f 0 false
  | x :: t => (s.modField f (fun v => { v with evq := t })).startOut f x none

/-- SWAP_SELECT (R173). -/
def State.swapSel (s : State) (f : Nat) : State :=
  let s := s.settle f
  if (s.fieldAt f).swap ≠ .idle then s
  else match s.nextIn f with
    | none => s.setBit .schSwapStat f 1 false
    | some (x, c) =>
      if s.slotFree f (cwBest c.cw) then (s.setBit .schSwapStat f 1 false).startIn f x
      else
        let s := s.setBit .schSwapStat f 1 true
        match s.victim f (cwBest c.cw) with
        | some v => s.startOut f v (some x)
        | none =>
          let rs := (s.ctxsOf f).filter (fun p => p.2.res == .resident || p.2.res == .blocked)
          if !rs.isEmpty && rs.all (fun p => p.2.res == .blocked) then s.setBit .schSwapStat f 2 true else s

def execSwapSelect (f : Fd) (s : State) : Host.Outcome State Fault Refusal := .next (s.swapSel f.val)

/-- A swap-out ends: slot and entries are freed, and the incoming context's image is read (R173–R175). -/
def State.swapOutEnd (s : State) (f : Nat) : State :=
  match (s.fieldAt f).swap with
  | .out x next =>
    let s := s.writeImage f x
    let woken := match s.ctx x with
      | some c => c.runnable || decide (c.head ≠ c.tail)
      | none => false
    let s := s.modCtx x (fun c => { c with res := .nonResident, runnable := false })
    let s := (s.bump .schPerfSwapout f 1).setFld .schSwapStat f 13 4 x
    let s := s.trace 0x0C (48 + f) (some x) 0 0 0 0 x
    let s := ((if woken then s.makeRunnable x else s).tearWaiting x).settle f
    match next with
    | some y => match s.ctx y with
      | some c => if c.res = .nonResident ∧ !c.dying ∧ s.slotFree f (cwBest c.cw) then
          (s.setBit .schSwapStat f 1 false).startIn f y else s.swapIdle f
      | none => s.swapIdle f
    | none => s.swapIdle f
  | _ => s

/-- SWAP_OUT_DONE (R175). -/
def execSwapOutDone (f : Fd) (s : State) : Host.Outcome State Fault Refusal :=
  .next (s.arrive (.swapOutDone f) (fun s => s.swapOutEnd f.val))

/-- Re-place the descriptors of an image in age order while each finds a free entry: a descriptor still held
stays held, the others are evaluated. -/
def State.replaceTasks (s : State) (f x : Nat) : List (Nat × List Word) → State
  | [] => s
  | (t, w) :: rest =>
    if !s.entryFree f x (twHome w) then s
    else
      let s := s.modTask t (fun k => { k with w := w, stale := true, phase := if k.poison then Phase.held else Phase.placed })
      let s := match s.task t with
        | some k => if k.phase == Phase.held then s.tryRelease t else s.evaluate t
        | none => s
      s.replaceTasks f x rest

/-- A swap-in ends when every descriptor is placed; those without a free entry stay in the image and are
tried again. A poisoned image leaves the context non-resident and held (R139, R175, R276). -/
def State.swapInEnd (s : State) (f : Nat) : State :=
  match (s.fieldAt f).swap with
  | .inn x => match s.ctx x with
    | none => s.swapIdle f
    | some c =>
      let (s, ws, bads) := if c.hasImage then s.readImage f x else (s, [], [])
      if !bads.isEmpty then
        let s := bads.foldl (fun s b => s.report ⟨b.1, (homeIsland b.1).getD 0, b.2.val, none,
          BitVec.ofNat 10 x, BitVec.ofNat 4 (cwPart c.cw), true, false⟩) s
        let s := s.modCtx x (fun c => { c with res := .nonResident, held := true })
        ((s.makeRunnable x).tearWaiting x).swapIdle f
      else
        let s := s.replaceTasks f x (((s.imageTasks x).map (·.1)).zip ws)
        if !(s.imageTasks x).isEmpty then s.send (48 + f) (48 + f) (.swapInDone (Fin.ofNat 4 f))
        else
          let s := s.modCtx x (fun c => { c with res := .resident })
          let s := (if c.hasImage then s.bump .schPerfSwapin f 1 else s).setFld .schSwapStat f 23 14 x
          let s := s.trace 0x0D (48 + f) (some x) 0 0 0 0 x
          ((s.tearWaiting x).swapIdle f).settle f
  | _ => s

/-- SWAP_IN_DONE (R175). -/
def execSwapInDone (f : Fd) (s : State) : Host.Outcome State Fault Refusal :=
  .next (s.arrive (.swapInDone f) (fun s => s.swapInEnd f.val))

/-! ## SCH_RES_CTL (R177) -/

/-- The operation is refused. -/
def State.resRefused (s : State) (f : Nat) : State := s.setBit .schSwapStat f 3 true

/-- The context of a field that a SCH_RES_CTL operation names. -/
def State.fieldCtx (s : State) (f x : Nat) : Option Ctx :=
  match s.ctx x with
  | some c => if c.field = f then some c else none
  | none => none

/-- pin: refused for a best-effort context. -/
def State.pinOp (s : State) (f x : Nat) : State :=
  match s.fieldCtx f x with
  | some c => if cwBest c.cw then s.resRefused f else s.setCtx x (some { c with pinned := true })
  | none => s.resRefused f

/-- unpin. -/
def State.unpinOp (s : State) (f x : Nat) : State :=
  match s.fieldCtx f x with
  | some c => s.setCtx x (some { c with pinned := false })
  | none => s.resRefused f

/-- evict: refused unless the context is blocked and not pinned, and while swapping is disabled. -/
def State.evictOp (s : State) (f x : Nat) : State :=
  let s := s.settle f
  match s.fieldCtx f x with
  | some c =>
    if c.res ≠ .blocked ∨ c.pinned ∨ c.dying ∨ s.fld .schSwapCfg f 15 0 = 0 then s.resRefused f
    else if (s.fieldAt f).swap = .idle then s.startOut f x none
    else (s.leaveResidency x).modField f (fun v => { v with evq := v.evq ++ [x] })
  | none => s.resRefused f

/-- ADMIT: refused unless the context is non-resident and a slot within its share is free. -/
def State.admitOp (s : State) (f x : Nat) : State :=
  match s.fieldCtx f x with
  | some c =>
    if c.res ≠ .nonResident ∨ c.dying ∨ !s.slotFree f (cwBest c.cw) then s.resRefused f
    else if (s.fieldAt f).swap = .idle ∧ !c.held then s.startIn f x
    else s.makeRunnable x
  | none => s.resRefused f

/-- tear-down (R176): records status 0x20 and the head modulo 2^16. -/
def State.tearOp (s : State) (f x : Nat) : State :=
  match s.fieldCtx f x with
  | some c => if c.res = .tornDown then s else s.teardown x 0x20 c.head.toNat
  | none => s.resRefused f

def execPin (f : Fd) (x : BitVec 10) (s : State) : Host.Outcome State Fault Refusal := .next (s.pinOp f.val x.toNat)

def execUnpin (f : Fd) (x : BitVec 10) (s : State) : Host.Outcome State Fault Refusal := .next (s.unpinOp f.val x.toNat)

def execEvict (f : Fd) (x : BitVec 10) (s : State) : Host.Outcome State Fault Refusal := .next (s.evictOp f.val x.toNat)

def execAdmission (f : Fd) (x : BitVec 10) (s : State) : Host.Outcome State Fault Refusal := .next (s.admitOp f.val x.toNat)

def execTearDown (f : Fd) (x : BitVec 10) (s : State) : Host.Outcome State Fault Refusal := .next (s.tearOp f.val x.toNat)

/-- A write of SCH_RES_CTL. -/
def State.resCtl (s : State) (f : Nat) (v : Word) : State :=
  let x := wb v 9 0
  match wb v 12 10 with
  | 1 => s.pinOp f x
  | 2 => s.unpinOp f x
  | 3 => s.evictOp f x
  | 4 => s.admitOp f x
  | 5 => s.tearOp f x
  | _ => s

end Sys2Proof.Machine
end

