-- ==== Sys2Proof/Machine/Transc.lean ====
section
/-! DEFINITION. The vector operations whose accuracy R107 gives in units in the last place: the result is the
nearest FP32 value to the function, computed here with 256 fraction bits, moved by a free number of units
within the bound (log entry 6), with the special values of R108 and R221. -/
namespace Sys2Proof.Machine

/-- Fraction bits of the fixed-point arithmetic. -/
def fxP : Nat := 256
def fxOne : Int := 2 ^ fxP

/-- ln 2, π ÷ 2 and √(2 ÷ π), rounded down at 256 fraction bits. -/
def fxLn2 : Int := 0xb17217f7d1cf79abc9e3b39803f2f6af40f343267298b62d8a0d175b8baafa2b
def fxHalfPi : Int := 0x1921fb54442d18469898cc51701b839a252049c1114cf98e804177d4c76273644
def fxGelu : Int := 0xcc42299ea1b284687e59e2805d5c717fa7053e60a24e0db1808e369004c73a5d

/-- A finite value in fixed point, rounded down. -/
def FV.fix : FV → Int
  | .fin s n d e =>
    let v : Int := if 0 ≤ e + fxP then ((n * 2 ^ (e + fxP).toNat / d : Nat) : Int)
                   else ((n / (d * 2 ^ (-(e + fxP)).toNat) : Nat) : Int)
    if s then -v else v
  | _ => 0

/-- A fixed-point number as an exact value. -/
def fxVal (x : Int) : FV := .fin (decide (x < 0)) x.natAbs 1 (-(fxP : Int))

/-- Product in fixed point. -/
def fxMul (a b : Int) : Int := a * b / fxOne

/-- Keep a number between −b and b. -/
def fxClamp (b x : Int) : Int := max (-b) (min b x)

/-- Sum of the terms of e^r from a term on. -/
def expTerms (r : Int) : Nat → Nat → Int → Int
  | 0, _, t => t
  | k + 1, n, t => t + expTerms r k (n + 1) (fxMul t r / (n : Int))

/-- e^x in fixed point, for x within ±200. -/
def fxExp (x : Int) : Int :=
  let x := fxClamp (200 * fxOne) x
  let k := x / fxLn2
  let m := expTerms (x - k * fxLn2) 70 1 fxOne
  if 0 ≤ k then m * 2 ^ k.toNat else m / 2 ^ (-k).toNat

/-- e^x as an exact value, without losing the digits of a small result. -/
def expVal (x : Int) : FV :=
  let x := fxClamp (200 * fxOne) x
  let k := x / fxLn2
  .fin false (expTerms (x - k * fxLn2) 70 1 fxOne).toNat 1 (k - fxP)

/-- Odd powers of z over their exponents: the series of artanh z. -/
def artanhTerms (z2 : Int) : Nat → Nat → Int → Int
  | 0, _, _ => 0
  | k + 1, n, t => t / (n : Int) + artanhTerms z2 k (n + 2) (fxMul t z2)

/-- ln of n ÷ d × 2^e, positive, in fixed point. -/
def fxLog (n d : Nat) (e : Int) : Int :=
  let k := log2Q n d
  let m : Int := if 0 ≤ k then n * fxOne / (d * 2 ^ k.toNat) else n * 2 ^ (-k).toNat * fxOne / d
  let z := (m - fxOne) * fxOne / (m + fxOne)
  2 * artanhTerms (fxMul z z) 90 1 z + (k + e) * fxLn2

/-- Alternating series of sin and cos from a term on. -/
def trigTerms (r2 : Int) : Nat → Nat → Int → Int
  | 0, _, _ => 0
  | k + 1, n, t => t + trigTerms r2 k (n + 2) (-(fxMul t r2 / ((n * (n + 1) : Nat) : Int)))

/-- sin (x + q π ÷ 2) in fixed point. -/
def fxSin (x : Int) (q : Nat) : Int :=
  let j := x / fxHalfPi
  let r := x - j * fxHalfPi
  let r2 := fxMul r r
  match ((j + (q : Int)) % 4).toNat with
  | 0 => trigTerms r2 45 2 r
  | 1 => trigTerms r2 45 1 fxOne
  | 2 => -trigTerms r2 45 2 r
  | _ => -trigTerms r2 45 1 fxOne

/-- FP32 magnitude order as an integer, and back: ±0 are 0. -/
def ulpNo (a : BitVec 32) : Int :=
  let m : Int := (a.toNat % 2 ^ 31 : Nat)
  if a.msb then -m else m
def ulpBits (x : Int) : BitVec 32 :=
  let m := min x.natAbs 0x7F800000
  BitVec.ofNat 32 (if x < 0 then m + 2 ^ 31 else m)

/-- Whether an FP32 value lies within k units in the last place of an exact value, the unit being that of the
exact value's own binade (of the least normal binade below it). An infinity counts as ±2^128. -/
def nearUlp (k : Nat) (v : FV) (r : BitVec 32) : Bool :=
  match v with
  | .fin s n d e =>
    let u : Int := max (if n = 0 then -126 else log2Q n d + e) (-126) - 23
    let y : FV := match f32 r with
      | .inf t => .fin t 1 1 128
      | y => y
    !((FV.fin false k 1 u).lt ((y.add (.fin (!s) n d e)).abs)) && !y.isNan
  | _ => false

/-- The FP32 value that a device with an accuracy of k units returns for a function value: the nearest, moved by
a free number of units as long as it stays within k units of the exact value. -/
def withinUlp (op k : Nat) (a : BitVec 32) (v : FV) : BitVec 32 :=
  let r := toF32 v
  let j : Int := (Config.vecUlp op a % (2 * k + 1) : Nat) - (k : Int)
  let c := ulpBits (ulpNo r + j)
  if j ≠ 0 ∧ nearUlp k v c = true then c else r

/-- The FP32 value that a device with an absolute accuracy of 2^−12 returns for a function value: the nearest, moved by a
free amount as long as the rounded result stays within that accuracy. -/
def withinAbs (op : Nat) (a : BitVec 32) (v : FV) : BitVec 32 :=
  let c := toF32 ((v.add (.fin false (Config.vecUlp op a % (2 ^ 25 + 1)) 1 (-36))).add (.fin true 1 1 (-12)))
  if (FV.fin false 1 1 (-12)).lt ((f32 c).add v.neg).abs then toF32 v else c

/-- A sine or cosine: within 2 units for |a| ≤ 2^18, within 2^−12 beyond. -/
def trigOp (op q : Nat) (a : BitVec 32) : BitVec 32 :=
  let x := (f32 a).fix
  let v := fxVal (fxSin x q)
  if x.natAbs ≤ 2 ^ (fxP + 18) then withinUlp op 2 a v else withinAbs op a v

/-- The result at an infinity, as the Result column of R107 gives it with the infinities of FP32 arithmetic: ∞ ÷ ∞, 0 × ∞ and
the sine of ∞ are invalid operations, whose result is canonical NaN (R39, R108; log entry 6). -/
def transcInf (op : Nat) (neg : Bool) : BitVec 32 :=
  match op with
  | 0x10 => toF32 (.fin neg 0 1 0)
  | 0x13 => if neg then nan32 else 0#32
  | 0x14 | 0x15 | 0x18 => if neg then 0#32 else if op = 0x18 then 0x3F800000#32 else 0x7F800000#32
  | 0x12 | 0x16 | 0x19 | 0x1A => if neg then nan32 else 0x7F800000#32
  | 0x17 => if neg then 0xBF800000#32 else 0x3F800000#32
  | _ => nan32

/-- The value of RCP to COS of a lane (R107, R108). A NaN gives canonical NaN. -/
def transc (op : Nat) (a : BitVec 32) : BitVec 32 :=
  let v := f32 a
  let free := BitVec.ofNat 32 (Config.vecUlp op a)
  match v with
  | .nan => nan32
  | .inf s => transcInf op s
  | .fin s n d e =>
    let x := v.fix
    match op with
    | 0x10 => if n = 0 then toF32 (.inf s) else withinUlp op 1 a ((FV.fin false 1 1 0).div v)
    | 0x12 => fsqrt a
    | 0x13 =>
      if n = 0 then toF32 (.inf s) else if s then nan32
      else withinUlp op 1 a ((FV.fin false 1 1 0).div v.sqrt)
    | 0x14 => withinUlp op 2 a (expVal x)
    | 0x15 =>
      let w := roundInt ⟨.rtz, 0⟩ s n d e
      if (FV.ofInt w).eq v ∧ -126 ≤ w ∧ w ≤ 127 then toF32 (.fin false 1 1 w)
      else if a = 0xBF000000#32 then 0x3F3504F3#32
      else withinUlp op 1 a (expVal (fxMul x fxLn2))
    | 0x16 =>
      if n = 0 then (if s then free else 0xFF800000#32) else if s then nan32
      else withinUlp op 2 a (fxVal (fxLog n d e))
    | 0x17 =>
      if n = 0 then toF32 v
      else
        let t := fxExp (2 * x)
        withinUlp op 3 a ((FV.ofInt (t - fxOne)).div (FV.ofInt (t + fxOne)))
    | 0x18 => withinUlp op 3 a ((FV.ofInt fxOne).div (FV.ofInt (fxOne + fxExp (-x))))
    | 0x19 => withinUlp op 4 a (v.mul ((FV.ofInt fxOne).div (FV.ofInt (fxOne + fxExp (-x)))))
    | 0x1A =>
      let y := fxClamp (40 * fxOne) x
      let u := fxMul fxGelu (y + fxMul (fxMul y y) y * 44715 / 1000000)
      withinUlp op 4 a (v.mul ((FV.ofInt fxOne).div (FV.ofInt (fxOne + fxExp (-2 * u)))))
    | 0x1B => trigOp op 0 a
    | 0x1C => trigOp op 1 a
    | _ => a

end Sys2Proof.Machine
end

