-- ==== Sys2Proof/Machine/Vector.lean ====
section
/-! DEFINITION. Vector engines, prism and reduction unit (R103–R117): the operations of a chain on a strip,
the reductions of a row, vector descriptors strip by strip, and COPY (R141). -/
namespace Sys2Proof.Machine

/-! ## Registers of an engine -/

/-- Lane i of working register r. -/
def Engine.lane (e : Engine) (r i : Nat) : Lane := mapGet (fun _ => Lane.zero) e.lanes (256 * r + i)

/-- Replace a working register; lanes past the list are 0. -/
def Engine.setReg (e : Engine) (r : Nat) (l : List Lane) : Engine :=
  let rest := e.lanes.filter (fun p => decide (p.1 / 256 ≠ r))
  { e with lanes := (List.range l.length).foldl (fun m i =>
    mapSet (fun _ => Lane.zero) m (256 * r + i) (l.getD i Lane.zero)) rest }

/-- Lanes of the strip: VL, or in packed mode the pairs that hold VL elements (R106; DEDUCED, log entry 22). -/
def Engine.count (e : Engine) : Nat := if e.packed then (e.vl + 1) / 2 else e.vl

/-- The 16-bit type of packed mode. -/
def Engine.halfType (e : Engine) : EType := if e.half then .fp16 else .bf16

/-! ## Operations (R105–R108) -/

/-- MIN and MAX on exact values: NaN if either is NaN, −0 below +0 (R108). -/
def fvBelow (a b : FV) : Bool :=
  a.lt b || (a.eq b && (match a, b with
    | .fin true 0 _ _, .fin false 0 _ _ => true
    | _, _ => false))
def fvMin (a b : FV) : FV := if a.isNan || b.isNan then .nan else if fvBelow b a then b else a
def fvMax (a b : FV) : FV := if a.isNan || b.isNan then .nan else if fvBelow a b then b else a

/-- 1.0 or 0.0. -/
def fvBool (p : Bool) : FV := if p then .fin false 1 1 0 else .fin false 0 1 0

/-- The exact result of ADD to CMPEQ. -/
def fvOp (op : Nat) (a b c : FV) : FV :=
  match op with
  | 0x01 => a.add b
  | 0x02 => a.add b.neg
  | 0x03 => a.mul b
  | 0x04 => (a.mul b).add c
  | 0x05 => fvMin a b
  | 0x06 => fvMax a b
  | 0x07 => a.abs
  | 0x08 => a.neg
  | 0x09 => fvBool (a.lt b)
  | 0x0A => fvBool (a.lt b || a.eq b)
  | 0x0B => fvBool (a.eq b)
  | _ => a

/-- SEL keeps a where c is not 0.0; a NaN counts as not 0.0. -/
def selects (c : FV) : Bool := !c.eq (.fin false 0 1 0)

/-- One floating-point element of type t, given as codes. -/
def floatOp (t : EType) (op a b c : Nat) : Nat :=
  match op with
  | 0x0C => if selects (decodeElt t c) then a else b
  | 0x0D => a
  | _ => (convert t .rne (fvOp op (decodeElt t a) (decodeElt t b) (decodeElt t c))).1

/-- An INT32 operation: the result and whether it saturated. -/
def intOp (op : Nat) (a b : BitVec 32) : BitVec 32 × Bool :=
  let x := a.toInt
  let y := b.toInt
  let (v, f) := satInt 32 (match op with
    | 0x20 => x + y
    | 0x21 => x * y
    | 0x22 => min x y
    | 0x23 => max x y
    | _ => x)
  (BitVec.ofInt 32 v, f)

/-- Operands that an operation reads: a, b, c. -/
def opReads (op : Nat) : Bool × Bool × Bool :=
  match op with
  | 0x04 | 0x0C => (true, true, true)
  | 0x01 | 0x02 | 0x03 | 0x05 | 0x06 | 0x09 | 0x0A | 0x0B | 0x11 | 0x20 | 0x21 | 0x22 | 0x23 => (true, true, false)
  | 0x26 | 0x27 => (false, false, false)
  | _ => (true, false, false)

/-- The value of one lane, and saturations: lane i of the strip. -/
def Engine.laneOp (e : Engine) (op i : Nat) (a b c : BitVec 32) : BitVec 32 × Nat :=
  match op with
  | 0x11 => (fdiv a b, 0)
  | 0x20 | 0x21 | 0x22 | 0x23 =>
    let (v, f) := intOp op a b
    (v, b2n f)
  | 0x24 =>
    let (v, f) := convInt 32 (Rnd.of e.mode e.seed (e.lin0 + i)) (f32 a)
    (BitVec.ofNat 32 v, b2n f)
  | 0x25 => (f32OfInt a.toInt, 0)
  | 0x26 => (BitVec.ofNat 32 (e.pos0 + i), 0)
  | 0x27 => (toF32 (.fin false (srZ e.seed (e.lin0 + i) / 2 ^ 40) 1 (-24)), 0)
  | _ =>
    if 0x10 ≤ op ∧ op ≤ 0x1C then (transc op a, 0)
    else (BitVec.ofNat 32 (floatOp .fp32 op a.toNat b.toNat c.toNat), 0)

/-- One half of an operand of a packed step: the FP32 value it computes with, and its code where a lane holds it (R106). -/
structure Half where
  v : FV
  code : Option Nat
  deriving DecidableEq, Repr

/-- Half j of an operand: of a lane, or the FP32 scalar that goes to every lane (R106, R109). -/
def Half.of (t : EType) (scalar : Bool) (x : BitVec 32) (j : Nat) : Half :=
  let c := x.toNat / 2 ^ (16 * j) % 65536
  if scalar then ⟨f32 x, none⟩ else ⟨decodeElt t c, some c⟩

/-- A half as the step's result: a lane's code stands, and a scalar is rounded once. -/
def Half.result (t : EType) (h : Half) : Nat := h.code.getD (convert t .rne h.v).1

/-- One half of a packed step: exact as in FP32, rounded once to the 16-bit type (R106). -/
def halfOp (t : EType) (op : Nat) (a b c : Half) : Nat :=
  match op with
  | 0x0C => (if selects c.v then a else b).result t
  | 0x0D => a.result t
  | _ => (convert t .rne (fvOp op a.v b.v c.v)).1

/-- One lane of a packed strip: both halves (R106). -/
def Engine.packOp (e : Engine) (op : Nat) (a b c : Nat → Half) : BitVec 32 :=
  let h (j : Nat) : Nat := halfOp e.halfType op (a j) (b j) (c j)
  BitVec.ofNat 32 (h 0 + 65536 * h 1)

/-- A scalar as every lane sees it: its low 32 bits (R109). -/
def Engine.scalar (e : Engine) (n : Nat) : BitVec 32 :=
  (if n = 0 then 0#64 else mapGet (fun _ => 0#64) e.scal n).setWidth 32

/-- A step that is no prism operation on the whole strip (R105). The word's operands are 23:20 dst, 19:16 a,
15:12 b, 11:8 c, 7:6 sslot, 5:0 sreg. Poison follows the operands read (R116). -/
def Engine.plainStep (e : Engine) (op w : Nat) : Engine :=
  let ss := bits w 7 6
  let sc : Lane := ⟨e.scalar (bits w 5 0), false⟩
  let (ra, rb, rc) := opReads op
  let one (i : Nat) : Lane × Nat :=
    let sa := decide (op = 0x0D ∧ ss = 1)
    let a := if sa then sc else e.lane (bits w 19 16) i
    let b := if ss = 1 then sc else e.lane (bits w 15 12) i
    let c := if ss = 2 then sc else e.lane (bits w 11 8) i
    let bad := (ra && a.p) || (rb && b.p) || (rc && c.p)
    let t := e.halfType
    if e.packed then
      (⟨e.packOp op (Half.of t sa a.v) (Half.of t (decide (ss = 1)) b.v) (Half.of t (decide (ss = 2)) c.v), bad⟩, 0)
    else
      let (v, n) := e.laneOp op i a.v b.v c.v
      (⟨v, bad⟩, n)
  let rs := (List.range e.count).map one
  let e' := e.setReg (bits w 23 20) (rs.map (·.1))
  { e' with sat := e.sat + rs.foldl (fun n r => n + r.2) 0 }

/-! ## Prism (R110) -/

/-- The source lane j(i) of a prism operation. -/
def prismLane (op p vl i : Nat) (ix : Int) : Int :=
  match op with
  | 0x30 => (p % 256 : Nat)
  | 0x31 => ((i + p % 256) % max vl 1 : Nat)
  | 0x32 => (i : Int) + sext 9 p
  | 0x33 => (vl : Int) - 1 - i
  | 0x34 => (if i % 2 = 0 then i / 2 else 128 + (i - 1) / 2 : Nat)
  | 0x35 => (if i < 128 then 2 * i else 2 * (i - 128) + 1 : Nat)
  | 0x36 => (16 * (i % 16) + i / 16 : Nat)
  | _ => ix

/-- A prism step: lanes out of range receive 0 and are counted; an index lane's poison goes to its lane. -/
def Engine.prismStep (e : Engine) (op w : Nat) : Engine :=
  let n := e.count
  let one (i : Nat) : Lane × Nat :=
    let x := e.lane (bits w 15 12) i
    let ib := decide (op = 0x37) && x.p
    let j := prismLane op (bits w 11 0) n i x.v.toInt
    if 0 ≤ j ∧ j < n then
      let l := e.lane (bits w 19 16) j.toNat
      (⟨l.v, l.p || ib⟩, 0)
    else (⟨0, ib⟩, 1)
  let rs := (List.range n).map one
  let e' := e.setReg (bits w 23 20) (rs.map (·.1))
  { e' with prange := e.prange + rs.foldl (fun n r => n + r.2) 0 }

/-- One chain step. -/
def Engine.step (e : Engine) (op w : Nat) : Engine := if 0x30 ≤ op then e.prismStep op w else e.plainStep op w

/-- A chain. -/
def Engine.chain (e : Engine) (l : List (BitVec 32)) : Engine := l.foldl (fun e x => e.step (stepOp x) x.toNat) e

/-- An engine of a cluster. -/
def State.engine (s : State) (n : Nat) : Engine := mapGet (fun _ => engine0) s.vx.eng n

/-- Replace an engine. -/
def State.setEngine (s : State) (n : Nat) (e : Engine) : State :=
  { s with vx := { s.vx with eng := mapSet (fun _ => engine0) s.vx.eng n e } }

/-- A vector operation runs on the strip that engine e of cluster c holds. -/
def State.vecOp (s : State) (c e op : Nat) (w : BitVec 24) : State :=
  let v := s.engine (2 * c + e)
  let v' := v.step op w.toNat
  (s.setEngine (2 * c + e) v').bump .vecPerfPrange c (v'.prange - v.prange)

def execAdd (c : Cl) (e : Fin 2) (w : BitVec 24) (s : State) : Host.Outcome State Fault Refusal := .next (s.vecOp c.val e.val 0x01 w)
def execSub (c : Cl) (e : Fin 2) (w : BitVec 24) (s : State) : Host.Outcome State Fault Refusal := .next (s.vecOp c.val e.val 0x02 w)
def execMul (c : Cl) (e : Fin 2) (w : BitVec 24) (s : State) : Host.Outcome State Fault Refusal := .next (s.vecOp c.val e.val 0x03 w)
def execFma (c : Cl) (e : Fin 2) (w : BitVec 24) (s : State) : Host.Outcome State Fault Refusal := .next (s.vecOp c.val e.val 0x04 w)
def execMin (c : Cl) (e : Fin 2) (w : BitVec 24) (s : State) : Host.Outcome State Fault Refusal := .next (s.vecOp c.val e.val 0x05 w)
def execMax (c : Cl) (e : Fin 2) (w : BitVec 24) (s : State) : Host.Outcome State Fault Refusal := .next (s.vecOp c.val e.val 0x06 w)
def execAbs (c : Cl) (e : Fin 2) (w : BitVec 24) (s : State) : Host.Outcome State Fault Refusal := .next (s.vecOp c.val e.val 0x07 w)
def execNeg (c : Cl) (e : Fin 2) (w : BitVec 24) (s : State) : Host.Outcome State Fault Refusal := .next (s.vecOp c.val e.val 0x08 w)
def execCmplt (c : Cl) (e : Fin 2) (w : BitVec 24) (s : State) : Host.Outcome State Fault Refusal := .next (s.vecOp c.val e.val 0x09 w)
def execCmple (c : Cl) (e : Fin 2) (w : BitVec 24) (s : State) : Host.Outcome State Fault Refusal := .next (s.vecOp c.val e.val 0x0A w)
def execCmpeq (c : Cl) (e : Fin 2) (w : BitVec 24) (s : State) : Host.Outcome State Fault Refusal := .next (s.vecOp c.val e.val 0x0B w)
def execSel (c : Cl) (e : Fin 2) (w : BitVec 24) (s : State) : Host.Outcome State Fault Refusal := .next (s.vecOp c.val e.val 0x0C w)
def execMov (c : Cl) (e : Fin 2) (w : BitVec 24) (s : State) : Host.Outcome State Fault Refusal := .next (s.vecOp c.val e.val 0x0D w)
def execRcp (c : Cl) (e : Fin 2) (w : BitVec 24) (s : State) : Host.Outcome State Fault Refusal := .next (s.vecOp c.val e.val 0x10 w)
def execDiv (c : Cl) (e : Fin 2) (w : BitVec 24) (s : State) : Host.Outcome State Fault Refusal := .next (s.vecOp c.val e.val 0x11 w)
def execSqrt (c : Cl) (e : Fin 2) (w : BitVec 24) (s : State) : Host.Outcome State Fault Refusal := .next (s.vecOp c.val e.val 0x12 w)
def execRsqrt (c : Cl) (e : Fin 2) (w : BitVec 24) (s : State) : Host.Outcome State Fault Refusal := .next (s.vecOp c.val e.val 0x13 w)
def execExp (c : Cl) (e : Fin 2) (w : BitVec 24) (s : State) : Host.Outcome State Fault Refusal := .next (s.vecOp c.val e.val 0x14 w)
def execExp2 (c : Cl) (e : Fin 2) (w : BitVec 24) (s : State) : Host.Outcome State Fault Refusal := .next (s.vecOp c.val e.val 0x15 w)
def execLog (c : Cl) (e : Fin 2) (w : BitVec 24) (s : State) : Host.Outcome State Fault Refusal := .next (s.vecOp c.val e.val 0x16 w)
def execTanh (c : Cl) (e : Fin 2) (w : BitVec 24) (s : State) : Host.Outcome State Fault Refusal := .next (s.vecOp c.val e.val 0x17 w)
def execSigm (c : Cl) (e : Fin 2) (w : BitVec 24) (s : State) : Host.Outcome State Fault Refusal := .next (s.vecOp c.val e.val 0x18 w)
def execSilu (c : Cl) (e : Fin 2) (w : BitVec 24) (s : State) : Host.Outcome State Fault Refusal := .next (s.vecOp c.val e.val 0x19 w)
def execGelut (c : Cl) (e : Fin 2) (w : BitVec 24) (s : State) : Host.Outcome State Fault Refusal := .next (s.vecOp c.val e.val 0x1A w)
def execSin (c : Cl) (e : Fin 2) (w : BitVec 24) (s : State) : Host.Outcome State Fault Refusal := .next (s.vecOp c.val e.val 0x1B w)
def execCos (c : Cl) (e : Fin 2) (w : BitVec 24) (s : State) : Host.Outcome State Fault Refusal := .next (s.vecOp c.val e.val 0x1C w)
def execIadd (c : Cl) (e : Fin 2) (w : BitVec 24) (s : State) : Host.Outcome State Fault Refusal := .next (s.vecOp c.val e.val 0x20 w)
def execImul (c : Cl) (e : Fin 2) (w : BitVec 24) (s : State) : Host.Outcome State Fault Refusal := .next (s.vecOp c.val e.val 0x21 w)
def execImin (c : Cl) (e : Fin 2) (w : BitVec 24) (s : State) : Host.Outcome State Fault Refusal := .next (s.vecOp c.val e.val 0x22 w)
def execImax (c : Cl) (e : Fin 2) (w : BitVec 24) (s : State) : Host.Outcome State Fault Refusal := .next (s.vecOp c.val e.val 0x23 w)
def execCvti (c : Cl) (e : Fin 2) (w : BitVec 24) (s : State) : Host.Outcome State Fault Refusal := .next (s.vecOp c.val e.val 0x24 w)
def execCvtf (c : Cl) (e : Fin 2) (w : BitVec 24) (s : State) : Host.Outcome State Fault Refusal := .next (s.vecOp c.val e.val 0x25 w)
def execIota (c : Cl) (e : Fin 2) (w : BitVec 24) (s : State) : Host.Outcome State Fault Refusal := .next (s.vecOp c.val e.val 0x26 w)
def execRand (c : Cl) (e : Fin 2) (w : BitVec 24) (s : State) : Host.Outcome State Fault Refusal := .next (s.vecOp c.val e.val 0x27 w)
def execBcast (c : Cl) (e : Fin 2) (w : BitVec 24) (s : State) : Host.Outcome State Fault Refusal := .next (s.vecOp c.val e.val 0x30 w)
def execRot (c : Cl) (e : Fin 2) (w : BitVec 24) (s : State) : Host.Outcome State Fault Refusal := .next (s.vecOp c.val e.val 0x31 w)
def execShft (c : Cl) (e : Fin 2) (w : BitVec 24) (s : State) : Host.Outcome State Fault Refusal := .next (s.vecOp c.val e.val 0x32 w)
def execRev (c : Cl) (e : Fin 2) (w : BitVec 24) (s : State) : Host.Outcome State Fault Refusal := .next (s.vecOp c.val e.val 0x33 w)
def execZip (c : Cl) (e : Fin 2) (w : BitVec 24) (s : State) : Host.Outcome State Fault Refusal := .next (s.vecOp c.val e.val 0x34 w)
def execUnzip (c : Cl) (e : Fin 2) (w : BitVec 24) (s : State) : Host.Outcome State Fault Refusal := .next (s.vecOp c.val e.val 0x35 w)
def execXpose16 (c : Cl) (e : Fin 2) (w : BitVec 24) (s : State) : Host.Outcome State Fault Refusal := .next (s.vecOp c.val e.val 0x36 w)
def execIdx (c : Cl) (e : Fin 2) (w : BitVec 24) (s : State) : Host.Outcome State Fault Refusal := .next (s.vecOp c.val e.val 0x37 w)

/-! ## The reduction unit (R112–R115) -/

/-- The key of an element: NaN 0, else a number that rises with the value, −0 taken as +0 (R114). -/
def rankKey (a : BitVec 32) : Nat :=
  if isNan32 a then 0
  else
    let a := if a = 0x80000000#32 then 0#32 else a
    if a.msb then (~~~a).toNat else (a ^^^ 0x80000000#32).toNat

/-- Insert an element (position, value) into a list in rank order that keeps at most k: equal values rank by
position, and a later position comes after (R113). -/
def rankInsert (k : Nat) (x : Nat × BitVec 32) : List (Nat × BitVec 32) → List (Nat × BitVec 32)
  | [] => if k = 0 then [] else [x]
  | y :: t =>
    if k = 0 then []
    else if rankKey y.2 < rankKey x.2 then (x :: y :: t).take k
    else y :: rankInsert (k - 1) x t

/-- The k first-ranked elements of a row. -/
def topRanked (k : Nat) (row : List (BitVec 32)) : List (Nat × BitVec 32) :=
  (row.foldl (fun (p : Nat × List (Nat × BitVec 32)) v => (p.1 + 1, rankInsert k (p.1, v) p.2)) (0, [])).2

/-- A NaN is output as canonical NaN. -/
def canon32 (a : BitVec 32) : BitVec 32 := if isNan32 a then nan32 else a

/-- The outputs of n ranked elements: a row that is too short is filled with −Inf at position −1 (R113). -/
def rankedOut (n : Nat) (l : List (Nat × BitVec 32)) : List (BitVec 32) × List (BitVec 32) :=
  (l.map (fun p => canon32 p.2) ++ List.replicate (n - l.length) 0xFF800000#32,
   l.map (fun p => BitVec.ofNat 32 p.1) ++ List.replicate (n - l.length) 0xFFFFFFFF#32)

/-- An element of a TOPK's row in a pass: in the first four it is counted in the bin of its next key byte, if its higher
bytes are the prefix found so far; in the fifth it is collected, if its key is above the k-th key, or equal to it while
such elements are still needed (R114). -/
def RedUnit.topkElt (u : RedUnit) (pass pos : Nat) (x : Lane) : RedUnit :=
  let key := rankKey x.v
  let u := { u with bad := u.bad || x.p }
  if pass < 4 then
    if key / 2 ^ (32 - 8 * pass) = u.pre then { u with hist := mapMod (fun _ => 0) u.hist (key / 2 ^ (24 - 8 * pass) % 256) (· + 1) } else u
  else if u.pre < key then { u with coll := u.coll ++ [(pos, x.v)] }
  else if key = u.pre ∧ u.need ≠ 0 then { u with coll := u.coll ++ [(pos, x.v)], need := u.need - 1 }
  else u

/-- The elements of a strip that begins at a position of the row. -/
def RedUnit.topkTake (u : RedUnit) (pass off : Nat) (l : List Lane) : RedUnit :=
  (l.foldl (fun (p : Nat × RedUnit) x => (p.1 + 1, p.2.topkElt pass p.1 x)) (off, u)).2

/-- Scan bins from one down: the bin that holds the needed element, and how many of its elements are needed. -/
def scanBins (hist : SMap Nat) : Nat → Nat → Nat × Nat
  | need, 0 => (0, need)
  | need, b + 1 =>
    let n := mapGet (fun _ => 0) hist (b + 1)
    if need ≤ n then (b + 1, need) else scanBins hist (need - n) b

/-- The scan after a histogram pass extends the prefix by one byte (R114). -/
def RedUnit.topkScan (u : RedUnit) : RedUnit :=
  let (b, n) := scanBins u.hist u.need 255
  { u with pre := 256 * u.pre + b, need := n, hist := [] }

/-- The collected elements are sorted into rank order and written out (R113, R114). -/
def RedUnit.topkEnd (u : RedUnit) (k : Nat) : RedUnit :=
  let (v, i) := rankedOut k (u.coll.foldl (fun l x => rankInsert k x l) [])
  { u with vals := v, idxs := i }

/-- SAMPLE (R115): the position, or none. -/
def samplePos (w : List (BitVec 32)) (seed rowNo : Nat) : Option Nat :=
  let ps := (w.foldl (fun (p : BitVec 32 × List (BitVec 32)) x =>
    let q := fadd p.1 x
    (q, p.2 ++ [q])) (0#32, [])).2
  let total := ps.getLastD 0#32
  let tv := f32 total
  let u := toF32 (.fin false (srZ seed (rowNo + 2 ^ 40) / 2 ^ 40) 1 (-24))
  let t := f32 (fmul u total)
  if !tv.isFin || !(FV.fin false 0 1 0).lt tv then none
  else match (List.range ps.length).find? (fun i => t.lt (f32 (ps.getD i 0))) with
    | some i => some i
    | none => ((List.range w.length).filter (fun i => (FV.fin false 0 1 0).lt (f32 (w.getD i 0)))).getLast?

/-- Outputs of a reduction: values and positions. -/
def reduceRow (red k : Nat) (u : RedUnit) : List (BitVec 32) × List (BitVec 32) :=
  let row := u.row.map (·.v)
  match red with
  | 1 => ([treeSum row], [])
  | 2 => ([match row with | [] => 0 | a :: t => t.foldl fmax (canon32 a)], [])
  | 3 => ([match row with | [] => 0 | a :: t => t.foldl fmin (canon32 a)], [])
  | 4 | 5 =>
    let n := if red = 4 then 1 else k
    rankedOut n (topRanked n row)
  | _ => match samplePos row u.seed u.rowNo with
    | none => ([0xFFFFFFFF#32], [])
    | some i => ([if u.hasComp then (u.comp.getD i Lane.zero).v else BitVec.ofNat 32 i], [])

/-- Reduce the row that a unit has taken in: any poisoned element poisons every output (R113, R116). -/
def RedUnit.reduce (u : RedUnit) (red k : Nat) : RedUnit :=
  let (v, i) := reduceRow red k u
  { u with vals := v, idxs := i, bad := u.row.any (·.p) || (decide (red = 6) && u.hasComp && u.comp.any (·.p)) }

/-- The reduction unit of a cluster. -/
def State.redUnit (s : State) (c : Nat) : RedUnit := mapGet (fun _ => red0) s.vx.red c

/-- Replace a reduction unit. -/
def State.setRed (s : State) (c : Nat) (u : RedUnit) : State :=
  { s with vx := { s.vx with red := mapSet (fun _ => red0) s.vx.red c u } }

/-- A reduction runs on the row that the unit of cluster c holds. -/
def State.redOp (s : State) (c red k : Nat) : State := s.setRed c ((s.redUnit c).reduce red k)

def execSum (c : Cl) (s : State) : Host.Outcome State Fault Refusal := .next (s.redOp c.val 1 1)
def execReduceMax (c : Cl) (s : State) : Host.Outcome State Fault Refusal := .next (s.redOp c.val 2 1)
def execReduceMin (c : Cl) (s : State) : Host.Outcome State Fault Refusal := .next (s.redOp c.val 3 1)
def execArgmax (c : Cl) (s : State) : Host.Outcome State Fault Refusal := .next (s.redOp c.val 4 1)
def execTopk (c : Cl) (kM1 : BitVec 10) (s : State) : Host.Outcome State Fault Refusal :=
  .next (s.redOp c.val 5 (kM1.toNat + 1))

/-- SAMPLE, with or without the companion that the unit took in. -/
def State.sampleCmd (s : State) (c : Nat) (companion : Bool) : State :=
  s.setRed c ((({ s.redUnit c with hasComp := companion } : RedUnit)).reduce 6 1)

def execSample (c : Cl) (companion : Bool) (s : State) : Host.Outcome State Fault Refusal :=
  .next (s.sampleCmd c.val companion)

/-! ## Vector descriptors (R104, R111, R117) -/

/-- Elements of a strip. -/
def stripLen (w : List Word) : Nat := if twPacked w then 512 else 256

/-- The position whose view gives the iteration shape: A when the descriptor reduces, else D (R104). -/
def iterPos (w : List Word) : Nat := if twRed w ≠ 0 then 0 else 3

/-- Inputs that a vector descriptor loads into v0, v1 and v2, given its C. -/
def vopIns (w c : List Word) : List Nat := if posOut w c then [0, 1] else [0, 1, 2]

/-- The operands of a vector descriptor, by position; the flag tells that one could not be opened. -/
def State.openMany (s : State) (t : Nat) (k : Task) (ps : List Nat) (count : Bool) : State × List (Nat × Opnd) × Bool :=
  ps.foldl (fun (p : State × List (Nat × Opnd) × Bool) i =>
    if (k.entryAt i).isEmpty then p
    else match p.1.openOpnd t k i count with
      | (s, some o) => (s, p.2.1 ++ [(i, o)], p.2.2)
      | (s, none) => (s, p.2.1, true)) (s, [], false)

/-- The operand at a position among those opened. -/
def opndAt (l : List (Nat × Opnd)) (i : Nat) : Option Opnd := (l.find? (fun p => p.1 = i)).map (·.2)

/-- Iteration shape of a vector descriptor as it runs. -/
def iterShape (w : List Word) (l : List (Nat × Opnd)) : List Nat :=
  match opndAt l (iterPos w) with
  | some o => if twRed w ≠ 0 then o.shape else o.wshape
  | none => []

/-- Number of strips of an iteration shape. -/
def stripCount (w : List Word) (shape : List Nat) : Nat :=
  cdiv (shape.headD 0) (stripLen w) * prodOf (shape.drop 1)

/-- The view positions of a run along dimension 0. -/
def viewRun (v : List Nat) (n : Nat) : List (List Nat) := (List.range n).map (fun i => setAt v 0 (v.headD 0 + i))

/-- The lanes that a strip loads from an operand. -/
def loadLanes (o : Opnd) (m : Snap) (packed : Bool) (half : EType) (vs : List (List Nat)) : List Lane :=
  if packed then
    (chunks 2 vs.length vs).map (fun p =>
      let code (i : Nat) : Nat × Bool := match p[i]? with
        | some v =>
          let r := o.raw m v
          ((convert half .rne (o.val r)).1, r.bad)
        | none => (0, false)
      ⟨BitVec.ofNat 32 ((code 0).1 + 65536 * (code 1).1), (code 0).2 || (code 1).2⟩)
  else vs.map (fun v => o.lane (o.raw m v))

/-- The values that a register's lanes give to the store (R104, R106). -/
def storeVals (e : Engine) (r : Nat) (ints : Bool) : List OutVal :=
  (List.range e.vl).map (fun i =>
    if e.packed then
      let l := e.lane r (i / 2)
      ⟨decodeElt e.halfType (l.v.toNat / 2 ^ (16 * (i % 2)) % 65536), l.p⟩
    else
      let l := e.lane r i
      ⟨if ints then FV.ofInt l.v.toInt else f32 l.v, l.p⟩)

/-- The threshold of VEC_ESC_THRESH that a descriptor selects, as sampled (R36). -/
def Task.threshold (k : Task) : Nat := wb k.esc (16 * twThrSel k.w + 15) (16 * twThrSel k.w)

/-- Load the sources of a strip and run the chain; the strip begins at view position v, row number r. -/
def State.runStrip (s : State) (t : Nat) (k : Task) (l : List (Nat × Opnd)) (v : List Nat) (vl lin : Nat) :
    State × Engine :=
  let half := match opndAt l 3 with
    | some o => if teType o.e = .fp16 then EType.fp16 else EType.bf16
    | none => EType.bf16
  let e : Engine := { engine0 with
    task := some t, vl := vl, packed := twPacked k.w, half := half == .fp16, mode := twRound k.w, seed := twSeed k.w,
    pos0 := v.headD 0, lin0 := lin, scal := k.scal }
  let vs := viewRun v vl
  let (s, e) := (vopIns k.w (k.entryAt 2)).foldl (fun (p : State × Engine) i => match opndAt l i with
    | none => p
    | some o =>
      let (s, m) := p.1.fetchViews (.task t) k.field false o vs []
      (s, p.2.setReg i (loadLanes o m (twPacked k.w) half vs))) (s, e)
  (s, e.chain (twChain k.w))

/-- Store the outputs of a reduced row: values to D, positions to C, the first output for the scalar. -/
def State.storeRow (s : State) (t : Nat) (k : Task) (l : List (Nat × Opnd)) (u : RedUnit) (row : List Nat) : State :=
  let w := k.w
  let put (s : State) (i : Nat) (vs : List OutVal) : State := match opndAt l i with
    | none => s
    | some o =>
      let (a, n) := o.putRun (twRound w) (twSeed w) k.threshold (0 :: row) vs
      (s.landOut (.task t) k.field a).addCnt t n
  let ints := decide (twRed w = 6)
  let s := put s 3 (u.vals.map (fun x => ⟨if ints then FV.ofInt x.toInt else f32 x, u.bad⟩))
  let s := if posOut w (k.entryAt 2) then put s 2 (u.idxs.map (fun x => ⟨FV.ofInt x.toInt, u.bad⟩)) else s
  s.modTask t (fun k => if k.svals.isEmpty then { k with svals := u.vals } else k)

/-- Passes that a reduction makes over each row: TOPK makes five (R114). -/
def passesOf (w : List Word) : Nat := if twRed w = 5 then 5 else 1

/-- The reduction unit takes in the lanes of a strip: a TOPK counts or collects them, the others keep them. -/
def RedUnit.take (u : RedUnit) (w : List Word) (e : Engine) (r vl pass off len : Nat) : RedUnit :=
  let ls (x : Nat) : List Lane := (List.range vl).map (e.lane x)
  let u : RedUnit := { u with rowNo := r, seed := twSeed w, hasComp := decide (twCompReg w ≠ 0) }
  if twRed w = 5 then
    let u := if off = 0 ∧ pass = 0 then { u with need := min (twKm1 w + 1) len } else u
    u.topkTake pass off (ls (twRedSrc w))
  else { u with row := u.row ++ ls (twRedSrc w), comp := if twCompReg w = 0 then [] else u.comp ++ ls (twCompReg w) }

/-- A pass over a row ends: the reduction, or the scan of a TOPK's histogram, or its sort. -/
def RedUnit.endPass (u : RedUnit) (w : List Word) (pass : Nat) : RedUnit :=
  if twRed w ≠ 5 then u.reduce (twRed w) (twKm1 w + 1)
  else if pass < 4 then u.topkScan
  else u.topkEnd (twKm1 w + 1)

/-- Run a strip of a vector descriptor whose operands are open (R104): it is loaded, its chain runs, and its
register is stored or goes to the reduction unit, which reduces the row at its last strip. The strips of a row are run again
for every pass (R114); what a chain counts, it counts in the first pass (log entry 114). -/
def State.vopStrip (s : State) (t : Nat) (k : Task) (l : List (Nat × Opnd)) (shape : List Nat) (q : Nat) : State :=
  let w := k.w
  let c := twHome w
  let len := shape.headD 0
  let per := max 1 (cdiv len (stripLen w))
  let r := q / (passesOf w * per)
  let pass := q / per % passesOf w
  let n := r * per + q % per
  let off := q % per * stripLen w
  let row := coordsOf (shape.drop 1) r
  let vl := min (stripLen w) (len - off)
  let (s, e) := s.runStrip t k l (off :: row) vl (r * len + off)
  let s := s.setEngine (2 * c + (if twTwin w then n % 4 else n % 2)) e
  let s := if pass = 0 then (s.bump .vecPerfPrange c e.prange).modTask t (fun k => { k with counts :=
    { k.counts with sat := k.counts.sat + e.sat, prange := k.counts.prange + e.prange } }) else s
  if twRed w = 0 then
    match opndAt l 3 with
    | none => s
    | some o =>
      let (a, m) := o.putRun (twRound w) (twSeed w) k.threshold (off :: row) (storeVals e (twOutReg w) (teIntLanes o.e))
      (s.landOut (.task t) k.field a).addCnt t m
  else
    let ru := if twTwin w then c + r % 2 else c
    let u := if off = 0 ∧ pass = 0 then red0 else s.redUnit ru
    let u := u.take w e r vl pass off len
    if off + vl < len then s.setRed ru u
    else
      let u := u.endPass w pass
      let s := s.setRed ru u
      if pass + 1 < passesOf w then s else s.storeRow t k l u row

/-- Whether the shapes of a vector descriptor agree as sampled (R104, R112). -/
def vopAgrees (w c : List Word) (l : List (Nat × Opnd)) (shape : List Nat) : Bool :=
  let want := (if twRed w = 5 then twKm1 w + 1 else 1) :: shape.drop 1
  (vopIns w c).all (fun i => match opndAt l i with
    | some o => decide (o.shape = shape)
    | none => true) &&
  (decide (twRed w = 0) || (match opndAt l 3 with
    | some o => decide (o.wshape = want)
    | none => true) && (!posOut w c || (match opndAt l 2 with
    | some o => decide (o.wshape = want)
    | none => true)))

/-- Run at most m strips from the next one of a vector descriptor; with the last one its work is done. -/
def State.vopRun (s : State) (t : Nat) (k : Task) (m : Nat) : State :=
  let (s, l, gone) := s.openMany t k [0, 1, 2, 3] (decide (k.round = 0))
  if gone || k.empty then s.sendDone t
  else
    let shape := iterShape k.w l
    let n := stripCount k.w shape * passesOf k.w
    if !vopAgrees k.w (k.entryAt 2) l shape then (s.modTask t (fun k => k.fail 0x30 0)).sendDone t
    else
      let go := min m (n - k.round)
      let s := (List.range go).foldl (fun s i => s.vopStrip t k l shape (k.round + i)) s
      let s := s.modTask t (fun k => { k with round := k.round + go })
      if n ≤ k.round + go then s.sendDone t else s

/-- More strips than any tensor has (R126). -/
def allStrips : Nat := 2 ^ 40

/-- VOP: the whole descriptor (R104). -/
def execVop (t : Nat) (s : State) : Host.Outcome State Fault Refusal :=
  .next (s.runOp t 0x20 (fun s k => s.vopRun t k allStrips))

/-- VECTOR_ROUND (R104, R328): the cluster's engines start a round of strips of the vector descriptor that
holds them, in an ac that gating allows. -/
def State.vecRound (s : State) (c a : Nat) : State :=
  match s.holder c .vector with
  | none => s
  | some (t, k) =>
    if k.phase != Phase.running || twOpcode k.w != 0x20 || !s.mayIssue c k a || (k.issued && decide (k.round = 0)) then s
    else
      let (s, l, _) := s.openMany t k [0, 1, 2, 3] false
      if k.issued && decide (stripCount k.w (iterShape k.w l) * passesOf k.w ≤ k.round) then s
      else (s.putTask t { k with issued := true }).vopRun t k (if twTwin k.w then 4 else 2)

def execVectorRound (c : Cl) (ac : BitVec 4) (s : State) : Host.Outcome State Fault Refusal :=
  .next (s.awaitBoundary (fun s => s.vecRound c.val ac.toNat))

/-! ## COPY (R141) -/

/-- The element at a view position as COPY moves it: its code, and its scale, tag and low code where the tensor
has those planes. -/
def Opnd.rawAll (o : Opnd) (m : Snap) (v : List Nat) : Raw :=
  let r := o.raw m v
  if teTagged o.e && !teEscapes o.e then
    match o.loc true v with
    | .hit c _ =>
      let (tg, b2) := o.item m .tag c
      let (lo, b3) := o.item m .low c
      { r with tag := decide (tg = 1), low := if tg = 1 then lo else 0, bad := r.bad || b2 || (decide (tg = 1) && b3) }
    | _ => r
  else r

/-- Read what COPY moves of view positions: also the tag and low planes of a tagged INT4 tensor. -/
def State.fetchAll (s : State) (i : Issuer) (f : Nat) (o : Opnd) (vs : List (List Nat)) : State × Snap :=
  let (s, m) := s.fetchViews i f false o vs []
  if teTagged o.e && !teEscapes o.e then
    let cs := o.coords vs
    let (s, m) := s.fetchBytes i f false (o.bytesAt .tag cs) m
    s.fetchBytes i f false (o.bytesAt .low (cs.filter (fun c => decide ((o.item m .tag c).1 = 1)))) m
  else (s, m)

/-- Store what COPY moves at data coordinates. -/
def Opnd.putAll (o : Opnd) (c : List Nat) (r : Raw) : Out :=
  let a := o.putRaw c r
  if teTagged o.e && !teEscapes o.e then
    let a := a.app (o.put .tag c (b2n r.tag) r.bad)
    if r.tag || r.bad then a.app (o.put .low c r.low r.bad) else a
  else a

/-- One row of a copy: view positions along dimension 0. A skipped element also gets low-plane code 0 (R132). -/
def State.copyRow (s : State) (t : Nat) (k : Task) (a d : Opnd) (v : List Nat) (n : Nat) : State :=
  let vs := viewRun v n
  let (s, m) := s.fetchAll (.task t) k.field a vs
  if twSmode k.w = 2 then
    vs.foldl (fun s v =>
      let r := a.rawAll m v
      s.scatterAdd t d (twRound k.w) (twSeed k.w) v [⟨a.val r, r.bad⟩]) s
  else
    s.landOut (.task t) k.field (vs.foldl (fun (o : Out) v =>
      match d.loc false v with
      | .hit c ib =>
        let r := a.rawAll m v
        if teBound d.e && !d.lastView (v.getD (teIdxDim d.e) 0) then o
        else
          let o := o.app (d.putAll c { r with bad := r.bad || ib })
          match a.loc true v with
          | .skip b => if teTagged d.e then o.app (d.put .low c 0 (b || ib)) else o
          | _ => o
      | _ => o) Out.nil)

/-- COPY. -/
def State.copyRun (s : State) (t : Nat) (k : Task) : State :=
  let (s, l, _) := s.openMany t k [0, 3] true
  match opndAt l 0, opndAt l 3 with
  | some a, some d =>
    let shape := a.shape
    if k.empty then s
    else if shape ≠ d.wshape then s.modTask t (fun k => k.fail 0x30 0)
    else (List.range (prodOf (shape.drop 1))).foldl (fun s r =>
      s.copyRow t k a d (0 :: coordsOf (shape.drop 1) r) (shape.headD 0)) s
  | _, _ => s

def execCopy (t : Nat) (s : State) : Host.Outcome State Fault Refusal :=
  .next (s.runUnit t 0x30 (fun s k => s.copyRun t k))

end Sys2Proof.Machine
end

