-- ==== Sys2Proof/Machine/Atom.lean ====
section
/-! DEFINITION. Memory-side atomics: AADD, AMINMAX, ASWAP and ACAS at cluster, field, device and fabric scope
(R188–R190). -/
namespace Sys2Proof.Machine

/-- Scope and minimum or maximum of an atomic (R188). -/
def atScope (w : List Word) : Nat := wb (twArea w 0) 1 0
def atMax (w : List Word) : Bool := wbit (twArea w 0) 2

/-- The smaller or larger of two codes: by R108 for FP32, as integers otherwise. -/
def minMaxCode (ty : EType) (mx : Bool) (x y : Nat) : Nat :=
  if ty = .fp32 then
    (if mx then fmax (BitVec.ofNat 32 x) (BitVec.ofNat 32 y) else fmin (BitVec.ofNat 32 x) (BitVec.ofNat 32 y)).toNat
  else if decide (sext ty.width x < sext ty.width y) == mx then y else x

/-- The element operation of an atomic: the value left in the target and whether it saturated. -/
def atomElt (w : List Word) (ty : EType) (old a b : Nat) : Nat × Bool :=
  match twOpcode w with
  | 0x70 => addElt ty old a
  | 0x71 => (minMaxCode ty (atMax w) old a, false)
  | 0x72 => (a, false)
  | _ => (if old = b then a else old, false)

/-- The buffer in which an element operation is performed; none where the home's adder performs it (R189). Peer addresses
at device scope share one I/O die's buffer. -/
def atomBuf (w : List Word) (f a : Nat) : Option Nat :=
  match atScope w with
  | 0 => some (twHome w)
  | 1 => some (48 + f)
  | 2 => if peerSpace ≤ a then some 72 else none
  | _ => none

/-- What an element operation returns: the old value, its poison, and whether the new one saturated. -/
structure AtomRes where
  old : Nat
  bad : Bool
  sat : Bool
  deriving DecidableEq, Repr

/-- An element operation in a line of a buffer. Where an atomic of too narrow a scope holds the element elsewhere, the
values that it returns and leaves are free (R190, log entry 110). -/
def State.atomInLine (s : State) (t f : Nat) (w : List Word) (ty : EType) (buf a x y : Nat) (bad : Bool) :
    State × AtomRes :=
  let n := ty.width / 8
  let (s, l) := s.fetchLine t f buf (a / 64 * 64)
  let o := a - l.base
  let (s, e) := s.lineElt t f l o n
  let u := unitBase a
  if bad || e.bad then ((s.consume t).putLine { e.l with bad := uniq (e.l.bad ++ [u]) }, ⟨e.old, true, false⟩)
  else
    let (s, w0) := if e.mixed then s.draw else (s, 0)
    let (s, w1) := if e.mixed then s.draw else (s, 0)
    let (v, sat) := if e.mixed then (w1.toNat % 2 ^ ty.width, false) else atomElt w ty e.old x y
    (s.putLine { e.l with data := e.l.data.take o ++ leBytes n v ++ e.l.data.drop (o + n),
                          wrote := uniq (e.l.wrote ++ (List.range n).map (fun i => o + i)) },
      ⟨if e.mixed then w0.toNat % 2 ^ ty.width else e.old, false, sat⟩)

/-- An element operation by the adder of its home, after the lines of this module's atomics that hold newer bytes of the
element: of a peer the old value is what the peer holds (log entry 7). -/
def State.atomAtHome (s : State) (t f : Nat) (w : List Word) (ty : EType) (a x y : Nat) (bad : Bool) :
    State × AtomRes :=
  let n := ty.width / 8
  if peerSpace ≤ a then
    let (s, g) := s.fetchUnit (.task t) f false (unitBase a)
    (s.toPeer (.task t) f ((a - peerSpace) / 2 ^ 56) (byteWrites a (leBytes n x) []) (if bad then [unitBase a] else []),
      ⟨leNat ((g.data.drop (a - unitBase a)).take n), bad, false⟩)
  else match s.noAnswer a with
    | some d => (s.noAnswerTask t d, ⟨0, bad, false⟩)
    | none =>
      let (s, g) := (s.settleLines a n false).fetchUnit (.task t) f false (unitBase a)
      let old := leNat ((g.data.drop (a - unitBase a)).take n)
      if bad || g.bad then (s.writePoison (unitBase a), ⟨old, true, false⟩)
      else
        let (v, sat) := atomElt w ty old x y
        (s.writeBytes (byteWrites a (leBytes n v) []), ⟨old, false, sat⟩)

/-- One element operation at a view position of D, and the old value into C where it is named (R190). -/
def State.atomStep (s : State) (t : Nat) (k : Task) (d a : Opnd) (b c : Option Opnd) (ma mb : Snap) (v : List Nat) :
    State :=
  let ty := teType d.e
  let ra := a.raw ma v
  let rb := match b with
    | some o => o.raw mb v
    | none => ⟨0, 0, 0, false, false⟩
  let (s, r) := match d.loc false v with
    | .hit dc ib =>
      let x := (itemBytes d.e d.rg .elem dc).1.headD 0
      let bad := ra.bad || rb.bad || ib
      (match atomBuf k.w k.field x with
        | some buf => s.atomInLine t k.field k.w ty buf x ra.code rb.code bad
        | none => s.atomAtHome t k.field k.w ty x ra.code rb.code bad)
    | .skip ib => (s, ⟨0, ib, false⟩)
    | .pad => (s, ⟨0, false, false⟩)
  let s := s.addCnt t ⟨b2n r.sat, 0⟩
  match c with
  | some o => match o.loc false v with
    | .hit cc _ => s.landOut (.task t) k.field (o.put .elem cc r.old r.bad)
    | _ => s
  | none => s

/-- An atomic descriptor: its element operations in ascending view position of D (R190), acknowledged by the
homes that performed them. -/
def State.atomRun (s : State) (t : Nat) (k : Task) : State :=
  let (s, l, miss) := s.openMany t k [0, 1, 2, 3] true
  match opndAt l 0, opndAt l 3 with
  | some a, some d =>
    if miss || k.empty then s
    else
      let vs := (List.range (prodOf d.wshape)).map (coordsOf d.wshape)
      let (s, ma) := s.fetchViews (.task t) k.field false a vs []
      let (s, mb) := match opndAt l 1 with
        | some b => s.fetchViews (.task t) k.field false b vs []
        | none => (s, [])
      let s' := vs.foldl (fun s v => s.atomStep t k d a (opndAt l 1) (opndAt l 2) ma mb v) s
      let atHome (v : List Nat) : Option Nat := match d.loc false v with
        | .hit c _ =>
          let x := (itemBytes d.e d.rg .elem c).1.headD 0
          if (atomBuf k.w k.field x).isNone && decide (x < peerSpace) && (s.noAnswer x).isNone then some x else none
        | _ => none
      match vs.findSome? atHome with
      | some x => s'.sendAck x (.task t)
      | none => s'
  | _, _ => s

def execAadd (t : Nat) (s : State) : Host.Outcome State Fault Refusal := .next (s.runUnit t 0x70 (fun s k => s.atomRun t k))
def execAminmax (t : Nat) (s : State) : Host.Outcome State Fault Refusal := .next (s.runUnit t 0x71 (fun s k => s.atomRun t k))
def execAswap (t : Nat) (s : State) : Host.Outcome State Fault Refusal := .next (s.runUnit t 0x72 (fun s k => s.atomRun t k))
def execAcas (t : Nat) (s : State) : Host.Outcome State Fault Refusal := .next (s.runUnit t 0x73 (fun s k => s.atomRun t k))

end Sys2Proof.Machine
end

