-- ==== Sys2Proof/Machine/Tensor.lean ====
section
/-! DEFINITION. The arrays of a cluster (R50–R64): twins, cluster tiles and K units, draining, and the audit of
a tile (R43–R46). -/
namespace Sys2Proof.Machine

/-! ## Twins (R62, R65) -/

/-- A twin request is refused with a cause. -/
def State.twinRefused (s : State) (c cause : Nat) : State :=
  (s.setBit .tenTwinStat c 2 true).setFld .tenTwinStat c 5 3 cause

/-- Whether both scoreboards of a pair are empty and no dispatch reached either in the same ac. -/
def State.pairBusy (s : State) (c : Nat) (sameAc : Bool) : Bool :=
  sameAc || decide (s.entriesOf c false ≠ 0 ∨ s.entriesOf (c + 1) false ≠ 0)

/-- What a write of TEN_TWIN_CTL leaves in the register itself: the bits written as 1 are set and stay set (R8, log
entry 103). -/
def State.twinBits (s : State) (c : Nat) (form dissolve : Bool) : State :=
  s.orReg .tenTwinCtl c (b2n form + 2 * b2n dissolve)

/-- form: refused as malformed, busy, unpowered or fused, the first of these that holds (DESIGN CHOICE, log entry 116: the
manual gives the causes no order), else forming. The upper cluster's register ignores writes. -/
def State.twinFormOp (s : State) (c : Nat) (both sameAc : Bool) : State :=
  if c % 2 = 1 then s
  else
  let s := s.twinBits c true both
  if both || decide (s.twinState c ≠ 0) then s.twinRefused c 4
  else if s.pairBusy c sameAc then s.twinRefused c 1
  else if s.dom c ≠ .on ∧ s.dom c ≠ .fused ∨ s.dom (c + 1) ≠ .on ∧ s.dom (c + 1) ≠ .fused then s.twinRefused c 2
  else if s.dom c = .fused ∨ s.dom (c + 1) = .fused then s.twinRefused c 3
  else s.setFld .tenTwinStat c 1 0 1

/-- dissolve: refused as malformed or busy, else dissolving; the lower cluster is single at once, the upper one shows its
role until its loop has locked again (DESIGN CHOICE, log entry 116). -/
def State.twinDissolveOp (s : State) (c : Nat) (both sameAc : Bool) : State :=
  if c % 2 = 1 then s
  else
  let s := s.twinBits c both true
  if both || decide (s.twinState c ≠ 2) then s.twinRefused c 4
  else if s.pairBusy c sameAc then s.twinRefused c 1
  else (s.setFld .tenTwinStat c 1 0 3).setFld .tenId c 10 9 0

/-- The upper island runs on the lower one's clock: the twin has formed, and what waits in a ring for it may go on. -/
def State.twinSwitched (s : State) (c : Nat) : State :=
  if c % 2 = 0 ∧ s.twinState c = 1 then
    (((s.setFld .tenTwinStat c 1 0 2).setFld .tenId c 10 9 1).setFld .tenId (c + 1) 10 9 2).settle (c / 12)
  else s

/-- The upper island's own loop has locked again. -/
def State.twinLocked (s : State) (c : Nat) : State :=
  if c % 2 = 0 ∧ s.twinState c = 3 then
    ((s.setFld .tenTwinStat c 1 0 0).setFld .tenId (c + 1) 10 9 0).settle (c / 12)
  else s

def execTwinForm (c : Cl) (both sameAc : Bool) (s : State) : Host.Outcome State Fault Refusal :=
  .next (s.twinFormOp c.val both sameAc)

def execTwinDissolve (c : Cl) (both sameAc : Bool) (s : State) : Host.Outcome State Fault Refusal :=
  .next (s.twinDissolveOp c.val both sameAc)

def execTwinClockSwitched (c : Cl) (s : State) : Host.Outcome State Fault Refusal := .next (s.twinSwitched c.val)

def execTwinRelock (c : Cl) (s : State) : Host.Outcome State Fault Refusal := .next (s.twinLocked c.val)

/-- A write of SCH_AUDIT_CFG sets the rate and resets the counter (R47). -/
def State.auditCfg (s : State) (f : Nat) (v : Word) : State :=
  (s.setFld .schAuditCfg f 15 0 (wb v 15 0)).setFld .schAuditCnt f 47 0 0

def execAuditConfigWrite (f : Fd) (v : Word) (s : State) : Host.Outcome State Fault Refusal :=
  .next (s.auditCfg f.val v)

/-! ## A product as it runs -/

/-- An open product: operands, sizes, cluster tile, type of accumulation. -/
structure Prod where
  a : Opnd
  b : Opnd
  d : Opnd
  dims : MatDims
  rows : Nat               -- rows of a cluster tile
  cols : Nat               -- columns of a cluster tile
  deriving DecidableEq, Repr

/-- Accumulation mode and block unit of the arrays. -/
def Prod.mode (p : Prod) : AccMode := arrayMode (teOp p.a.e) (teOp p.b.e)
def Prod.unit (p : Prod) : Nat := blockUnit (teOp p.a.e) (teOp p.b.e)

/-- Sizes of a product from the views of its operands. -/
def prodDims (a b : Opnd) : MatDims :=
  ⟨a.dim 1, a.dim 0, b.dim 0, if teRank a.e = 3 then a.dim 2 else 1⟩

/-- Whether the views of A, B and D fit each other as sampled; a D that is not bound may have more rows than
a gathered A (R101). -/
def prodFits (a b d : Opnd) : Bool :=
  decide (a.dim 0 = b.dim 1 ∧ b.dim 0 = d.wdim 0) &&
    (if teBound a.e && !teBound d.e then decide (a.dim 1 ≤ d.wdim 1) else decide (a.dim 1 = d.wdim 1)) &&
    (decide (teRank a.e ≠ 3) || decide (a.dim 2 = b.dim 2 ∧ a.dim 2 = d.wdim 2))

/-- Whether the views of a lens scan fit: D takes the first of the lens tensor's columns (R226). -/
def scanFits (a b d : Opnd) : Bool :=
  decide (a.dim 0 = b.dim 1 ∧ a.dim 1 = d.wdim 1 ∧ d.wdim 0 ≤ b.dim 0)

/-- Open a product's operands under the shape that dispatch resolved (R53, R63); none where an access or a size fails, which the
descriptor then carries. -/
def State.openProd (s : State) (t : Nat) (k : Task) (count : Bool) : State × Option Prod :=
  let (s, l, _) := s.openMany t k [0, 1, 3] count
  match opndAt l 0, opndAt l 1, opndAt l 3 with
  | some a, some b, some d =>
    let scan := decide (twOpcode k.w = 0x53)
    if !(if scan then scanFits a b d else prodFits a b d) then (s.modTask t (fun k => k.fail 0x30 0), none)
    else
      let dims := if scan then ⟨a.dim 1, a.dim 0, d.wdim 0, 1⟩ else prodDims a b
      let g := shapeG k.shape
      let split := shapeSplit k.shape && twTwin k.w
      (s, some ⟨a, b, d, dims, 16 * g, 64 * (32 / g) * (if twTwin k.w && !split then 2 else 1)⟩)
  | _, _, _ => (s, none)

/-- Tiles along M and N, and of the whole product. -/
def Prod.mt (p : Prod) : Nat := cdiv p.dims.m p.rows
def Prod.nt (p : Prod) : Nat := cdiv p.dims.n p.cols
def Prod.tiles (p : Prod) : Nat := if p.dims.k = 0 then 0 else p.dims.batch * (p.nt * p.mt)

/-- K units of a tile. -/
def Prod.unitLen (p : Prod) : Nat := unitLenK (teType p.a.e) (teType p.b.e)
def Prod.units (p : Prod) : Nat := cdiv p.dims.k p.unitLen

/-- Batch entry, N panel and M tile of tile n: panels outermost, M tiles innermost (R54). -/
def Prod.tileAt (p : Prod) (n : Nat) : Nat × Nat × Nat :=
  let per := max 1 (p.nt * p.mt)
  (n / per, n % per / max 1 p.mt, n % max 1 p.mt)

/-- Rows and columns of the product inside tile n: first row, count, first column, count. -/
def Prod.span (p : Prod) (n : Nat) : Nat × Nat × Nat × Nat :=
  let (_, j, i) := p.tileAt n
  (i * p.rows, min p.rows (p.dims.m - i * p.rows), j * p.cols, min p.cols (p.dims.n - j * p.cols))

/-- A view position of a batched operand. -/
def Prod.view (p : Prod) (x y b : Nat) : List Nat := if teRank p.a.e = 3 then [x, y, b] else [x, y]

/-- Read the positions lo .. lo + n − 1 of K for rows and columns of a tile. -/
def State.fetchProd (s : State) (t f : Nat) (p : Prod) (b r0 rn c0 cn lo n : Nat) (m : Snap) : State × Snap × Snap :=
  let av := (List.range rn).flatMap (fun r => (List.range n).map (fun k => p.view (lo + k) (r0 + r) b))
  let bv := (List.range n).flatMap (fun k => (List.range cn).map (fun c => p.view (c0 + c) (lo + k) b))
  let (s, ma) := s.fetchViews (.task t) f false p.a av m
  let (s, mb) := s.fetchViews (.task t) f false p.b bv []
  (s, ma, mb)

/-- The term of a row's element and a column's element at position k, and its poison. -/
def macTerm (ta tb : EType) (sa sb : SType) (k : Nat) (a b : Raw) : Term × Bool :=
  (⟨k, (a.codeVal ta).mul (b.codeVal tb), (a.scaleVal sa).mul (b.scaleVal sb)⟩, a.bad || b.bad)

/-- The terms of an output element over a run of K. -/
def Prod.terms (p : Prod) (ma mb : Snap) (b r c lo n : Nat) : List (Term × Bool) :=
  (List.range n).map (fun i =>
    let k := lo + i
    macTerm (teType p.a.e) (teType p.b.e) (teStype p.a.e) (teStype p.b.e) k
      (p.a.raw ma (p.view k r b)) (p.b.raw mb (p.view c k b)))

/-- Whether a K unit holds a tag-1 block in any row or column of the tile (R57). -/
def Prod.escapeUnit (p : Prod) (ma mb : Snap) (b r0 rn c0 cn lo n : Nat) : Bool :=
  (List.range n).any (fun i => let k := lo + i
    (List.range rn).any (fun r => (p.a.raw ma (p.view k (r0 + r) b)).tag) ||
      (List.range cn).any (fun c => (p.b.raw mb (p.view (c0 + c) k b)).tag))

/-! ## K units, tiles and drain -/

/-- The arrays of a cluster. -/
def State.arrays (s : State) (c : Nat) : Arrays := mapGet (fun _ => arrays0) s.ax c

/-- Replace the arrays' state. -/
def State.setArrays (s : State) (c : Nat) (a : Arrays) : State := { s with ax := mapSet (fun _ => arrays0) s.ax c a }

/-- The accumulators that compute. -/
def Arrays.accs (a : Arrays) : SMap ALane := if a.bank then a.acc1 else a.acc0
def Arrays.setAccs (a : Arrays) (m : SMap ALane) : Arrays := if a.bank then { a with acc1 := m } else { a with acc0 := m }

/-- Run one K unit on every lane of the tile; saturations are the descriptor's. -/
def runUnitK (p : Prod) (ma mb : Snap) (b r0 rn c0 cn lo n : Nat) (m : SMap ALane) : SMap ALane × Nat :=
  (List.range rn).foldl (fun (q : SMap ALane × Nat) r => (List.range cn).foldl (fun (q : SMap ALane × Nat) c =>
    let l := mapGet (fun _ => alane0) q.1 (4096 * r + c)
    let ts := p.terms ma mb b (r0 + r) (c0 + c) lo n
    let a := AccSt.terms p.mode p.unit p.dims.k ⟨l.acc, l.part, l.blk, 0⟩ (ts.map (·.1))
    (mapSet (fun _ => alane0) q.1 (4096 * r + c) ⟨a.run, a.blk, a.part, l.p || ts.any (·.2)⟩, q.2 + a.sat)) q) (m, 0)

/-- Run the next K unit of a tile for a descriptor (R52, R54, R57). A twin's escape units are counted in its home cluster,
the lower half, also those of the upper half under K-split (DESIGN CHOICE, log entry 116). -/
def State.kUnit (s : State) (c t : Nat) (k : Task) (p : Prod) : State :=
  let a := s.arrays c
  let (b, _, _) := p.tileAt a.tile
  let (r0, rn, c0, cn) := p.span a.tile
  let lo := a.unit * p.unitLen
  let n := min p.unitLen (p.dims.k - lo)
  let (s, ma, mb) := s.fetchProd t k.field p b r0 rn c0 cn lo n []
  let s := if p.escapeUnit ma mb b r0 rn c0 cn lo n then s.bump .tenPerfEsc c 1 else s
  let (m, sat) := runUnitK p ma mb b r0 rn c0 cn lo n a.accs
  (s.setArrays c { a.setAccs m with unit := a.unit + 1 }).addCnt t ⟨sat, 0⟩

/-- The value of column c that a lane drains (R59); a lens scan's columns of pages not yet sealed are −Inf
(R226). -/
def drainVal (k : Task) (p : Prod) (c : Nat) (l : ALane) : OutVal :=
  if twOpcode k.w = 0x53 ∧ k.len / 64 ≤ c then ⟨.inf true, l.p⟩
  else ⟨if p.mode = .plainI then FV.ofInt l.acc.toInt else f32 l.acc, l.p⟩

/-- Store a run of output elements of row r: dense, overwriting or adding (R59, R133). -/
def State.storeOut (s : State) (t : Nat) (k : Task) (d : Opnd) (v : List Nat) (xs : List OutVal) : State :=
  if twSmode k.w = 2 then s.scatterAdd t d (twRound k.w) (twSeed k.w) v xs
  else if teBound d.e && !d.lastView (v.getD (teIdxDim d.e) 0) then s
  else
    let (o, n) := d.putRun (twRound k.w) (twSeed k.w) 0xFFFF v xs
    (s.landOut (.task t) k.field o).addCnt t n

/-- Convert and write a finished tile. -/
def State.drainTile (s : State) (t : Nat) (k : Task) (p : Prod) (n : Nat) (m : SMap ALane) : State :=
  let (b, _, _) := p.tileAt n
  let (r0, rn, c0, cn) := p.span n
  (List.range rn).foldl (fun s r => s.storeOut t k p.d (p.view c0 (r0 + r) b)
    ((List.range cn).map (fun c => drainVal k p (c0 + c) (mapGet (fun _ => alane0) m (4096 * r + c))))) s

/-- The stream buffers of a descriptor's clusters, as TEN_STREAM_CFG placed them at dispatch, are left unspecified (R58,
R65). -/
def State.buffersUsed (s : State) (k : Task) : State :=
  (if twTwin k.w then [0, 1] else [0]).foldl (fun s i =>
    let cfg := k.strm.getD i 0
    let lo := meadowBase + (twHome k.w + i) * 2 ^ 24 + wb cfg 7 0 * 65536
    let j : Junk := ⟨lo, lo + wb cfg 15 8 * 65536, s.free, []⟩
    { s with mm := { s.mm with junk := mapPut s.mm.junk (twHome k.w + i) j }, free := s.free + 1 }) s

/-- A descriptor that streams A or B from beyond its own window uses the stream buffers of its cluster (R58). -/
def State.streams (s : State) (k : Task) : State :=
  let far := [0, 1].any (fun i => !(k.entryAt i).isEmpty &&
    (match s.range (teRange (k.entryAt i)) with
      | some rg => !ownWindow (twHome k.w) (twTwin k.w) rg
      | none => false))
  if far then s.buffersUsed k else s

/-! ## Audit (R43–R46) -/

/-- One element of a product in the order of the arrays: value and poison. -/
def Prod.elem (p : Prod) (ma mb : Snap) (b r c : Nat) : FV × Bool :=
  let ts := p.terms ma mb b r c 0 p.dims.k
  let a := AccSt.terms p.mode p.unit p.dims.k AccSt.zero (ts.map (·.1))
  (if p.mode = .plainI then FV.ofInt a.run.toInt else f32 a.run, ts.any (·.2))

/-- Row r of an audit source re-quantised to FP8 E4M3 with E8M0 scales (R44), by position along K. -/
def auditRow (o : Opnd) (m : Snap) (k : Nat) (view : Nat → List Nat) : List Raw × Bool :=
  let rs := (List.range k).map (fun i => o.raw m (view i))
  ((chunks 32 k rs).flatMap (fun b =>
    let q := quantBlock .e4m3 .e8m0 none (b.map (fun _ => Rnd.rne)) (b.map (fun r => r.codeVal (teType o.e)))
    (List.range b.length).map (fun j => ⟨q.codes.getD j 0, 0, q.scale, false, false⟩)), rs.any (·.bad))

/-- The activation as the audit takes it: its operand type, its scale type, and its row. -/
structure AuditAct where
  ty : OpTy
  blockTy : OpTy
  st : SType
  elts : List Raw
  bad : Bool
  deriving DecidableEq, Repr

/-- Elements of the activation as stored, as the audit takes them: FP4, INT4 and ternary count as E4M3 (R44). -/
def Prod.auditStored (p : Prod) (l : List Raw) : AuditAct :=
  let t := teType p.a.e
  let wide := t == .fp4 || t == .int4 || t == .tern
  ⟨⟨if wide then .e4m3 else t, teScaled p.a.e⟩, teOp p.a.e, teStype p.a.e, l, false⟩

/-- Row r of batch entry b of the activation for the audit (R44): re-quantised from the source, or as stored. -/
def Prod.auditAct (p : Prod) (src : Option (Opnd × Snap)) (ma : Snap) (b r : Nat) : AuditAct :=
  match src with
  | some (o, m) =>
    let (l, bad) := auditRow o m p.dims.k (fun k => p.view k r b)
    ⟨⟨.e4m3, true⟩, ⟨.e4m3, true⟩, .e8m0, l, bad⟩
  | none => p.auditStored ((List.range p.dims.k).map (fun k => p.a.raw ma (p.view k r b)))

/-- The audit source of a product whose A is gathered: a source without an index of its own is read through A's, row x_i
for row i (R44, R132). -/
def Prod.auditView (p : Prod) (o : Opnd) : Opnd :=
  if teBound p.a.e && !teBound o.e then
    { o with e := o.e.set 0 (wput (wordAt o.e 0) 22 19 (1 + 2 * teIdxDim p.a.e)), ids := p.a.ids }
  else o

/-- Read the rows of the audit source that an audit tile needs; poison there is the audit's alone (R46). -/
def State.auditSource (s : State) (t : Nat) (k : Task) (p : Prod) (b r0 rn : Nat) : State × Option (Opnd × Snap) :=
  if (k.entryAt 4).isEmpty then (s, none)
  else match s.openOpnd t k 4 false with
    | (s, some o) =>
      let o := p.auditView o
      let vs := (List.range rn).flatMap (fun r => (List.range p.dims.k).map (fun i => p.view i (r0 + r) b))
      let (s, m) := s.fetchViews (.task t) k.field true o vs []
      (s, some (o, m))
    | (s, none) => (s, none)

/-- The audit's value of an element in the order of the route: R40 or, through `bankMode`, R41. Its terms come
in slices of `per` positions whose sums are added in ascending order; 0 means one slice. -/
def Prod.auditVal (p : Prod) (x : AuditAct) (mb : Snap) (b c : Nat) (banks : Bool) (per : Nat) : FV :=
  let tb := teType p.b.e
  let direct := x.blockTy == x.ty || x.ty.t != .e4m3
  let terms := (List.range p.dims.k).map (fun k =>
    let r := x.elts.getD k ⟨0, 0, 0, false, false⟩
    let y := p.b.raw mb (p.view c k b)
    (macTerm (if direct then x.ty.t else x.blockTy.t) tb x.st (teStype p.b.e) k r y).1)
  let mode := if banks then bankMode x.ty (teOp p.b.e) else arrayMode x.ty (teOp p.b.e)
  let u := blockUnit x.blockTy (teOp p.b.e)
  let parts := if per = 0 then [terms] else chunks per terms.length terms
  let vals := parts.map (fun ts => (AccSt.terms mode u p.dims.k AccSt.zero ts).run)
  f32 (match vals with
    | [] => 0#32
    | a :: l => l.foldl (fun acc v => fadd acc v) a)

/-- Differences of an audited tile (R45): lists of primary and audit values. -/
def auditDiffs (k : Nat) (ps as : List (BitVec 32)) : Nat :=
  let abs (a : BitVec 32) : BitVec 32 := a &&& 0x7FFFFFFF#32
  let mean := fdiv (treeSum (as.map abs)) (f32OfInt as.length)
  let tol := toF32 (.fin false 1 1 (-(k : Int)))
  ((ps.zip as).filter (fun x =>
    let dev := abs (fsub x.1 x.2)
    let lim := fmul tol (fadd (abs x.2) mean)
    (isNan32 x.1 != isNan32 x.2) || (f32 lim).lt (f32 dev))).length

/-- Rows and columns of audit tile n: batch entry, first row, rows, first column, columns (R43). -/
def auditSpan (d : MatDims) (n : Nat) (banks : Bool) : Nat × Nat × Nat × Nat × Nat :=
  let rb := if banks then max 1 d.m else 16
  let mb := max 1 (cdiv d.m rb)
  let nb := max 1 (cdiv d.n 64)
  let r0 := n % mb * rb
  let c0 := n / mb % nb * 64
  (n / (mb * nb), r0, min rb (d.m - r0), c0, min 64 (d.n - c0))

/-- The audit of a tile whose activations are at hand is compared and counted (R45, R46): `prim` gives the
primary value of an element; poison in the audit source abandons it. -/
def State.auditClose (s : State) (t : Nat) (k : Task) (p : Prod) (banks : Bool) (per : Nat) (mb : Snap) (b r0 c0 rn cn : Nat)
    (acts : List AuditAct) (prim : Nat → Nat → FV) : State :=
  if acts.any (·.bad) then s
  else
    let idx := (List.range rn).flatMap (fun r => (List.range cn).map (fun c => (r, c)))
    let ps := idx.map (fun x => toF32 (prim (r0 + x.1) (c0 + x.2)))
    let as := idx.map (fun x =>
      toF32 (p.auditVal (acts.getD x.1 ⟨⟨.fp32, false⟩, ⟨.fp32, false⟩, .none, [], false⟩) mb b (c0 + x.2) banks per))
    let d := auditDiffs (bits (twAuditTol k.w) 4 0) ps as
    (s.bump .schAuditTiles k.field 1).modTask t (fun k =>
      { k with audited := true, counts := { k.counts with aud := d } })

/-- Run the audit of the selected tile, when one is due and the governor allows audits (R46). -/
def State.auditRun (s : State) (t : Nat) (p : Prod) (banks : Bool) (island per : Nat)
    (prim : Snap → Snap → Nat → Nat → Nat → FV) : State :=
  match s.task t with
  | none => s
  | some k => match k.sel with
    | some (n + 1) =>
      if !bitOf (s.gate island) 5 || k.dead.isSome || k.poison then s
      else
        let (b, r0, rn, c0, cn) := auditSpan p.dims n banks
        let (s, ma, mb) := s.fetchProd t k.field p b r0 rn c0 cn 0 p.dims.k []
        let (s, src) := s.auditSource t k p b r0 rn
        let acts := (List.range rn).map (fun r => p.auditAct src ma b (r0 + r))
        s.auditClose t k p banks per mb b r0 c0 rn cn acts (prim ma mb b)
    | _ => s

/-- The audit on the arrays (R61). -/
def State.auditArrays (s : State) (t : Nat) (k : Task) (p : Prod) : State :=
  s.auditRun t p false (twHome k.w) 0 (fun ma mb b r c => (p.elem ma mb b r c).1)

/-- Whether an audit is still due after the last tile. -/
def State.auditDue (s : State) (k : Task) : Bool :=
  !k.audited && bitOf (s.gate (twHome k.w)) 5 && !k.poison && k.dead.isNone && (match k.sel with
    | some (_ + 1) => true
    | _ => false)

/-! ## Commands -/

/-- The product that runs on the arrays of a cluster. -/
def State.arrayTask (s : State) (c : Nat) : Option (Nat × Task) :=
  match s.holder c .arrays with
  | some (t, k) => if k.phase == Phase.running && isMatrix (twOpcode k.w) then some (t, k) else none
  | none => none

/-- K_UNIT_START (R54, R328): the arrays start the next K unit of their tile in an ac that gating allows; a
product without elements reports at once (R126). -/
def State.kUnitStart (s : State) (c ac : Nat) : State :=
  match s.arrayTask c with
  | none => s
  | some (t, k) =>
    if !s.mayIssue c k ac || (k.issued && decide ((s.arrays c).task ≠ some t)) then s
    else
      let (s, o) := s.openProd t k (!k.issued)
      match o with
      | none => (s.modTask t (fun k => { k with issued := true })).sendDone t
      | some p =>
        if k.empty || p.tiles = 0 then (if k.issued then s else (s.modTask t (fun k => { k with issued := true })).sendDone t)
        else
          let s := if k.issued then s
            else ((s.streams k).modTask t (fun k => { k with issued := true })).setArrays c { arrays0 with task := some t }
          let a := s.arrays c
          if p.tiles ≤ a.tile || p.units ≤ a.unit then s
          else
            let s := s.kUnit c t k p
            s.setArrays c { s.arrays c with units := ac }

def execKUnitStart (c : Cl) (ac : BitVec 4) (s : State) : Host.Outcome State Fault Refusal :=
  .next (s.awaitBoundary (fun s => s.kUnitStart c.val ac.toNat))

/-- TILE_COMPLETE (R59): after a tile's last K unit the accumulator banks swap and the drain starts, once it is
free. -/
def State.tileDone (s : State) (c : Nat) : State :=
  match s.arrayTask c with
  | none => s
  | some (t, k) =>
    let a := s.arrays c
    if a.task ≠ some t ∨ a.drain.isSome then s
    else match s.openProd t k false with
      | (s, none) => s
      | (s, some p) =>
        if p.tiles ≤ a.tile || a.unit < p.units then s
        else
          let b : Arrays := { a with drain := some a.tile, tile := a.tile + 1, unit := 0, bank := !a.bank }
          s.setArrays c (b.setAccs [])

def execTileComplete (c : Cl) (s : State) : Host.Outcome State Fault Refusal :=
  .next (s.awaitBoundary (fun s => s.tileDone c.val))

/-- DRAIN_COMPLETE (R59): the tile is written and its accumulator bank is free; after the last tile the work is
done, or the audit follows (R61). -/
def State.drainDone (s : State) (c : Nat) : State :=
  match s.arrayTask c with
  | none => s
  | some (t, k) =>
    let a := s.arrays c
    match a.drain with
    | none => s
    | some n =>
      if a.task ≠ some t then s
      else match s.openProd t k false with
        | (s, none) => s.sendDone t
        | (s, some p) =>
          let s := s.drainTile t k p n (if a.bank then a.acc0 else a.acc1)
          let s := s.setArrays c { a with drain := none, acc0 := if a.bank then [] else a.acc0,
                                          acc1 := if a.bank then a.acc1 else [] }
          let s := s.modTask t (fun k => { k with round := n + 1 })
          match s.task t with
          | some k => if n + 1 < p.tiles || s.auditDue k then s else s.sendDone t
          | none => s

def execDrainComplete (c : Cl) (s : State) : Host.Outcome State Fault Refusal :=
  .next (s.awaitBoundary (fun s => s.drainDone c.val))

/-- Whether a descriptor's last tile is drained and the audit that was due then is not yet done (R61). -/
def Task.auditWaits (k : Task) : Bool :=
  k.phase == Phase.running && !k.route && isMatrix (twOpcode k.w) && k.issued && k.units != 0 && !k.audited && (match k.sel with
    | some (_ + 1) => true
    | _ => false)

/-- AUDIT_TILE (R61): after the last cluster tile the selected tile is recomputed and compared; where the governor has cut
audits by then it is skipped, and the audit count is 0 (R46). -/
def State.auditTileCmd (s : State) (t : Nat) : State :=
  match s.task t with
  | none => s
  | some k =>
    if !k.auditWaits || s.flight.any (fun x => match x.m with
      | .unitDone u _ _ => decide (u = t)
      | _ => false) then s
    else match s.openProd t k false with
      | (s, none) => s
      | (s, some p) =>
        if k.round < p.tiles then s else (s.auditArrays t k p).sendDone t

def execAuditTile (t : Nat) (s : State) : Host.Outcome State Fault Refusal :=
  .next (s.awaitBoundary (fun s => s.auditTileCmd t))

/-! ## A whole product on the arrays -/

/-- One cluster tile: every K unit, then the drain. -/
def State.wholeTile (s : State) (t : Nat) (k : Task) (p : Prod) (n : Nat) : State :=
  let c := twHome k.w
  let (b, _, _) := p.tileAt n
  let (r0, rn, c0, cn) := p.span n
  let (s, m) := (List.range p.units).foldl (fun (q : State × SMap ALane) u =>
    let lo := u * p.unitLen
    let len := min p.unitLen (p.dims.k - lo)
    let (s, ma, mb) := q.1.fetchProd t k.field p b r0 rn c0 cn lo len []
    let s := if p.escapeUnit ma mb b r0 rn c0 cn lo len then s.bump .tenPerfEsc c 1 else s
    let (m, sat) := runUnitK p ma mb b r0 rn c0 cn lo len q.2
    (s.addCnt t ⟨sat, 0⟩, m)) (s, [])
  s.drainTile t k p n m

/-- A product on the arrays from its first tile to its audit (R54, R59–R61). -/
def State.productRun (s : State) (t : Nat) (k : Task) : State :=
  match s.openProd t k true with
  | (s, none) => s
  | (s, some p) =>
    if k.empty || p.tiles = 0 then s
    else
      let s := (List.range p.tiles).foldl (fun s n => s.wholeTile t k p n) (s.streams k)
      s.auditArrays t k p

end Sys2Proof.Machine
end

