-- ==== Sys2Proof/Machine/KvOps.lean ====
section
/-! DEFINITION. The KV service's commands: stream records, formats and pools (R201, R207, R215, R364), the KV
descriptors and their engines (R202–R213), advances, and the length query of attention steps (R218). -/
namespace Sys2Proof.Machine

/-! ## Stream records (R201, R364) -/

/-- A write of KVS_SREC_CTL while no request is in progress: an open crosses to the kv_field of the staged record, a close
to every field. -/
def State.srecCtl (s : State) (x op : Nat) : State :=
  if s.flag .kvsSrecStat 0 1 then s
  else
    let s := s.setBit .kvsSrecStat 0 0 false
    let go (s : State) (q : Fwd) (fs : List Nat) : State :=
      fs.foldl (fun s f => s.send 48 (48 + f) (.forwardedRequest ⟨Fin.ofNat 4 f, q⟩))
        { s.setBit .kvsSrecStat 0 1 true with kv := { s.kv with fwd := some q } }
    match op with
    | 1 =>
      let w := (List.range 3).map (fun i => s.reg .kvsSrecStage 0 i)
      go s (.recOpen x w) [reField w]
    | 2 => go s (.recClose x) [0, 1, 2, 3]
    | _ => s

def execStreamRecordOpen (stream : BitVec 16) (s : State) : Host.Outcome State Fault Refusal :=
  .next (s.srecCtl stream.toNat 1)

def execStreamRecordClose (stream : BitVec 16) (s : State) : Host.Outcome State Fault Refusal :=
  .next (s.srecCtl stream.toNat 2)

/-- The record that an open writes: of the staged words only kv_field, partition, tracked, pt_range, pt_off and
pt_cap are taken. -/
def freshRec (w : List Word) : List Word :=
  [BitVec.ofNat 64 (2 ^ 42 + reField w * 2 ^ 43 + rePart w * 2 ^ 45 + b2n (reTracked w) * 2 ^ 49),
   BitVec.ofNat 64 (rePtRange w + rePtOff w * 2 ^ 16), BitVec.ofNat 64 (reCap w), 0]

/-- Whether the page table of a record lies in a range granted to its partition for writing. -/
def State.ptInRange (s : State) (r : List Word) : Bool :=
  match s.range (rePtRange r) with
  | some rg => rgWr rg (rePart r) && decide (rePtOff r + 8 * reCap r ≤ rgLen rg)
  | none => false

/-- Open a record at field f: the reason. A poisoned record counts as not open. -/
def State.recOpen (s : State) (f x : Nat) (w : List Word) : State × BitVec 3 :=
  let (s, old, bad) := s.recGet (.service (Fin.ofNat 4 f)) f x
  if !bad && reOpen old then (s, 1)
  else if reCap w = 0 ∨ 16384 < reCap w then (s, 4)
  else if (s.recAddr f x).isNone || !s.ptInRange w then (s, 3)
  else if !(s.kvFmt f (rePart w)).ok then (s, 6)
  else
    let s := s.recPut f x (freshRec w)
    let s := { s with kv := { s.kv with opens := mapPut s.kv.opens x (rePart w) } }
    (s.mirrorOut (rePart w) f (.recOpen (BitVec.ofNat 16 x) (wordAt w 0) (wordAt w 1) (wordAt w 2)), 0)

/-- Return the frame of page i and zero its entry; the number of frames returned. -/
def State.dropPage (s : State) (iss : Issuer) (f x : Nat) (r : List Word) (i : Nat) : State × Nat :=
  let (s, e, bad) := s.pteGet iss f x r i
  if bad || !ptValid e then (s, 0)
  else ((s.returnFrame iss f (2 * rePart r + ptLoc e) (ptFrame e)).ptePut iss f x r i 0, 1)

/-- Return the frames of pages lo to hi − 1. -/
def State.dropPages (s : State) (iss : Issuer) (f x : Nat) (r : List Word) (lo hi : Nat) : State × Nat :=
  (List.range (hi - lo)).foldl (fun (p : State × Nat) i =>
    let (s, n) := p.1.dropPage iss f x r (lo + i)
    (s, p.2 + n)) (s, 0)

/-- Close a record at the field f that holds it open: the reason; 2 where the field does not. The record goes back to
memory (R182). -/
def State.recClose (s : State) (f x : Nat) : State × BitVec 3 :=
  let (s, r, bad) := s.recGet (.service (Fin.ofNat 4 f)) f x
  if bad || !reOpen r || decide (reField r ≠ f) then (s, 2)
  else if reInflight r || reMoving r || decide (reReaders r ≠ 0) then (s, 5)
  else
    let (s, _) := s.dropPages (.service (Fin.ofNat 4 f)) f x r 0 (reCap r)
    let r := reSet (reSet r 0 42 42 0) 2 50 36 0
    let s := (s.recDrop f x r).labDrop f x
    let s := { s with kv := { s.kv with opens := mapDel s.kv.opens x } }
    (s.mirrorOut (rePart r) f (.recClose (BitVec.ofNat 16 x)), 0)

/-- Whether an answer to a close is still to come from another field: its copy of the request or its result is on its
way. -/
def State.closeLeft (s : State) (x : Nat) : Bool :=
  s.flight.any (fun m => match m.m with
    | .forwardedRequest ⟨_, q⟩ => q == .recClose x
    | .forwardedResult ⟨false, _⟩ => true
    | _ => false)

/-- A request on a stream record takes effect at field f, and its result crosses back. A close is dropped by a field that
does not hold the record open; the last one to drop it answers not-open (R364; log entry 113). -/
def State.kvForwarded (s : State) (f : Nat) (q : Fwd) : State :=
  match q with
  | .recOpen x w =>
    let (s, r) := s.recOpen f x w
    s.send (48 + f) 48 (.forwardedResult ⟨false, r⟩)
  | .recClose x =>
    let (s, r) := s.recClose f x
    if r = 2 && (decide (s.kv.fwd ≠ some q) || s.closeLeft x) then s else s.send (48 + f) 48 (.forwardedResult ⟨false, r⟩)
  | _ => s

/-- The result of a request in progress reaches F0. -/
def State.kvResult (s : State) (r : BitVec 3) : State :=
  match s.kv.fwd with
  | none => s
  | some _ => ({ s with kv := { s.kv with fwd := none } }).setFld .kvsSrecStat 0 4 0 (1 + 4 * r.toNat)

/-! ## Formats and pools (R207, R215) -/

/-- Set a partition's format, refused while a stream of it is open; every field gets a copy (R364). -/
def State.setFmt (s : State) (p : Nat) (v : Word) : State :=
  if s.kv.opens.any (fun o => decide (o.2 = p)) then s.setBit .kvsSrecStat 0 5 true
  else
    let w := BitVec.ofNat 64 (wb v 32 0)
    (s.writeCfg .fmt p w).mirrorOut p 0 (.kvFmt (Fin.ofNat 16 p) w)

/-- KV_FORMAT_WRITE (R215). -/
def execKvFormatWrite (v : Word) (s : State) : Host.Outcome State Fault Refusal :=
  .next (s.setFmt (s.fld .kvsFmtSel 0 3 0) v)

/-- A write of KVS_POOL_CFG or KVS_POOL_LIST for the selected pool. -/
def State.poolWrite (s : State) (f : Nat) (list : Bool) (v : Word) : State :=
  let p := s.fld .kvsPoolSel f 4 0
  let o := s.pool f p
  if o.held ≠ 0 then s.setBit .kvsPoolStat f 0 true
  else s.setPool f p (if list then { o with list := v } else { o with cfg := BitVec.ofNat 64 (wb v 55 0) })

/-- POOL_CONFIG_WRITE (R207). -/
def execPoolConfigWrite (f : Fd) (list : Bool) (v : Word) (s : State) : Host.Outcome State Fault Refusal :=
  .next (s.poolWrite f.val list v)

/-- A write of KVS_POOL_FREE: the free list holds that many frames; with no frame held it starts at entry 0
(DEDUCED, log entry 27). -/
def State.poolFree (s : State) (f : Nat) (v : Word) : State :=
  let p := s.fld .kvsPoolSel f 4 0
  let o := s.pool f p
  s.setPool f p { o with free := wb v 23 0, head := if o.held = 0 then 0 else o.head }

/-! ## Descriptors at their stream (R202) -/

/-- A descriptor's attempt fails with a status whose detail is its opcode (R202). -/
def State.kvFail (s : State) (t st : Nat) : State := s.modTask t (fun k => k.fail st (twOpcode k.w))

/-- The record of a descriptor's stream: it must be open, of the descriptor's field, and not moving; a poisoned
record is consumed (R202, R210, R213). -/
def State.kvOpen (s : State) (t : Nat) (k : Task) (x : Nat) : State × Option (List Word) :=
  let (s, r, bad) := s.recGet (.task t) k.field x
  if bad then (s.consume t, none)
  else if !reOpen r || decide (reField r ≠ k.field) || (reMoving r && !k.claims) then (s.kvFail t 0x50, none)
  else (s, some r)

/-- Whether a descriptor's operands break the format of its stream's partition, where that is not its context's
own (R202). -/
def State.kvUnfit (s : State) (k : Task) (r : List Word) : Bool :=
  let p := rePart r
  decide (p ≠ s.partOf k.ctx) && kvBad k.idxCounts k.w (s.kvFmt k.field p) k.entries

/-- Whether an attempt has failed or consumed poison. -/
def State.stopped (s : State) (t : Nat) : Bool :=
  match s.task t with
  | some k => k.dead.isSome || k.poison
  | none => true

/-- The page-table entries of pages lo to lo + n − 1 below the capacity, for a descriptor; a poisoned group is
consumed. -/
def State.pteList (s : State) (t f x : Nat) (r : List Word) (lo n : Nat) : State × List (Nat × Word) :=
  (List.range n).foldl (fun (p : State × List (Nat × Word)) j =>
    let i := lo + j
    if reCap r ≤ i then p
    else
      let (s, e, bad) := p.1.pteGet (.task t) f x r i
      if bad then (s.consume t, p.2) else (s, p.2 ++ [(i, e)])) (s, [])

/-! ## Engines (R203) -/

/-- Take an engine for a descriptor: true where it has it, false where it waits for the one that runs another. -/
def State.kvEngTake (s : State) (t j : Nat) : State × Bool :=
  let e := s.kvEng j
  if e.run.isSome ∧ e.run ≠ some t then (s.setKvEng j ⟨e.run, if e.wait.contains t then e.wait else e.wait ++ [t]⟩, false)
  else (s.setKvEng j ⟨some t, e.wait.filter (· ≠ t)⟩, true)

/-- Run a KV descriptor on its engine: it waits where the engine runs another, and runs at once where the engine
is free or already its own. -/
def State.onKvEng (s : State) (t op : Nat) (mig : Bool) (f : State → Task → State) : State :=
  match s.task t with
  | none => s
  | some k =>
    if k.phase ≠ .running ∨ k.issued ∨ twOpcode k.w ≠ op then s
    else match s.kvEngTake t (2 * k.field + b2n mig) with
      | (s, false) => s
      | (s, true) => s.runUnit t op f

/-! ## Transfers in pieces (R203) -/

/-- Elements of a row that one piece of a transfer moves, so that no piece exceeds 1 KiB (log entry 69). -/
def pieceLen : Nat := 512

/-- A piece of a transfer of rows: position, layer, key (false) or value plane, and first element. -/
structure RowPiece where
  pos : Nat
  layer : Nat
  isVal : Bool
  lo : Nat
  deriving DecidableEq, Repr

/-- The pieces of a descriptor that moves rows, position by position and layer by layer. -/
def rowPieces (k : KvFmt) (count nlayer : Nat) : List RowPiece :=
  (List.range count).flatMap (fun i => (List.range nlayer).flatMap (fun l =>
    [(false, k.dk), (true, k.dv)].flatMap (fun (v : Bool × Nat) =>
      (List.range (cdiv v.2 pieceLen)).map (fun c => ⟨i, l, v.1, pieceLen * c⟩))))

/-- Run at most `most` pieces of a transfer from where it stands, and keep the place: round is 1 more than the pieces done.
A descriptor that has failed or consumed poison runs no more. -/
def State.runPieces {α : Type} (s : State) (t : Nat) (ps : List α) (most : Nat) (f : State → α → State) : State :=
  match s.task t with
  | none => s
  | some k =>
    let go := (ps.drop (k.round - 1)).take most
    (go.foldl (fun s p => if s.stopped t then s else f s p) s).modTask t (fun k => { k with round := k.round + go.length })

/-! ## KAPPEND (R205, R207) -/

/-- The bytes of elements lo on of a row of a page whose frame lies at `place`: codes, then one scale for every 32 elements
of a scaled format. -/
def rowOut (place : Nat → Nat) (k : KvFmt) (layer : Nat) (isVal : Bool) (j lo : Nat) (xs : List Raw) : Out :=
  let item (o n v : Nat) (bad : Bool) : Out :=
    let as := (List.range n).map (fun i => place (o + i))
    if bad then ⟨[], as⟩ else ⟨itemWrites 0 (8 * n) v 0 as, []⟩
  (List.range xs.length).foldl (fun (a : Out) i =>
    let d := lo + i
    let x := xs.getD i ⟨0, 0, 0, false, false⟩
    let a := a.app (item (k.rowOff layer isVal j + d * k.eb) k.eb x.code x.bad)
    if k.scaled ∧ d % 32 = 0 then a.app (item (k.scaleOff layer isVal j + d / 32) 1 x.scale x.bad) else a) Out.nil

/-- Elements lo to lo + n − 1 of the row of an operand [row, count, layers] at a position and layer. -/
def State.fetchRow (s : State) (t f : Nat) (o : Opnd) (lo n i l : Nat) : State × List Raw :=
  let vs := (List.range n).map (fun d => [lo + d, i, l])
  let (s, m) := s.fetchViews (.task t) f false o vs []
  (s, vs.map (o.raw m))

/-- The entry of a page that a KAPPEND writes; a page without one takes a frame from the stack pool. None where
the append stops. -/
def State.appendEntry (s : State) (t f x i : Nat) (r : List Word) : State × Option Word :=
  let (s, e, bad) := s.pteGet (.task t) f x r i
  if bad then (s.consume t, none)
  else if ptValid e then (s, some e)
  else match s.takeFrame (.task t) f (2 * rePart r) with
    | (s, some n, _) =>
      let e := ptEntry 0 false n
      let s := s.ptePut (.task t) f x r i e
      let (s, r, _) := s.recGet (.task t) f x
      (s.recPut f x (reSet r 2 50 36 (rePages r + 1)), some e)
    | (s, none, true) => (s.consume t, none)
    | (s, none, false) => if s.stopped t then (s, none) else ((s.bump .kvsPerfNoframe f 1).kvFail t 0x51, none)

/-- Write one piece of the rows of a KAPPEND; a pool range that is gone ends it (R265). -/
def State.appendPiece (s : State) (t : Nat) (k : Task) (r : List Word) (ops : List (Nat × Opnd)) (p : RowPiece) : State :=
  let f := k.field
  let fm := s.kvFmt f (rePart r)
  let q := k.pos + p.pos
  match opndAt ops (if p.isVal then 1 else 0) with
  | none => s
  | some o => match s.appendEntry t f (kvStream k.w) (q / 64) r with
    | (s, none) => s
    | (s, some e) => match s.framePlace f (rePart r) e with
      | none => s.badRange t f
      | some place =>
        let n := min pieceLen ((if p.isVal then fm.dv else fm.dk) - p.lo)
        let (s, xs) := s.fetchRow t f o p.lo n p.pos p.layer
        if s.stopped t then s
        else s.landOut (.task t) f (rowOut place fm (kvLayer k.w + p.layer) p.isVal (q % 64) p.lo xs)

/-- Whether a KAPPEND at a position is refused with stream-state, page locations apart. -/
def State.appendRefused (s : State) (k : Task) (r : List Word) (pos : Nat) : Bool :=
  decide (pos < reCommitted r ∨ reTentative r < pos) || (reInflight r && !k.claims) || reMoving r ||
    (kvCommit k.w && reTracked r && decide (wb (mapGet (fun _ => trk0) s.sv.trk (kvStream k.w)).w0 3 0 ≠ 2))

/-- The checks of a KAPPEND on the append engine, which set inflight (R205); round tells that the transfer stands. -/
def State.kappendStart (s : State) (t : Nat) (k : Task) (r : List Word) : State :=
  let x := kvStream k.w
  let f := k.field
  let pos := if kvPos k.w = 0x1FFFFF then reCommitted r else kvPos k.w
  let n := kvCount k.w
  let lo := pos / 64
  if s.kvUnfit k r then s.modTask t (fun k => k.fail 0x30 0)
  else if s.appendRefused k r pos then s.kvFail t 0x50
  else
    let (s, es) := s.pteList t f x r lo ((pos + n - 1) / 64 + 1 - lo)
    if s.stopped t then s
    else if es.any (fun e => ptValid e.2 && decide (ptLoc e.2 = 1)) then s.kvFail t 0x50
    else if maxPos < pos + n ∨ 64 * reCap r < pos + n then s.kvFail t 0x51
    else
      (s.recPut f x (reSet (reSet r 0 50 50 1) 2 35 15 pos)).modTask t (fun k => { k with pos := pos, answer := some true, round := 1 })

/-- KAPPEND on the append engine, at most `most` pieces of it. -/
def State.kappendRun (s : State) (t : Nat) (k : Task) (most : Nat) : State :=
  if kvCount k.w = 0 then (s.kvOpen t k (kvStream k.w)).1
  else match s.kvOpen t k (kvStream k.w) with
    | (s, none) => s
    | (s, some r) =>
      let first := decide (k.round = 0)
      let s := if first then s.kappendStart t k r else s
      match s.task t with
      | none => s
      | some k =>
        if s.stopped t then s
        else
          let (s, ops, gone) := s.openMany t k [0, 1] first
          if gone then s
          else s.runPieces t (rowPieces (s.kvFmt k.field (rePart r)) (kvCount k.w) (kvNlayer k.w)) most
            (fun s p => s.appendPiece t k r ops p)

/-- Every piece of a transfer. -/
def allPieces : Nat := 2 ^ 64

def execKappend (t : Nat) (s : State) : Host.Outcome State Fault Refusal :=
  .next (s.onKvEng t 0x40 false (fun s k => s.kappendRun t k allPieces))

/-! ## KADVANCE, KFREE (R205, R208) -/

/-- KADVANCE: its checks; the length moves at its commit. -/
def State.kadvanceRun (s : State) (t : Nat) (k : Task) : State :=
  match s.kvOpen t k (kvStream k.w) with
  | (s, none) => s
  | (s, some r) => if kvPos k.w < reCommitted r || reTracked r then s.kvFail t 0x50 else s

def execKadvance (t : Nat) (s : State) : Host.Outcome State Fault Refusal :=
  .next (s.onKvEng t 0x41 false (fun s k => s.kadvanceRun t k))

/-- Whether a stream is in use by a reader, an append or a migration. -/
def reBusy (r : List Word) : Bool := reInflight r || reMoving r || decide (reReaders r ≠ 0)

/-- KFREE (R208). -/
def State.kfreeRun (s : State) (t : Nat) (k : Task) : State :=
  let x := kvStream k.w
  let f := k.field
  match s.kvOpen t k x with
  | (s, none) => s
  | (s, some r) =>
    let p := kvPage k.w
    if reBusy r then s.kvFail t 0x50
    else if reCap r ≤ p then s
    else
      let (s, _) := s.pteList t f x r p (reCap r - p)
      if s.stopped t then s
      else
        let (s, n) := s.dropPages (.task t) f x r p (reCap r)
        let c := min (reCommitted r) (64 * p)
        let r := reSet (reSet r 0 41 21 (min (reTentative r) (64 * p))) 2 50 36 (rePages r - n)
        s.setCommitted f x r c

def execKfree (t : Nat) (s : State) : Host.Outcome State Fault Refusal :=
  .next (s.onKvEng t 0x42 false (fun s k => s.kfreeRun t k))

/-! ## Reading pages (R202, R204, R209, R210) -/

/-- Register a descriptor as a reader; none where the count would pass 65,535, so that it waits (R209). -/
def State.register (s : State) (t f x : Nat) (r : List Word) : Option State :=
  if reReaders r = 65535 then none
  else some ((s.recPut f x (reSet r 3 47 32 (reReaders r + 1))).modTask t (fun k => { k with reader := true }))

/-- Elements lo to lo + n − 1 of a row of a page, of its key or value plane, with their scales and poison; a pool range
that is gone ends the descriptor (R265). -/
def State.readRow (s : State) (t f p : Nat) (e : Word) (k : KvFmt) (layer : Nat) (isVal : Bool) (j lo n : Nat) (m : Snap) :
    State × List Raw × Snap :=
  match s.framePlace f p e with
  | none => (s.badRange t f, List.replicate n ⟨0, 0, scaleOne .e8m0, false, false⟩, m)
  | some place =>
    let code (i : Nat) : List Nat := (List.range k.eb).map (fun b => place (k.rowOff layer isVal j + (lo + i) * k.eb + b))
    let sc (i : Nat) : Nat := place (k.scaleOff layer isVal j + (lo + i) / 32)
    let as := (List.range n).flatMap (fun i => code i ++ (if k.scaled then [sc i] else []))
    let (s, m) := s.fetchBytes (.task t) f false as m
    (s, (List.range n).map (fun i =>
      let (c, b0) := snapItem m (code i) 0 (8 * k.eb)
      let (v, b1) := if k.scaled then snapItem m [sc i] 0 8 else (scaleOne .e8m0, false)
      ⟨c, 0, v, false, b0 || b1⟩), m)

/-- Draw the free elements of a row that the walker does not return (R204; log entry 28). -/
def State.freeRow (s : State) (k : KvFmt) (n : Nat) : State × List Raw :=
  (List.range n).foldl (fun (p : State × List Raw) _ =>
    let (s, w) := p.1.draw
    (s, p.2 ++ [⟨w.toNat % 2 ^ (8 * k.eb), 0, if k.scaled then w.toNat / 2 ^ 32 % 256 else scaleOne .e8m0, false, false⟩]))
    (s, [])

/-- Store raw elements from [lo, i, l] on of D or C. -/
def State.storeRow3 (s : State) (t f : Nat) (o : Opnd) (i l lo : Nat) (xs : List Raw) : State :=
  let a := (List.range xs.length).foldl (fun (a : Out) d => match o.loc false [lo + d, i, l] with
    | .hit c bad =>
      let x := xs.getD d ⟨0, 0, 0, false, false⟩
      a.app (o.putRaw c { x with bad := x.bad || bad })
    | _ => a) Out.nil
  s.landOut (.task t) f a

/-- Copy one piece of a KREAD: a position at or past the committed length sampled at its dispatch gives free elements
(R204, log entry 28). -/
def State.kreadPiece (s : State) (t : Nat) (k : Task) (r : List Word) (ops : List (Nat × Opnd)) (es : List (Nat × Word))
    (p : RowPiece) : State :=
  let f := k.field
  let fm := s.kvFmt f (rePart r)
  let q := kvPos k.w + p.pos
  match opndAt ops (if p.isVal then 2 else 3) with
  | none => s
  | some o =>
    let n := min pieceLen ((if p.isVal then fm.dv else fm.dk) - p.lo)
    let e := ((es.find? (fun e => e.1 = q / 64)).map (·.2)).getD 0
    if q < k.len then
      let (s, xs, _) := s.readRow t f (rePart r) e fm (kvLayer k.w + p.layer) p.isVal (q % 64) p.lo n []
      if s.stopped t then s else s.storeRow3 t f o p.pos p.layer p.lo xs
    else
      let (s, xs) := s.freeRow fm n
      s.storeRow3 t f o p.pos p.layer p.lo xs

/-- KREAD, at most `most` pieces of it (R202, R210). -/
def State.kreadRun (s : State) (t : Nat) (k : Task) (r : List Word) (most : Nat) : State :=
  let n := kvCount k.w
  let pos := kvPos k.w
  let first := decide (k.round = 0)
  if n = 0 then s
  else if first && s.kvUnfit k r then s.modTask t (fun k => k.fail 0x30 0)
  else
    let c := if first then reCommitted r else k.len
    let hi := min (pos + n) c
    let pages := if hi ≤ pos then 0 else (hi - 1) / 64 + 1 - pos / 64
    let (s, es) := s.pteList t k.field (kvStream k.w) r (pos / 64) pages
    if s.stopped t then s
    else if es.length < pages || es.any (fun e => !ptValid e.2) then s.kvFail t 0x50
    else
      let k := { k with len := c, round := if first then 1 else k.round }
      let (s, ops, gone) := (s.modTask t (fun v => { v with len := k.len, round := k.round })).openMany t k [2, 3] first
      if gone then s
      else s.runPieces t (rowPieces (s.kvFmt k.field (rePart r)) n (kvNlayer k.w)) most (fun s p => s.kreadPiece t k r ops es p)

/-- Open a reading descriptor's stream and register it, unless it still is one, then go on with its work: none while the
count of readers is full (R209). -/
def State.joined (s : State) (t : Nat) (k : Task) (f : State → List Word → State) : Option State :=
  match s.kvOpen t k (kvStream k.w) with
  | (s, none) => some s
  | (s, some r) =>
    if k.reader then some (f s r) else (s.register t k.field (kvStream k.w) r).map (fun s => f s r)

/-- The work of a reading descriptor that has been issued; it waits, not yet issued, while the count of readers is full. -/
def State.asReader (s : State) (t : Nat) (f : State → Task → List Word → State) : State :=
  match s.task t with
  | none => s
  | some k => match (s.modTask t (fun k => { k with issued := true })).joined t k (fun s r => f s k r) with
    | some s => s.sendDone t
    | none => s

/-- KREAD on the append engine: it waits for the engine, then for a reader's place. -/
def State.kreadCmd (s : State) (t : Nat) : State :=
  match s.task t with
  | none => s
  | some k =>
    if k.phase ≠ .running ∨ k.issued ∨ twOpcode k.w ≠ 0x43 then s
    else match s.kvEngTake t (2 * k.field) with
      | (s, false) => s
      | (s, true) => s.asReader t (fun s k r => s.kreadRun t k r allPieces)

def execKread (t : Nat) (s : State) : Host.Outcome State Fault Refusal := .next (s.awaitBoundary (fun s => s.kreadCmd t))

/-! ## KBUCKET (R212) -/

/-- Bound j of the length buckets of a field. -/
def State.bucketBound (s : State) (f j : Nat) : Nat :=
  wb (s.reg .kvsBucket f (j / 4)) (16 * (j % 4) + 15) (16 * (j % 4))

/-- The bucket of a page count. -/
def State.bucketOf (s : State) (f n : Nat) : Nat :=
  ((List.range 16).find? (fun j => decide (n ≤ s.bucketBound f j))).getD 15

/-- Sort one index of A: its bucket, or none where it is skipped; a poisoned record is consumed. -/
def State.bucketIdx (s : State) (t f : Nat) (v : Int) : State × Option (Nat × Nat) :=
  if v < 0 ∨ 65536 ≤ v then (s, none)
  else
    let (s, r, bad) := s.recGet (.task t) f v.toNat
    if bad then (s.consume t, none)
    else if !reOpen r || decide (reField r ≠ f) then (s, none)
    else (s, some (s.bucketOf f ((reCommitted r + 63) / 64), v.toNat))

/-- KBUCKET on the append engine. -/
def State.kbucketRun (s : State) (t : Nat) (k : Task) : State :=
  let f := k.field
  let ea := k.entryAt 0
  match s.sampleCount t f ea with
  | (s, none) => s
  | (s, some (n, out, bad)) =>
    let s := s.modTask t (fun k => { k with counts := { k.counts with irange := k.counts.irange + out } })
    if bad then s.consume t
    else match s.range (teRange ea), s.range (teRange (k.entryAt 3)) with
      | some ra, some rd =>
        let w := (teType ea).width / 8
        let place (i b : Nat) : Nat := rgAddr ra (teBase ea + 64 + w * i + b)
        let as := (List.range n).flatMap (fun i => (List.range w).map (place i))
        let (s, m) := s.fetchBytes (.task t) f false as []
        let idx := (List.range n).map (fun i => sext (8 * w) (snapItem m ((List.range w).map (place i)) 0 (8 * w)).1)
        let (s, l) := idx.foldl (fun (p : State × List (Nat × Nat)) v => match p.1.bucketIdx t f v with
          | (s, some b) => (s, p.2 ++ [b])
          | (s, none) => (s.modTask t (fun k => { k with counts := { k.counts with irange := k.counts.irange + 1 } }), p.2))
          (s, [])
        let size := 64 + 64 * cdiv (4 * teSize ea 0) 64
        let bucket (j : Nat) : List Byte :=
          let xs := (l.filter (fun b => decide (b.1 = j))).map (·.2)
          leBytes 8 xs.length ++ leBytes 8 (s.bucketBound f j % 32768) ++ List.replicate 48 0#8 ++ xs.flatMap (leBytes 4)
        let ws := (List.range 16).flatMap (fun j =>
          let bs := bucket j
          (List.range bs.length).map (fun i =>
            (⟨rgAddr rd (teBase (k.entryAt 3) + j * size + i), bs.getD i 0, 0xFF#8⟩ : ByteW)))
        s.landOut (.task t) f ⟨ws, []⟩
      | _, _ => s.badRange t f

def execKbucket (t : Nat) (s : State) : Host.Outcome State Fault Refusal :=
  .next (s.onKvEng t 0x44 false (fun s k => s.kbucketRun t k))

/-! ## KMIGRATE (R213) -/

/-- Copy n bytes from offset o of one frame to another; poison goes with its granules and is not consumed. -/
def State.copyPiece (s : State) (t f p : Nat) (e d : Word) (o n : Nat) : State :=
  match s.framePlace f p e, s.framePlace f p d with
  | some pe, some pd =>
    let src := (List.range n).map (fun i => pe (o + i))
    let dst := (List.range n).map (fun i => pd (o + i))
    let dead := uniq (src.filterMap (fun a => s.noAnswer a))
    if !dead.isEmpty then dead.foldl (fun s d => s.noAnswerTask t d) s
    else
      let (s, b, bad) := (s.chargeFor (.task t) (uniq (src.map pairBase))).peekBytes src
      let ws := (List.range n).map (fun i => (⟨dst.getD i 0, b.getD i 0, 0xFF#8⟩ : ByteW))
      s.landOut (.task t) f ⟨ws, bad.map (fun i => dst.getD i 0)⟩
  | _, _ => s.badRange t f

/-- The frame into which a page moves: the one that was taken for it, or one that is taken now. -/
def State.moveFrame (s : State) (t f p : Nat) : State × Option Nat :=
  match (s.task t).bind (·.frame) with
  | some n => (s, some n)
  | none => match s.takeFrame (.task t) f p with
    | (s, some n, _) => (s.modTask t (fun k => { k with frame := some n }), some n)
    | (s, none, true) => (s.consume t, none)
    | (s, none, false) => if s.stopped t then (s, none) else ((s.bump .kvsPerfNoframe f 1).kvFail t 0x51, none)

/-- Move 1 KiB of page i to the destination pool; with the last piece its entry is rewritten and the source frame goes
back. -/
def State.movePiece (s : State) (t : Nat) (k : Task) (r : List Word) (i c : Nat) : State :=
  let f := k.field
  let p := rePart r
  let dest := kvDest k.w
  let size := (s.kvFmt f p).frame
  let (s, e, bad) := s.pteGet (.task t) f (kvStream k.w) r i
  if bad then s.consume t
  else if !ptValid e || decide (ptLoc e = dest) then s
  else match s.moveFrame t f (2 * p + dest) with
    | (s, none) => s
    | (s, some n) =>
      let d := ptEntry dest (ptSealed e) n
      let s := s.copyPiece t f p e d (1024 * c) (min 1024 (size - 1024 * c))
      if s.stopped t || decide (c + 1 < cdiv size 1024) then s
      else
        let s := (s.ptePut (.task t) f (kvStream k.w) r i d).modTask t (fun k => { k with frame := none })
        (s.returnFrame (.task t) f (2 * p + ptLoc e) (ptFrame e)).bump .kvsPerfMigrated f 1

/-- The pieces of a migration: pages below the stream's capacity, 1 KiB at a time. -/
def movePieces (w : List Word) (r : List Word) (size : Nat) : List (Nat × Nat) :=
  ((List.range (kvNpages w)).filter (fun j => decide (kvPage w + j < reCap r))).flatMap (fun j =>
    (List.range (cdiv size 1024)).map (fun c => (kvPage w + j, c)))

/-- KMIGRATE on the migration engine, at most `most` pieces of it. -/
def State.kmigrateRun (s : State) (t : Nat) (k : Task) (most : Nat) : State :=
  let x := kvStream k.w
  match s.kvOpen t k x with
  | (s, none) => s
  | (s, some r) =>
    if kvNpages k.w = 0 then s
    else if k.round = 0 ∧ (reInflight r || (reMoving r && !k.claims) || decide (reReaders r ≠ 0)) then s.kvFail t 0x50
    else
      let s := if k.round = 0 then
          (s.recPut k.field x (reSet r 0 51 51 1)).modTask t (fun k => { k with answer := some true, round := 1 })
        else s
      s.runPieces t (movePieces k.w r (s.kvFmt k.field (rePart r)).frame) most (fun s p => s.movePiece t k r p.1 p.2)

def execKmigrate (t : Nat) (s : State) : Host.Outcome State Fault Refusal :=
  .next (s.onKvEng t 0x45 true (fun s k => s.kmigrateRun t k allPieces))

/-! ## Yielding an engine (R203) -/

/-- Run at most `most` pieces of the transfer of a descriptor that holds a KV engine. -/
def State.kvPart (s : State) (t : Nat) (k : Task) (most : Nat) : State :=
  match twOpcode k.w with
  | 0x40 => s.kappendRun t k most
  | 0x43 => (s.joined t k (fun s r => s.kreadRun t k r most)).getD s
  | 0x45 => s.kmigrateRun t k most
  | _ => s

/-- A best-effort descriptor that holds an engine yields it to a latency-critical one that waits, at a boundary of 1 KiB:
how much of its transfer is done by then is free, and the rest is done later (R203; log entry 69). -/
def State.kvYield (s : State) (j : Nat) : State :=
  let e := s.kvEng j
  match e.run, s.kvPick e.wait with
  | some t, some u => match s.task t with
    | none => s
    | some k =>
      if k.phase = .running ∧ !k.issued ∧ s.bestTaskOf t ∧ !s.bestTaskOf u then
        let (s, w) := s.draw
        let s := s.kvPart t k w.toNat
        if s.stopped t then (s.modTask t (fun k => { k with issued := true })).sendDone t
        else s.setKvEng j ⟨some u, e.wait.filter (· ≠ u) ++ [t]⟩
      else s
  | _, _ => s

/-- KV_ENGINE_YIELD (R203). -/
def execKvEngineYield (f : Fd) (migration : Bool) (s : State) : Host.Outcome State Fault Refusal :=
  .next (s.awaitBoundary (fun s => s.kvYield (2 * f.val + b2n migration)))

/-! ## KEXPAND (R211) -/

/-- An entry with the format's element and scale types, which stands for the latent rows as an operand. -/
def kvTypeEntry (k : KvFmt) : List Word :=
  [BitVec.ofNat 64 (2 + k.et.code * 8 + (if k.scaled then 0x10 else 0) * 256)]

/-- The latent rows of an expansion: the first dk − 32 × rope elements of positions pos on, zero rows past the
committed length. -/
def State.latentRows (s : State) (t : Nat) (k : Task) (r : List Word) (es : List (Nat × Word)) (n : Nat) : State × List (List Raw) :=
  let p := rePart r
  let fm := s.kvFmt k.field p
  (List.range (kvCount k.w)).foldl (fun (q : State × List (List Raw)) i =>
    let x := kvPos k.w + i
    if reCommitted r ≤ x then
      (q.1.modTask t (fun k => { k with counts := { k.counts with irange := k.counts.irange + 1 } }),
       q.2 ++ [List.replicate n ⟨0, 0, scaleOne .e8m0, false, false⟩])
    else
      let e := ((es.find? (fun e => e.1 = x / 64)).map (·.2)).getD 0
      let (s, xs, _) := q.1.readRow t k.field p e fm (kvLayer k.w) false (x % 64) 0 n []
      (s, q.2 ++ [xs])) (s, [])

/-- One element of an expansion in the order of the arrays, its poison and its saturations. -/
def expandElt (p : Prod) (row : List Raw) (mb : Snap) (c : Nat) : FV × Bool :=
  let ts := (List.range p.dims.k).map (fun i =>
    macTerm (teType p.a.e) (teType p.b.e) (teStype p.a.e) (teStype p.b.e) i
      (row.getD i ⟨0, 0, scaleOne .e8m0, false, false⟩) (p.b.raw mb [c, i]))
  let a := AccSt.terms p.mode p.unit p.dims.k AccSt.zero (ts.map (·.1))
  (f32 a.run, ts.any (·.2))

/-- The product of an expansion: the rows against the weight, tile by tile for the escape counts (R57). -/
def State.expandProd (s : State) (t : Nat) (k : Task) (p : Prod) (rows : List (List Raw)) : State :=
  let c := twHome k.w
  let vs := (List.range p.dims.k).flatMap (fun i => (List.range p.dims.n).map (fun c => [c, i]))
  let (s, mb) := s.fetchViews (.task t) k.field false p.b vs []
  let esc := (List.range p.tiles).foldl (fun a n =>
    let (_, _, c0, cn) := p.span n
    a + ((List.range p.units).filter (fun u => (List.range (min p.unitLen (p.dims.k - u * p.unitLen))).any (fun i =>
      (List.range cn).any (fun c => (p.b.raw mb [c0 + c, u * p.unitLen + i]).tag)))).length) 0
  let s := s.bump .tenPerfEsc c esc
  let s := (List.range p.dims.m).foldl (fun s r => s.storeOut t k p.d [0, r]
    ((List.range p.dims.n).map (fun c =>
      OutVal.mk (expandElt p (rows.getD r []) mb c).1 (expandElt p (rows.getD r []) mb c).2))) s
  match s.task t with
  | some k => match k.sel with
    | some (n + 1) =>
      if !bitOf (s.gate c) 5 || k.dead.isSome || k.poison then s
      else
        let (b, r0, rn, c0, cn) := auditSpan p.dims n false
        let (s, src) := s.auditSource t k p b r0 rn
        let acts := (List.range rn).map (fun r => match src with
          | some _ => p.auditAct src [] b (r0 + r)
          | none => p.auditStored (rows.getD (r0 + r) []))
        s.auditClose t k p false 0 mb b r0 c0 rn cn acts (fun r c => (expandElt p (rows.getD r []) mb c).1)
    | _ => s
  | none => s

/-- KEXPAND on the arrays of its home cluster. -/
def State.kexpandRun (s : State) (t : Nat) (k : Task) (r : List Word) : State :=
  let f := k.field
  let fm := s.kvFmt f (rePart r)
  let n := kvCount k.w
  let kk := fm.dk - 32 * fm.rope
  if n = 0 || k.empty then s
  else if s.kvUnfit k r then s.modTask t (fun k => k.fail 0x30 0)
  else
    let hi := min (kvPos k.w + n) (reCommitted r)
    let pages := if hi ≤ kvPos k.w then 0 else (hi - 1) / 64 + 1 - kvPos k.w / 64
    let (s, es) := s.pteList t f (kvStream k.w) r (kvPos k.w / 64) pages
    if s.stopped t then s
    else if es.length < pages || es.any (fun e => !ptValid e.2 || decide (ptLoc e.2 = 1)) then s.kvFail t 0x50
    else
      let (s, ops, gone) := s.openMany t k [1, 3] true
      match gone, opndAt ops 1, opndAt ops 3 with
      | false, some b, some d =>
        let g := shapeG k.shape
        let twice := twTwin k.w && !shapeSplit k.shape
        let p : Prod := ⟨⟨kvTypeEntry fm, [], []⟩, b, d, ⟨n, kk, b.dim 0, 1⟩, 16 * g, 64 * (32 / g) * (if twice then 2 else 1)⟩
        let (s, rows) := s.latentRows t k r es kk
        (s.buffersUsed k).expandProd t k p rows
      | _, _, _ => s

/-- KEXPAND (R211). -/
def State.kexpandCmd (s : State) (t : Nat) : State :=
  match s.task t with
  | none => s
  | some k =>
    if k.phase ≠ .running ∨ k.issued ∨ twOpcode k.w ≠ 0x46 then s
    else s.asReader t (fun s k r => s.kexpandRun t k r)

def execKexpand (t : Nat) (s : State) : Host.Outcome State Fault Refusal :=
  .next (s.awaitBoundary (fun s => s.kexpandCmd t))

/-! ## Advances and length queries (R205, R218) -/

/-- ADVANCE (R205): it is applied at the KV service of the stream's field (R232). -/
def execAdvance (stream : BitVec 16) (c : BitVec 21) (s : State) : Host.Outcome State Fault Refusal :=
  .next (s.arrive (.advance stream c) (fun s => s.advanceTo (stream.toNat / 16384) stream.toNat c.toNat))

/-- Whether an attention opcode reads the pages of its stream. -/
def readsPages (op : Nat) : Bool := decide (op = 0x50 ∨ op = 0x51)

/-- The answer to a length query, now or held until the length reaches the step's first position. -/
def State.answerLen (s : State) (t : Nat) (k : Task) (x : Nat) (r : List Word) : State :=
  let c := reCommitted r
  let p0 := if atQpos k.w = 0x1FFFFF then c else atQpos k.w
  let s := s.modTask t (fun k => { k with pos := p0, len := c })
  if c < p0 then
    ({ s with kv := { s.kv with holds := s.kv.holds ++ [(LenHold.mk t x p0)] } }).bump .kvsPerfHold k.field 1
  else s.send (48 + x / 16384) k.owner (.lengthAnswer t)

/-- A length query reaches the KV service (R209, R218). -/
def State.lenQuery (s : State) (t : Nat) : State :=
  match s.task t with
  | none => s
  | some k =>
    if k.phase ≠ .query || s.kv.holds.any (fun h => decide (h.task = t)) then s
    else
      let x := wb (twArea k.w 0) 15 0
      match s.kvOpen t k x with
      | (s, none) => (match s.task t with
        | some k => match k.dead with
          | some (st, d) => s.endTask t st.toNat d.toNat
          | none => s.holdTask t
        | none => s)
      | (s, some r) =>
        if !readsPages (twOpcode k.w) then s.answerLen t k x r
        else if k.reader then s.answerLen t k x r
        else match s.register t k.field x r with
          | none => s.send k.owner (48 + x / 16384) (.lengthQuery t)
          | some s => s.answerLen t k x r

/-- LENGTH_QUERY (R218). -/
def execLengthQuery (t : Nat) (s : State) : Host.Outcome State Fault Refusal :=
  .next (s.arrive (.lengthQuery t) (fun s => s.lenQuery t))

/-- The committed length reaches the home cluster: the step may be selected. -/
def State.lenAnswer (s : State) (t : Nat) : State :=
  match s.task t with
  | some k => if k.phase = .query ∧ !s.kv.holds.any (fun h => decide (h.task = t)) then
      s.putTask t { k with phase := .placed, answer := some true } else s
  | none => s

/-- LENGTH_ANSWER (R218). -/
def execLengthAnswer (t : Nat) (s : State) : Host.Outcome State Fault Refusal :=
  .next (s.arrive (.lengthAnswer t) (fun s => s.lenAnswer t))

/-- A held answer meets no advance within its limit: the step ends with stream-state. -/
def State.lenExpired (s : State) (t : Nat) : State :=
  match s.task t with
  | some k => if k.phase = .query ∧ s.kv.holds.any (fun h => decide (h.task = t)) then s.endTask t 0x50 (twOpcode k.w) else s
  | none => s

/-- LENGTH_HOLD_EXPIRY (R218). -/
def execLengthHoldExpiry (t : Nat) (s : State) : Host.Outcome State Fault Refusal := .next (s.lenExpired t)

end Sys2Proof.Machine
end

