-- ==== Sys2Proof/Machine/Attention.lean ====
section
/-! DEFINITION. Attention steps: scores, biases and masks (R218–R220), the online softmax (R221, R222), page
selection (R227), lens summaries (R225) and ring passes (R228, R229). -/
namespace Sys2Proof.Machine

/-- Size of dimension d of the operand at a position as the running descriptor sees it (R132). -/
def Task.viewSize (k : Task) (i d : Nat) : Nat :=
  let e := k.entryAt i
  if teBound e ∧ d = teIdxDim e then (optGet k.gcount i).getD 0 else tePadded e d

/-! ## One row, one block (R219–R222) -/

/-- A key of a block: its position, the operand key it is (none: a page key), whether it is read at all, and for
each key-value head its key row and its value row. -/
structure AttKey where
  pos : Int
  op : Option Nat
  dead : Bool
  k : List (List Raw)
  v : List (List Raw)
  deriving DecidableEq, Repr

/-- What every row of a step shares. -/
structure AttCfg where
  qt : OpTy
  qs : SType
  kt : OpTy
  ks : SType
  vt : OpTy
  vs : SType
  d : Nat
  dv : Nat
  sm : BitVec 32
  window : Nat
  causal : Bool
  pt : EType               -- type of the weights P
  qpos : Int               -- position of query 0
  deriving DecidableEq, Repr

/-- The running state of an output row: m, l, o, and consumed poison. -/
structure AttRow where
  m : BitVec 32
  l : BitVec 32
  mh : BitVec 32
  o : List (BitVec 32)
  bad : Bool
  deriving DecidableEq, Repr

/-- −Inf and 1.0 in FP32. -/
def negInf32 : BitVec 32 := 0xFF800000#32
def one32 : BitVec 32 := 0x3F800000#32

/-- A row before its first block. -/
def AttRow.start (dv : Nat) : AttRow := ⟨negInf32, 0, 0, List.replicate dv 0, false⟩

/-- Bucket of a position difference (R219). -/
def biasBucket (d : Int) : Nat :=
  if d < 0 then 255
  else
    let n := d.toNat
    if n < 128 then n
    else
      let q := Nat.log2 n
      128 + 8 * (q - 7) + bits n (q - 1) (q - 3)

/-- The element of a list of raw elements. -/
def rawAtIdx (l : List Raw) (i : Nat) : Raw := l.getD i ⟨0, 0, scaleOne .e8m0, false, false⟩

/-- The accumulation of a query head row against a key row (R40, R219). -/
def attAcc (a : AttCfg) (q k : List Raw) : AccSt :=
  let ts := (List.range a.d).map (fun i =>
    (macTerm a.qt.t a.kt.t a.qs a.ks i (rawAtIdx q i) (rawAtIdx k i)).1)
  AccSt.terms (arrayMode a.qt a.kt) (blockUnit a.qt a.kt) a.d AccSt.zero ts

/-- The score of a query head row against a key row. -/
def attScore (a : AttCfg) (q k : List Raw) : BitVec 32 :=
  let r := attAcc a q k
  if arrayMode a.qt a.kt = .plainI then f32OfInt r.run.toInt else r.run

/-- Whether a key's logit is replaced by −Inf for query t (R220). -/
def attMasked (a : AttCfg) (t : Nat) (k : AttKey) : Bool :=
  k.dead || (decide (a.window ≠ 0) && decide ((a.window : Int) ≤ a.qpos + t - k.pos)) ||
    (a.causal && (match k.op with
      | some j => decide (t < j)
      | none => false))

/-- The logit of a key, with its table and mask entries (R219). -/
def attLogit (a : AttCfg) (t : Nat) (k : AttKey) (s tab mask : BitVec 32) : BitVec 32 :=
  if attMasked a t k then negInf32 else fadd (fmul s a.sm) (fadd tab mask)

/-- A weight rounded to the type of P with RNE, as FP32. -/
def attRound (t : EType) (x : BitVec 32) : BitVec 32 := toF32 (decodeElt t (convert t .rne (f32 x)).1)

/-- One block of a row: logits z, value rows vs by key, and their poison (R221). -/
def AttRow.step (a : AttCfg) (r : AttRow) (z : List (BitVec 32)) (vs : List (List Raw)) (bad : Bool) : AttRow :=
  let mb := z.foldl fmax negInf32
  let mn := fmax r.m mb
  let mh := if (f32 negInf32).lt (f32 mn) then mn else 0
  let alpha := transc 0x15 (fsub r.m mh)
  let p := z.map (fun x => attRound a.pt (transc 0x15 (fsub x mh)))
  let l := fadd (fmul alpha r.l) (treeSum p)
  let o := (List.range a.dv).map (fun c =>
    (p.zip vs).foldl (fun (acc : BitVec 32) (x : BitVec 32 × List Raw) =>
      let e := rawAtIdx x.2 c
      toF32 ((f32 acc).add ((f32 x.1).mul ((e.codeVal a.vt.t).mul (e.scaleVal a.vs))))) (fmul alpha (r.o.getD c 0)))
  ⟨mn, l, mh, o, r.bad || bad⟩

/-- Output values of a finished row (R222): a NaN in the row gives canonical NaN. -/
def AttRow.outs (r : AttRow) : List (BitVec 32) :=
  let pos := (FV.fin false 0 1 0).lt (f32 r.l)
  if isNan32 r.l then r.o.map (fun _ => nan32)
  else r.o.map (fun x => if pos then fdiv x r.l else 0)

/-- Whether every logit of a row was −Inf. -/
def AttRow.empty (r : AttRow) : Bool := decide (r.l.toNat % 2 ^ 31 = 0)

/-! ## Operands -/

/-- The rows of an operand [n, heads, count] at one index of dimension 2, by head. -/
def State.headRows (s : State) (t f : Nat) (o : Opnd) (n heads j : Nat) (m : Snap) : State × List (List Raw) × Snap :=
  let vs := (List.range heads).flatMap (fun h => (List.range n).map (fun d => [d, h, j]))
  let (s, m) := s.fetchViews (.task t) f false o vs m
  (s, (List.range heads).map (fun h => (List.range n).map (fun d => o.raw m [d, h, j])), m)

/-- Operand keys lo to lo + n − 1, at positions that begin at p0. -/
def State.opKeys (s : State) (t f : Nat) (b c : Opnd) (a : AttShape) (dv : Nat) (p0 : Int) (base lo n : Nat) (dead : Bool) :
    State × List AttKey :=
  (List.range n).foldl (fun (q : State × List AttKey) i =>
    let j := lo + i
    let (s, ks, _) := q.1.headRows t f b a.d a.hkv (base + j) []
    let (s, vs, _) := s.headRows t f c dv a.hkv (base + j) []
    (s, q.2 ++ [⟨p0 + j, some j, dead, ks, vs⟩])) (s, [])

/-- The keys of a page that lie below p0; the rest read as zero and are dead (R218). -/
def State.pageKeys (s : State) (t f p : Nat) (e : Word) (fm : KvFmt) (layer i p0 : Nat) (a : AttShape) (latent : Bool) :
    State × List AttKey :=
  let zero (n : Nat) : List Raw := List.replicate n ⟨0, 0, scaleOne .e8m0, false, false⟩
  let heads (n : Nat) (l : List Raw) : List (List Raw) := (List.range a.hkv).map (fun h => (l.drop (n * h)).take n)
  let (s, l, _) := (List.range 64).foldl (fun (q : State × List AttKey × Snap) j =>
    let (s, acc, m) := q
    let pos := 64 * i + j
    if p0 ≤ pos then (s, acc ++ [⟨pos, none, true, heads a.d (zero (a.d * a.hkv)), heads a.dv (zero (a.dv * a.hkv))⟩], m)
    else
      let (s, ks, m) := s.readRow t f p e fm layer false j 0 fm.dk m
      if latent then (s, acc ++ [⟨pos, none, false, [ks], [ks.take a.dv]⟩], m)
      else
        let (s, vs, m) := s.readRow t f p e fm layer true j 0 fm.dv m
        (s, acc ++ [⟨pos, none, false, heads a.d ks, heads a.dv vs⟩], m)) (s, [], [])
  (s, l)

/-- A filler block: 64 keys that are not read (R227). -/
def fillerKeys (a : AttShape) : List AttKey :=
  let zero (n : Nat) : List (List Raw) := List.replicate a.hkv (List.replicate n ⟨0, 0, scaleOne .e8m0, false, false⟩)
  List.replicate 64 ⟨0, none, true, zero a.d, zero a.dv⟩

/-- An open table or mask with what was read of it. -/
abbrev Table := Option (Opnd × Snap)

/-- An entry of a table at a view position as FP32, and its poison; +0 with no table. -/
def Table.at2 (b : Table) (i j : Nat) : BitVec 32 × Bool :=
  match b with
  | none => (0, false)
  | some (o, m) =>
    let r := o.raw m [i, j]
    (toF32 (o.val r), r.bad)

/-- Open a table at a position of the entries and read columns is of its rows 0 to m − 1. -/
def State.openTable (s : State) (t : Nat) (k : Task) (pos : Nat) (is : List Nat) (m : Nat) : State × Table × Bool :=
  if (k.entryAt pos).isEmpty then (s, none, false)
  else match s.openOpnd t k pos false with
    | (s, none) => (s, none, true)
    | (s, some o) =>
      let vs := (List.range m).flatMap (fun j => is.map (fun i => [i, j]))
      let (s, sn) := s.fetchViews (.task t) k.field false o vs []
      (s, some (o, sn), false)

/-- The entries of a bias table that a bucket names; the rest is never read (R219). -/
def biasUsed : List Nat := List.range 232 ++ [255]

/-- Mask entries by operand key and query: of an ADENSE mask [n, n] the entries of keys past n are not stated, and free
values stand for them (log entry 107). -/
abbrev MaskFn := Nat → Nat → BitVec 32 × Bool

/-- The entries of an open mask. -/
def maskOf (m : Table) (n seed : Nat) : MaskFn := fun j t =>
  if m.isSome && decide (n ≤ j) then (Config.outOfMask seed j t, false) else m.at2 j t

/-- No mask. -/
def noMask : MaskFn := fun _ _ => (0, false)

/-- Saturations of the INT32 accumulations of a block's scores (R39). -/
def attSats (a : AttCfg) (sh : AttShape) (qs : List (List (List Raw))) (ks : List AttKey) (n : Nat) : Nat :=
  if arrayMode a.qt a.kt ≠ .plainI then 0
  else (List.range n).foldl (fun c i =>
    let head := i / max 1 sh.n
    let q := (qs.getD (i % max 1 sh.n) []).getD head []
    ks.foldl (fun c k => c + (attAcc a q (k.k.getD (head / max 1 sh.g) [])).sat) c) 0

/-- One block for every row: row of query head G h + g at query t stands at (G h + g) × n + t. -/
def attBlock (a : AttCfg) (sh : AttShape) (qs : List (List (List Raw))) (bias : Table) (mask : MaskFn) (ks : List AttKey)
    (rows : List AttRow) : List AttRow :=
  (List.range rows.length).map (fun i =>
    let head := i / max 1 sh.n
    let t := i % max 1 sh.n
    let h := head / max 1 sh.g
    let q := (qs.getD t []).getD head []
    let zs := ks.map (fun k =>
      let (tab, b0) := bias.at2 (biasBucket (a.qpos + t - k.pos)) head
      let (mk, b1) := match k.op with
        | some j => mask j t
        | none => (0, false)
      let kr := k.k.getD h []
      (attLogit a t k (attScore a q kr) tab mk, b0 || b1 || kr.any (·.bad) || (k.v.getD h []).any (·.bad)))
    let r := rows.getD i (AttRow.start a.dv)
    r.step a (zs.map (·.1)) (ks.map (fun k => k.v.getD h [])) (q.any (·.bad) || zs.any (·.2)))

/-- Write every finished row: output and, where named, statistics (R222). -/
def State.attWrite (s : State) (t : Nat) (k : Task) (d : Opnd) (stats : Option Opnd) (n : Nat) (rows : List AttRow) : State :=
  let s := s.bump .tenPerfEmptyrow (twHome k.w) (rows.filter (fun r => r.empty)).length
  (List.range rows.length).foldl (fun s i =>
    let r := rows.getD i (AttRow.start 0)
    let v := [0, i / max 1 n, i % max 1 n]
    let s := s.storeOut t k d v (r.outs.map (fun x => ⟨f32 x, r.bad⟩))
    match stats with
    | none => s
    | some o =>
      let (a, c) := o.putRun .rne 0 0xFFFF v ([r.mh, r.l, fbool r.empty].map (fun x => ⟨f32 x, r.bad⟩))
      (s.landOut (.task t) k.field a).addCnt t c) s

/-- The query rows by query and head. -/
def State.queryRows (s : State) (t f : Nat) (o : Opnd) (d heads n : Nat) : State × List (List (List Raw)) :=
  (List.range n).foldl (fun (q : State × List (List (List Raw))) j =>
    let (s, l, _) := q.1.headRows t f o d heads j []
    (s, q.2 ++ [l])) (s, [])

/-! ## Page selection (R218, R227) -/

/-- Insert a page in ascending order unless it is there. -/
def insertPage (x : Nat) : List Nat → List Nat
  | [] => [x]
  | y :: t => if x < y then x :: y :: t else if x = y then y :: t else y :: insertPage x t

/-- The page blocks of a list of page numbers: ascending, once each, below np. -/
def pageBlocks (np : Nat) (l : List Int) : List Nat :=
  l.foldl (fun (a : List Nat) (x : Int) => if 0 ≤ x ∧ x < (np : Int) then insertPage x.toNat a else a) []

/-- The pages that a step with sel reads, and its filler blocks, by the count that dispatch sampled (R132, R227); none
where the list cannot be read. -/
def State.selected (s : State) (t : Nat) (k : Task) (np : Nat) : State × Option (List Nat × Nat) :=
  let e := k.entryAt 12
  match s.range (teRange e) with
  | none => (s.badRange t k.field, none)
  | some rg =>
    let n := (optGet k.gcount 12).getD 0
    let place (i : Nat) : List Nat := (List.range 4).map (fun b => rgAddr rg (teBase e + 64 + 4 * i + b))
    let (s, m) := s.fetchBytes (.task t) k.field false ((List.range n).flatMap place) []
    let xs := (List.range n).map (fun i => sext 32 (snapItem m (place i) 0 32).1)
    let out := (xs.filter (fun x => decide (x < 0 ∨ (np : Int) ≤ x))).length
    let s := s.modTask t (fun k => { k with counts := { k.counts with irange := k.counts.irange + out } })
    let sink := (List.range (atNsink k.w)).map (fun (i : Nat) => (i : Int))
    let rec' := (List.range (atNrecent k.w)).map (fun (i : Nat) => (np : Int) - atNrecent k.w + i)
    let ps := pageBlocks np (sink ++ xs ++ rec')
    let total := atNsink k.w + teSize e 0 + atNrecent k.w
    (s.bump .kvsPerfSelfill k.field (total - ps.length), some (ps, total - ps.length))

/-! ## ASTEP, ALATENT, ADENSE -/

/-- The rows' shared values for a step over a format or over operands. -/
def attCfg (k : Task) (fm : KvFmt) (a : AttShape) (qpos : Int) : AttCfg :=
  let w := k.w
  let e (i : Nat) : List Word := k.entryAt i
  let paged := decide (twOpcode w = 0x50 ∨ twOpcode w = 0x51)
  let kt : OpTy := if paged then ⟨fm.et, fm.scaled⟩ else teOp (e 1)
  let st (x : List Word) : SType := if paged then (if fm.scaled then .e8m0 else .none) else teStype x
  let vt : OpTy := if paged then ⟨fm.et, fm.scaled⟩ else teOp (e 2)
  { qt := teOp (e 0), qs := teStype (e 0), kt := kt, ks := st (e 1), vt := vt, vs := st (e 2), d := a.d, dv := a.dv,
    sm := atScale w, window := atWindow w, causal := atCausal w, pt := if atPfmt w then .e4m3 else .bf16, qpos := qpos }

/-- Add saturations to a descriptor's count. -/
def State.addSat (s : State) (t n : Nat) : State := s.addCnt t ⟨n, 0⟩

/-- Run the page blocks, the filler blocks and the operand blocks of a step, and write its rows (R221). -/
def State.attRun (s : State) (t : Nat) (k : Task) (fm : KvFmt) (p : Nat) (pages : List (Nat × Word)) (fill p0 : Nat) (qpos kpos : Int) : State :=
  let sh := attShape k.w fm k.viewSize
  let heads := sh.hkv * sh.g
  let a := attCfg k fm sh qpos
  let latent := decide (twOpcode k.w = 0x51)
  let f := k.field
  let (s, ops, gone) := s.openMany t k [0, 1, 2, 3] true
  let (s, bias, g1) := s.openTable t k 10 biasUsed heads
  let (s, mt, g2) := s.openTable t k 11 (List.range sh.n) sh.n
  let mask := maskOf mt sh.n s.free
  let s := { s with free := s.free + 1 }
  let (s, stats, g3) := if (k.entryAt 13).isEmpty then (s, none, false)
    else match s.openOpnd t k 13 false with
      | (s, some o) => (s, some o, false)
      | (s, none) => (s, none, true)
  if gone || g1 || g2 || g3 then s
  else match opndAt ops 0, opndAt ops 1, opndAt ops 3 with
    | some oa, some ob, some od =>
      let oc := (opndAt ops 2).getD ob
      let (s, qs) := s.queryRows t f oa sh.d heads sh.n
      let rows := List.replicate (heads * sh.n) (AttRow.start sh.dv)
      let (s, rows) := pages.foldl (fun (q : State × List AttRow) e =>
        let (s, ks) := q.1.pageKeys t f p e.2 fm (atLayer k.w) e.1 p0 sh latent
        (s.addSat t (attSats a sh qs ks q.2.length), attBlock a sh qs bias mask ks q.2)) (s, rows)
      let rows := (List.range fill).foldl (fun rs _ => attBlock a sh qs bias mask (fillerKeys sh) rs) rows
      let nb := cdiv sh.nk 64
      let (s, rows) := (List.range nb).foldl (fun (q : State × List AttRow) b =>
        let (s, ks) := q.1.opKeys t f ob oc sh sh.dv kpos 0 (64 * b) (min 64 (sh.nk - 64 * b)) false
        (s.addSat t (attSats a sh qs ks q.2.length), attBlock a sh qs bias mask ks q.2)) (s, rows)
      let s := s.bump .tenPerfAttblk (twHome k.w) (pages.length + fill + nb)
      s.attWrite t k od stats sh.n rows
    | _, _, _ => s

/-- Whether a step's operands break the format of its stream's partition, where that is not its context's own. -/
def State.attUnfit (s : State) (k : Task) (p : Nat) : Bool :=
  decide (p ≠ s.partOf k.ctx) && attBad k.idxCounts k.w (s.kvFmt k.field p) k.entries

/-- ASTEP and ALATENT: the stream's pages, chosen and translated, then the blocks (R218, R221, R227). -/
def State.attPaged (s : State) (t : Nat) (k : Task) : State :=
  let x := wb (twArea k.w 0) 15 0
  match s.kvOpen t k x with
  | (s, none) => s
  | (s, some r) =>
    let p := rePart r
    let np := cdiv k.pos 64
    let most := if atMaxpages k.w = 0 then reCap r else atMaxpages k.w
    let sel := !(k.entryAt 12).isEmpty
    if s.attUnfit k p then s.modTask t (fun k => k.fail 0x30 0)
    else if !sel && decide (most < np) then s.kvFail t 0x51
    else
      let (s, c) := if sel then s.selected t k np else (s, some (List.range np, 0))
      match c with
      | none => s
      | some (ps, fill) =>
        let (s, es) := ps.foldl (fun (q : State × List (Nat × Word)) i =>
          let (s, l) := q.1.pteList t k.field x r i 1
          (s, q.2 ++ l)) (s, [])
        if s.stopped t then s
        else if es.length < ps.length || es.any (fun e => !ptValid e.2 || decide (ptLoc e.2 = 1)) then s.kvFail t 0x50
        else (s.buffersUsed k).attRun t k (s.kvFmt k.field p) p es fill k.pos k.pos k.pos

def execAstep (t : Nat) (s : State) : Host.Outcome State Fault Refusal :=
  .next (s.runUnit t 0x50 (fun s k => s.attPaged t k))

def execAlatent (t : Nat) (s : State) : Host.Outcome State Fault Refusal :=
  .next (s.runUnit t 0x51 (fun s k => s.attPaged t k))

/-- ADENSE: operand keys only. Without a stream 0x1F_FFFF names no committed length, so that the queries'
position is free then (log entry 29). -/
def State.attDense (s : State) (t : Nat) (k : Task) : State :=
  if k.empty then s
  else
    let (s, q) := if atQpos k.w = 0x1FFFFF then
        let (s, w) := s.draw
        (s, w.toNat % 2 ^ 21)
      else (s, atQpos k.w)
    (s.streams k).attRun t k (s.kvFmt k.field (s.partOf k.ctx)) 0 [] 0 0 q (atKpos k.w)

def execAdense (t : Nat) (s : State) : Host.Outcome State Fault Refusal :=
  .next (s.runUnit t 0x52 (fun s k => s.attDense t k))

/-! ## LSUM (R225) -/

/-- The mean of a page's 64 rows at one element: a tree sum, times 2^−6. -/
def lensMean (rows : List (List Raw)) (fm : KvFmt) (i : Nat) : OutVal :=
  let st : SType := if fm.scaled then .e8m0 else .none
  let xs := rows.map (fun r => rawAtIdx r i)
  ⟨f32 (fmul (treeSum (xs.map (fun x => toF32 ((x.codeVal fm.et).mul (x.scaleVal st))))) 0x3C800000#32), xs.any (·.bad)⟩

/-- Summarise a sealed page into its column of the lens tensor. -/
def State.lsumRun (s : State) (t : Nat) (k : Task) (r : List Word) : State :=
  let x := kvStream k.w
  let f := k.field
  let p := rePart r
  let fm := s.kvFmt f p
  let i := wb (twArea k.w 1) 13 0
  let layer := wb (twArea k.w 0) 23 16
  if s.attUnfit k p then s.modTask t (fun k => k.fail 0x30 0)
  else
    let (s, es) := s.pteList t f x r i 1
    if s.stopped t then s
    else match es with
      | (_, e) :: _ =>
        if !ptValid e || decide (ptLoc e = 1) then s.kvFail t 0x50
        else match s.openOpnd t k 10 false with
          | (s, none) => s
          | (s, some o) =>
            let (s, rows, _) := (List.range 64).foldl (fun (q : State × List (List Raw) × Snap) j =>
              let (s, l, m) := q.1.readRow t f p e fm layer false j 0 fm.dk q.2.2
              (s, q.2.1 ++ [l], m)) (s, [], [])
            let vals := (List.range fm.dk).map (lensMean rows fm)
            let out := (List.range (cdiv fm.dk 32)).foldl (fun (a : Out × Nat) b =>
              (a.1.app (o.putBlock .rne 0 0xFFFF [i, 32 * b] ((vals.drop (32 * b)).take 32)).1,
               a.2 + (o.putBlock .rne 0 0xFFFF [i, 32 * b] ((vals.drop (32 * b)).take 32)).2.sat)) (Out.nil, 0)
            ((s.buffersUsed k).landOut (.task t) f out.1).addSat t out.2
      | [] => s.kvFail t 0x50

/-- LSUM on the vector engines; it waits while the count of readers is full (R209). -/
def State.lsumCmd (s : State) (t : Nat) : State :=
  match s.task t with
  | none => s
  | some k =>
    if k.phase ≠ .running ∨ k.issued ∨ twOpcode k.w ≠ 0x54 then s
    else s.asReader t (fun s k r => s.lsumRun t k r)

def execLsum (t : Nat) (s : State) : Host.Outcome State Fault Refusal :=
  .next (s.awaitBoundary (fun s => s.lsumCmd t))

/-! ## ARING (R228, R229) -/

/-- Fields of ARING's area. -/
def ringN (w : List Word) : Nat := wb (twArea w 0) 3 0
def ringRank (w : List Word) : Nat := wb (twArea w 0) 7 4
def ringLinks (w : List Word) : List Nat := setBits 8 (wb (twArea w 0) 15 8)
def ringNext (w : List Word) : Nat := wb (twArea w 0) 19 16
def ringPrev (w : List Word) : Nat := wb (twArea w 0) 23 20
def ringCausal (w : List Word) : Bool := wbit (twArea w 0) 24
def ringShard (w : List Word) : Nat := wb (twArea w 0) 45 25

/-- What is wrong with the links an ARING names: the mirror holds one (R229), or one does not lead where it must
(R300). -/
def State.ringLinksBad (s : State) (w : List Word) : Option (Nat × Nat) :=
  let ls := ringLinks w
  match ls.find? (fun l => s.flag .lnkMirCfg 0 0 && decide (l = s.fld .lnkMirCfg 0 7 5)) with
  | some l => some (0x23, l)
  | none =>
    (ls.find? (fun l => !(s.upLinks (if l < 4 then ringNext w else ringPrev w)).contains l)).map
      (fun l => (0x24, if l < 4 then 72 else 73))

/-- The rows of a ring pass are kept in the arrays between rounds: o in accumulator bank 0, m, l and mh beside
them. -/
def keepRows (rows : List AttRow) (dv : Nat) : SMap ALane × SMap ALane :=
  (List.range rows.length).foldl (fun (q : SMap ALane × SMap ALane) i =>
    let r := rows.getD i (AttRow.start dv)
    ((List.range dv).foldl (fun m c => mapSet (fun _ => alane0) m (4096 * i + c) { alane0 with acc := r.o.getD c 0 }) q.1,
     mapSet (fun _ => alane0) (mapSet (fun _ => alane0) q.2 (2 * i) ⟨r.m, alane0.blk, r.l, r.bad⟩) (2 * i + 1)
       { alane0 with acc := r.mh })) ([], [])

/-- The rows as kept. -/
def keptRows (a : Arrays) (n dv : Nat) : List AttRow :=
  (List.range n).map (fun i =>
    let x := mapGet (fun _ => alane0) a.acc1 (2 * i)
    ⟨x.acc, x.part, (mapGet (fun _ => alane0) a.acc1 (2 * i + 1)).acc,
     (List.range dv).map (fun c => (mapGet (fun _ => alane0) a.acc0 (4096 * i + c)).acc), x.p⟩)

/-- A row of a shard leaves for the next rank over one of the named links of L0–L3, which the rows take in turn (R229;
DESIGN CHOICE, log entry 112); a link that does not lead there ends the pass (R300). A buffer that is not the next rank's
memory is written as any other. The tag of the write that leaves is returned. -/
def State.sendRow (s : State) (t : Nat) (k : Task) (j : Nat) (o : Out) : State × List Nat :=
  let dev := ringNext k.w
  let bad := uniq (o.bad.map unitBase)
  let ws := o.ws.filter (fun w => !bad.contains (unitBase w.addr))
  let far (a : Nat) : Bool := decide (peerSpace ≤ a ∧ (a - peerSpace) / 2 ^ 56 = dev)
  let ls := (ringLinks k.w).filter (fun l => decide (l < 4))
  let l := ls.getD (j % max 1 ls.length) 0
  if !((ws.map (·.addr) ++ bad).all far) then (s.landOut (.task t) k.field o, [])
  else if !(s.upLinks dev).contains l then (s.modTask t (fun k => k.fail 0x24 72), [])
  else
    let s := { s with free := s.free + 1 }
    (s.sendWrite (.task t) l dev ws bad, [s.free])

/-- Copy a shard of keys or values into a half of the next rank's buffer: the tags of the writes. -/
def State.sendShard (s : State) (t : Nat) (k : Task) (src dst : Opnd) (n heads len base base2 : Nat) : State × List Nat :=
  (List.range len).foldl (fun (p : State × List Nat) j =>
    let (s, rows, _) := p.1.headRows t k.field src n heads (base + j) []
    let out := (List.range heads).foldl (fun (a : Out) h => (List.range n).foldl (fun (a : Out) d =>
      match dst.loc false [d, h, base2 + j] with
      | .hit c _ => a.app (dst.putRaw c (rawAtIdx (rows.getD h []) d))
      | _ => a) a) Out.nil
    let (s, l) := s.sendRow t k j out
    (s, p.2 ++ l)) (s, [])

/-- Whether round number `round` of a pass may run: its shard has arrived, and the half it sends into is free. -/
def ringMay (k : Task) : Bool :=
  let s := k.round
  decide (s < ringN k.w ∧ s ≤ k.readys) && (decide (s + 1 = ringN k.w) || k.credits.getLsbD ((s + 1) % 2))

/-- One round (R228): attend to the shard, pass it on, return a credit for the half it lay in. -/
def State.ringRound (s : State) (t : Nat) (k : Task) : State :=
  let w := k.w
  let f := k.field
  let r := k.round
  let c := twHome w
  let fm := s.kvFmt k.field (s.partOf k.ctx)
  let sh := attShape w fm k.viewSize
  let heads := sh.hkv * sh.g
  let len := ringShard w
  let rank := (ringRank w + ringN w - r) % max 1 (ringN w)
  let (s, ops, gone) := s.openMany t k [0, 1, 2, 3] true
  let (s, bufs, g0) := s.openMany t k [12, 13, 14, 15] true
  let (s, bias, g1) := s.openTable t k 10 biasUsed heads
  if gone || g0 || g1 then s
  else match opndAt ops 0, opndAt ops 1, opndAt ops 2, opndAt bufs 12, opndAt bufs 13, opndAt bufs 14, opndAt bufs 15 with
    | some oa, some ob, some oc, some rk, some rv, some nk, some nv =>
      let (ks, vs, base) := if r = 0 then (ob, oc, 0) else (rk, rv, r % 2 * len)
      let a := { attCfg k fm sh ((ringRank w * len : Nat) : Int) with
        sm := (twArea w 1).extractLsb' 0 32, window := 0, pt := .bf16, causal := ringCausal w && decide (r = 0), d := sh.d }
      let (s, qs) := s.queryRows t f oa sh.d heads sh.n
      let rows := if r = 0 then List.replicate (heads * sh.n) (AttRow.start sh.dv) else keptRows (s.arrays c) (heads * sh.n) sh.dv
      let dead := ringCausal w && decide (ringRank w < rank)
      let nb := cdiv len 64
      let (s, rows) := (List.range nb).foldl (fun (q : State × List AttRow) b =>
        let (s, keys) := q.1.opKeys t f ks vs sh sh.dv ((rank * len : Nat) : Int) base (64 * b) (min 64 (len - 64 * b)) dead
        (s.addSat t (attSats a sh qs keys q.2.length), attBlock a sh qs bias noMask keys q.2)) (s, rows)
      let s := s.bump .tenPerfAttblk c nb
      let (m0, m1) := keepRows rows sh.dv
      let s := s.setArrays c { arrays0 with task := some t, acc0 := m0, acc1 := m1 }
      let send := decide (r + 2 ≤ ringN w)
      let s := if send then
          let h := (r + 1) % 2
          let (s, l0) := s.sendShard t k ks nk sh.d sh.hkv len base (h * len)
          let (s, l1) := s.sendShard t k vs nv sh.dv sh.hkv len base (h * len)
          s.modTask t (fun k =>
            { k with credits := k.credits &&& ~~~(BitVec.ofNat 2 (2 ^ h)), shards := k.shards ++ [l0 ++ l1] })
        else s
      let s := if r = 0 then s
        else { s with lk := { s.lk with ctl := s.lk.ctl ++ [⟨ringPrev w, true, r % 2⟩] } }
      s.modTask t (fun k => { k with round := r + 1 })
    | _, _, _, _, _, _, _ => s

/-- The last round is done: the rows are written (R222). -/
def State.ringEnd (s : State) (t : Nat) (k : Task) : State :=
  let sh := attShape k.w (s.kvFmt k.field (s.partOf k.ctx)) k.viewSize
  let (s, ops, _) := s.openMany t k [3] false
  let (s, stats) := if (k.entryAt 11).isEmpty then (s, none) else s.openOpnd t k 11 false
  match opndAt ops 3 with
  | some od => s.attWrite t k od stats sh.n (keptRows (s.arrays (twHome k.w)) (sh.hkv * sh.g * sh.n) sh.dv)
  | none => s

/-- Run the rounds that may run; after the last, or where the pass stops, its work is done. -/
def State.ringGo (s : State) (t : Nat) : Nat → State
  | 0 => s
  | n + 1 => match s.task t with
    | none => s
    | some k =>
      if k.phase ≠ .running ∨ !k.issued ∨ twOpcode k.w ≠ 0x55 then s
      else if k.dead.isSome || k.poison then s.sendDone t
      else if ringN k.w ≤ k.round then (s.ringEnd t k).sendDone t
      else if ringMay k then (s.ringRound t k).ringGo t n else s

/-- ARING starts its pass, or goes on with it. -/
def State.aringCmd (s : State) (t : Nat) : State :=
  match s.task t with
  | none => s
  | some k =>
    if k.phase ≠ .running ∨ twOpcode k.w ≠ 0x55 then s
    else if k.issued then s.ringGo t 16
    else
      let s := s.modTask t (fun k => { k with issued := true })
      match s.ringLinksBad k.w with
      | some (st, d) => (s.modTask t (fun k => k.fail st d)).sendDone t
      | none => (s.streams k).ringGo t 16

def execAring (t : Nat) (s : State) : Host.Outcome State Fault Refusal :=
  .next (s.awaitBoundary (fun s => s.aringCmd t))

/-- A credit from the next rank: the half is free again. -/
def State.creditIn (s : State) (t : Nat) (half : Bool) : State :=
  (s.modTask t (fun k => { k with credits := k.credits ||| BitVec.ofNat 2 (2 ^ b2n half) })).awaitBoundary (fun s => s.ringGo t 16)

def execRingCredit (t : Nat) (half : Bool) (s : State) : Host.Outcome State Fault Refusal :=
  .next (s.creditIn t half)

/-- A ready message from the previous rank. -/
def State.readyIn (s : State) (t : Nat) : State :=
  (s.modTask t (fun k => { k with readys := k.readys + 1 })).awaitBoundary (fun s => s.ringGo t 16)

def execRingReady (t : Nat) (s : State) : Host.Outcome State Fault Refusal := .next (s.readyIn t)

end Sys2Proof.Machine
end

