-- ==== Sys2Proof/Machine/Integrity.lean ====
section
/-! DEFINITION. The integrity unit (R275–R289): poison reports, scrubbing, repair, degraded state, hard faults
and remapping, the repair map, injection, the log's size and trace capture. -/
namespace Sys2Proof.Machine

/-! ## Reports (R275, R277) -/

/-- A report whose slot was released while it was in flight, or that found its granule clean, releases what it
would hold at once (R275, R277). -/
def State.releaseReport (s : State) (r : PReport) : State :=
  (heldOf r).foldl (fun s h => match h with
    | .task t => s.tryRelease t
    | .fetch x => s.modCtx x (fun c => { c with held := false })) s

/-- A poison report reaches the integrity unit (R275, R277). -/
def State.reportIn (s : State) (r : PReport) : State :=
  if r ∈ s.ix.rels then
    (({ s with ix := { s.ix with rels := s.ix.rels.erase r } }).logReport r 0).releaseReport r
  else if r.outcome = 2 then (s.logReport r 0).releaseReport r
  else s.takeReport r

/-- POISON_REPORT (R277). -/
def execPoisonReport (r : PReport) (s : State) : Host.Outcome State Fault Refusal := .next (s.arrive (.poisonReport r) (fun s => s.reportIn r))

/-! ## Degraded state (R282) -/

/-- Hardware changes the state of a partition, in every field (R282, R306). -/
def State.setPstate (s : State) (p : Nat) (v : BitVec 3) : State := s.forceCfg .partState p (fun _ => v.setWidth 64)

/-- A descriptor held on a slot whose pair degraded its partition ends with degraded (R155, R282); one whose
units have not all reported ends so when they have. -/
def State.endDegraded (s : State) (t k : Nat) : State :=
  match s.task t with
  | none => s
  | some v =>
    let s := s.putTask t { v with slots := v.slots.erase k }
    match v.phase with
    | .held | .image => s.endTask t 0x21 0
    | _ => s.modTask t (fun v => v.fail 0x21 0)

/-- Descriptors of some partitions that are held (R155, R282). -/
def State.heldIn (s : State) (ps : List Nat) : List Nat :=
  (s.sc.tasks.filter (fun p => ps.contains (s.partOf p.2.ctx) &&
    (p.2.phase == Phase.held || (p.2.phase == Phase.image && !p.2.slots.isEmpty)))).map (·.1)

/-- The partitions that may read a pair become degraded, the pair is poisoned, and every descriptor held in them ends
(R282). -/
def State.degradeAt (s : State) (a k island parts : Nat) (held : List Held) (detail : Nat) : State :=
  let s := (unitsOf a 64).foldl (fun s u => s.writePoison u) s
  let ps := setBits 16 parts
  let s := ps.foldl (fun s p => s.setPstate p 6) s
  let s := s.setBit .icxStat 0 4 true
  let s := s.logE { kind := 0x07, island := island, slot := k, addr := a, detail := detail }
  let s := held.foldl (fun s h => match h with
    | .task t => match s.task t with
      | some v => if ps.contains (s.partOf v.ctx) then s.endDegraded t k else s
      | none => s
    | .fetch _ => s) s
  (s.heldIn ps).foldl (fun s t => s.endDegraded t k) s

/-- A slot gives up: its partitions are degraded and it is freed (R282). -/
def State.degrade (s : State) (k detail : Nat) : State :=
  let v := s.slot k
  ((s.degradeAt v.addr k v.island v.parts.toNat v.held detail).emptySlot k).serveStalled

/-- REPAIR_BOUND_EXPIRY (R282): an unowned slot has no bound. -/
def State.boundOver (s : State) (k : Nat) : State :=
  if (s.slot k).st = 0 ∨ (s.slot k).st = 3 then s else s.degrade k 0

def execRepairBoundExpiry (slot : BitVec 6) (s : State) : Host.Outcome State Fault Refusal :=
  .next (s.boundOver slot.toNat)

/-- HOLD_ABANDON (R282, R290): ignored on an unowned slot. -/
def State.holdAbandon (s : State) (k : Nat) : State :=
  if (s.slot k).st = 0 ∨ (s.slot k).st = 3 then s else s.degrade k 1

def execHoldAbandon (slot : BitVec 6) (s : State) : Host.Outcome State Fault Refusal :=
  .next (s.holdAbandon slot.toNat)

/-- HOLD_RELEASE (R277): the slot is freed and what it held re-runs. -/
def State.holdRelease (s : State) (k : Nat) : State :=
  let v := s.slot k
  if v.st = 0 then s else ((s.releaseHeld k v.held).emptySlot k).serveStalled

def execHoldRelease (slot : BitVec 6) (s : State) : Host.Outcome State Fault Refusal :=
  .next (s.holdRelease slot.toNat)

/-! ## Remapping (R283–R285) -/

/-- The remap words of the home of an address: register, page, first word, number of words. -/
def remapTable (a : Nat) : Reg × Nat × Nat × Nat :=
  match regionOf a with
  | .stack st => (.stkRemap, st, 0, 16)
  | .heath => let d := (heathPos a).device; (.hthRemap, d / 8, d % 8 * 8, 8)
  | .meadow c => (.tenMremap, c, 0, 8)
  | _ => (.tenMremap, 0, 0, 0)

/-- The unit field of the remap word for an address (R290). -/
def remapUnitOf (a : Nat) : Nat :=
  match regionOf a with
  | .stack _ => let p := stackPos a; p.ch / 2 + (p.ch % 2 * 64 + p.bank) * 2 ^ 4 + p.row * 2 ^ 11
  | .heath => (heathPos a).devBlock
  | _ => (a - meadowBase) % 2 ^ 24 / 128

/-- Spare rows of the bank of an address that valid words take; spares are counted at stacks only. -/
def State.sparesUsed (s : State) (a : Nat) : List Nat :=
  match regionOf a with
  | .stack st => ((List.range 16).map (fun i => s.reg .stkRemap st i)).filterMap (fun w =>
      if wbit w 0 ∧ wb w 12 2 = remapUnitOf a % 2 ^ 11 then some (wb w 1 1) else none)
  | _ => []

/-- Slots that copy a unit of the same table. -/
def State.copying (s : State) (a : Nat) : List Slot :=
  (s.ix.slots.map (·.2)).filter (fun v => v.st == 5 && decide (remapTable v.addr = remapTable a))

/-- A free remap word for the unit of an address, whose bank still has a spare row (R285). -/
def State.freeRemap (s : State) (a : Nat) : Option Nat :=
  let (r, p, b, n) := remapTable a
  let run := s.copying a
  let bank := run.filter (fun v => decide (remapUnitOf v.addr % 2 ^ 11 = remapUnitOf a % 2 ^ 11))
  if r = .stkRemap ∧ 2 ≤ (s.sparesUsed a).length + bank.length then none
  else (List.range n).find? (fun i => !wbit (s.reg r p (b + i)) 0 && run.all (fun v => decide (v.word ≠ i)))

/-- Whether a unit holds a range of the repair map (R285). -/
def State.unitMapped (s : State) (a : Nat) : Bool := (remapUnits a).any (fun u => (s.rmapAt u).isSome)

/-- A hard fault in the unit of an address finds no remap word (R285). -/
def State.remapFull (s : State) (a island k : Nat) : State :=
  (s.setBit .icxStat 0 6 true).logE { kind := 0x09, island := island, slot := k, addr := a }

/-- A hard fault found by a slot's read-back starts the remap copy with the restored data (R280, R283). -/
def State.hardFaultSlot (s : State) (k : Nat) : State :=
  let v := s.slot k
  match s.freeRemap v.addr with
  | some i => s.setSlot k { v with st := 5, word := i }
  | none =>
    let s := s.remapFull v.addr v.island k
    if s.unitMapped v.addr then s.degrade k 2
    else ((s.releaseHeld k v.held).emptySlot k).serveStalled

/-- A hard fault found by the scrubber takes a slot for the copy, with nobody held (R278, R283). With all
slots busy it waits for the next correction there. -/
def State.hardFaultScrub (s : State) (a : Nat) : State :=
  let isl := (homeIsland a).getD 0
  match s.freeRemap a with
  | some i => match s.freeSlot with
    | some k => s.setSlot k ⟨5, a, 0, 4, [], isl, BitVec.ofNat 16 (s.readersAt a), [], i⟩
    | none => s
  | none =>
    let s := s.remapFull a isl 0
    if s.unitMapped a then s.degradeAt a 0 isl (s.readersAt a) [] 2 else s

/-- Copy one coded unit to the spare: corrected as it is read, the repaired pair with its restored data, an
uncorrectable one as poison (R284). -/
def State.copyUnit (s : State) (v : Slot) (u : Nat) : State :=
  if v.addr ≤ u ∧ u < v.addr + v.data.length then s.storeUnit u ((v.data.drop (u - v.addr)).take (unitLen u))
  else
    let (s, d) := s.loadUnit false u
    if d.outc.bad then s.storePoison u
    else if d.outc = .corrected then s.storeUnit u d.data else s

/-- The remap copy finishes: the word becomes valid, and the slot's repair is complete (R284). -/
def State.remapDone (s : State) (k : Nat) : State :=
  let v := s.slot k
  if v.st ≠ 5 then s
  else
    let (r, p, b, _) := remapTable v.addr
    let sp := if (s.sparesUsed v.addr).contains 0 then 1 else 0
    let w := 1 + (if r = .stkRemap then sp * 2 else 0) + remapUnitOf v.addr * 4
    let s := (remapUnits v.addr).foldl (fun s u => s.copyUnit v u) s
    let s := s.setReg r p (b + v.word) (BitVec.ofNat 64 w)
    let s := s.setBit .icxStat 0 5 true
    let s := s.logE { kind := 0x08, island := v.island, slot := k, addr := v.addr, detail := w }
    (if v.src < 4 then s.repairDone k v.src else (s.releaseHeld k v.held).emptySlot k).serveStalled

/-- REMAP_COPY_DONE (R284). -/
def execRemapCopyDone (slot : BitVec 6) (s : State) : Host.Outcome State Fault Refusal :=
  .next (s.remapDone slot.toNat)

/-! ## Repair of a slot (R280) -/

/-- 64 bytes of a pair. -/
def pairBytes (l : List Byte) : List Byte := (List.range 64).map (fun i => l.getD i 0)

/-- Write the restored pair at its home with its own key; its read-back follows. -/
def State.restore (s : State) (k : Nat) (data : List Byte) : State :=
  let v := s.slot k
  let d := pairBytes data
  let s := (unitsOf v.addr 64).foldl (fun s u => s.storeUnit u ((d.drop (u - v.addr)).take (unitLen u))) s
  s.setSlot k { v with st := 4, data := d }

/-- A hardware source answers: a clean pair is written, a bad answer moves on to the next source. -/
def State.sourceAnswer (s : State) (k : Nat) (clean : Bool) (data : List Byte) : State :=
  let v := s.slot k
  if v.st ≠ 1 ∨ 2 ≤ v.src then s
  else if clean then s.restore k data else s.trySource k

/-- REPAIR_SOURCE_ANSWER (R280). -/
def execRepairSourceAnswer (slot : BitVec 6) (clean : Bool) (data : List Byte) (s : State) :
    Host.Outcome State Fault Refusal :=
  .next (s.sourceAnswer slot.toNat clean data)

/-- REPAIR_SOURCE_TIMEOUT (R280). -/
def execRepairSourceTimeout (slot : BitVec 6) (s : State) : Host.Outcome State Fault Refusal :=
  .next (s.sourceAnswer slot.toNat false [])

/-- ICX_RELOAD_CTL go: the staged pair is written for a slot in state reload (R280, R290). -/
def State.reloadGo (s : State) (k : Nat) : State :=
  if (s.slot k).st = 2 then s.restore k (bytesOf ((List.range 8).map (fun i => s.reg .icxReloadData 0 i))) else s

/-- RELOAD (R280). -/
def execReload (slot : BitVec 6) (s : State) : Host.Outcome State Fault Refusal := .next (s.reloadGo slot.toNat)

/-- The read-back of a restored pair: every unit clean completes the repair, anything else is a hard fault. -/
def State.verify (s : State) (k : Nat) : State :=
  let v := s.slot k
  if v.st ≠ 4 then s
  else
    let (s, ok) := (unitsOf v.addr 64).foldl (fun (p : State × Bool) u =>
      let (s, d) := p.1.loadUnit false u
      (s, p.2 && d.outc == .clean)) (s, true)
    if ok then (s.repairDone k v.src).serveStalled else s.hardFaultSlot k

/-- REPAIR_VERIFY (R280). -/
def execRepairVerify (slot : BitVec 6) (s : State) : Host.Outcome State Fault Refusal :=
  .next (s.verify slot.toNat)

/-! ## Scrubbing (R278) -/

/-- The addresses that a home remembers of its corrected scrubs. -/
def State.lastScrubs (s : State) (h : Nat) : List Nat := mapGet (fun _ => []) s.ix.last h

/-- A corrected unit is written back and logged; where the home remembers a correction at the pair from an earlier scrub, or
an injection fires, it is a hard fault. -/
def State.scrubCorrected (s : State) (h a u : Nat) (rep : Bool) (d : Decoded) : State :=
  let isl := (homeIsland u).getD 0
  let inj := s.injEvent 6 h
  let s := s.storeUnit u d.data
  let s := s.logE { kind := 0x04, island := isl, outcome := 2, addr := u, syn := d.syn.pack.toNat }
  let l := (s.lastScrubs h).erase a
  let s := { s with ix := { s.ix with last := mapSet (fun _ => []) s.ix.last h ((a :: l).take 16) } }
  let s := if inj then s.injFired isl u else s
  if rep || inj then s.hardFaultScrub a else s

/-- A unit that the scrubber finds in address or uncorrectable error: in the repair map its pair takes a slot,
outside it the unit is poisoned and logged. -/
def State.scrubBad (s : State) (u : Nat) (d : Decoded) : State :=
  let isl := (homeIsland u).getD 0
  match s.rmapAt u with
  | some _ =>
    let s := match s.slotOf u, s.freeSlot with
      | none, some k => s.assignSlot k u isl []
      | _, _ => s
    s.logE { kind := 0x05, island := isl, outcome := d.outc.val.toNat, addr := u, syn := d.syn.pack.toNat }
  | none =>
    (s.storePoison u).logE
      { kind := 0x05, island := isl, outcome := d.outc.val.toNat, addr := u, syn := d.syn.pack.toNat }

/-- Scrub one coded unit of home h; `a` is the pair, or granule of a meadow, that the home remembers, and `rep` tells that it
did so before this scrub. -/
def State.scrubUnit (s : State) (h a u : Nat) (rep : Bool) : State :=
  let (s, d) := s.loadUnit false u
  match d.outc with
  | .clean | .poison => s
  | .corrected => s.scrubCorrected h a u rep d
  | _ => s.scrubBad u d

/-- Scrub the units of a pair; one in repair or in a remap copy is skipped. -/
def State.scrubPair (s : State) (h a : Nat) (us : List Nat) : State :=
  let rep := (s.lastScrubs h).contains a
  if s.inRepair a then s else us.foldl (fun s u => if s.inRepair u then s else s.scrubUnit h a u rep) s

/-- Address of pair n of heath device d (R261, R278). -/
def heathPairAddr (d n : Nat) : Nat :=
  heathBase + d / 16 * halfSize + (n / 15 * 16 + d % 16) * 960 + n % 15 * 64

/-- A heath device's scrub is due (R278): nothing while scrubbing is off or the group does not answer. -/
def State.heathScrub (s : State) (d : Nat) : State :=
  if s.fld .icxScrubHth 0 31 0 = 0 || !s.ready (68 + d / 8) then s
  else
    let n := mapGet (fun _ => 0) s.ix.hpos d
    let a := heathPairAddr d n
    (State.scrubPair { s with ix := { s.ix with hpos := mapSet (fun _ => 0) s.ix.hpos d ((n + 1) % 62914560) } }
      (16 + d / 8) a [a])

/-- HEATH_SCRUB_TICK (R278). -/
def execHeathScrubTick (dev : Fin 32) (s : State) : Host.Outcome State Fault Refusal := .next (s.heathScrub dev.val)

/-- A cluster's meadow scrub is due (R278). -/
def State.meadowScrub (s : State) (c : Nat) : State :=
  if s.fld .icxScrubMdw 0 31 0 = 0 || !s.ready c then s
  else
    let n := mapGet (fun _ => 0) s.ix.mpos c
    let a := meadowBase + c * 2 ^ 24 + 32 * n
    (State.scrubPair { s with ix := { s.ix with mpos := mapSet (fun _ => 0) s.ix.mpos c ((n + 1) % 524288) } }
      (20 + c) a [a])

/-- MEADOW_SCRUB_TICK (R278). -/
def execMeadowScrubTick (c : Cl) (s : State) : Host.Outcome State Fault Refusal := .next (s.meadowScrub c.val)

/-! ## The repair map (R279) -/

/-- Whether a slot of a range is active. -/
def State.rangeActive (s : State) (h : Nat) : Bool :=
  match s.range h with
  | none => false
  | some rg => s.ix.slots.any (fun p => p.2.st != 0 && rgCovers rg p.2.addr)

/-- A write of ICX_RMAP_CFG to an entry (R279): refused while a slot of its present range is active, or where
the new range stands in another valid entry. -/
def State.rmapWrite (s : State) (v : Word) : State :=
  let e := s.fld .icxRmapSel 0 5 0
  let old := s.rmapWord e
  let v := v &&& BitVec.ofNat 64 (2 ^ 40 - 1)
  let twice := wbit v 39 && (List.range 64).any (fun i => i != e && wbit (s.rmapWord i) 39 &&
    decide (wb (s.rmapWord i) 15 0 = wb v 15 0))
  if (wbit old 39 && s.rangeActive (wb old 15 0)) || twice then s.setBit .icxStat 0 9 true
  else { s with ix := { s.ix with rmap := mapSet (fun _ => 0#64) s.ix.rmap e v } }

/-- REPAIR_MAP_WRITE (R279). -/
def execRepairMapWrite (v : Word) (s : State) : Host.Outcome State Fault Refusal := .next (s.rmapWrite v)

/-! ## Injection (R286) -/

/-- Whether a detector accepts a kind in a mode. -/
def injAccepts (det kind : Nat) (mode : Bool) : Bool :=
  match det with
  | 0 | 2 | 3 => decide (kind ≤ 3)
  | 1 => decide (kind ≤ 3) && mode
  | 4 | 5 | 6 => decide (kind = 4)
  | _ => false

/-- A write of ICX_INJ_CTL: the fields are stored, a pattern of 0 as 1, and arm arms or is refused. -/
def State.injWrite (s : State) (v : Word) : State :=
  let pat := wb v 18 11
  let s := s.setReg .icxInjCtl 0 0 (BitVec.ofNat 64 (wb v 10 0 + (if pat = 0 then 1 else pat) * 2 ^ 11 +
    b2n (s.flag .icxInjCtl 0 19) * 2 ^ 19))
  if !wbit v 19 then s
  else if s.flag .icxCfg 0 27 && injAccepts (s.fld .icxInjSel 0 3 0) (wb v 2 0) (wbit v 3) then
    (s.setBit .icxInjCtl 0 19 true).setBit .icxInjStat 0 0 true
  else s.setBit .icxInjStat 0 2 true

/-- INJECTION_ARM (R286): a write of ICX_INJ_CTL with arm set. -/
def execInjectionArm (v : Word) (s : State) : Host.Outcome State Fault Refusal :=
  .next (s.injWrite (v ||| BitVec.ofNat 64 (2 ^ 19)))

/-! ## Log size and trace capture (R287, R289) -/

/-- An accepted write of full discards every trace entry. -/
def State.dropTrace (s : State) : State :=
  { s with ix := { s.ix with buf := s.ix.buf.filter (fun p => decide (p.1 < 4096)) } }

/-- A write of ICX_LOG_CFG: full is refused while the log holds entries; set, it stops a capture (R287, R289). -/
def State.logCfgWrite (s : State) (v : Word) : State :=
  let s := s.setFld .icxLogCfg 0 13 1 (wb v 13 1)
  let s := if s.logCount ≠ 0 then s
    else
      let s := s.setBit .icxLogCfg 0 0 (wbit v 0)
      if wbit v 0 then s.stopTrace.dropTrace else s
  s.logLevel

/-- LOG_FULL_WRITE (R287). -/
def execLogFullWrite (v : Word) (s : State) : Host.Outcome State Fault Refusal := .next (s.logCfgWrite v)

/-- Refuse a start or configuration of trace capture with a reason. -/
def State.traceRefuse (s : State) (reason : Nat) : State :=
  (s.setBit .tlmTraceStat 0 1 true).setFld .tlmTraceStat 0 3 2 reason

/-- Bit n of the options of the accepted configuration record (R340); 0 where none is accepted. -/
def State.option (s : State) (n : Nat) : Bool :=
  bitOf (mapGet (fun _ => 0#8) s.se.record (80 + n / 8)).toNat (n % 8)

/-- A capture starts, or is refused with a reason (R289). The start bit is set by the write and stays set (R8, log
entry 103). -/
def State.traceStart (s : State) : State :=
  let s := s.setBit .tlmTraceCtl 0 0 true
  if !s.option 8 then s.traceRefuse 1
  else if s.flag .icxLogCfg 0 0 then s.traceRefuse 2
  else if s.flag .tlmTraceStat 0 0 then s.traceRefuse 3
  else
    let s := { s with ix := { s.ix with trSeq := 0, trq := [] } }
    s.setReg .tlmTraceStat 0 0 (BitVec.ofNat 64 (1 + b2n (s.flag .tlmTraceStat 0 1) * 2))

/-- TRACE_START (R289). -/
def execTraceStart (s : State) : Host.Outcome State Fault Refusal := .next s.traceStart

/-- A write of 1 to the stop bit stops the capture (R289); the bit stays set (R8, log entry 103). -/
def State.traceStop (s : State) : State := (s.setBit .tlmTraceCtl 0 1 true).stopTrace

/-- TRACE_STOP (R289). -/
def execTraceStop (s : State) : Host.Outcome State Fault Refusal := .next s.traceStop

/-- The bits of TLM_TRACE_CFG that are not reserved: kinds 13:1, fields, stacks, I/O dies, platform, context filter and
mode (R289). -/
def traceCfgMask : Nat := 2 ^ 51 - 1 - (2 ^ 15 + 2 ^ 14 + 1)

/-- A write of TLM_TRACE_CFG (R289). -/
def State.traceCfgWrite (s : State) (v : Word) : State :=
  if s.flag .tlmTraceStat 0 0 then s.traceRefuse 3
  else s.setReg .tlmTraceCfg 0 0 (v &&& BitVec.ofNat 64 traceCfgMask)

/-- TRACE_CONFIG_WRITE (R289). -/
def execTraceConfigWrite (v : Word) (s : State) : Host.Outcome State Fault Refusal := .next (s.traceCfgWrite v)

/-- A selected event reaches the always-on domain: written, queued behind those that wait, or dropped (R289). -/
def State.traceIn (s : State) (e : TraceEv) : State :=
  if !s.flag .tlmTraceStat 0 0 then s
  else if s.ix.trq.isEmpty && !s.ix.trBusy then s.writeTrace e
  else if s.ix.trq.length < 16 then { s with ix := { s.ix with trq := s.ix.trq ++ [e] } }
  else s.bump .tlmTraceDrop 0 1

/-- TRACE_EVENT (R289). -/
def execTraceEvent (e : TraceEv) (s : State) : Host.Outcome State Fault Refusal := .next (s.arrive (.traceEvent e) (fun s => s.traceIn e))

end Sys2Proof.Machine
end

