-- ==== Sys2Proof/Machine/BankCtl.lean ====
section
/-! DEFINITION. The stack controller (R86–R102): ordinary column and row commands, refresh, row hammer,
scrubbing, pass boundaries and the issue of bank descriptors. -/
namespace Sys2Proof.Machine

/-! ## Column commands (R87) -/

/-- Execute COLUMN_NOP: nothing (R87). -/
def execColumnNop (_st : St) (_ch : Ch) (s : State) : Host.Outcome State Fault Refusal := .next s

/-- Bank, first column and number of granules of a column command; the low column bit is ignored. -/
def colBank (w : Nat) : Nat := bits w 5 0
def colFirst (w : Nat) : Nat := bits w 11 6 / 2 * 2
def colCount (w : Nat) : Nat := 2 * (bits w 15 12 + 1)

/-- Precharge after the command where it asks for it. -/
def State.autoPre (s : State) (st ch b : Nat) (w : Nat) : State :=
  if bitOf w 16 then s.modBank st ch b (fun v => { v with row := none }) else s

/-- Read one granule for the pins: data, poison. A place the manual gives no granule for reads as a free value
(log entry 2). -/
def State.pinGranule (s : State) (st ch b : Nat) (row : Option Nat) (col : Nat) : State × Nat × Bool :=
  match row with
  | some r =>
    if col < 64 then
      let (s, d) := s.loadUnit false (stackAddr st ch b r col)
      (s, if d.outc.bad then 0 else leNat d.data, d.outc.bad)
    else
      let (s, g) := s.bpuRead st ch b r col
      (s, g.data, false)
  | none =>
    let (s, g) := s.bpuRead st ch b 0 64
    (s, g.data, false)

/-- RD: granule pairs of the open row through the decoder, onto the pins. -/
def State.rdCmd (s : State) (st ch : Nat) (w : Nat) : State :=
  let b := colBank w
  let row := (s.bank st ch b).row
  let (s, v, bad) := (List.range (colCount w)).foldl (fun (p : State × Nat × Bool) i =>
    let (s, x, k) := p.1.pinGranule st ch b row (colFirst w + i)
    (s, p.2.1 + x % 2 ^ 256 * 2 ^ (256 * i), p.2.2 || k)) (s, 0, false)
  (s.modChan st ch (fun c => { c with pins := BitVec.ofNat 8192 v, pinP := bad })).autoPre st ch b w

def execRd (st : St) (ch : Ch) (w : BitVec 26) (s : State) : Host.Outcome State Fault Refusal :=
  .next (s.rdCmd st.val ch.val w.toNat)

/-- WR: granule pairs into the open row through the encoder. -/
def State.wrCmd (s : State) (st ch : Nat) (w : Nat) (data : List Byte) : State :=
  let b := colBank w
  let s := match (s.bank st ch b).row with
    | none => s
    | some r => (List.range (colCount w)).foldl (fun s i =>
        if colFirst w + i < 64 then
          s.storeUnit (stackAddr st ch b r (colFirst w + i)) ((List.range 32).map (fun j => data.getD (32 * i + j) 0))
        else s) s
  s.autoPre st ch b w

def execWr (st : St) (ch : Ch) (w : BitVec 26) (data : List Byte) (s : State) : Host.Outcome State Fault Refusal :=
  .next (s.wrCmd st.val ch.val w.toNat data)

/-- The two granules of a pair of the open row. -/
def State.openPair (s : State) (st ch : Nat) (w : Nat) : List Nat :=
  match (s.bank st ch (colBank w)).row with
  | some r => [stackAddr st ch (colBank w) r (colFirst w), stackAddr st ch (colBank w) r (colFirst w + 1)]
  | none => []

/-- SCRB: one pair is read, decoded, written back if corrected, and its outcome acted on (R278). -/
def State.scrbCmd (s : State) (st ch : Nat) (w : Nat) : State :=
  match s.openPair st ch w with
  | [] => s
  | u :: l => s.scrubPair st u (u :: l)

def execScrb (st : St) (ch : Ch) (w : BitVec 26) (s : State) : Host.Outcome State Fault Refusal :=
  .next (s.scrbCmd st.val ch.val w.toNat)

/-- WRP: the poison encoding into one pair. -/
def State.wrpCmd (s : State) (st ch : Nat) (w : Nat) : State :=
  (s.openPair st ch w).foldl (fun s u => s.storePoison u) s

def execWrp (st : St) (ch : Ch) (w : BitVec 26) (s : State) : Host.Outcome State Fault Refusal :=
  .next (s.wrpCmd st.val ch.val w.toNat)

/-! ## Row hammer (R94) -/

/-- A targeted refresh never comes during a pass of its bank: the controller waits for the boundary (R81, R86). -/
def State.rfmCmd (s : State) (st ch b : Nat) : State := if (s.bank st ch b).active then s else s.rfmOne st ch b

def execRfm (st : St) (ch : Ch) (w : BitVec 20) (s : State) : Host.Outcome State Fault Refusal :=
  .next (s.rfmCmd st.val ch.val (bits w.toNat 19 14))

/-- SRFM: a targeted refresh of every bank of the bank set (R88). -/
def State.srfmCmd (s : State) (st ch : Nat) : State :=
  if (s.setOf st ch).any (fun b => (s.bank st ch b).active) then s
  else ((s.setOf st ch).foldl (fun s b => s.rfmBank st ch b) s).bump .stkPerfRfm st 1

def execSrfm (st : St) (ch : Ch) (s : State) : Host.Outcome State Fault Refusal := .next (s.srfmCmd st.val ch.val)

/-! ## Row commands (R88) -/

def execRowNop (_st : St) (_ch : Ch) (s : State) : Host.Outcome State Fault Refusal := .next s

/-- ACT (R88, R94). -/
def execAct (st : St) (ch : Ch) (w : BitVec 20) (s : State) : Host.Outcome State Fault Refusal :=
  .next (s.activate st.val ch.val (bits w.toNat 19 14) (bits w.toNat 13 0))

/-- What a precharge does to a bank: it never comes while a pass is active there (R81). -/
def prechargeBank (v : Bank) : Bank := if v.active then v else closeRow v

def execPre (st : St) (ch : Ch) (w : BitVec 20) (s : State) : Host.Outcome State Fault Refusal :=
  .next (s.modBank st.val ch.val (bits w.toNat 19 14) prechargeBank)

/-- PREA: every bank of the channel. -/
def State.preaCmd (s : State) (st ch : Nat) : State :=
  (List.range 64).foldl (fun s b => s.modBank st ch b prechargeBank) s

def execPrea (st : St) (ch : Ch) (s : State) : Host.Outcome State Fault Refusal := .next (s.preaCmd st.val ch.val)

/-- SACT: one row in every bank of the set, after the write-combining lines of the bank are written (R266). -/
def State.sactCmd (s : State) (st ch row : Nat) : State :=
  (s.setOf st ch).foldl (fun s b => (s.flushBank st ch b).activate st ch b row) s

def execSact (st : St) (ch : Ch) (w : BitVec 20) (s : State) : Host.Outcome State Fault Refusal :=
  .next (s.sactCmd st.val ch.val (bits w.toNat 13 0))

/-- SPRE: every bank of the set. -/
def State.spreCmd (s : State) (st ch : Nat) : State := s.eachBank st ch prechargeBank

def execSpre (st : St) (ch : Ch) (s : State) : Host.Outcome State Fault Refusal := .next (s.spreCmd st.val ch.val)

/-- The largest refresh debt of any channel of a stack shows in STK_REF_STAT (R102). -/
def State.showDebt (s : State) (st : Nat) : State :=
  let d := (List.range 32).foldl (fun m ch => max m (s.chan st ch).debt.toNat) 0
  s.setFld .stkRefStat st 3 0 (min 8 d)

/-- One refresh: every bank of the channel is precharged and refreshed; counts fall by 32 and one REF of the debt is
paid or pulled in (R88, R93, R94). -/
def State.refreshNow (s : State) (st ch : Nat) : State :=
  let d := (s.chan st ch).debt
  let s := s.trace 8 (52 + st) none 0 0 0 0 (ch + min 8 d.toNat * 32)
  let s := s.preaCmd st ch
  let s := (List.range 64).foldl (fun s b => s.modBank st ch b (fun v => { v with raa := v.raa - 32 })) s
  ((s.modChan st ch (fun c => { c with debt := c.debt - 1 })).bump .stkPerfRef st 1).showDebt st

/-- Whether the controller issues REF: never during a pass; when one is owed, or, up to 8 early, in a channel where no bank
set steps and no ordinary request waits (R81, R93). -/
def Chan.mayRefresh (c : Chan) : Bool :=
  c.pass.isNone && (decide (0 < c.debt) || (decide (-8 < c.debt) && !c.steps && c.ord.isEmpty))

/-- REF (R88, R93): it waits while the channel may not take it. -/
def State.refCmd (s : State) (st ch : Nat) : State := if (s.chan st ch).mayRefresh then s.refreshNow st ch else s

def execRef (st : St) (ch : Ch) (s : State) : Host.Outcome State Fault Refusal := .next (s.refCmd st.val ch.val)

/-! ## Refresh (R93) -/

/-- Issue REF until nothing is owed; a channel that was stopped admits passes again. -/
def State.payDebt (s : State) (st ch : Nat) : State :=
  let s := (List.range (s.chan st ch).debt.toNat).foldl (fun s _ => s.refreshNow st ch) s
  s.modChan st ch (fun c => { c with stop := false })

/-- The debt would exceed 8 REF, or an injection says so: no passes are admitted, and the stack's internal error
is raised. -/
def State.debtOver (s : State) (st ch : Nat) : State :=
  ((s.modChan st ch (fun c => { c with stop := true })).setBit .stkRefStat st 5 true).stackInternal st

/-- REFRESH_DUE (R93): at once with no bank set stepping, else owed to the next boundary. -/
def State.refreshDue (s : State) (st ch : Nat) : State :=
  let inj := s.injEvent 4 st
  let s := s.modChan st ch (fun c => { c with debt := c.debt + 1 })
  let s := if inj then s.injFired (52 + st) 0 else s
  let s := if inj || decide (8 < (s.chan st ch).debt) then s.debtOver st ch else s
  if (s.chan st ch).steps then s.showDebt st
  else ((s.payDebt st ch).showDebt st).chanNext st ch

def execRefreshDue (st : St) (ch : Ch) (s : State) : Host.Outcome State Fault Refusal :=
  .next (s.refreshDue st.val ch.val)

/-! ## Scrubbing (R95, R96) -/

/-- STK_SCRUB_PTR: the pair last scrubbed by every channel, and the complete sweeps (R102). -/
def State.showScrub (s : State) (st : Nat) : State :=
  let n := (List.range 32).foldl (fun m ch => min m (s.chan st ch).pos) (s.chan st 0).pos
  let l := n - 1
  s.setReg .stkScrubPtr st 0 (BitVec.ofNat 64 (if n = 0 then 0
    else l % 32 + l / 32 % 16384 * 2 ^ 5 + l / 524288 % 64 * 2 ^ 19 + min 65535 (n / 2 ^ 25) * 2 ^ 32))

/-- The first granule of the pair that a channel scrubs next. -/
def scrubAddr (st ch n : Nat) : Nat := stackAddr st ch (n / 524288 % 64) (n / 32 % 16384) (2 * (n % 32))

/-- Remove the oldest scrub of a list. -/
def dropScrub : List OrdItem → List OrdItem
  | [] => []
  | .scrub :: t => t
  | x :: t => x :: dropScrub t

/-- Scrub the next pair of a channel, which the oldest due scrub asked for. -/
def State.scrubNext (s : State) (st ch : Nat) : State :=
  let n := (s.chan st ch).pos
  let u := scrubAddr st ch n
  let s := s.modChan st ch (fun c => { c with pos := n + 1, ord := dropScrub c.ord })
  (s.scrubPair st u [u, u + 32]).showScrub st

/-- Scrubs that are due in a channel. -/
def Chan.scrubs (c : Chan) : Nat := c.ord.count .scrub

/-- Whether an ordinary request waits in a channel. -/
def Chan.waits (c : Chan) : Bool := c.ord.any (fun x => x != .scrub)

/-- Scrubs that are due take idle slots: no ordinary request waits, and the bank does not step (R95). -/
def State.idleScrubs (s : State) (st ch : Nat) : State :=
  (List.range (s.chan st ch).scrubs).foldl (fun s _ =>
    if (s.chan st ch).waits || s.stepping (scrubAddr st ch (s.chan st ch).pos) then s else s.scrubNext st ch) s

/-- SCRUB_TICK (R95): off at interval 0, held off by self-test (R96). -/
def State.scrubTick (s : State) (st ch : Nat) : State :=
  if s.fld .stkScrubCfg st 31 0 = 0 || s.flag .stkScrubCfg st 40 || !s.ready (52 + st) then s
  else (s.modChan st ch (fun c => { c with ord := c.ord ++ [.scrub] })).idleScrubs st ch

def execScrubTick (st : St) (ch : Ch) (s : State) : Host.Outcome State Fault Refusal :=
  .next (s.scrubTick st.val ch.val)

/-! ## Ordinary requests (R91) -/

/-- A write of STK_ARB_CFG; values below 24 are stored as 24 (R102). -/
def State.arbCfg (s : State) (st : Nat) (v : Word) : State := s.setFld .stkArbCfg st 7 0 (max 24 (wb v 7 0))

def execArbConfigWrite (st : St) (v : Word) (s : State) : Host.Outcome State Fault Refusal :=
  .next (s.arbCfg st.val v)

/-- ORDINARY_REQUEST (R91): served at once, or at the next boundary where its bank steps. -/
def State.ordinary (s : State) (st : Nat) (q : MemReq) : State :=
  if regionOf q.addr ≠ .stack st then s else s.atHome q

def execOrdinaryRequest (st : St) (iss : Issuer) (addr len : Nat) (data : List Byte) (isWrite : Bool) (s : State) :
    Host.Outcome State Fault Refusal :=
  .next (s.ordinary st.val
    ⟨iss, if isWrite then .wr else .rd, addr, if isWrite then data.length else len, if isWrite then data else [], [], false, none⟩)

/-- Cost in bs of an ordinary request at a boundary: 22 bs and 160 B per bs (R99; DESIGN CHOICE, log entry 24). -/
def ordCost (q : MemReq) : Nat := 22 + (q.len + 159) / 160

/-- The ordinary allowance of a channel: that of the descriptor that steps, as sampled at its dispatch (R102). -/
def State.allowance (s : State) (st ch : Nat) : Nat :=
  match (s.chan st ch).run.bind s.task with
  | some k => k.arb.getD st 64
  | none => s.fld .stkArbCfg st 7 0

/-- Serve what waits, oldest first, within the allowance (R90, R95): requests, and scrubs among them once they are
overdue. `n` scrubs are overdue; what does not fit waits, and with it everything behind. The result is what is left of
the allowance. -/
def State.serveOrd (s : State) (st ch : Nat) : Nat → Nat → List OrdItem → State × Nat
  | left, _, [] => (s, left)
  | left, n, .req q :: t =>
    if ordCost q ≤ left then
      ((s.modChan st ch (fun c => { c with ord := c.ord.erase (.req q) })).serveReq q).serveOrd st ch (left - ordCost q) n t
    else (s, 0)
  | left, 0, .scrub :: t => s.serveOrd st ch left 0 t
  | left, n + 1, .scrub :: t =>
    if 24 ≤ left then (s.scrubNext st ch).serveOrd st ch (left - 24) n t else (s, 0)

/-! ## Pass boundaries (R90) -/

/-- Order 2: targeted refreshes: of the banks of the set at their limit, and of every bank with a row alert (R94). -/
def State.boundaryRfm (s : State) (st ch : Nat) : State :=
  (List.range 64).foldl (fun s b =>
    let v := s.bank st ch b
    if v.alert || ((s.chan st ch).bset.getLsbD b && decide (s.raaimt st ≤ v.raa)) then s.rfmOne st ch b else s) s

/-- Order 3: what waits, within the allowance; then scrubs that are not overdue take what is left of it, where no request
waits (R95). -/
def State.boundaryOrd (s : State) (st ch : Nat) : State :=
  let c := s.chan st ch
  let (s, left) := s.serveOrd st ch (s.allowance st ch) (c.scrubs - s.fld .stkScrubCfg st 39 32) c.ord
  if (s.chan st ch).waits then s
  else (List.range (min (s.chan st ch).scrubs (left / 24))).foldl (fun s _ => s.scrubNext st ch) s

/-- Order 4: a best-effort descriptor is switched out for a latency-critical one that waits (R92). -/
def State.boundarySwitch (s : State) (st ch : Nat) : State :=
  let c := s.chan st ch
  match c.run, c.queue.find? (fun t => !s.bestTaskOf t) with
  | some r, some _ =>
    if s.bestTaskOf r then
      let s := s.spillSet st ch
      (s.modChan st ch (fun c => { c with run := none, spilled := ⟨r, c.bset⟩ :: c.spilled })).chanNext st ch
    else s
  | none, _ => s.chanNext st ch
  | _, none => s

/-- Orders 1 to 3 of a boundary: owed refreshes, targeted refreshes, ordinary requests. -/
def State.atBoundary (s : State) (st ch : Nat) : State := ((s.payDebt st ch).boundaryRfm st ch).boundaryOrd st ch

/-- PASS_BOUNDARY (R90): with the set's rows closed, refresh, targeted refresh, ordinary requests and any switch,
in this order; the loads and the activate of order 5 come as commands of their own. During a pass there is no
boundary. -/
def State.boundary (s : State) (st ch : Nat) : State :=
  if (s.chan st ch).pass.isSome then s
  else (((s.spreCmd st ch).atBoundary st ch).boundarySwitch st ch).showDebt st

def execPassBoundary (st : St) (ch : Ch) (s : State) : Host.Outcome State Fault Refusal :=
  .next (s.boundary st.val ch.val)

/-- BANK_DESCRIPTOR_ISSUE (R92): the descriptor joins its channel's queue, and steps when the channel is idle. -/
def State.bankIssue (s : State) (st ch t : Nat) : State :=
  match s.task t with
  | none => s
  | some k =>
    if k.phase ≠ .running || !k.route || (s.chansWith t).contains (st, ch) then s
    else (s.modChan st ch (fun c => { c with queue := s.enqueue t c.queue })).chanNext st ch

def execBankDescriptorIssue (st : St) (ch : Ch) (t : Nat) (s : State) : Host.Outcome State Fault Refusal :=
  .next (s.arrive (.bankDescriptorIssue st ch t) (fun s => s.bankIssue st.val ch.val t))

end Sys2Proof.Machine
end

