-- ==== Sys2Proof/Machine/BankRun.lean ====
section
/-! DEFINITION. The work of a bank descriptor (R76–R79, R83, R84, R89, R275): the stream of commands that the stack
controller builds from it, channel by channel, the combining of slices, and matrix products as whole commands. -/
namespace Sys2Proof.Machine

/-! ## What a descriptor's passes yield (R76–R79, R84) -/

/-- Channels of one stack that hold a descriptor. -/
def State.stackChans (s : State) (st t : Nat) : List Nat :=
  ((s.chansWith t).filter (fun p => decide (p.1 = st))).map (·.2)

/-- Channels that a descriptor's issue has still to reach (R18). -/
def State.issuesOf (s : State) (t : Nat) : List Nat :=
  s.flight.filterMap (fun y => match y.m with
    | .bankDescriptorIssue st _ x => if x = t then some st.val else none
    | _ => none)

/-- Stacks whose work for a descriptor is not done. -/
def State.stacksLeft (s : State) (t : Nat) : List Nat := uniq ((s.chansWith t).map (·.1) ++ s.issuesOf t)

/-- The terms of slice i of an output element: K positions past the end of K are zero codes in the block of the
last one (R72, R74). -/
def sliceTerms (ts : List Term) (k per i : Nat) : List Term :=
  (List.range per).map (fun j =>
    let x := i * per + j
    match ts[x]? with
    | some t => t
    | none => ⟨x, FV.zero, (ts.getD (k - 1) ⟨0, FV.zero, FV.zero⟩).sc⟩)

/-- The running sum of every slice of an element, and the saturations (R41, R69, R77): a slice ends its last block unit. -/
def sliceSums (mode : AccMode) (u : Nat) (ts : List Term) (k per s : Nat) : List (BitVec 32) × Nat :=
  (List.range s).foldl (fun (p : List (BitVec 32) × Nat) i =>
    let a := AccSt.terms mode u ((i + 1) * per) AccSt.zero (sliceTerms ts k per i)
    (p.1 ++ [a.run], p.2 + a.sat)) ([], 0)

/-- The slices' sums added in ascending order: FP32 with RNE, or INT32 with saturation, counted (R76). -/
def combineSums (mode : AccMode) : List (BitVec 32) → BitVec 32 × Nat
  | [] => (0, 0)
  | a :: l => l.foldl (fun (p : BitVec 32 × Nat) v => match mode with
    | .plainI => let (x, f) := satAdd32 p.1 v.toInt; (x, p.2 + b2n f)
    | _ => (fadd p.1 v, p.2)) (a, 0)

/-- Modes and slices of a product in the banks. -/
def Prod.bmode (p : Prod) : AccMode := bankMode (teOp p.a.e) (teOp p.b.e)
def Prod.lay (p : Prod) : Layout := layoutOf p.b.e p.b.rg

/-- The element at row r, column c as the banks and their controller form it: bits and saturations. -/
def Prod.bankElem (p : Prod) (ma mb : Snap) (r c : Nat) : BitVec 32 × Nat :=
  let l := p.lay
  let ts := (p.terms ma mb 0 r c 0 p.dims.k).map (·.1)
  let (vs, n) := sliceSums p.bmode p.unit ts p.dims.k (l.q * l.p) l.s
  let (v, m) := combineSums p.bmode vs
  (v, n + m)

/-- The register form in which the controller sends an activation (R72, R79). -/
def actForm (a b : EType) : EType :=
  match a with
  | .fp16 => .fp16
  | .int4 | .int8 | .int16 => .int16
  | .tern => if b.isFloat then .bf16 else .int16
  | _ => .bf16

/-- The pass configuration of a product with b rows, with the block unit of its operands (R40, R77). -/
def Prod.passCfg (p : Prod) (b : Nat) : PassCfg :=
  { wt := teType p.b.e, form := actForm (teType p.a.e) (teType p.b.e), rows := b, tagged := teEscapes p.b.e,
    ws := teStype p.b.e, as := teStype p.a.e, unit := p.unit }

/-- The PCFG word of a configuration (R80). -/
def PassCfg.word (c : PassCfg) : BitVec 26 :=
  let form := if c.form = .bf16 then 0 else if c.form = .fp16 then 1 else 2
  BitVec.ofNat 26 (c.wt.code + form * 2 ^ 5 + (c.rows - 1) * 2 ^ 7 + b2n c.tagged * 2 ^ 9 + b2n (c.ws != .none) * 2 ^ 10 +
    b2n (c.ws == .e4m3) * 2 ^ 11 + b2n (c.as != .none) * 2 ^ 12 + b2n (c.as == .e4m3) * 2 ^ 13)

/-- The MPASS word of a pass (R80). -/
def PassWord.word (p : PassWord) : BitVec 26 :=
  BitVec.ofNat 26 (p.c0 + p.n * 2 ^ 6 + p.slot * 2 ^ 13 + p.tag * 2 ^ 15 + p.half * 2 ^ 19)

/-- Where an n-group's slice lies in a channel: the n-group, its bank and its first row (R74). -/
structure Cell where
  g : Nat
  bank : Nat
  row : Nat
  deriving DecidableEq, Repr

/-- The n-groups of slice i that lie in a channel. -/
def Prod.cellsOf (p : Prod) (st ch i : Nat) : List Cell :=
  (List.range (p.lay.groups p.dims.n)).filterMap (fun g =>
    let (s, c, b, r) := p.lay.place p.b.rg g i
    if s = st ∧ c = ch then some ⟨g, b, r⟩ else none)

/-- What one sequence computes in one channel: its configuration, the slice, the first activation row, and the cells
whose banks are the bank set. -/
structure Seq where
  cfg : PassCfg
  i : Nat
  r0 : Nat
  cells : List Cell
  deriving DecidableEq, Repr

/-- The bank set of a sequence. -/
def Seq.mask (q : Seq) : BitVec 64 := BitVec.ofNat 64 (q.cells.foldl (fun n c => n + 2 ^ c.bank) 0)

/-- K position of the first element of row segment q of a sequence's slice, and how many of `n` positions from there lie
below K. -/
def Prod.kOf (p : Prod) (x : Seq) (q : Nat) : Nat := x.i * (p.lay.q * p.lay.p) + q * p.lay.p
def Prod.kLeft (p : Prod) (lo n : Nat) : Nat := min n (p.dims.k - lo)

/-- What an LDR of activations carries: 64 positions of a row as register words, and whether any was poisoned (R79). -/
def Prod.actReg (p : Prod) (ma : Snap) (form : EType) (r lo n : Nat) : BitVec 1024 × Bool :=
  let xs := (List.range (p.kLeft lo n)).map (fun j => p.a.raw ma (p.view (lo + j) r 0))
  let v := (List.range xs.length).foldl (fun (v : Nat) j =>
    let code := match xs[j]? with
      | some x => (convert form .rne (x.codeVal (teType p.a.e))).1
      | none => 0
    v + code % 65536 * 2 ^ (16 * j)) 0
  (BitVec.ofNat 1024 v, xs.any (·.bad))

/-- Whether the scale of the activation at a position is poisoned. -/
def Prod.actScaleBad (p : Prod) (ma : Snap) (k r : Nat) : Bool :=
  match p.a.loc true (p.view k r 0) with
  | .hit c _ => (p.a.item ma .scale c).2
  | _ => false

/-- What the LDR of bk14 carries (R71): byte 2r + u is the scale of row r for half u of the 64 positions. -/
def Prod.scaleReg (p : Prod) (ma : Snap) (r0 b lo n : Nat) : BitVec 1024 × Bool :=
  let ps := (List.range b).flatMap (fun r => [0, 1].map (fun u => (r, u)))
  let live := ps.filter (fun x => decide (0 < p.kLeft (lo + 32 * x.2) (n - 32 * x.2)))
  let v := live.foldl (fun (v : Nat) x =>
    v + (p.a.raw ma (p.view (lo + 32 * x.2) (r0 + x.1) 0)).scale % 256 * 2 ^ (8 * (2 * x.1 + x.2))) 0
  (BitVec.ofNat 1024 v, live.any (fun x => p.actScaleBad ma (lo + 32 * x.2) (r0 + x.1)))

/-- LDR of a register of the bank set (R79, R80). -/
def State.ldrReg (s : State) (st ch r : Nat) (v : BitVec 1024 × Bool) : State :=
  s.ldrCmd st ch (BitVec.ofNat 26 (r + 16 * b2n v.2)) v.1

/-- The loads before a pass: the rows' activations, and their scales where they are scaled (R79, R90). -/
def State.loadActs (s : State) (st ch : Nat) (p : Prod) (ma : Snap) (x : Seq) (lo n : Nat) : State :=
  let s := (List.range x.cfg.rows).foldl (fun s r => s.ldrReg st ch r (p.actReg ma x.cfg.form (x.r0 + r) lo n)) s
  if x.cfg.as = .none then s else s.ldrReg st ch 14 (p.scaleReg ma x.r0 x.cfg.rows lo n)

/-- Whether granule g of an n-group's side rows holds a scale or tag of the matrix: the rest is fill (R72, R75). -/
def Prod.sideReal (p : Prod) (x : Seq) (c : Cell) (g : Nat) : Bool :=
  let l := p.lay
  let cn := min l.w (p.dims.n - c.g * l.w)
  if g < l.q * l.sg then
    let per := max 1 (l.w / 32)
    decide (g % max 1 l.sg % per * 32 < cn ∧
      p.kOf x (g / max 1 l.sg) + g % max 1 l.sg / per * (teType p.b.e).blockLen < p.dims.k)
  else decide (p.kOf x ((g - l.q * l.sg) / 4 * 16 + (g - l.q * l.sg) % 4 * 4) < p.dims.k)

/-- Load side granule g into slot `slot` of register r in every bank of a sequence: fill reads as zero codes (R72). -/
def State.sideLoad (s : State) (st ch : Nat) (p : Prod) (x : Seq) (g r slot : Nat) : State :=
  x.cells.foldl (fun s c => match (s.bank st ch c.bank).row with
    | none => s.bpuMalformed st ch [c.bank]
    | some row =>
      if p.sideReal x c g then s.bankLoad st ch c.bank row [g % 64] r slot
      else s.modBank st ch c.bank (fun v =>
        v.setReg r (BitVec.ofNat 1024 (putBits (v.reg r).toNat (256 * slot + 255) (256 * slot) 0)))) s

/-- Open a row counted from the first row of each cell in every bank of a sequence: all cells of one sequence have their
n-groups at the same row. -/
def State.openRow (s : State) (st ch : Nat) (x : Seq) (d : Nat) : State :=
  match x.cells with
  | [] => s
  | c :: _ => s.sactCmd st ch (c.row + d)

/-- The side visits before row segment q (R75): the scales of the segments that bk12 and bk13 hold, and the tags of
sixteen segments; each side row opened is a visit that ends in a boundary. -/
def State.sideVisits (s : State) (st ch : Nat) (p : Prod) (x : Seq) (q : Nat) : State :=
  let l := p.lay
  let sc := if l.sg = 0 ∨ q % (8 / max 1 l.sg) ≠ 0 then []
    else (List.range (min 8 (l.sg * (l.q - q)))).map (fun j => (l.sg * q + j, 12 + j / 4, j % 4))
  let tg := if !x.cfg.tagged || q % 16 ≠ 0 then []
    else (List.range 4).map (fun j => (l.q * l.sg + q / 16 * 4 + j, 15, j))
  let loads := sc ++ tg
  (uniq (loads.map (fun y => y.1 / 64))).foldl (fun s row =>
    let s := s.openRow st ch x (l.q + row)
    let s := (loads.filter (fun y => y.1 / 64 = row)).foldl (fun s y => s.sideLoad st ch p x y.1 y.2.1 y.2.2) s
    (s.spreCmd st ch).atBoundary st ch) s

/-- The pass or passes over row segment q (R77): a ternary row takes two, with a load of activations between them; K
positions past the end of K are not stepped. -/
def State.weightVisit (s : State) (st ch : Nat) (p : Prod) (ma : Snap) (x : Seq) (q : Nat) : State :=
  let l := p.lay
  let n := min 64 l.p
  let s := s.openRow st ch x q
  let s := (List.range (cdiv l.p 64)).foldl (fun s h =>
    let lo := p.kOf x q + 64 * h
    let real := p.kLeft lo n
    if real = 0 then s
    else
      let w : PassWord := { c0 := 32 * h, n := cdiv real (kPerGranule x.cfg.wt), slot := q % (8 / max 1 l.sg), tag := q % 16,
                            half := 0, k0 := q * l.p, kEnd := p.kLeft (p.kOf x 0) (l.q * l.p) }
      ((s.loadActs st ch p ma x lo n).openPass st ch x.cfg w w.word).passEndCmd st ch) s
  (s.spreCmd st ch).atBoundary st ch

/-- A running sum as the readout returns it: slice, n-group, row, its two registers and their poison (R76, R84). -/
structure RowSum where
  i : Nat
  g : Nat
  r : Nat
  lo : BitVec 1024
  hi : BitVec 1024
  bad : Bool
  deriving DecidableEq, Repr

/-- RDR of one register of one bank: the data pins and the poison flag (R80). -/
def State.readReg (s : State) (st ch b r : Nat) : State × BitVec 1024 × Bool :=
  let s := s.rdrCmd st ch (BitVec.ofNat 26 (r + 16 * b))
  (s, (s.chan st ch).pins.setWidth 1024, (s.chan st ch).pinP)

/-- The readout of a sequence: the running sums of every row and bank (R76, R97). -/
def State.readSums (s : State) (st ch : Nat) (x : Seq) : State × List RowSum :=
  x.cells.foldl (fun (a : State × List RowSum) c => (List.range x.cfg.rows).foldl (fun (a : State × List RowSum) r =>
    let (s, lo, b0) := a.1.readReg st ch c.bank (4 + 2 * r)
    let (s, hi, b1) := s.readReg st ch c.bank (5 + 2 * r)
    (s, a.2 ++ [⟨x.i, c.g, x.r0 + r, lo, hi, b0 || b1⟩])) a) (s, [])

/-- One complete sequence (R78, R89): the registers are cleared, every row segment is visited in order, and the sums are
read out. -/
def State.runSeq (s : State) (st ch : Nat) (p : Prod) (ma : Snap) (x : Seq) : State × List RowSum :=
  let s := s.modChan st ch (fun c => { c with bset := x.mask, pcfg := x.cfg.word })
  let s := s.aclrCmd st ch 0x3FFFF#26
  let s := (List.range p.lay.q).foldl (fun s q => (s.sideVisits st ch p x q).weightVisit st ch p ma x q) s
  s.readSums st ch x

/-- The sequences of a channel in their order: waves of at most 32 banks, groups of four rows, and in each bank one
n-group after another (R78, R89). -/
def Prod.seqs (p : Prod) (i : Nat) (cells : List Cell) : List Seq :=
  let banks := (List.range 64).filter (fun b => cells.any (fun c => c.bank == b))
  (wavesOf banks).flatMap (fun wave => (List.range (cdiv p.dims.m 4)).flatMap (fun h =>
    let mine := cells.filter (fun c => wave.contains c.bank)
    (uniq (mine.map (·.row))).map (fun row =>
      ⟨p.passCfg (min 4 (p.dims.m - 4 * h)), i, 4 * h, mine.filter (fun c => c.row = row)⟩)))

/-- STAT of a bank at the end of a descriptor (R84): its corrected granules count for the stack and its saturations for
the descriptor; the second result tells its sticky poison. -/
def State.statBank (s : State) (st ch t b : Nat) : State × Bool :=
  let s := s.statCmd st ch (BitVec.ofNat 26 b)
  let w : Word := (s.chan st ch).pins.setWidth 64
  (((s.bump .stkBpuCorr st (wb w 31 16))).addCnt t ⟨wb w 47 32, 0⟩, wbit w stPoison)

/-- The rows that a descriptor steps for a cell: its segments and side rows. -/
def Prod.cellRows (p : Prod) (c : Cell) : List Nat := (List.range (p.lay.q + p.lay.side)).map (· + c.row)

/-- The controller locates what poisoned a pass (R275): it reads every row stepped in the flagged banks through its own
decoder and reports each granule that is not clean. Where every granule decodes clean and no operand of the
controller's own was bad, the first granule is reported with outcome 2, which releases at once (log entry 105). -/
def State.searchBad (s : State) (st ch t : Nat) (p : Prod) (flagged : List Cell) : State :=
  let us := flagged.flatMap (fun c => (p.cellRows c).flatMap (fun row =>
    (List.range 64).map (fun col => stackAddr st ch c.bank row col)))
  let (s, bad) := us.foldl (fun (q : State × Nat) u =>
    let (s, d) := q.1.loadUnit false u
    if d.outc = .clean then (s, q.2) else (s.reportBad (.task t) false u d.outc, q.2 + 1)) (s, 0)
  let had := match s.task t with
    | some k => k.poison
    | none => true
  match us with
  | u :: _ => if bad = 0 && !had then s.reportBad (.task t) false u .corrected else s
  | [] => s

/-- A descriptor's work in one channel of a stack: its sequences, the status of its banks and, where it shows poison, the
search for the granule (R76–R84, R275). -/
def State.chanWork (s : State) (st ch t : Nat) (p : Prod) (ma : Snap) : State × List RowSum :=
  let is := (List.range p.lay.s).filter (fun i => !(p.cellsOf st ch i).isEmpty)
  is.foldl (fun (a : State × List RowSum) i =>
    let cells := p.cellsOf st ch i
    let banks := uniq (cells.map (·.bank))
    let s := (a.1.passEndCmd st ch).onBanks st ch banks (bankClear 0x40000)
    let (s, sums) := (p.seqs i cells).foldl (fun (a : State × List RowSum) x =>
      let (s, l) := a.1.runSeq st ch p ma x
      (s, a.2 ++ l)) (s, a.2)
    let (s, flagged) := banks.foldl (fun (q : State × List Nat) b =>
      let (s, bad) := q.1.statBank st ch t b
      (s, if bad then q.2 ++ [b] else q.2)) (s, [])
    let s := if flagged.isEmpty then s
      else (s.searchBad st ch t p (cells.filter (fun c => flagged.contains c.bank))).consume t
    (s, sums)) (s, [])

/-- The sum of slice i of an output element among the sums read out: its bits and its poison. -/
def sumOf (l : List RowSum) (i g r n : Nat) : BitVec 32 × Bool :=
  match l.find? (fun x => x.i == i && x.g == g && x.r == r) with
  | some x => (regWord (if n < 32 then x.lo else x.hi) (n % 32), x.bad)
  | none => (0, false)

/-- Combine the slices of one row of an n-group and write its outputs (R76); a poisoned sum poisons the element (R84). -/
def State.writeSums (s : State) (t : Nat) (k : Task) (p : Prod) (l : List RowSum) (g r : Nat) : State :=
  let c0 := g * p.lay.w
  let cn := min p.lay.w (p.dims.n - c0)
  let xs := (List.range cn).map (fun n =>
    let vs := (List.range p.lay.s).map (fun i => sumOf l i g r n)
    (combineSums p.bmode (vs.map (·.1)), vs.any (·.2)))
  let vs := (List.range cn).map (fun n =>
    let x := xs.getD n ((0, 0), false)
    drainVal k p (c0 + n) ⟨x.1.1, FV.zero, 0, x.2⟩)
  let s := s.addCnt t ⟨(xs.map (fun x => x.1.2)).foldl (· + ·) 0, 0⟩
  s.storeOut t k p.d (p.view c0 r 0) vs

/-- The n-groups of a product that lie in one stack (R74). -/
def Prod.groupsIn (p : Prod) (st : Nat) : List Nat :=
  (List.range (p.lay.groups p.dims.n)).filter (fun g =>
    (List.range p.lay.s).any (fun i => decide ((p.lay.place p.b.rg g i).1 = st)) &&
      decide ((p.lay.place p.b.rg g 0).1 = st))

/-- Whether a row that a descriptor steps in a stack holds a pair in repair whose stall limit has not passed (R281). -/
def State.markedWork (s : State) (st t : Nat) (k : Task) (p : Prod) : Bool :=
  !k.expired && (s.stackChans st t).any (fun ch => (List.range p.lay.s).any (fun i =>
    (p.cellsOf st ch i).any (fun c => (p.cellRows c).any (fun r => s.markedRow st ch c.bank r))))

/-- The work of a descriptor in one stack: the sequences of its channels, the outputs of its n-groups, and the audit
where this is the last stack (R46, R76, R97). -/
def State.bankWork (s : State) (st t : Nat) (k : Task) : State :=
  match s.openProd t k ((s.stacksLeft t).length = (uniq ((s.weightChans k).map (·.1))).length) with
  | (s, none) => s
  | (s, some p) => if k.empty then s
    else if s.markedWork st t k p then { s with mm := { s.mm with marked := true } }
    else
    let av := (List.range p.dims.m).flatMap (fun r => (List.range p.dims.k).map (fun i => p.view i r 0))
    let (s, ma) := s.fetchViews (.task t) k.field false p.a av []
    let (s, sums) := (s.stackChans st t).foldl (fun (a : State × List RowSum) ch =>
      let (s, l) := a.1.chanWork st ch t p ma
      (s, a.2 ++ l)) (s, [])
    let s := (p.groupsIn st).foldl (fun s g => (List.range p.dims.m).foldl (fun s r => s.writeSums t k p sums g r) s) s
    if s.stacksLeft t = [st] then
      s.auditRun t p true (48 + k.field) (p.lay.q * p.lay.p) (fun ma mb _ r c =>
        if p.bmode = .plainI then FV.ofInt (p.bankElem ma mb r c).1.toInt else f32 (p.bankElem ma mb r c).1)
    else s

/-- A stack's work is done, once every channel of the stack that holds the descriptor steps it (R92): it is reported, and
the channels go on (R76, R152). While one of its accesses or passes meets a pair in repair, the work waits (R281). -/
def State.bankComplete (s : State) (st t : Nat) : State :=
  match s.task t with
  | none => s
  | some k =>
    let chs := s.stackChans st t
    if k.phase ≠ .running || !k.route || !chs.all (fun ch => (s.chan st ch).run == some t) || chs.isEmpty || (s.issuesOf t).contains st then s
    else
      let r := State.bankWork { s with mm := { s.mm with marked := false } } st t k
      if r.mm.marked then s else
      let s := r.injectOverrun st (52 + st) t
      let s := s.send (52 + st) (48 + k.field) (.unitDone t (match s.task t with
        | some k => (match k.dead with
          | some (e, d) => .error e d
          | none => if k.poison then .poison else .done)
        | none => .done) false)
      chs.foldl (fun s ch => s.leaveBank st ch t) s

/-- BANK_DESCRIPTOR_COMPLETE (R76). -/
def execBankDescriptorComplete (st : St) (t : Nat) (s : State) : Host.Outcome State Fault Refusal :=
  .next (s.bankComplete st.val t)

/-! ## Matrix products as whole commands (R60, R141) -/

/-- A product runs where its route put it: in the banks of every stack that holds it, or on the arrays. -/
def State.matmulRun (s : State) (t op : Nat) : State :=
  match s.task t with
  | none => s
  | some k =>
    if k.route then
      (if k.phase = .running ∧ twOpcode k.w = op then
        (uniq ((s.chansWith t).map (·.1))).foldl (fun s st => s.bankComplete st t) s else s)
    else s.runUnit t op (fun s k => s.productRun t k)

def execMatmul (t : Nat) (s : State) : Host.Outcome State Fault Refusal := .next (s.matmulRun t 0x10)
def execMatmulG (t : Nat) (s : State) : Host.Outcome State Fault Refusal := .next (s.matmulRun t 0x11)
def execMatmulB (t : Nat) (s : State) : Host.Outcome State Fault Refusal := .next (s.matmulRun t 0x12)
def execLscan (t : Nat) (s : State) : Host.Outcome State Fault Refusal := .next (s.matmulRun t 0x53)

end Sys2Proof.Machine
end

