-- ==== Sys2Proof/Machine/Serve.lean ====
section
/-! DEFINITION. The serving front end: stream tracker and requests (R232–R235, R250), steps and their reports
(R236–R240), constraint programs and masks (R243, R244), budgets (R245–R247), output rings (R248) and
partitions (R249). -/
namespace Sys2Proof.Machine

/-! ## Tracker entries (R233) -/

def Trk.state (e : Trk) : Nat := wb e.w0 3 0
def Trk.best (e : Trk) : Bool := wbit e.w0 4
def Trk.test (e : Trk) : Bool := wbit e.w0 5
def Trk.pend (e : Trk) : Bool := wbit e.w0 6
def Trk.resv (e : Trk) : Bool := wbit e.w0 7
def Trk.cust (e : Trk) : Nat := wb e.w0 19 8
def Trk.part (e : Trk) : Nat := wb e.w0 23 20
def Trk.cstate (e : Trk) : Nat := wb e.w0 39 24
def Trk.cprog (e : Trk) : Nat := wb e.w0 47 40
def Trk.tokPos (e : Trk) : Nat := wb e.w1 20 0
def Trk.maxLen (e : Trk) : Nat := wb e.w1 41 21
def Trk.billed (e : Trk) : Nat := wb e.w2 31 0
def Trk.drafted (e : Trk) : Nat := wb e.w2 63 32
def Trk.accepted (e : Trk) : Nat := wb e.w3 31 0
def Trk.reason (e : Trk) : Nat := wb e.w3 39 32

/-- Set the state of an entry. -/
def Trk.setState (e : Trk) (v : Nat) : Trk := { e with w0 := wput e.w0 3 0 v }
def Trk.setPend (e : Trk) (v : Bool) : Trk := { e with w0 := wput e.w0 6 6 (b2n v) }
def Trk.setResv (e : Trk) (v : Bool) : Trk := { e with w0 := wput e.w0 7 7 (b2n v) }
def Trk.setReason (e : Trk) (v : Nat) : Trk := { e with w3 := wput e.w3 39 32 v }

/-- Entry of a stream. -/
def State.trk (s : State) (x : Nat) : Trk := mapGet (fun _ => trk0) s.sv.trk x

/-- Store an entry after an event; of a mirrored partition it goes to the partner (R302). -/
def State.putTrk (s : State) (x : Nat) (e : Trk) (report : Bool) : State :=
  let p := if e.state = 0 then (s.trk x).part else e.part
  ({ s with sv := { s.sv with trk := mapSet (fun _ => trk0) s.sv.trk x e } }).mirrorOut p (x / 16384)
    (.tracker (BitVec.ofNat 16 x) e.w0 e.w1 e.w2 e.w3 report)

/-- Whether a state is an ended one. -/
def ended (st : Nat) : Bool := decide (6 ≤ st ∧ st ≤ 9)

/-! ## Output rings (R248, R253) -/

/-- log2 of a field's ring; a value outside 10–16 gives a ring without entries (log entry 30). -/
def State.outLog (s : State) (f : Nat) : Nat := s.fld .srvOutCfg f 60 56
def State.outSize (s : State) (f : Nat) : Nat := if 10 ≤ s.outLog f ∧ s.outLog f ≤ 16 then 2 ^ s.outLog f else 0
def State.outHead (s : State) (f : Nat) : Nat := s.fld .srvOutHead f 16 0
def State.outTail (s : State) (f : Nat) : Nat := s.fld .srvOutStat f 16 0
def State.outResv (s : State) (f : Nat) : Nat := s.fld .srvOutStat f 33 17

/-- Whether the ring of a field has no unreserved free entry. -/
def State.outFull (s : State) (f : Nat) : Bool :=
  decide (s.outSize f ≤ (s.outTail f + 131072 - s.outHead f) % 131072 + s.outResv f)

/-- Release one reservation. -/
def State.unreserve (s : State) (f : Nat) : State := s.setFld .srvOutStat f 33 17 (s.outResv f - 1)

/-- Records of a field in flight. -/
def State.outsOf (s : State) (f : Nat) : Nat := mapGet (fun _ => 0) s.sv.outs f

/-- Write a record at the ring's next entry; the tail follows when the write is visible. A ring whose range is
gone takes nothing. -/
def State.writeOut (s : State) (f : Nat) (ws : List Word) : State :=
  let slot := (s.outTail f + s.outsOf f) % max 1 (s.outSize f)
  let s := { s with sv := { s.sv with outs := mapSet (fun _ => 0) s.sv.outs f (s.outsOf f + 1) } }
  let s := match s.range (s.fld .srvOutCfg f 15 0) with
    | none => s.bump .memNoAnswer 0 1
    | some rg =>
      let b := bytesOf ws
      let cells := (List.range b.length).map (fun i =>
        (⟨rgAddr rg (s.fld .srvOutCfg f 55 16 + 64 * slot + i), b.getD i 0, 0xFF#8⟩ : ByteW))
      let live := cells.filter (fun (w : ByteW) => decide (w.addr < peerSpace) && (s.noAnswer w.addr).isNone)
      (if live.length < cells.length then s.bump .memNoAnswer 0 1 else s).writeBytes live
  s.send (48 + f) (48 + f) (.outputRecordAck (Fin.ofNat 4 f))

/-- The record's write is visible: the tail advances, and the reservation ends (R248). -/
def State.outAcked (s : State) (f : Nat) : State :=
  if s.outsOf f = 0 then s
  else
    let s := { s with sv := { s.sv with outs := mapSet (fun _ => 0) s.sv.outs f (s.outsOf f - 1) } }
    (s.setFld .srvOutStat f 16 0 ((s.outTail f + 1) % 131072)).unreserve f

/-- OUTPUT_RECORD_ACK (R248). -/
def execOutputRecordAck (f : Fd) (s : State) : Host.Outcome State Fault Refusal :=
  .next (s.arrive (.outputRecordAck f) (fun s => s.outAcked f.val))

/-- The words of an output record (R248). -/
def outWords (x : Nat) (e : Trk) (kind cookie debit : Nat) (toks : List (BitVec 32)) : List Word :=
  let tok (i : Nat) : Nat := (toks.getD i 0).toNat
  [BitVec.ofNat 64 (x + kind * 2 ^ 16 + b2n (e.state == 5) * 2 ^ 19 + toks.length % 16 * 2 ^ 20 + e.cust * 2 ^ 24 +
     e.part * 2 ^ 36 + e.reason * 2 ^ 40),
   BitVec.ofNat 64 (e.tokPos + cookie * 2 ^ 32)] ++
  (List.range 4).map (fun i => BitVec.ofNat 64 (tok (2 * i) + tok (2 * i + 1) * 2 ^ 32)) ++
  [BitVec.ofNat 64 (e.billed + debit % 2 ^ 32 * 2 ^ 32), 0]

/-- Write a report's record, or hold it for the mirror partner. -/
def State.record (s : State) (x : Nat) (e : Trk) (kind cookie debit : Nat) (toks : List (BitVec 32)) : State :=
  let ws := outWords x e kind cookie debit toks
  if s.mirrored (x / 16384) e.part then { s with sv := { s.sv with waitMir := s.sv.waitMir ++ [⟨x, ws⟩] } }
  else s.writeOut (x / 16384) ws

/-- A write of SRV_OUT_CFG, refused as a whole while the ring is in use (R253). -/
def State.outCfg (s : State) (f : Nat) (v : Word) : State :=
  if s.outTail f ≠ s.outHead f ∨ s.outResv f ≠ 0 then s.setBit .srvOutStat f 34 true
  else s.setReg .srvOutCfg f 0 (BitVec.ofNat 64 (wb v 60 0))

/-- OUTPUT_RING_CONFIG (R253). -/
def execOutputRingConfig (f : Fd) (v : Word) (s : State) : Host.Outcome State Fault Refusal :=
  .next (s.outCfg f.val v)

/-! ## Customers (R245–R247) -/

/-- A customer's entry. -/
def State.cust (s : State) (u : Nat) : Cust := mapGet (fun _ => cust0) s.sv.custs u
def State.setCust (s : State) (u : Nat) (c : Cust) : State :=
  { s with sv := { s.sv with custs := mapSet (fun _ => cust0) s.sv.custs u c } }

/-- Whether a field refuses a customer's steps. -/
def State.throttledAt (s : State) (f u : Nat) : Bool := mapGet (fun _ => false) s.sv.thr (4096 * f + u)
def State.setThrottle (s : State) (f u : Nat) (b : Bool) : State :=
  { s with sv := { s.sv with thr := mapSet (fun _ => false) s.sv.thr (4096 * f + u) b } }

/-- A debit reaches the budget field (R246). -/
def State.debit (s : State) (u n : Nat) : State :=
  let c := s.cust u
  let b := max (c.bal - n) (-(2 ^ 39 : Int))
  if b ≤ 0 then
    let s := s.setCust u { c with bal := b, throttled := true }
    (List.range 4).foldl (fun s f => s.send (48 + u % 4) (48 + f) (.throttle (Fin.ofNat 4 f) (BitVec.ofNat 12 u))) s
  else s.setCust u { c with bal := b }

def execDebit (cust : BitVec 12) (amount : Nat) (s : State) : Host.Outcome State Fault Refusal :=
  .next (s.arrive (.debit cust amount) (fun s => s.debit cust.toNat amount))

/-- THROTTLE, UNTHROTTLE (R246, R247). -/
def execThrottle (f : Fd) (cust : BitVec 12) (s : State) : Host.Outcome State Fault Refusal :=
  .next (s.arrive (.throttle f cust) (fun s => s.setThrottle f.val cust.toNat true))

def execUnthrottle (f : Fd) (cust : BitVec 12) (s : State) : Host.Outcome State Fault Refusal :=
  .next (s.arrive (.unthrottle f cust) (fun s => s.setThrottle f.val cust.toNat false))

/-- A credit takes effect at the budget field (R247). -/
def State.creditNow (s : State) (u : Nat) (m : Int) : State :=
  let c := s.cust u
  let b := max (min (c.bal + m) c.cap) (-(2 ^ 39 : Int))
  if 0 < b ∧ c.throttled then
    let s := s.setCust u { c with bal := b, throttled := false }
    (List.range 4).foldl (fun s f => s.send (48 + u % 4) (48 + f) (.unthrottle (Fin.ofNat 4 f) (BitVec.ofNat 12 u))) s
  else s.setCust u { c with bal := b }

/-- A configuration of a customer takes effect (R247, R253). -/
def State.custNow (s : State) (u : Nat) (v : Word) : State :=
  let c := s.cust u
  let cap := wb v 31 0
  s.setCust u { c with cap := cap, promptW := wb v 35 32, enabled := wbit v 36, test := wbit v 37, bal := min c.bal cap }

/-- A customer's write takes effect at its budget field. -/
def State.atBudget (s : State) (q : Fwd) : State :=
  match q with
  | .custCfg u v => s.custNow u v
  | .credit u m => s.creditNow u m.toInt
  | _ => s

/-! ## The common page (R364) -/

/-- Field that owns what a request of the serving common page acts on. -/
def fwdField (q : Fwd) : Nat :=
  match q with
  | .custCfg u _ | .credit u _ => u % 4
  | .stream x _ _ => x / 16384
  | _ => 0

/-- Whether a request is of a customer whose budget field is F0, where the common page lies: it takes effect without a
crossing. -/
def fwdHere (q : Fwd) : Bool :=
  match q with
  | .custCfg u _ | .credit u _ => decide (u % 4 = 0)
  | _ => false

/-- Requests go on in their order: the page takes one at a time, so that the next one crosses to its field and the others
wait for its result (R364; log entry 113). -/
def State.srvNext (s : State) : List Fwd → State
  | [] => { s with sv := { s.sv with fwdC := [] } }
  | q :: t =>
    if fwdHere q then (s.atBudget q).srvNext t
    else ({ s with sv := { s.sv with fwd := some q, fwdC := t } }).send 48 (48 + fwdField q)
      (.forwardedRequest ⟨Fin.ofNat 4 (fwdField q), q⟩)

/-- A request reaches the common page: it waits while one is in progress. -/
def State.srvEnqueue (s : State) (q : Fwd) : State :=
  if s.sv.fwd.isSome then { s with sv := { s.sv with fwdC := s.sv.fwdC ++ [q] } } else s.srvNext [q]

/-- CREDIT (R247): a write of SRV_CUST_CREDIT. -/
def execCredit (cust : BitVec 12) (amount : BitVec 32) (s : State) : Host.Outcome State Fault Refusal :=
  .next (s.srvEnqueue (.credit cust.toNat amount))

/-- CUSTOMER_CONFIG_WRITE (R247). -/
def execCustomerConfigWrite (cust : BitVec 12) (v : Word) (s : State) : Host.Outcome State Fault Refusal :=
  .next (s.srvEnqueue (.custCfg cust.toNat v))

/-! ## Partitions (R249, R301) -/

/-- Whether a partition is standby here: mirrored and not active. -/
def State.standby (s : State) (p : Nat) : Bool :=
  bitOf (s.fld .lnkMirPart 0 15 0) p && !bitOf (s.fld .lnkMirPart 0 31 16) p

/-- Whether a field takes a new state of a partition: from degraded only closed and starting (R249). -/
def stateFits (old v : BitVec 3) : Bool := decide (old ≠ 6 ∨ v = 0 ∨ v = 1)

/-- A write of a partition's state: state 7, anything but closed and starting from degraded, and anything but
starting on a standby are refused. -/
def State.partState (s : State) (p : Nat) (v : BitVec 3) : State :=
  if v = 7 || !stateFits (s.pstate 0 p) v || (s.standby p && decide (v ≠ 1)) then s.setBit .srvPartCtl 0 3 true
  else (s.writeCfg .partState p (v.setWidth 64)).mirrorOut p 0 (.partState (Fin.ofNat 16 p) v)

/-- PARTITION_STATE_WRITE (R249, R301). -/
def execPartitionStateWrite (p : Fin 16) (v : BitVec 3) (s : State) : Host.Outcome State Fault Refusal :=
  .next (s.partState p.val v)

/-- The word of a partition's configuration; `mir` is the mirrored bit. -/
def pcfgWord (v : Word) (mir : Bool) : Word :=
  BitVec.ofNat 64 (min (wb v 18 0) 262144 + wb v 34 19 * 2 ^ 19 + b2n mir * 2 ^ 35)

/-- A write of SRV_PART_CFG; the mirrored bit is hardware's while the pair is formed (R301). -/
def State.partCfg (s : State) (p : Nat) (v : Word) : State :=
  let mir := if s.mirActive p then true else wbit v 35
  (s.writeCfg .partCfg p (pcfgWord v mir)).mirrorOut p 0 (.partCfg (Fin.ofNat 16 p) v)

/-- A write of SRV_PART_STOP; bit 20 of each slot is reserved. -/
def State.partStop (s : State) (p : Nat) (v : Word) : State :=
  let slot (lo : Nat) : Nat := wb v (lo + 19) lo * 2 ^ lo
  let w := BitVec.ofNat 64 (slot 0 + slot 21 + slot 42)
  (s.writeCfg .partStop p w).mirrorOut p 0 (.partStop (Fin.ofNat 16 p) w)

/-- A field applies its copy of a configuration (R364): a state that it does not take from degraded leaves it, and the
mirrored bit stays as hardware set it while the pair is formed (DEDUCED, log entry 113). -/
def State.applyCopy (s : State) (f : Nat) (r : CfgReg) (i : Nat) (v : Word) : State :=
  match r with
  | .partState => if stateFits (s.pstate f i) (v.setWidth 3) then s.setCfg f r i v else s
  | .partCfg => s.setCfg f r i (if s.mirActive i then pcfgWord v (s.mirrored f i) else v)
  | _ => s.setCfg f r i v

/-- Streams open in a partition, and the latency-critical ones among them (R253). -/
def State.openIn (s : State) (p : Nat) : Nat × Nat :=
  let l := s.sv.trk.filter (fun e => decide (e.2.state ≠ 0 ∧ e.2.part = p))
  (l.length, (l.filter (fun e => !e.2.best)).length)

/-! ## Constraint programs (R243) -/

/-- Unconstrained. -/
def cFree : Nat := 0xFFFF

/-- Bytes of a program at an offset of its range, read for a descriptor. -/
def State.progBytes (s : State) (t f q off n : Nat) : State × List Nat :=
  match s.range (wb (s.progLoc f q) 15 0) with
  | none => (s.badRange t f, [])
  | some rg =>
    let as := (List.range n).map (fun i => rgAddr rg (off + i))
    let (s, m) := s.fetchBytes (.task t) f false as []
    (s, as.map (fun a => (snapByte m a).1))

/-- The eight words of a state of a program; none past its states. -/
def State.progState (s : State) (t f q x : Nat) : State × Option (List Word) :=
  if s.progN f q ≤ x then (s, none)
  else
    let (s, b) := s.progBytes t f q (wb (s.progLoc f q) 55 16 + 64 * x) 64
    (s, some (wordsOf 8 (b.map (BitVec.ofNat 8))))

/-- Whether a token is allowed in a state (R243). -/
def State.allowed (s : State) (t f q v x : Nat) (tok : Int) : State × Bool :=
  if tok < 0 ∨ (v : Int) ≤ tok then (s, false)
  else if x = cFree then (s, true)
  else match s.progState t f q x with
    | (s, none) => (s, false)
    | (s, some w) =>
      let n := tok.toNat
      let (s, b) := s.progBytes t f q (wb (wordAt w 0) 39 0 + n / 8) 1
      (s, bitOf (b.getD 0 0) (n % 8))

/-- The state after an allowed token, and whether it accepts (R243). -/
def State.nextState (s : State) (t f q x : Nat) (tok : Nat) : State × Nat × Bool :=
  if x = cFree then (s, cFree, false)
  else match s.progState t f q x with
    | (s, none) => (s, cFree, false)
    | (s, some w) =>
      let y := match (List.range (wb (wordAt w 0) 58 56)).find? (fun i => decide (wb (wordAt w (1 + i)) 17 0 = tok)) with
        | some i => wb (wordAt w (1 + i)) 33 18
        | none => wb (wordAt w 0) 55 40
      if y = cFree then (s, y, false)
      else match s.progState t f q y with
        | (s, none) => (s, y, false)
        | (s, some z) => (s, y, wbit (wordAt z 0) 59)

/-- Kind of stop token: 0 none, 1 final, 2 turn; a slot that names it final comes before one that names it a turn
(R238, R253). -/
def stopKind (w : Word) (tok : Nat) : Nat :=
  let named := [0, 21, 42].filter (fun lo => wbit w (lo + 18) && decide (wb w (lo + 17) lo = tok))
  if named.any (fun lo => wbit w (lo + 19)) then 1 else if named.isEmpty then 0 else 2

/-! ## Requests (R234, R235, R250, R364) -/

/-- A write of SRV_STREAM_CTL: a request crosses to the stream's field unless one is in progress. -/
def State.streamCtl (s : State) (x op : Nat) : State :=
  if s.flag .srvStreamStat 0 1 then s
  else
    let s := s.setBit .srvStreamStat 0 0 false
    if op = 0 ∨ 10 < op then s
    else
      let s := s.setBit .srvStreamStat 0 1 true
      s.srvEnqueue (.stream x op [s.reg .srvStreamStage 0 0, s.reg .srvStreamStage 0 1])

def execStreamOpen (stream : BitVec 16) (s : State) : Host.Outcome State Fault Refusal := .next (s.streamCtl stream.toNat 1)
def execStreamClose (stream : BitVec 16) (s : State) : Host.Outcome State Fault Refusal := .next (s.streamCtl stream.toNat 2)
def execCancel (stream : BitVec 16) (s : State) : Host.Outcome State Fault Refusal := .next (s.streamCtl stream.toNat 3)
def execPause (stream : BitVec 16) (s : State) : Host.Outcome State Fault Refusal := .next (s.streamCtl stream.toNat 4)
def execResume (stream : BitVec 16) (s : State) : Host.Outcome State Fault Refusal := .next (s.streamCtl stream.toNat 5)
def execExpire (stream : BitVec 16) (s : State) : Host.Outcome State Fault Refusal := .next (s.streamCtl stream.toNat 6)
def execAbort (stream : BitVec 16) (s : State) : Host.Outcome State Fault Refusal := .next (s.streamCtl stream.toNat 7)
def execFinish (stream : BitVec 16) (s : State) : Host.Outcome State Fault Refusal := .next (s.streamCtl stream.toNat 8)
def execConstrain (stream : BitVec 16) (s : State) : Host.Outcome State Fault Refusal := .next (s.streamCtl stream.toNat 9)
def execFail (stream : BitVec 16) (s : State) : Host.Outcome State Fault Refusal := .next (s.streamCtl stream.toNat 10)

/-- Whether admission refuses an open (R249, R250). -/
def State.admissionBad (s : State) (f : Nat) (e : Trk) : Bool :=
  let st := s.pstate f e.part
  !s.ready (48 + f) || !(st == 3 || (st == 2 && e.test && (s.cust e.cust).test)) || !(s.cust e.cust).enabled ||
    (!e.best && (decide (wb (s.pcfgOf f e.part) 34 19 ≤ (s.openIn e.part).2) || s.flag .schSwapStat f 2))

/-- Open an entry from the staged words: the result. -/
def State.openEntry (s : State) (x : Nat) (w : List Word) : State × BitVec 3 :=
  let f := x / 16384
  let w0 := wordAt w 0
  let e : Trk := ⟨BitVec.ofNat 64 (1 + wb w0 5 4 * 2 ^ 4 + wb w0 47 8 * 2 ^ 8), BitVec.ofNat 64 (wb (wordAt w 1) 41 21 * 2 ^ 21), 0, 0⟩
  if (s.trk x).state ≠ 0 then (s, 7)
  else if s.admissionBad f e then (s, 5)
  else if e.maxLen = 0 ∨ (e.cstate ≠ cFree ∧ s.progN f e.cprog ≤ e.cstate) then (s, 6)
  else (s.putTrk x e false, 0)

/-- Release an entry's reservation without writing. -/
def State.dropResv (s : State) (x : Nat) (e : Trk) : State := if e.resv then s.unreserve (x / 16384) else s

/-- Apply a request to an entry that is not free (R234, R235): the new entry, or the result that refuses it. -/
def trkApply (op : Nat) (w : List Word) (e : Trk) : Except (BitVec 3) Trk :=
  let st := e.state
  match op with
  | 2 => if st = 1 ∨ ended st then .ok ((e.setState 0).setResv false) else .error 2
  | 3 =>
    if st = 6 then .error 3 else if ended st then .error 4 else .ok ((e.setState 7).setReason 8)
  | 4 =>
    if st = 2 ∨ st = 4 then .ok (e.setPend true)
    else if st = 3 then .ok (e.setState 5) else if st = 5 then .ok e else .error 2
  | 5 =>
    if st = 2 ∨ st = 4 then .ok (e.setPend false)
    else if st = 5 then .ok (e.setState 3) else if st = 3 then .ok e else .error 2
  | 6 => if st = 5 then .ok ((e.setState 8).setReason 9) else .error 2
  | 7 =>
    if st = 2 then .ok (((e.setState (if e.pend then 5 else if e.tokPos = 0 then 1 else 3)).setPend false).setResv false)
    else if st = 4 then .ok (((e.setState (if e.pend then 5 else 3)).setPend false).setResv false)
    else .error 2
  | 8 => if st = 3 then .ok ((e.setState 6).setReason 6) else .error 2
  | 9 => if st = 1 ∨ st = 3 ∨ st = 5 then .ok { e with w0 := wput e.w0 47 24 (wb (wordAt w 0) 47 24) } else .error 2
  | _ => if ended st then .error 2 else .ok ((e.setState 9).setReason 7)

/-- Apply a stream request at its field: the result. -/
def State.streamReq (s : State) (x op : Nat) (w : List Word) : State × BitVec 3 :=
  if op = 1 then s.openEntry x w
  else
    let e := s.trk x
    if e.state = 0 then (s, 1)
    else match trkApply op w e with
      | .error r => (s, r)
      | .ok n =>
        let s := if op = 2 ∨ op = 7 then s.dropResv x e else s
        (s.putTrk x n false, 0)

/-- A request of the serving common page takes effect at field f, and its result crosses back. -/
def State.srvForwarded (s : State) (f : Nat) (q : Fwd) : State :=
  let (s, r) := match q with
    | .stream x op w => s.streamReq x op w
    | _ => (s.atBudget q, 0#3)
  s.send (48 + f) 48 (.forwardedResult ⟨true, r⟩)

/-- What a common page has forwarded arrives at field f (R364). -/
def State.forwarded (s : State) (f : Nat) (q : Fwd) : State :=
  match q with
  | .copy r i v => s.applyCopy f r i v
  | .recOpen _ _ | .recClose _ => s.kvForwarded f q
  | _ => s.srvForwarded f q

/-- FORWARDED_REQUEST (R364). -/
def execForwardedRequest (m : FwdMsg) (s : State) : Host.Outcome State Fault Refusal :=
  .next (s.arrive (.forwardedRequest m) (fun s => s.forwarded m.field.val m.req))

/-- The result of the request in progress reaches F0, and the next one goes on. -/
def State.srvResult (s : State) (r : BitVec 3) : State :=
  match s.sv.fwd with
  | none => s
  | some q =>
    let s := { s with sv := { s.sv with fwd := none } }
    let s := match q with
      | .stream _ _ _ => s.setFld .srvStreamStat 0 4 0 (1 + 4 * r.toNat)
      | _ => s
    s.srvNext s.sv.fwdC

/-- FORWARDED_RESULT (R364). -/
def execForwardedResult (m : FwdRes) (s : State) : Host.Outcome State Fault Refusal :=
  .next (s.arrive (.forwardedResult m) (fun s => if m.srv then s.srvResult m.res else s.kvResult m.res))

/-! ## Steps (R236–R239) -/

/-- A serving descriptor ends with stream-state and a reason (R237). -/
def State.srvFail (s : State) (t reason : Nat) : State :=
  s.modTask t (fun k => k.fail 0x50 (twOpcode k.w + 256 * reason))

/-- The reason for which a serving descriptor ends at its dispatch: a free stream, or one of another field,
partition or class (R236). -/
def State.srvMismatch (s : State) (k : Task) : Option Nat :=
  let x := twStream k.w
  let e := s.trk x
  if e.state = 0 then some 1
  else if x / 16384 ≠ k.field ∨ s.partOf k.ctx ≠ e.part ∨ s.bestOf k.ctx ≠ e.best then some 5 else none

/-- Run a serving descriptor on its entry. -/
def State.onStream (s : State) (t op : Nat) (f : State → Task → Trk → State) : State :=
  s.runUnit t op (fun s k => match s.srvMismatch k with
    | some r => s.srvFail t r
    | none => f s k (s.trk (twStream k.w)))

/-- The first reason for which SBEGIN is refused (R234, R237). -/
def State.beginRefused (s : State) (f : Nat) (prefill : Bool) (e : Trk) : Option Nat :=
  let st := s.pstate f e.part
  if !(e.state = 3 ∨ (e.state = 1 ∧ prefill)) then some 2
  else if !(s.cust e.cust).enabled then some 7
  else if s.throttledAt f e.cust then some 3
  else if !(st == 3 || st == 4 || st == 5 || (st == 2 && e.test)) then some 4
  else if s.outFull f then some 6 else none

/-- SBEGIN at the tracker (R237). -/
def State.beginStep (s : State) (t : Nat) (k : Task) (e : Trk) : State :=
  let f := k.field
  let prefill := wbit (twArea k.w 0) 0
  match s.beginRefused f prefill e with
  | some r => (s.bump .srvPerfRefused f 1).srvFail t r
  | none =>
    let s := s.setFld .srvOutStat f 33 17 (s.outResv f + 1)
    let e := (e.setState (if prefill then 2 else 4)).setResv true
    ((s.putTrk (twStream k.w) e false).bump .srvPerfSteps f 1)

def execSbegin (t : Nat) (s : State) : Host.Outcome State Fault Refusal :=
  .next (s.runUnit t 0x60 (fun s k => match s.srvMismatch k with
    | some r => (s.bump .srvPerfRefused k.field 1).srvFail t r
    | none => s.beginStep t k (s.trk (twStream k.w))))

/-- What the procedure of R238 keeps: state, emitted count, and how it ended. -/
structure EmitSt where
  s : Nat
  e : Nat
  fin : Nat
  stop : Bool
  deriving DecidableEq, Repr

/-- One token of the procedure. -/
def State.emitTok (s : State) (t f v q : Nat) (stops : Word) (base maxLen : Nat) (a : EmitSt) (tok : Int) : State × EmitSt :=
  if a.stop then (s, a)
  else match s.allowed t f q v a.s tok with
    | (s, false) => (s, ⟨a.s, 0, 1, true⟩)
    | (s, true) =>
      let n := tok.toNat
      let (s, y, acc) := s.nextState t f q a.s n
      let e := a.e + 1
      match stopKind stops n with
      | 1 => (s, ⟨y, e, 2, true⟩)
      | 2 => (s, ⟨y, e, 3, true⟩)
      | _ =>
        if acc then (s, ⟨y, e, 4, true⟩)
        else if maxLen ≤ base + e then (s, ⟨y, e, 5, true⟩)
        else (s, ⟨y, e, 0, false⟩)

/-- The elements of a rank-1 INT32 operand. -/
def State.readInts (s : State) (t : Nat) (k : Task) (pos : Nat) : State × Option (List Int) :=
  if (k.entryAt pos).isEmpty then (s, some [])
  else match s.openOpnd t k pos false with
    | (s, none) => (s, none)
    | (s, some o) =>
      let vs := (List.range (o.dim 0)).map (fun i => [i])
      let (s, m) := s.fetchViews (.task t) k.field false o vs []
      (s, some (vs.map (fun v => (o.lane (o.raw m v)).v.toInt)))

/-- SEMIT and SVERIFY compute their emission, which their commit reports (R238). -/
def State.emission (s : State) (t : Nat) (k : Task) (e : Trk) (verify : Bool) : State :=
  let f := k.field
  if verify ∧ e.state = 2 then s.srvFail t 2
  else match s.readInts t k 0 with
    | (s, none) => s
    | (s, some as) => match s.readInts t k 1 with
      | (s, none) => s
      | (s, some bs) =>
        let bs := if verify then bs else []
        let kk := bs.length
        let a := ((as.zip bs).takeWhile (fun p => decide (p.1 = p.2))).length
        let n := if verify then a + 1 else 1
        let qpos := wb (twArea k.w 0) 20 0
        let pre := decide (e.state = 2)
        let base := if pre then qpos - 1 else e.tokPos
        let bad := pre && decide (qpos ≤ e.tokPos ∨ 1048576 ≤ qpos)
        let start : EmitSt := if bad then ⟨e.cstate, 0, 1, true⟩ else ⟨e.cstate, 0, 0, false⟩
        let (s, r) := (as.take n).foldl (fun (p : State × EmitSt) tok =>
          p.1.emitTok t f (s.vocab f e.part) e.cprog (s.pstopOf f e.part) base e.maxLen p.2 tok) (s, start)
        let em : Emission := {
          stream := BitVec.ofNat 16 (twStream k.w), verify := verify, k := kk,
          toks := (as.take r.e).map (BitVec.ofInt 32), ending := BitVec.ofNat 3 r.fin, base := base, qpos := qpos,
          prefillStep := pre, cstate := BitVec.ofNat 16 r.s, cookie := BitVec.ofNat 32 (twCookie k.w) }
        s.modTask t (fun k => { k with emit := some em })

def execSemit (t : Nat) (s : State) : Host.Outcome State Fault Refusal :=
  .next (s.onStream t 0x61 (fun s k e => s.emission t k e false))

def execSverify (t : Nat) (s : State) : Host.Outcome State Fault Refusal :=
  .next (s.onStream t 0x62 (fun s k e => s.emission t k e true))

/-! ## SMASK (R244) -/

/-- The bias row of a state: none means that no token can be emitted. -/
def State.maskRow (s : State) (t f q v : Nat) (x : Option Nat) : State × List Bool :=
  match x with
  | none => (s, List.replicate v false)
  | some x =>
    if x = cFree then (s, List.replicate v true)
    else match s.progState t f q x with
      | (s, none) => (s, List.replicate v false)
      | (s, some w) =>
        let (s, b) := s.progBytes t f q (wb (wordAt w 0) 39 0) ((v + 7) / 8)
        (s, (List.range v).map (fun i => bitOf (b.getD (i / 8) 0) (i % 8)))

/-- The state of each row: the entry's, then after each draft that is allowed. -/
def State.maskStates (s : State) (t f q v : Nat) : Option Nat → List Int → State × List (Option Nat)
  | x, [] => (s, [x])
  | none, _ :: l =>
    let (s, r) := s.maskStates t f q v none l
    (s, none :: r)
  | some x, tok :: l => match s.allowed t f q v x tok with
    | (s, false) =>
      let (s, r) := s.maskStates t f q v none l
      (s, some x :: r)
    | (s, true) =>
      let (s, y, _) := s.nextState t f q x tok.toNat
      let (s, r) := s.maskStates t f q v (some y) l
      (s, some x :: r)

/-- SMASK writes its rows. -/
def State.smaskRun (s : State) (t : Nat) (k : Task) (e : Trk) : State :=
  let f := k.field
  let v := s.vocab f e.part
  if teSize (k.entryAt 3) 0 ≠ v then s.modTask t (fun k => k.fail 0x30 0)
  else match s.readInts t k 1 with
    | (s, none) => s
    | (s, some bs) => match s.openOpnd t k 3 false with
      | (s, none) => s
      | (s, some d) =>
        let (s, xs) := s.maskStates t f e.cprog v (some e.cstate) bs
        (List.range xs.length).foldl (fun s j =>
          let (s, row) := s.maskRow t f e.cprog v (xs.getD j none)
          let out := (List.range v).foldl (fun (a : Out) i => match d.loc false [i, j] with
            | .hit c bad => a.app (d.put .elem c (if row.getD i false then 0 else 0xFF80) bad)
            | _ => a) Out.nil
          s.landOut (.task t) f out) s

def execSmask (t : Nat) (s : State) : Host.Outcome State Fault Refusal :=
  .next (s.onStream t 0x63 (fun s k e => s.smaskRun t k e))

/-! ## Reports (R234, R239) -/

/-- Stop a count at all ones of 32 bits. -/
def add32 (a b : Nat) : Nat := min (2 ^ 32 - 1) (a + b)

/-- The reason that an ending leaves in the entry: the codes of R233. -/
def endReason (fin : Nat) : Nat :=
  match fin with
  | 2 => 1 | 3 => 2 | 4 => 3 | 5 => 4 | 1 => 5 | _ => 0

/-- The tokens a report debits (R239). -/
def State.debitOf (s : State) (e : Trk) (r : Emission) : Nat :=
  r.toks.length + (if r.prefillStep then ((r.qpos - e.tokPos) * (s.cust e.cust).promptW + 15) / 16 else 0)

/-- The entry after a valid report. -/
def reportEntry (e : Trk) (r : Emission) : Trk :=
  let n := r.toks.length
  let fin := r.ending.toNat
  let st := if fin = 2 ∨ fin = 5 then 6 else if e.pend then 5 else 3
  let cs := if fin = 3 ∨ fin = 4 then cFree else r.cstate.toNat
  let w0 := wput (wput (wput (wput e.w0 39 24 cs) 3 0 st) 6 6 0) 7 7 0
  let dr := if r.verify then add32 e.drafted r.k else e.drafted
  let ac := if r.verify then add32 e.accepted (n - 1) else e.accepted
  ⟨w0, wput e.w1 20 0 (r.base + n), BitVec.ofNat 64 (add32 e.billed n + dr * 2 ^ 32),
   BitVec.ofNat 64 (ac + endReason fin * 2 ^ 32)⟩

/-- A commit report reaches the tracker: applied whole or discarded whole. -/
def State.reportTrk (s : State) (r : Emission) : State :=
  let x := r.stream.toNat
  let f := x / 16384
  let e := s.trk x
  let cookie := r.cookie.toNat
  if e.state ≠ 2 ∧ e.state ≠ 4 then
    let s := s.bump .srvPerfDiscard f 1
    if e.state ≠ 0 ∧ e.resv then
      let n := e.setResv false
      (s.putTrk x n true).record x n 3 cookie 0 []
    else s
  else if r.ending = 1 then
    let n := ((e.setState 9).setReason 5).setResv false
    (s.putTrk x n true).record x n 4 cookie 0 []
  else
    let d := s.debitOf e r
    let n := reportEntry e r
    let s := (s.bump .srvPerfTokens f r.toks.length)
    let s := if r.verify then (s.bump .srvPerfDrafted f r.k).bump .srvPerfAccepted f (r.toks.length - 1) else s
    let s := s.putTrk x n true
    let s := s.send (48 + x / 16384) (48 + x / 16384) (.advance r.stream (BitVec.ofNat 21 n.tokPos))
    let s := s.send (48 + x / 16384) (48 + e.cust % 4) (.debit (BitVec.ofNat 12 e.cust) d)
    let fin := r.ending.toNat
    s.record x n (if fin = 2 ∨ fin = 5 then 2 else if fin = 3 ∨ fin = 4 then 1 else 0) cookie d r.toks

/-- REPORT (R239). -/
def execReport (r : Emission) (s : State) : Host.Outcome State Fault Refusal :=
  .next (s.arrive (.report r) (fun s => s.reportTrk r))

end Sys2Proof.Machine
end

