-- ==== Sys2Proof/Machine/LinkOps.lean ====
section
/-! DEFINITION. Rhazar links and mirror ports: training, flits and replay, peers, requests to and from them
(R192–R194, R264, R291–R299, R308, R309). -/
namespace Sys2Proof.Machine

/-! ## States of a link (R292, R309): 0 disabled, 1 training, 2 ident, 3 up, 4 failed, 5 conflict -/

def State.linkState (s : State) (l : Nat) : Nat := s.fld .lnkStat l 2 0
def State.setLinkState (s : State) (l v : Nat) : State := s.setFld .lnkStat l 2 0 v

/-- Lanes of a link or port. -/
def laneMask (l : Nat) : Nat := if l < 8 then 0xFF else 0xF

/-- Island of the I/O die of a link or port. -/
def linkIod (l : Nat) : Nat := if l < 4 ∨ l = 8 then 72 else 73

/-- Data flits that a message of n bytes of payload granules fills, with its command granule (R293). -/
def flitsOf (n : Nat) : Nat := (1 + (n + 31) / 32 + 7) / 8

/-- A valid message arrives on a link: it counts its flits, and what was discarded has been replayed (R293, R294). How many of
the flits the decoder corrected no rule lets the module foresee: a free number of them (log entry 111). -/
def State.flitIn (s : State) (l n : Nat) : State :=
  let v := s.link l
  let (s, w) := ((s.setLink l { v with rx := v.rx + BitVec.ofNat 10 n, discard := false }).bump .lnkPerfFlits l n).draw
  s.bumpFree .lnkPerfFeccorr l (w.toNat % (n + 1))

/-! ## Losing a peer (R193, R299) -/

/-- An access that was outstanding at a lost peer, or that the peer refused, ends (R193). -/
def State.endRemote (s : State) (r : Remote) : State :=
  match r.iss with
  | .task t =>
    (s.noAnswerTask t (linkIod r.link)).writeAcked r.iss
  | .core h =>
    let s := (if r.isRead then s else s.writeAcked r.iss).bump .memNoAnswer 0 1
    { s with io := { s.io with fault := true, faultHart := h.val, faultAddr := r.addr } }
  | _ => s.bump .memNoAnswer 0 1

/-- A lost peer ends the ring passes in which it is the next or the previous rank (R193, R228). -/
def State.endRings (s : State) (dev iod : Nat) : State :=
  (s.sc.tasks.filter (fun p => twOpcode p.2.w = 0x55 && p.2.phase == .running && p.2.issued &&
    decide (ringNext p.2.w = dev ∨ ringPrev p.2.w = dev))).foldl (fun s p =>
      (s.modTask p.1 (fun k => k.fail 0x24 iod)).sendDone p.1) s

/-- A link leaves up: with the last link to a device its peer is lost, and outstanding accesses end; else they go
on over another link (log entry 31). -/
def State.leaveUp (s : State) (l next : Nat) : State :=
  if s.linkState l ≠ 3 then s.setLinkState l next
  else
    let dev := s.fld .lnkStat l 14 11
    let s := s.setLinkState l next
    if 8 ≤ l then s
    else match s.upLinks dev with
      | [] =>
        let lost := (s.lk.remote ++ s.lk.waiting).filter (fun r => decide (r.dev = dev))
        let s := { s with lk := { s.lk with remote := s.lk.remote.filter (fun r => decide (r.dev ≠ dev)),
                                            waiting := s.lk.waiting.filter (fun r => decide (r.dev ≠ dev)) } }
        (lost.foldl (fun s r => s.endRemote r) (s.setBit .lnkEvt 0 1 true)).endRings dev (linkIod l)
      | l2 :: _ => { s with lk := { s.lk with remote := s.lk.remote.map (fun r =>
          if r.dev = dev ∧ r.link = l then { r with link := l2 } else r) } }

/-- One mirror port leaves up while the other receives heartbeats (R304). -/
def State.portLost (s : State) (l : Nat) : State :=
  if l < 8 then s
  else if s.flag .lnkMirStat 0 (3 + (9 - l)) && decide (s.fld .lnkMirStat 0 2 0 = 2 ∨ s.fld .lnkMirStat 0 2 0 = 3)
    then s.setBit .lnkEvt 0 4 true else s

/-- A link enters failed (R292, R294). -/
def State.linkFail (s : State) (l : Nat) : State :=
  let up := decide (s.linkState l = 3)
  let s := s.leaveUp l 4
  let s := if up then s.portLost l else s
  ((s.setLink l { s.link l with step := 0, discard := false, replay := none }).setFld .lnkStat l 10 3 0).setBit .lnkEvt 0 3 true

/-! ## Training (R292) -/

/-- Training starts. -/
def State.train (s : State) (l : Nat) : State :=
  let up := decide (s.linkState l = 3)
  let s := s.leaveUp l 1
  let s := if up then s.portLost l else s
  (s.setLink l { link0 with idle := false, digest := (s.link l).digest }).setFld .lnkStat l 10 3 0

/-- Electrical idle exit: an enabled link that is down trains, unless its retries are spent. -/
def State.idleExit (s : State) (l : Nat) : State :=
  if s.flag .lnkCtl l 0 && decide (s.linkState l = 0) && !(s.link l).spent then s.train l else s

def execIdleExit (l : Lk) (s : State) : Host.Outcome State Fault Refusal := .next (s.idleExit l.val)

/-- LNK_CTL.retrain: training starts now, with its retries anew (log entry 31). The bit is set and stays set (R8, log
entry 103). -/
def State.retrainNow (s : State) (l : Nat) : State :=
  let s := s.setBit .lnkCtl l 4 true
  if s.flag .lnkCtl l 0 then (s.train l).setFld .lnkStat l 20 18 0 else s

def execRetrain (l : Lk) (s : State) : Host.Outcome State Fault Refusal := .next (s.retrainNow l.val)

/-- A training step ends within its bound: clock recovery and equalisation, deskew, FEC lock; then IDENT is
exchanged. -/
def State.stepDone (s : State) (l : Nat) : State :=
  if s.linkState l ≠ 1 then s
  else
    let v := s.link l
    let s := s.setLink l { v with step := v.step + 1 }
    if v.step = 0 then s.setFld .lnkStat l 10 3 (laneMask l)
    else if v.step = 2 then (s.setLinkState l 2).sendFlit l else s

def execTrainingStepDone (l : Lk) (s : State) : Host.Outcome State Fault Refusal := .next (s.stepDone l.val)

/-- A training step misses its bound. -/
def State.stepMissed (s : State) (l : Nat) : State :=
  if s.linkState l = 1 ∨ s.linkState l = 2 then s.linkFail l else s

def execTrainingTimeout (l : Lk) (s : State) : Host.Outcome State Fault Refusal := .next (s.stepMissed l.val)

/-- A failed link retrains by itself, at most `retries` times in a row, then stays disabled. -/
def State.retrainTimer (s : State) (l : Nat) : State :=
  if s.linkState l ≠ 4 then s
  else
    let n := s.fld .lnkStat l 20 18
    if s.flag .lnkCtl l 0 && decide (n < s.fld .lnkCtl l 3 1) then (s.train l).setFld .lnkStat l 20 18 (n + 1)
    else (s.setLinkState l 0).setLink l { s.link l with spent := true }

def execRetrainTimer (l : Lk) (s : State) : Host.Outcome State Fault Refusal := .next (s.retrainTimer l.val)

/-- Whether a link receives flits. -/
def State.receives (s : State) (l : Nat) : Bool := decide (s.linkState l = 2 ∨ s.linkState l = 3 ∨ s.linkState l = 5)

/-- An uncorrectable flit (R294): it and the later ones are discarded until the replay arrives, and a NAK names the
one expected, which is the replay that a capture records (R289; DEDUCED, log entry 31); the replayed flit failing again fails
the link. -/
def State.badFlit (s : State) (l : Nat) (seq : BitVec 10) : State :=
  if !s.receives l then s
  else
    let v := s.link l
    if !v.discard then
      ((s.setLink l { v with discard := true }).bump .lnkPerfReplay l 1).trace 0x0A (linkIod l) none 0 0 0 0 l
    else if seq = v.rx then s.linkFail l else s

def execUncorrectableFlit (l : Lk) (seq : BitVec 10) (s : State) : Host.Outcome State Fault Refusal :=
  .next (s.badFlit l.val seq)

/-- A NAK (R294): the sender resends from the named flit, which its replay buffer of 512 flits holds; a second NAK
for the same flit fails the link. -/
def State.nakIn (s : State) (l : Nat) (seq : BitVec 10) : State :=
  let v := s.link l
  if !s.receives l || decide (512 < (v.tx - seq).toNat) then s
  else if v.replay = some seq then s.linkFail l
  else s.setLink l { v with replay := some seq, ackd := seq }

def execNak (l : Lk) (seq : BitVec 10) (s : State) : Host.Outcome State Fault Refusal := .next (s.nakIn l.val seq)

/-- No valid flit for 1,024 link cycles. -/
def State.rxTimeout (s : State) (l : Nat) : State := if s.receives l then s.linkFail l else s

def execLinkRxTimeout (l : Lk) (s : State) : Host.Outcome State Fault Refusal := .next (s.rxTimeout l.val)

/-! ## Peers (R298, R299) -/

/-- Whether an IDENT conflicts (R298). -/
def State.identBad (s : State) (l dev : Nat) (mirror : Bool) (digest : Word) : Bool :=
  decide (dev = s.fld .lnkDev 0 3 0) || (s.upLinks dev).any (fun o => decide (o ≠ l ∧ (s.link o).digest ≠ digest)) ||
    (mirror != decide (8 ≤ l)) || (decide (8 ≤ l) && decide (dev ≠ s.fld .lnkMirCfg 0 4 1))

/-- IDENT: the link comes up, or enters conflict. -/
def State.identIn (s : State) (l dev index : Nat) (mirror : Bool) (digest : Word) : State :=
  if s.linkState l ≠ 2 then s
  else
    let s := s.flitIn l 1
    if s.identBad l dev mirror digest then (s.setLinkState l 5).setBit .lnkEvt 0 2 true
    else
      let first := decide (l < 8) && (s.upLinks dev).isEmpty
      let s := s.setLink l { s.link l with step := 4, digest := digest, spent := false }
      let s := ((s.setFld .lnkStat l 14 11 dev).setFld .lnkStat l 17 15 index).setFld .lnkStat l 20 18 0
      let s := s.setLinkState l 3
      if first then s.setBit .lnkEvt 0 0 true else s

def execIdent (l : Lk) (dev : BitVec 4) (index : BitVec 3) (mirror : Bool) (digest : Word) (s : State) :
    Host.Outcome State Fault Refusal :=
  .next (s.identIn l.val dev.toNat index.toNat mirror digest)

/-- LNK_CTL.enable: 0 holds the lanes in electrical idle, 1 lets the link train (R309). -/
def State.linkEnable (s : State) (l : Nat) (on : Bool) : State :=
  let s := s.setBit .lnkCtl l 0 on
  if on then s.setLink l { s.link l with idle := false }
  else
    let up := decide (s.linkState l = 3)
    let s := s.leaveUp l 0
    let s := if up then s.portLost l else s
    (s.setLink l { link0 with digest := (s.link l).digest }).setFld .lnkStat l 10 3 0

def execLinkEnableWrite (l : Lk) (on : Bool) (s : State) : Host.Outcome State Fault Refusal :=
  .next (s.linkEnable l.val on)

/-- A write of LNK_INJ: errors and silence are stored, and only ports have silence; arming is refused unless
ICX_CFG.inj_allow is 1 (R286, R309). -/
def State.linkInj (s : State) (l : Nat) (v : Word) : State :=
  let arm := (wbit v 5 && s.flag .icxCfg 0 27) || s.flag .lnkInj l 5
  s.setReg .lnkInj l 0 (BitVec.ofNat 64 (wb v 3 0 + (if 8 ≤ l then 16 * b2n (wbit v 4) else 0) + 32 * b2n arm))
def execLinkInjectionArm (l : Lk) (v : Word) (s : State) : Host.Outcome State Fault Refusal :=
  .next (s.linkInj l.val v)

/-! ## Requests from and to peers (R192, R264) -/

/-- Whether the module's own range lets a peer's request in (R264). -/
def State.peerMay (s : State) (r : RemoteReq) : Bool :=
  match s.range r.range.toNat with
  | none => false
  | some rg =>
    let a := r.addr.toNat % 2 ^ 52
    decide (rgKind rg ≠ 5) && rgPeer rg r.dev.toNat && (decide (r.kind = 0) || rgPeerWr rg) && decide (r.len ≠ 0) &&
      (List.range r.len).all (fun i => rgCovers rg (a + i))

/-- A request from a peer is served by the local home, or refused; a mirror port carries repair reads only (R295,
R303). -/
def State.remoteIn (s : State) (l : Nat) (r : RemoteReq) : State :=
  if s.linkState l ≠ 3 ∨ s.fld .lnkStat l 14 11 ≠ r.dev.toNat ∨ (8 ≤ l ∧ r.kind ≠ 0) then s
  else
    let s := s.flitIn l (flitsOf r.data.length)
    let a := r.addr.toNat % 2 ^ 52
    if !s.peerMay r || (s.noAnswer a).isSome then
      { s with lk := { s.lk with resp := s.lk.resp ++ [⟨l, r.tag⟩] } }
    else s.request ⟨.peer r.dev, if r.kind = 0 then .rd else if r.kind = 1 then .wr else .add r.etype, a, r.len,
      r.data, [], r.poison, r.part.map (·.toNat)⟩

def execRemoteRequest (l : Lk) (r : RemoteReq) (s : State) : Host.Outcome State Fault Refusal :=
  .next (s.remoteIn l.val r)

/-- The link that carries a core's access to a peer: the home key of its address modulo the count of links (R297). The
peer's control space has no home key, so that the choice is free there (log entry 25). -/
def State.coreLink (s : State) (ls : List Nat) (a : Nat) : State × Nat :=
  match homeIsland a with
  | some d =>
    let key := if 68 ≤ d then 16 + (d - 68) else if 52 ≤ d then d - 52 else 20 + d
    (s, ls.getD (key % max 1 ls.length) 0)
  | none => s.pickLink ls

/-- Whether a core's access to a home of a device would travel on another link than one that is outstanding there, or behind
one that waits (R297). -/
def State.linkBusy (s : State) (l : Nat) (r : Remote) : Bool :=
  let same (q : Remote) : Bool := decide (q.dev = r.dev ∧ homeIsland q.addr = homeIsland r.addr) && (match q.iss with
    | .core _ => true
    | _ => false)
  (homeIsland r.addr).isSome && (s.lk.remote.any (fun q => same q && decide (q.link ≠ l)) || s.lk.waiting.any same)

/-- A core's access leaves for a peer; when the set of links to the device has changed the link of its home, it waits until
what is outstanding to that home has been answered (R297). -/
def State.coreSend (s : State) (r : Remote) : State :=
  let (s, l) := s.coreLink (s.peerLinks r.dev) r.addr
  if s.linkBusy l r then { s with lk := { s.lk with waiting := s.lk.waiting ++ [{ r with link := l }] } }
  else s.sendPeer l r

/-- Core accesses that waited for another link's answers leave, oldest first (R297). -/
def State.sendWaiting (s : State) : State :=
  s.lk.waiting.foldl (fun s r => s.coreSend r) { s with lk := { s.lk with waiting := [] } }

/-- Requests outstanding on a link; those past the far end's 256 credits wait to be sent (R295). -/
def State.sentOn (s : State) (l : Nat) : List Remote :=
  (s.lk.remote.filter (fun r => decide (r.link = l))).take 256

/-- What a peer's answer brings a descriptor: saturations of its adds, and the flag of poison in its read (R267,
R276). -/
def State.peerCounts (s : State) (t sat : Nat) (bad : Bool) : State :=
  let s := s.modTask t (fun k => { k with counts := { k.counts with sat := k.counts.sat + sat } })
  if bad then s.consume t else s

/-- A peer's answer: a read's data with its poison flag, an acknowledgement with its saturations, or a refusal (R192,
R193, R267, R276). A core that reads poison takes an access fault (R275). -/
def State.remoteBack (s : State) (l tag : Nat) (refused : Bool) (sat : Nat) (bad : Bool) : State :=
  match (s.sentOn l).find? (fun r => decide (r.tag = tag)) with
  | none => s
  | some r =>
    let s := s.flitIn l (flitsOf r.len)
    let s := s.setLink l { s.link l with replay := none }
    let s := State.sendWaiting { s with lk := { s.lk with remote := s.lk.remote.erase r } }
    if refused then s.endRemote r
    else match r.iss with
      | .core h =>
        if !r.isRead then s.writeAcked r.iss
        else if bad then { s with io := { s.io with fault := true, faultHart := h.val, faultAddr := r.addr } }
        else { s with
          io := { s.io with fault := false, rdata := (List.range r.len).map (fun i => Config.peerByte r.dev (r.addr + i) s.free) },
          free := s.free + 1 }
      | .task t => ((s.peerCounts t (if r.isRead then 0 else sat) (r.isRead && bad)).shardAcked t r.tag).writeAcked r.iss
      | _ => if r.isRead then s else s.writeAcked r.iss

def execRemoteResponse (l : Lk) (t : Nat) (a : PeerAnswer) (s : State) : Host.Outcome State Fault Refusal :=
  .next (s.remoteBack l.val t a.refused a.sat a.poison)

end Sys2Proof.Machine
end

