-- ==== Sys2Proof/Machine/Mirror.lean ====
section
/-! DEFINITION. The mirror pair: heartbeats and failover (R304–R306), the standby's application of messages (R302,
R303), forming, catch-up and dissolving (R307–R309). -/
namespace Sys2Proof.Machine

/-! ## State of the pair: 0 off, 1 forming, 2 catching-up, 3 in-sync, 4 broken, 5 lost, 6 taking-over -/

def State.pair (s : State) : Nat := s.fld .lnkMirStat 0 2 0
def State.setPair (s : State) (v : Nat) : State := s.setFld .lnkMirStat 0 2 0 v

/-- Whether the pair is formed. -/
def State.formed (s : State) : Bool := decide (s.pair = 2 ∨ s.pair = 3)

/-- Whether mirror port m receives heartbeats. -/
def State.portAlive (s : State) (m : Nat) : Bool := s.flag .lnkMirStat 0 (3 + m)

/-- Whether GP3 is the pair heartbeat. -/
def State.gp3Pair (s : State) : Bool := s.flag .lnkMirCfg 0 8

/-- Mirrored and active partitions, in ascending number. -/
def State.activeParts (s : State) : List Nat :=
  (List.range 16).filter (fun p => bitOf (s.fld .lnkMirPart 0 15 0) p && bitOf (s.fld .lnkMirPart 0 31 16) p)

/-- Standby partitions. -/
def State.standbyParts (s : State) : List Nat := (List.range 16).filter s.standby

/-- Hardware sets or clears SRV_PART_CFG.mirrored of the active mirrored partitions (R301). -/
def State.markMirrored (s : State) (b : Bool) : State :=
  s.activeParts.foldl (fun s p => s.forceCfg .partCfg p (fun v => pcfgWord v b)) s

/-- Records that wait for the partner are written: they wait no more. -/
def State.freeRecords (s : State) : State :=
  let l := s.lk.out
  let w := s.sv.waitMir
  let s := { s with lk := { s.lk with out := l.filter (fun _ => false) }, sv := { s.sv with waitMir := [] } }
  w.foldl (fun s r => s.writeOut (r.stream / 16384) r.words) s

/-- The mirrored bits of the own active partitions clear, and they serve unmirrored (R305, R306). -/
def State.unmirror (s : State) : State := (s.markMirrored false).freeRecords

/-! ## The standby (R302, R303) -/

/-- Partition that a message concerns. -/
def State.msgPart (s : State) (m : MirrorMsg) : Nat :=
  let rec' (x : BitVec 16) : Nat := match optGet s.kv.recs x.toNat with
    | some r => rePart r
    | none => (optGet s.kv.opens x.toNat).getD 0
  match m with
  | .tracker _ w0 _ _ _ _ => wb w0 23 20
  | .recOpen _ w0 _ _ => wb w0 48 45
  | .recClose x => rec' x
  | .rows x _ _ _ _ _ => rec' x
  | .partState p _ | .partCfg p _ | .partStop p _ | .kvFmt p _ | .thinThr p _ => p.val

/-- Stream that a message concerns, if it concerns one. -/
def msgStream (m : MirrorMsg) : Option Nat :=
  match m with
  | .tracker x _ _ _ _ _ | .recOpen x _ _ _ | .recClose x | .rows x _ _ _ _ _ => some x.toNat
  | _ => none

/-- The entry of a mirrored row's page; a page without one takes a frame from the standby's own stack pool. None
where the pool is empty. -/
def State.rowEntry (s : State) (f x i : Nat) : State × Option Word :=
  let iss : Issuer := .service (Fin.ofNat 4 f)
  let (s, r, _) := s.recGet iss f x
  let (s, e, bad) := s.pteGet iss f x r i
  if bad then (s, none)
  else if ptValid e then (s, some e)
  else match s.takeFrame iss f (2 * rePart r) with
    | (s, some n, _) =>
      let e := ptEntry 0 false n
      let s := s.ptePut iss f x r i e
      (s.recPut f x (reSet r 2 50 36 (rePages r + 1)), some e)
    | (s, none, _) => (s.bump .kvsPerfNoframe f 1, none)

/-- Rows of one layer are written as a committing append; with the last layer the length moves (R302). -/
def State.rowsIn (s : State) (x pos count layer : Nat) (data : List Byte) (bad : List Nat) : State :=
  let iss : Issuer := .service (Fin.ofNat 4 0)
  let (s, r, rbad) := s.recGet iss 0 x
  if rbad || !reOpen r then s
  else
    let f := reField r
    let fm := s.kvFmt f (rePart r)
    let (s, ok) := (List.range count).foldl (fun (q : State × Bool) i =>
      match q.1.rowEntry f x ((pos + i) / 64) with
      | (s, none) => (s, false)
      | (s, some e) => match s.framePlace f (rePart r) e with
      | none => (s.bump .memNoAnswer 0 1, false)
      | some place =>
        let as := (fm.rowOffs layer ((pos + i) % 64)).map place
        let n := as.length
        let ws := (List.range n).map (fun j => (⟨as.getD j 0, data.getD (n * i + j) 0, 0xFF#8⟩ : ByteW))
        let bs := ((List.range n).filter (fun j => bad.contains ((n * i + j) / 32))).map (fun j => as.getD j 0)
        (s.landOut iss f ⟨ws, bs⟩, q.2)) (s, true)
    let last := decide (layer + 1 = fm.layers)
    let s := { s with lk := { s.lk with partialRows := !last } }
    if !last || !ok then s
    else
      let (s, r, _) := s.recGet iss f x
      s.setCommitted f x (reSet r 0 41 21 (pos + count)) (pos + count)

/-- A tracker report is acknowledged once its entry and its rows stand (R303). -/
def State.ackReport (s : State) (m : MirrorMsg) : State :=
  match m with
  | .tracker x _ _ _ _ true => { s with lk := { s.lk with mack := s.lk.mack ++ [x] } }
  | _ => s

/-- Apply a message at the standby (R302). -/
def State.applyMsg (s : State) (m : MirrorMsg) : State :=
  match m with
  | .tracker x w0 w1 w2 w3 _ => (s.putTrk x.toNat ⟨w0, w1, w2, w3⟩ false).ackReport m
  | .recOpen x w0 w1 w2 => (s.recOpen (reField [w0, w1, w2]) x.toNat [w0, w1, w2]).1
  | .recClose x => (List.range 4).foldl (fun s f => (s.recClose f x.toNat).1) s
  | .rows x pos count layer data bad => s.rowsIn x.toNat pos count layer data bad
  | .partState p st => { s with lk := { s.lk with recSt := mapSet (fun _ => 0#3) s.lk.recSt p.val st } }
  | .partCfg p v => s.writeCfg .partCfg p.val (pcfgWord v (s.mirrored 0 p.val))
  | .partStop p v => s.writeCfg .partStop p.val v
  | .kvFmt p v => s.setFmt p.val v
  | .thinThr p v => (List.range 4).foldl (fun s f => s.setReg .schThinThr f p.val v) s

/-- A message of the mirror reaches the standby: a part of a copy is applied, and an increment is applied, queued
while its stream is being copied, or discarded before its copy, which will carry it (R307). -/
def State.mirrorIn (s : State) (port : Nat) (m : MirrorMsg) : State :=
  let l := if port = 2 then s.fld .lnkMirCfg 0 7 5 else 8 + port
  if !s.formed || decide (s.linkState l ≠ 3) || !s.standby (s.msgPart m) then s
  else
    let s := s.flitIn l 1
    match msgStream m with
    | none => s.applyMsg m
    | some x =>
      if port = 2 then
        ({ s with lk := { s.lk with cus := some x } }).setFld .lnkMirStat 0 21 6 x |>.applyMsg m
      else if s.pair = 3 ∨ s.lk.copied.contains x then s.applyMsg m
      else if s.lk.cus = some x then { s with lk := { s.lk with incr := s.lk.incr ++ [m] } }
      else s.ackReport m

/-- MIRROR_MESSAGE (R302, R307). -/
def execMirrorMessage (port : Fin 3) (m : MirrorMsg) (s : State) : Host.Outcome State Fault Refusal :=
  .next (s.mirrorIn port.val m)

/-- Whether a sent message is a stream's tracker report. -/
def isReport (x : Nat) (m : Nat × MirrorMsg) : Bool :=
  match m.2 with
  | .tracker y _ _ _ _ true => decide (y.toNat = x)
  | _ => false

/-- Messages acknowledged with a stream's report: those of its port up to it. -/
def dropAcked (x port : Nat) : List (Nat × MirrorMsg) → List (Nat × MirrorMsg)
  | [] => []
  | m :: t => if m.1 ≠ port then m :: dropAcked x port t else if isReport x m then t else dropAcked x port t

/-- The first record of a stream among those that wait. -/
def takeRec (x : Nat) : List OutRec → Option (OutRec × List OutRec)
  | [] => none
  | r :: t => if r.stream = x then some (r, t) else (takeRec x t).map (fun p => (p.1, r :: p.2))

/-- The partner's acknowledgement of a report: the output record is written (R248, R303). -/
def State.mirrorAcked (s : State) (x : Nat) : State :=
  let s := match s.lk.out.find? (isReport x) with
    | some m => { s with lk := { s.lk with out := dropAcked x m.1 s.lk.out } }
    | none => s
  match takeRec x s.sv.waitMir with
  | none => s
  | some (r, t) => ({ s with sv := { s.sv with waitMir := t } }).writeOut (x / 16384) r.words

/-- MIRROR_ACK (R303). -/
def execMirrorAck (stream : BitVec 16) (s : State) : Host.Outcome State Fault Refusal :=
  .next (s.mirrorAcked stream.toNat)

/-! ## Failover (R251, R305, R306) -/

/-- An entry of a partition that is taken over (R251): the open step is given up. -/
def takeoverEntry (e : Trk) : Trk :=
  let st := if e.state = 4 then 3 else if e.state = 2 then (if e.tokPos = 0 then 1 else 3) else e.state
  ((e.setState (if e.pend ∧ e.state ≠ 0 then 5 else st)).setPend false).setResv false

/-- Take over one partition: its entries are adjusted and its state becomes recovering. -/
def State.takePart (s : State) (p : Nat) : State :=
  ({ s with sv := { s.sv with trk := s.sv.trk.map (fun (e : Nat × Trk) =>
      if e.2.state ≠ 0 ∧ e.2.part = p then (e.1, takeoverEntry e.2) else e) } }).setPstate p 5

/-- Recorded state of a standby partition. -/
def State.recState (s : State) (p : Nat) : BitVec 3 := mapGet (fun _ => 0#3) s.lk.recSt p

/-- Steps 3 to 5 of R306. -/
def State.takeover (s : State) : State :=
  let s := (s.standbyParts.filter (fun p => s.recState p == 3 || s.recState p == 4 || s.recState p == 5)).foldl
    (fun s p => s.takePart p) s
  ({ s with lk := { s.lk with wantConfirm := false } }).setPair 5

/-- The partner is lost (R306). -/
def State.partnerLost (s : State) : State :=
  let s := (s.setBit .lnkEvt 0 6 true).unmirror
  let q := s.lk.incr
  let s := { s with lk := { s.lk with incr := [], partialRows := false, cus := none } }
  let s := q.foldl (fun s m => s.applyMsg m) s
  if s.gp3Pair then s.takeover else ({ s with lk := { s.lk with wantConfirm := true } }).setPair 6

/-- The mirror is broken while the partner lives (R305). -/
def State.mirrorBroken (s : State) : State :=
  ({ (s.setBit .lnkEvt 0 5 true).unmirror with lk := { (s.setBit .lnkEvt 0 5 true).unmirror.lk with incr := [], cus := none } }).setPair 4

/-- Both ports are silent: the partner is lost once HB_IN is silent too, where it is the pair's; the mirror is
broken while HB_IN toggles. A missed toggle leaves this open until the next toggle or the third miss (log entry
32). -/
def State.bothSilent (s : State) : State :=
  if !s.formed || s.portAlive 0 || s.portAlive 1 then s
  else if !s.gp3Pair || !s.flag .lnkMirStat 0 5 then s.partnerLost
  else if s.lk.hbMiss = 0 then s.mirrorBroken else s

/-- HEARTBEAT_SEND: a heartbeat on each up port that is not silenced (R305, R309). -/
def State.sendBeats (s : State) : State :=
  [8, 9].foldl (fun s l =>
    if s.linkState l = 3 ∧ !s.flag .lnkInj l 4 then
      let s := s.sendFlit l
      { s with lk := { s.lk with hbSent := s.lk.hbSent + 1 } }
    else s) s

def execHeartbeatSend (s : State) : Host.Outcome State Fault Refusal := .next s.sendBeats

/-- A missed heartbeat interval of a port; the third makes it silent. -/
def State.beatMissed (s : State) (m : Nat) : State :=
  let n := min 3 (s.fld .lnkStat (8 + m) 22 21 + 1)
  let s := s.setFld .lnkStat (8 + m) 22 21 n
  if n < 3 || !s.portAlive m then s
  else
    let s := s.setBit .lnkMirStat 0 (3 + m) false
    let s := if s.formed && s.portAlive (1 - m) then s.setBit .lnkEvt 0 4 true else s
    s.bothSilent

def execHeartbeatMiss (port : Fin 2) (s : State) : Host.Outcome State Fault Refusal := .next (s.beatMissed port.val)

/-- GP3 toggles as the pair heartbeat. -/
def State.gp3Beat (s : State) : State :=
  if s.gp3Pair then { s with pw := { s.pw with gp3 := !s.pw.gp3 } } else s

def execGp3Toggle (s : State) : Host.Outcome State Fault Refusal := .next s.gp3Beat

/-- A toggle on HB_IN. -/
def State.hbToggle (s : State) : State :=
  let s := { s with pw := { s.pw with hbIn := !s.pw.hbIn } }
  if !s.gp3Pair then s
  else (({ s with lk := { s.lk with hbMiss := 0 } }).setBit .lnkMirStat 0 5 true).bothSilent

def execHbInToggle (s : State) : Host.Outcome State Fault Refusal := .next s.hbToggle

/-- HB_IN shows no toggle; the third miss makes it silent. -/
def State.hbMissed (s : State) : State :=
  if !s.gp3Pair then s
  else
    let n := min 3 (s.lk.hbMiss + 1)
    let s := { s with lk := { s.lk with hbMiss := n } }
    if n < 3 then s else (s.setBit .lnkMirStat 0 5 false).bothSilent

def execHbInMiss (s : State) : Host.Outcome State Fault Refusal := .next s.hbMissed

/-- CONFIRM: step 3 of R306 may go on. The bit stays set (R8, log entry 103). -/
def State.confirmNow (s : State) : State :=
  let s := s.setBit .lnkMirCtl 0 2 true
  if s.lk.wantConfirm then s.takeover else s

def execConfirm (s : State) : Host.Outcome State Fault Refusal := .next s.confirmNow

/-! ## Forming and catch-up (R307, R308) -/

/-- Streams that the active side copies: by partition, then by index. -/
def State.copyList (s : State) : List Nat :=
  s.activeParts.flatMap (fun p =>
    (List.range 65536).filter (fun x => decide ((s.trk x).state ≠ 0 ∧ (s.trk x).part = p) ||
      decide (optGet s.kv.opens x = some p)))

/-- Send the copy of a stream over the catch-up link: tracker entry, record and every committed row. -/
def State.sendCopy (s : State) (x : Nat) : State :=
  let put (s : State) (m : MirrorMsg) : State := { s with lk := { s.lk with out := s.lk.out ++ [(2, m)] } }
  let e := s.trk x
  let s := if e.state ≠ 0 then put s (.tracker (BitVec.ofNat 16 x) e.w0 e.w1 e.w2 e.w3 false) else s
  match optGet s.kv.opens x with
  | none => s
  | some _ =>
    let (s, r, bad) := s.recGet (.service (Fin.ofNat 4 0)) 0 x
    if bad then s
    else
      let f := reField r
      let s := put s (.recOpen (BitVec.ofNat 16 x) (wordAt r 0) (wordAt r 1) (wordAt r 2))
      (List.range (s.kvFmt f (rePart r)).layers).foldl (fun s l =>
        let (s, as) := (List.range (reCommitted r)).foldl (fun (p : State × List Nat) i =>
          let (s, a) := p.1.rowAddrs f x r l i
          (s, p.2 ++ a)) (s, [])
        let (s, d, bad) := s.peekBytes as
        put s (.rows (BitVec.ofNat 16 x) 0 (reCommitted r) l d (uniq (bad.map (· / 32))))) s

/-- The copy goes on with the next stream. Where none is left here, the pair is in-sync once the partner has none
left either, which only the partner knows: a free value (log entry 33). -/
def State.nextCopy (s : State) : State :=
  match s.copyList.find? (fun x => !s.lk.copied.contains x) with
  | some x => (({ s with lk := { s.lk with cus := some x } }).setFld .lnkMirStat 0 21 6 x).sendCopy x
  | none =>
    let s := { s with lk := { s.lk with cus := none } }
    if s.standbyParts.isEmpty then s.setPair 3
    else
      let (s, w) := s.draw
      if wbit w 0 then s.setPair 3 else s

/-- The partner answers a forming module: catch-up begins (R307, R308). -/
def State.startCopy (s : State) : State :=
  if s.pair = 1 ∧ s.linkState (s.fld .lnkMirCfg 0 7 5) = 3 then ((s.setPair 2).markMirrored true).nextCopy else s

/-- HEARTBEAT: a port's misses clear. -/
def State.beatIn (s : State) (m : Nat) : State :=
  if s.linkState (8 + m) ≠ 3 then s
  else ((((s.flitIn (8 + m) 1).setFld .lnkStat (8 + m) 22 21 0).setBit .lnkMirStat 0 (3 + m) true)).startCopy

def execHeartbeat (port : Fin 2) (s : State) : Host.Outcome State Fault Refusal := .next (s.beatIn port.val)

/-- FORM: the pair forms where the mirror is enabled; from lost the standby records are cleared first. The bit stays set
(R8, log entry 103). -/
def State.formPair (s : State) : State :=
  let s := s.setBit .lnkMirCtl 0 0 true
  let s := if s.pair = 5 then { s with lk := { s.lk with recSt := [] } } else s
  if s.flag .lnkMirCfg 0 0 && !s.formed then
    ({ s with lk := { s.lk with incr := [], copied := [], cus := none, out := [], wantConfirm := false } }).setPair 1
  else s

def execForm (s : State) : Host.Outcome State Fault Refusal := .next s.formPair

/-- BREAK: the pair dissolves; standby partitions stay starting. The bit stays set (R8, log entry 103). -/
def State.breakPair (s : State) : State :=
  let s := s.setBit .lnkMirCtl 0 1 true
  let s := s.unmirror
  ({ s with lk := { s.lk with incr := [], copied := [], cus := none, wantConfirm := false } }).setPair 0

def execBreakPair (s : State) : Host.Outcome State Fault Refusal := .next s.breakPair

/-- CATCH_UP_STREAM_DONE: what was queued for the stream is applied, and the copy goes on; without the catch-up
link it pauses (R307). -/
def State.copyDone (s : State) : State :=
  if s.pair ≠ 2 ∨ s.linkState (s.fld .lnkMirCfg 0 7 5) ≠ 3 then s
  else match s.lk.cus with
    | none => s.nextCopy
    | some x =>
      let mine := s.lk.incr.filter (fun m => decide (msgStream m = some x))
      let s := { s with lk := { s.lk with
        copied := s.lk.copied ++ [x], incr := s.lk.incr.filter (fun m => decide (msgStream m ≠ some x)),
        out := s.lk.out.filter (fun m => decide (m.1 ≠ 2)) } }
      (mine.foldl (fun s m => s.applyMsg m) s).nextCopy

def execCatchUpStreamDone (s : State) : Host.Outcome State Fault Refusal := .next s.copyDone

end Sys2Proof.Machine
end

