-- ==== Sys2Proof/Machine/Power.lean ====
section
/-! DEFINITION. Power, heat and peak (R323–R331): what a domain loses when it is switched off, the preconditions and
conditions of R324, the governor (R325–R328), the sensors (R329), and the slot pins (R355–R360). -/
namespace Sys2Proof.Machine

/-! ## What is lost with a domain (R324, R343) -/

/-- Entries of a map whose keys lie outside [lo, lo + n). -/
def mapCut {α : Type} (m : SMap α) (lo n : Nat) : SMap α := m.filter (fun p => decide (p.1 < lo ∨ lo + n ≤ p.1))

/-- Registers at offsets [lo, lo + n) return to their reset values. -/
def State.dropRegs (s : State) (lo n : Nat) : State := { s with regs := mapCut s.regs lo n }

/-- Memory loses what it holds at addresses [lo, lo + n): every unit reads as the poison encoding again. -/
def Mem.cut (m : Mem) (lo n : Nat) : Mem := { m with mem := mapCut m.mem lo n, chk := mapCut m.chk lo n }

/-- A cluster: arrays, engines, registers, meadow. Its fuse stays. -/
def State.loseCluster (s : State) (c : Nat) : State :=
  let fz := s.flag .tenId c 8
  let s := ((s.dropRegs (0x400000 + c * 0x1000) 0x1000).dropRegs (0x500000 + c * 0x1000) 0x1000).setBit .tenId c 8 fz
  { s with
    vx := ⟨mapCut s.vx.eng (2 * c) 2, mapDel s.vx.red c⟩
    ax := mapDel s.ax c
    mm := { s.mm.cut (meadowBase + c * 2 ^ 24) (2 ^ 24) with
      junk := mapDel s.mm.junk c, atoms := s.mm.atoms.filter (fun l => decide (l.buf ≠ c)) }
    ix := { s.ix with mpos := mapDel s.ix.mpos c, last := mapDel s.ix.last (20 + c) } }

/-- A field: its scheduler, its KV service and its front end; with F0 the common pages of R364. -/
def State.loseField (s : State) (f : Nat) : State :=
  let s := s.dropRegs (0x300000 + f * 0x40000) 0x40000
  let s := s.dropRegs (0xA00000 + f * 0x20000) 0x20000
  let s := s.dropRegs (0xB00000 + f * 0x20000) 0x20000
  let s := if f = 0 then (s.dropRegs 0xA80000 0x80000).dropRegs 0xB80000 0x80000 else s
  let out := s.sc.ctxs.filter (fun p => decide (p.2.field = f))
  let mine (x : Nat) : Bool := out.any (fun p => p.1 == x)
  let live := s.recOrder f
  let gone : Bool := decide (f = 0)
  { s with
    mm := { s.mm with atoms := s.mm.atoms.filter (fun l => decide (l.buf ≠ 48 + f)) }
    sc := { s.sc with
      ctxs := s.sc.ctxs.filter (fun p => decide (p.2.field ≠ f))
      tens := s.sc.tens.filter (fun p => !mine (p.1 / 65536))
      tasks := s.sc.tasks.filter (fun p => decide (p.2.field ≠ f))
      glints := mapCut s.sc.glints (4096 * f) 4096
      fields := mapDel s.sc.fields f }
    kv := { s.kv with
      recs := s.kv.recs.filter (fun p => !live.contains p.1)
      opens := s.kv.opens.filter (fun p => !live.contains p.1)
      order := mapDel s.kv.order f
      srec := mapDel s.kv.srec f
      fmt := s.kv.fmt.filter (fun p => decide (p.1 % 4 ≠ f))
      pools := mapCut s.kv.pools (32 * f) 32
      lab := mapCut s.kv.lab (64 * f) 64
      engs := mapCut s.kv.engs (2 * f) 2
      holds := s.kv.holds.filter (fun h => match s.task h.task with
        | some k => decide (k.field ≠ f)
        | none => false)
      fwd := if gone then none else s.kv.fwd }
    sv := { s.sv with
      trk := mapCut s.sv.trk (16384 * f) 16384
      custs := s.sv.custs.filter (fun p => decide (p.1 % 4 ≠ f))
      thr := mapCut s.sv.thr (4096 * f) 4096
      pcfg := s.sv.pcfg.filter (fun p => decide (p.1 % 4 ≠ f))
      pstate := s.sv.pstate.filter (fun p => decide (p.1 % 4 ≠ f))
      pstop := s.sv.pstop.filter (fun p => decide (p.1 % 4 ≠ f))
      cloc := s.sv.cloc.filter (fun p => decide (p.1 % 4 ≠ f))
      cn := s.sv.cn.filter (fun p => decide (p.1 % 4 ≠ f))
      outs := mapDel s.sv.outs f
      waitMir := s.sv.waitMir.filter (fun r => decide (r.stream / 16384 ≠ f))
      fwd := if gone then none else s.sv.fwd
      fwdC := if gone then [] else s.sv.fwdC } }

/-- A stack: banks, channels, lines, memory. -/
def State.loseStack (s : State) (st : Nat) : State :=
  let s := s.dropRegs (0x600000 + st * 0x2000) 0x2000
  { s with
    st := ⟨mapCut s.st.banks (2048 * st) 2048, mapCut s.st.chans (32 * st) 32⟩
    mm := { s.mm.cut (st * 2 ^ 36) (2 ^ 36) with wcb := mapDel s.mm.wcb st, buckets := mapCut s.mm.buckets (16 * st) 16 }
    ix := { s.ix with last := mapDel s.ix.last st } }

/-- Heath group of an address; none outside the heath. -/
def heathGroup (a : Nat) : Option Nat :=
  match regionOf a with
  | .heath => some ((heathPos a).device / 8)
  | _ => none

/-- A heath group: lines, memory, training. -/
def State.loseHeath (s : State) (h : Nat) : State :=
  let s := s.dropRegs (0x700000 + h * 0x1000) 0x1000
  let keep {α : Type} (m : SMap α) : SMap α := m.filter (fun p => decide (heathGroup p.1 ≠ some h))
  { s with
    mm := { s.mm with mem := keep s.mm.mem, chk := keep s.mm.chk, wcb := mapDel s.mm.wcb (16 + h),
                      buckets := mapCut s.mm.buckets (16 * (16 + h)) 16,
                      hact := s.mm.hact.filter (fun p => decide (p.1 / 2 ^ 32 / 8 ≠ h)) }
    ix := { s.ix with hpos := mapCut s.ix.hpos (8 * h) 8, last := mapDel s.ix.last (16 + h) } }

/-- Links and ports of an I/O die. -/
def linksOf (d : Nat) : List Nat := (List.range 10).filter (fun l => decide (linkIod l = d))

/-- A link domain: its links and ports, and the lines of its atomic buffer; that of IOD0 holds the memory fabric's
registers and the range table too (R196). -/
def State.loseLinks (s : State) (d : Nat) : State :=
  let s := (linksOf d).foldl (fun s l => { s.dropRegs (0xC00000 + l * 0x1000) 0x1000 with
    lk := { s.lk with links := mapDel s.lk.links l, remote := s.lk.remote.filter (fun r => decide (r.link ≠ l)) } }) s
  let s := { s with mm := { s.mm with atoms := s.mm.atoms.filter (fun l => decide (l.buf ≠ d)) } }
  if d = 72 then
    let t := s.dropRegs 0x800000 0x100000
    { t with mm := { t.mm with ranges := [], rangeReq := none } }
  else s

/-- The control complex: interrupt controller, data-plane ports, what its cores had under way. -/
def State.loseCc (s : State) : State :=
  let s := (s.dropRegs 0x200000 0x100000).dropRegs 0x000800 0x80
  { s with
    cc := { s.cc with lv := 0, tgts := [], mtip := 0, stopped := mapCut s.cc.stopped 0 4, sent := mapCut s.cc.sent 0 2 }
    io := Io.reset
    mm := { s.mm with acks := mapCut s.mm.acks 0 16 } }

/-- A domain's contents are lost and its function is not ready (R324, R343). -/
def State.lose (s : State) (d : Nat) : State :=
  let s := s.setReady d false
  if d < 48 then s.loseCluster d
  else if d < 52 then s.loseField (d - 48)
  else if d < 68 then s.loseStack (d - 52)
  else if d < 72 then s.loseHeath (d - 68)
  else if d < 74 then s.loseLinks d
  else s.loseCc

/-- A domain goes off with its contents; a fused one stays fused. -/
def State.cutDomain (s : State) (d : Nat) : State :=
  (if s.dom d = .fused then s else s.setDom d .off).lose d

/-! ## Self-tests (R345–R347), as far as power ends them -/

/-- State of a unit's self-test. -/
def State.stOf (s : State) (k u : Nat) : StUnit := mapGet (fun _ => stUnit0) s.se.st (64 * k + u)
def State.setSt (s : State) (k u : Nat) (v : StUnit) : State :=
  { s with se := { s.se with st := mapSet (fun _ => stUnit0) s.se.st (64 * k + u) v } }

/-- Units of a kind under test. -/
def State.testing (s : State) (k : Nat) : List Nat := (List.range 64).filter (fun u => (s.stOf k u).st == 1)

/-- SEC_ST_STAT shows how many units are under test. -/
def State.showTests (s : State) : State :=
  ((s.setFld .secStStat 0 2 0 (s.testing 0).length).setFld .secStStat 0 4 3 (s.testing 1).length).setFld .secStStat 0 5 5
    (s.testing 2).length

/-- Every test under way is aborted (R347, R352), and the start tests still to run with it. -/
def State.abortTests (s : State) : State :=
  let run := (List.range 3).flatMap (fun k => (s.testing k).map (fun u => (k, u)))
  let s := run.foldl (fun s p => (s.setSt p.1 p.2 ⟨4, (s.stOf p.1 p.2).remaps⟩).setBit .secEvt 0 2 true) s
  ({ s with se := { s.se with stq := [] } }).showTests

/-! ## Trips and shutdowns (R323, R326, R329, R352) -/

/-- A power failure while secrets are cleared: scan is withheld if the encoding of memory had not finished, which the
commands do not tell: a free value (log entry 35). -/
def State.failClearing (s : State) : State :=
  if s.scan = 1 then
    let (s, w) := s.draw
    if wbit w 0 then s.setFld .secDbg 0 1 0 3 else s
  else s

/-- Messages that end in the platform island survive the loss of the others. -/
def platformMsg (m : Instr) : Bool :=
  match m with
  | .poisonReport _ | .traceEvent _ => true
  | _ => false

/-- Domain on which the switch-on of a domain depends (R324). -/
def needs (d : Nat) : Nat :=
  if d < 48 then 48 + d / 12
  else if d < 52 then (if d < 50 then 72 else 73)
  else if d < 68 then 48 + (d - 52) / 4
  else if d < 72 then (if d < 70 then 72 else 73)
  else 75

/-- A switch of a domain is refused (R324). -/
def State.refuseSwitch (s : State) : State := s.orReg .pwrEvt 0 (2 ^ 9)

/-- Whether a domain's precondition for switch-on holds. -/
def State.onOk (s : State) (d : Nat) : Bool := s.dom (needs d) == .on && s.pw.input && decide (s.scan = 0)

/-- The governor switches on one domain at a time: the first that waits starts, unless its precondition no longer
holds. -/
def State.promote (s : State) : List Nat → State
  | [] => { s with pw := { s.pw with onq := [] } }
  | d :: t =>
    match s.dom d with
    | .switching => { s with pw := { s.pw with onq := d :: t } }
    | .off =>
      if s.onOk d then { s.setDom d .switching with pw := { (s.setDom d .switching).pw with onq := d :: t } }
      else State.promote s.refuseSwitch t
    | _ => State.promote s t

/-- Switch off every domain of a list at once, whatever R324 asks. -/
def State.cutAll (s : State) (ds : List Nat) : State :=
  let s := ds.foldl (fun s d => s.cutDomain d) s
  State.promote { s with flight := s.flight.filter (fun x => platformMsg x.m) } (s.pw.onq.filter (fun d => !ds.contains d))

/-- A power trip: every domain but 74 and 75 goes off (R326, R329). -/
def State.powerTrip (s : State) : State :=
  (((s.abortTests).failClearing).cutAll (List.range 74)).orReg .pwrEvt 0 (2 ^ 6)

/-- A shutdown of the input: every domain but the always-on one goes off (R323, R355). -/
def State.shutdown (s : State) : State :=
  let s := ((s.abortTests).failClearing).cutAll (List.range 75)
  { s with pw := { s.pw with input := false }, cc := { s.cc with retain := none } }

/-- What outlives the input: the flash and the fuses (R332, R338, R342). -/
def Sec.lasting (x : Sec) : Sec := { Sec.reset with flash := x.flash, owner := x.owner, floor := x.floor, vendor := x.vendor }

/-- Power-on: everything but the flash and the fuses is at its reset value, and PLT_BOOT_STAT shows the floor. -/
def State.powerOn (s : State) : State :=
  State.setFld { State.reset with se := s.se.lasting, free := s.free, pending := s.pending } .pltBootStat 0 38 32 s.se.floor

/-- The always-on domain stops with everything else. -/
def State.dark (s : State) : State :=
  { s.powerOn with pw := { Pwr.reset with dom := [], input := false } }

/-- POWER_APPLIED (R323, R336): the input reaches 47 V and start-up begins; nothing where it stands already. -/
def execPowerApplied (s : State) : Host.Outcome State Fault Refusal :=
  .next (if s.pw.input && s.dom 75 == .on then s else s.powerOn)

/-- UNDERVOLTAGE_WARNING (R323, R331). -/
def execUndervoltageWarning (s : State) : Host.Outcome State Fault Refusal := .next (s.orReg .pwrEvt 0 (2 ^ 3))

/-- OVERVOLTAGE_EVENT (R331). -/
def execOvervoltageEvent (s : State) : Host.Outcome State Fault Refusal := .next (s.orReg .pwrEvt 0 (2 ^ 4))

/-- CONVERTER_FAULT (R331). -/
def execConverterFault (s : State) : Host.Outcome State Fault Refusal := .next (s.orReg .pwrEvt 0 (2 ^ 7))

/-- UNDERVOLTAGE_SHUTDOWN (R323): the always-on converter holds. -/
def execUndervoltageShutdown (s : State) : Host.Outcome State Fault Refusal := .next s.shutdown

/-- SENSE_OPEN (R355): as an undervoltage shutdown. -/
def execSenseOpen (s : State) : Host.Outcome State Fault Refusal := .next s.shutdown

/-- OVERVOLTAGE_SHUTDOWN (R323): the always-on domain is switched off too. -/
def execOvervoltageShutdown (s : State) : Host.Outcome State Fault Refusal := .next s.dark

/-- INPUT_LOSS (R323): the always-on converter no longer holds. -/
def execInputLoss (s : State) : Host.Outcome State Fault Refusal := .next s.dark

/-! ## Switching one domain (R324) -/

/-- Switch a domain on: it waits for its turn. -/
def State.switchOn (s : State) (d : Nat) : State :=
  match s.dom d with
  | .on | .switching => s
  | .fused => s.refuseSwitch
  | .off =>
    if s.pw.onq.contains d then s
    else if s.onOk d then s.promote (s.pw.onq ++ [d])
    else s.refuseSwitch

/-- DOMAIN_ON (R324). -/
def execDomainOn (d : Fin 76) (s : State) : Host.Outcome State Fault Refusal := .next (s.switchOn d.val)

/-- Heath groups on which a range lies: a block of the half goes to device block mod 16 (R261). -/
def rgGroups (rg : List Word) : List Nat :=
  match rgKind rg with
  | 3 =>
    let lo := rgBase rg / 960
    let hi := (rgBase rg + rgLen rg + 959) / 960
    uniq ((List.range (min 32 (hi - lo))).map (fun i =>
      (heathPos (heathBase + (lo + i) * 960)).device / 8) ++
      (if hi - lo ≤ 32 then [] else [(heathPos (heathBase + (hi - 16) * 960)).device / 8, (heathPos (heathBase + (hi - 8) * 960)).device / 8]))
  | _ => []

/-- Whether a valid range covers a stack. -/
def State.stackUsed (s : State) (st : Nat) : Bool := s.mm.ranges.any (fun p =>
  (rgKind p.2 == 1 || rgKind p.2 == 2) && (rgHomes p.2).contains st)

/-- Whether a valid range or the carve-out lies in a heath group. A swap area lies in its range (R175). -/
def State.heathUsed (s : State) (h : Nat) : Bool :=
  decide (h < 2) || s.mm.ranges.any (fun p => (rgGroups p.2).contains h)

/-- Whether a cluster's scoreboard holds a descriptor. -/
def State.boardUsed (s : State) (c : Nat) : Bool := s.sc.tasks.any (fun p => p.2.home == c && !p.2.inPool)

/-- Whether a domain takes no power. -/
def State.isOff (s : State) (d : Nat) : Bool := s.dom d == .off || s.dom d == .fused

/-- Whether a target is in service. -/
def State.anyService (s : State) : Bool := s.cc.tgts.any (fun p => p.2.serv.isSome)

/-- Whether a domain's unit is under test: R347 refuses its switch-off for state. -/
def State.underTest (s : State) (d : Nat) : Bool :=
  if d < 48 then (s.stOf 0 d).st == 1
  else if 52 ≤ d ∧ d < 68 then (s.stOf 1 (d - 52)).st == 1
  else if 68 ≤ d ∧ d < 72 then (s.stOf 2 (d - 68)).st == 1
  else false

/-- Whether the switch-off of a domain is accepted (R318, R324, R347). -/
def State.offOk (s : State) (d : Nat) : Bool :=
  if s.underTest d then false
  else if d < 48 then !s.boardUsed d && decide (s.twinState d = 0)
  else if d < 52 then
    ((List.range 12).map (fun i => 12 * (d - 48) + i)).all s.isOff && ((List.range 4).map (fun i => 52 + 4 * (d - 48) + i)).all s.isOff
  else if d < 68 then !s.stackUsed (d - 52)
  else if d < 72 then !s.heathUsed (d - 68)
  else if d < 74 then (linksOf d).all (fun l => decide (s.linkState l ≠ 3)) && !s.flag .lnkMirCfg 0 0
  else if d = 74 then !s.anyService
  else false

/-- Registers that the always-on domain retains for the sleeping controller (R318). -/
def retained (a : Nat) : Bool :=
  decide ((0x200000 ≤ a ∧ a < 0x201000) ∨ (0x201080 ≤ a ∧ a < 0x2010A0) ∨ (0x204000 ≤ a ∧ a < 0x204208))

/-- The interrupt controller copies its state for the sleep (R318). -/
def State.keepCc (s : State) : State :=
  { s with cc := { s.cc with retain := some ⟨s.regs.filter (fun p => retained p.1), 0⟩ } }

/-- A home's lines are written before its domain goes off (R266). -/
def State.flushFor (s : State) (d : Nat) : State :=
  if 52 ≤ d ∧ d < 72 then s.flushHome (d - 52) else s

/-- Switch a domain off, or refuse it. -/
def State.switchOff (s : State) (d : Nat) : State :=
  match s.dom d with
  | .off | .fused => s
  | .switching => s.refuseSwitch
  | .on =>
    if s.offOk d then
      let s := if d = 74 then s.keepCc else s.flushFor d
      (s.cutDomain d).orReg .pwrEvt 0 (2 ^ 8)
    else s.refuseSwitch

/-- DOMAIN_OFF (R324). -/
def execDomainOff (d : Fin 76) (s : State) : Host.Outcome State Fault Refusal := .next (s.switchOff d.val)

/-- Every domain but the always-on one is switched off (R321, R360) once the memory homes have written their lines (R266);
the control complex keeps its interrupt state. -/
def State.allOff (s : State) : State :=
  if (List.range 75).all s.isOff then s
  else
    let s := if s.dom 74 = .on then s.keepCc else s
    let s := ((List.range 20).foldl (fun s h => s.flushHome h) s.abortTests)
    (s.cutAll (List.range 75)).orReg .pwrEvt 0 (2 ^ 8)

/-! ## The governor (R325–R328) -/

def State.govB (s : State) : Nat := s.fld .pwrGovStat 0 4 0
def State.govAudit (s : State) : Bool := s.flag .pwrGovStat 0 5
def State.govQ (s : State) : Nat := s.fld .pwrGovStat 0 10 6
def State.credit (s : State) : Nat := s.fld .pwrGovStat 0 44 23
def State.sustain (s : State) : Nat := s.fld .pwrCfg 0 11 0

/-- A reading with the armed offset of PWR_INJ, and whether an injection fired (R331). -/
def State.injected (s : State) (target : Nat) (v lo hi : Int) : State × Int :=
  if s.flag .pwrInj 0 24 ∧ s.fld .pwrInj 0 7 0 = target then
    (s.orReg .pwrEvt 0 (2 ^ 10), max lo (min hi (v + sext 16 (s.fld .pwrInj 0 23 8))))
  else (s, v)

/-- Peak residency: a sample above 2,600 W adds its ten cycles to the newest bin (R327). -/
def residencyMax : Nat := 432000000000
def State.setBins (s : State) (l : List Nat) : State :=
  ({ s with pw := { s.pw with bins := l } }).setFld .pwrRes 0 39 0 (min (2 ^ 40 - 1) (l.foldl (· + ·) 0))
def State.residency (s : State) (w : Nat) : State :=
  if w ≤ 2600 then s
  else
    let s := match s.pw.bins with
      | b :: t => s.setBins ((b + 10) :: t)
      | [] => s.setBins [10]
    if residencyMax ≤ s.pw.bins.foldl (· + ·) 0 ∧ !s.flag .pwrRes 0 40 then
      (s.setBit .pwrRes 0 40 true).orReg .pwrEvt 0 (2 ^ 2)
    else s

/-- Peak credit (R326). -/
def creditFull : Nat := 2500000
def State.creditStep (s : State) (w : Nat) : State :=
  if s.sustain < w then
    let c := s.credit - 10
    let s' := s.setFld .pwrGovStat 0 44 23 c
    if c = 0 ∧ s.credit ≠ 0 then
      ({ s' with pw := { s'.pw with spentCr := true } }).orReg .pwrEvt 0 (2 ^ 1)
    else s'
  else
    let n := s.pw.up + 1
    if n < 4 then { s with pw := { s.pw with up := n } }
    else
      let c := min creditFull (s.credit + 10)
      State.setFld { s with pw := { s.pw with up := 0, spentCr := s.pw.spentCr && decide (c < creditFull) } } .pwrGovStat 0 44 23 c

/-- The ceiling of R326. -/
def State.ceiling (s : State) : Nat :=
  if s.pw.spentCr then s.sustain else if s.flag .pwrRes 0 40 then 2600 else 3000

/-- A governor step is traced with the levels it leaves (R289). -/
def State.govStep (s : State) : State := s.trace 0x0B 75 none 0 0 0 0 (s.fld .pwrGovStat 0 10 0)

/-- One cut step, in the order of R325; with nothing left to cut no step is taken. -/
def State.cutStep (s : State) : State :=
  let s := { s with pw := { s.pw with below := 0 } }
  let gated (s : State) : State := (s.orReg .pwrEvt 0 1).govStep
  if s.govB ≠ 0 then gated (s.setFld .pwrGovStat 0 4 0 (s.govB - 1))
  else if s.govAudit then gated (s.setBit .pwrGovStat 0 5 false)
  else if 1 < s.govQ then gated ((s.setFld .pwrGovStat 0 10 6 (s.govQ - 1)).orReg .pwrEvt 0 (2 ^ 5))
  else s

/-- One restoring step, in reverse order; while a sensor holds them, b stays 0 and audits stay off (R329). -/
def State.restoreStep (s : State) : State :=
  if s.govQ < 16 then (s.setFld .pwrGovStat 0 10 6 (s.govQ + 1)).govStep
  else if s.pw.alerts ≠ 0 then s
  else if !s.govAudit then (s.setBit .pwrGovStat 0 5 true).govStep
  else if s.govB < 16 then (s.setFld .pwrGovStat 0 4 0 (s.govB + 1)).govStep
  else s

/-- Power that the governor counts for the domain it is switching on (R324). -/
def State.switchWatts (s : State) : Nat :=
  match s.pw.onq with
  | d :: _ => Config.blockWatts d
  | [] => 0

/-- Compare a sample with the ceiling: cut, or count towards a restoring step (R325). -/
def State.govern (s : State) (w : Nat) : State :=
  let c := s.ceiling
  let s := s.setFld .pwrGovStat 0 22 11 c
  let v := w + s.switchWatts
  if c < v then s.cutStep
  else if 100 * v < 97 * c then
    if s.pw.below + 1 < 100 then { s with pw := { s.pw with below := s.pw.below + 1 } }
    else State.restoreStep { s with pw := { s.pw with below := 0 } }
  else { s with pw := { s.pw with below := 0 } }

/-- The trips of R326: a sample above 3,300 W, or 10 µs above 3,000 W with q at 1. -/
def State.overTrip (s : State) (w : Nat) : State :=
  let n := if 3000 < w ∧ s.govQ = 1 then s.pw.overs + 1 else 0
  let s := { s with pw := { s.pw with overs := n } }
  if 3300 < w ∨ 100 ≤ n then State.powerTrip { s with pw := { s.pw with overs := 0 } } else s

/-- One sample of the input power: residency, credit, ceiling, gating and trip. The input voltage is read with it: a
free value (log entry 4). -/
def State.sampleWatts (s : State) (watts : Nat) : State :=
  let (s, x) := s.injected 0 watts 0 4095
  let w := x.toNat
  let (s, v) := s.draw
  let s := (s.setFld .pwrIn 0 27 16 w).setFld .pwrIn 0 15 0 (wb v 15 0)
  (((s.residency w).creditStep w).govern w).overTrip w

/-- GOVERNOR_SAMPLE (R325). -/
def execGovernorSample (watts : BitVec 12) (s : State) : Host.Outcome State Fault Refusal :=
  .next (s.sampleWatts watts.toNat)

/-- GATING_LEVEL_ARRIVAL (R328): the levels that the governor has set take effect in an island. -/
def execGatingLevelArrival (island : Fin 76) (s : State) : Host.Outcome State Fault Refusal :=
  .next { s with pw := { s.pw with
    lvl := mapSet (fun _ => level0) s.pw.lvl island.val (BitVec.ofNat 11 (s.fld .pwrGovStat 0 10 0)) } }

/-- RESIDENCY_BIN_ROLLOVER (R327). -/
def execResidencyBinRollover (s : State) : Host.Outcome State Fault Refusal :=
  .next (
    let s := s.setBins (0 :: s.pw.bins.take 95)
    if s.pw.bins.foldl (· + ·) 0 < residencyMax then s.setBit .pwrRes 0 40 false else s)

/-! ## Sensors (R93, R329) -/

/-- Alert and trip thresholds of a sensor, in °C. -/
def thresholds (n : Nat) : Nat × Nat :=
  if n < 16 then (93, 100) else if n < 70 then (100, 110) else if n < 102 then (93, 100)
  else if n < 110 then (110, 125) else if n = 110 then (45, 55) else (65, 75)

/-- Bit of TLM_EVT for the alert of a sensor. -/
def alertBit (n : Nat) : Nat :=
  if n < 16 then 0 else if n < 64 then 1 else if n < 70 then 2 else if n < 102 then 3 else if n < 110 then 4 else 5

/-- Reading of a sensor in 0.25 °C. -/
def State.temp (s : State) (n : Nat) : Int := (mapGet (fun _ => 0#12) s.pw.temps n).toInt

/-- Whether a sensor's reading has reached its alert threshold (log entry 36). -/
def State.alertAt (s : State) (n : Nat) : Bool := decide (4 * ((thresholds n).1 : Int) ≤ s.temp n)

/-- Whether any sensor is at alert: THERM_ALERT_N is low while it is (R357). -/
def State.anyAlert (s : State) : Bool := (List.range 112).any s.alertAt

/-- GP3 shows the alert unless it is the pair heartbeat, from when the record is applied (R359). -/
def State.showGp3 (s : State) : State :=
  if s.flag .pltReady1 0 12 ∧ !s.gp3Pair then { s with pw := { s.pw with gp3 := s.anyAlert } } else s

/-- Refresh doubling of a stack: above 85 °C, until 83 °C or less (R93). -/
def State.doubling (s : State) (n : Nat) (t : Int) : State :=
  if 16 ≤ n then s
  else if 340 < t then
    if s.flag .stkRefStat n 4 then s else (s.setBit .stkRefStat n 4 true).orReg .tlmEvt 0 (2 ^ 6)
  else if t ≤ 332 then s.setBit .stkRefStat n 4 false
  else s

/-- A heath device's demand for a shortened refresh interval follows its readout, by a rule of the device: a free
value (R259, log entry 37). -/
def State.fastRef (s : State) (n : Nat) : State :=
  if 70 ≤ n ∧ n < 102 then
    let (s, w) := s.draw
    s.setBit .hthStat ((n - 70) / 8) 9 (wbit w 0)
  else s

/-- One reading of a sensor: thresholds of R329. -/
def State.sense (s : State) (n : Nat) (temp : BitVec 12) : State :=
  let (s, t) := s.injected (n + 1) temp.toInt (-2048) 2047
  let (al, tr) := thresholds n
  let s := { s with pw := { s.pw with temps := mapSet (fun _ => 0#12) s.pw.temps n (BitVec.ofInt 12 t) } }
  let s := (s.doubling n t).fastRef n
  let hot := decide (4 * (al : Int) ≤ t)
  let hold := hot || (s.pw.alerts.getLsbD n && decide (4 * ((al : Int) - 3) < t))
  let bit := BitVec.ofNat 112 (2 ^ n)
  let s := { s with pw := { s.pw with alerts := (s.pw.alerts &&& ~~~bit) ||| (if hold then bit else 0) } }
  let s := if hot then ((s.orReg .tlmEvt 0 (2 ^ alertBit n)).setFld .pwrGovStat 0 4 0 0).setBit .pwrGovStat 0 5 false else s
  let s := s.showGp3
  if 4 * (tr : Int) ≤ t then s.powerTrip.orReg .tlmEvt 0 (2 ^ 7) else s

/-- SENSOR_SAMPLE (R329). -/
def execSensorSample (n : Fin 112) (temp : BitVec 12) (s : State) : Host.Outcome State Fault Refusal :=
  .next (s.sense n.val temp)

/-! ## Injection, pins (R331, R358) -/

/-- A write of PWR_INJ: arm takes only while injection is allowed and the target exists. -/
def State.pwrInjWrite (s : State) (v : Word) : State :=
  let arm := wbit v 24 && s.flag .icxCfg 0 27 && decide (wb v 7 0 ≤ 112)
  s.setReg .pwrInj 0 0 (BitVec.ofNat 64 (wb v 23 0 + b2n arm * 2 ^ 24))

/-- POWER_INJECTION_ARM (R331). -/
def execPowerInjectionArm (v : Word) (s : State) : Host.Outcome State Fault Refusal := .next (s.pwrInjWrite v)

/-- The slot pins are sampled once: device number and static address (R291, R358). -/
def State.samplePins (s : State) (p : BitVec 4) : State :=
  if s.pw.sampled then s
  else State.setFld { s with pw := { s.pw with sampled := true, pins := p, i2c := 0x40#7 + p.setWidth 7 } } .lnkDev 0 3 0 p.toNat

/-- SLOT_ID_SAMPLE (R358). -/
def execSlotIdSample (pins : BitVec 4) (s : State) : Host.Outcome State Fault Refusal := .next (s.samplePins pins)

/-- DYNAMIC_ADDRESS_ASSIGNMENT (R358). -/
def execDynamicAddressAssignment (a : BitVec 7) (s : State) : Host.Outcome State Fault Refusal :=
  .next { s with pw := { s.pw with dyn := some a } }

end Sys2Proof.Machine
end

