-- ==== Sys2Proof/Machine/IntCtl.lean ====
section
/-! DEFINITION. The interrupt controller (R312–R318): source levels, claims and completions, software sources, the
machine timer, sleep and wake. A target's external-interrupt line follows at once from what the controller holds. -/
namespace Sys2Proof.Machine

/-! ## Sources (R313, R317) -/

/-- Levels of receive, transmit, link change and error of an Ethernet port (R320). -/
def State.ethEvt (s : State) (p : Nat) : Nat :=
  b2n (decide (s.fld .pltEthRx p 33 17 ≠ s.fld .pltEthRx p 50 34)) +
  2 * b2n (decide (s.fld .pltEthTx p 33 17 ≠ s.fld .pltEthTx p 50 34)) +
  4 * b2n (s.flag .pltEthStat p 0 != s.flag .pltEthLinkack p 0) +
  8 * b2n (decide (s.fld .pltEthStat p 31 1 ≠ 0))

/-- Whether the output ring of a field has reached its level (R253). -/
def State.outLevel (s : State) (f : Nat) : Bool :=
  let lv := s.fld .srvOutHead f 33 17
  decide (lv ≠ 0 ∧ lv ≤ (s.outTail f + 2 ^ 17 - s.outHead f) % 2 ^ 17)

/-- The level of a source in the block that owns it (R317); a number that the table does not list has none. -/
def State.levelOf (s : State) (n : Nat) : Bool :=
  if n < 9 then s.flag .icxStat 0 n
  else if n < 16 then false
  else if n < 32 then s.flag .pwrEvt 0 (n - 16)
  else if n < 64 then false
  else if n < 68 then s.flag .schFault (n - 64) 0
  else if n < 72 then s.flag .schSwapStat (n - 68) 2
  else if n < 76 then s.outLevel (n - 72)
  else if n < 83 then s.flag .lnkEvt 0 (n - 76)
  else if n < 96 then false
  else if n < 112 then s.flag .secEvt 0 (n - 96)
  else if n < 128 then s.flag .tlmEvt 0 (n - 112)
  else if n < 140 then bitOf (s.ethEvt ((n - 128) / 4)) (n % 4)
  else if n = 140 then s.flag .pltMgmtStat 0 0
  else if n < 256 then false
  else wbit (s.reg .intSwset 0 ((n - 256) / 64)) (n % 64)

/-- Every level as it stands. -/
def State.levels (s : State) : BitVec 512 :=
  BitVec.ofNat 512 ((List.range 512).foldr (fun n a => 2 * a + b2n (s.levelOf n)) 0)

/-- A level as the controller has it. -/
def State.asserted (s : State) (n : Nat) : Bool := s.cc.lv.getLsbD n

/-- Whether a source is enabled and routed to a target (R314). -/
def State.routed (s : State) (n t : Nat) : Bool :=
  let c := s.reg .intSrcCfg 0 n
  wbit c 5 && decide (2 * wb c 3 0 + wb c 4 4 = t)

/-- The lowest asserted, enabled source routed to a target. -/
def State.pendingFor (s : State) (t : Nat) : Option Nat :=
  (List.range 512).find? (fun n => s.asserted n && s.routed n t)

/-- A target of the controller. -/
def State.target (s : State) (t : Nat) : Target := mapGet (fun _ => target0) s.cc.tgts t
def State.setTarget (s : State) (t : Nat) (v : Target) : State :=
  { s with cc := { s.cc with tgts := mapSet (fun _ => target0) s.cc.tgts t v } }

/-- External-interrupt line of a target: 1 while it is idle, not awaiting the sample of a completion, and a source
is pending. -/
def State.extLine (s : State) (t : Nat) : Bool :=
  let v := s.target t
  v.serv.isNone && !v.sample && (s.pendingFor t).isSome

/-- A level change reaches the controller (R313); one that is off receives none. -/
def State.levelIn (s : State) (n : Nat) : State :=
  if s.dom 74 = .on then
    let bit := BitVec.ofNat 512 (2 ^ n)
    { s with cc := { s.cc with lv := (s.cc.lv &&& ~~~bit) ||| (if s.levelOf n then bit else 0) } }
  else s

/-- SOURCE_LEVEL_CHANGE (R313). -/
def execSourceLevelChange (n : Fin 512) (s : State) : Host.Outcome State Fault Refusal := .next (s.levelIn n.val)

/-! ## Claims and completions (R314, R315) -/

/-- The data of a core's access. -/
def State.answerCore (s : State) (w : Nat) : State :=
  { s with io := { s.io with rdata := leBytes 8 w, fault := false } }

/-- A read of INT_CLAIM: the state after it and the word returned. -/
def State.claim (s : State) (t : Nat) : State × Nat :=
  match (s.target t).serv, s.pendingFor t with
  | none, some n => (s.setTarget t { s.target t with serv := some n }, 512 + n)
  | _, _ => (s, 0)

/-- CLAIM (R314). -/
def execClaim (t : Fin 32) (s : State) : Host.Outcome State Fault Refusal :=
  .next (let r := s.claim t.val; r.1.answerCore r.2)

/-- A write of INT_COMPLETE. -/
def State.completeAt (s : State) (t n : Nat) : State :=
  if (s.target t).serv = some n then s.setTarget t ⟨none, true⟩ else s.bump .intCplBad 0 1

/-- COMPLETE (R314). -/
def execComplete (t : Fin 32) (n : BitVec 9) (s : State) : Host.Outcome State Fault Refusal :=
  .next (s.completeAt t.val n.toNat)

/-- The sample after a completion: every level is taken anew, and what is still asserted is delivered. -/
def State.sampleAt (s : State) (t : Nat) : State :=
  if (s.target t).sample then
    let s := s.setTarget t { s.target t with sample := false }
    { s with cc := { s.cc with lv := s.levels } }
  else s

/-- COMPLETION_SAMPLE (R314). -/
def execCompletionSample (t : Fin 32) (s : State) : Host.Outcome State Fault Refusal := .next (s.sampleAt t.val)

/-! ## Software sources (R316) and timers (R312) -/

/-- Write a word of software source levels: they lie in the controller itself, which has them at once. -/
def State.putSoft (s : State) (n : Nat) (w : Word) : State :=
  let s := s.setReg .intSwset 0 n w
  let m := BitVec.ofNat 512 ((2 ^ 64 - 1) * 2 ^ (256 + 64 * n))
  { s with cc := { s.cc with lv := (s.cc.lv &&& ~~~m) ||| BitVec.ofNat 512 (w.toNat * 2 ^ (256 + 64 * n)) } }

/-- SOFTWARE_SOURCE_SET (R316): a write of INT_SWSET. -/
def execSoftwareSourceSet (n : Fin 4) (v : Word) (s : State) : Host.Outcome State Fault Refusal :=
  .next (s.putSoft n.val (s.reg .intSwset 0 n.val ||| v))

/-- SOFTWARE_SOURCE_CLEAR (R316): a write of INT_SWCLR. -/
def execSoftwareSourceClear (n : Fin 4) (v : Word) (s : State) : Host.Outcome State Fault Refusal :=
  .next (s.putSoft n.val (s.reg .intSwset 0 n.val &&& ~~~v))

/-- Whether a hart's machine timer interrupt stands: INT_MTIME ≥ INT_MTIMECMP. -/
def State.timerDue (s : State) (h : Nat) : Bool :=
  decide ((s.reg .intMtimecmp 0 h).toNat ≤ (s.reg .intMtime).toNat)

/-- A hart's machine timer interrupt follows its comparison. -/
def State.timer (s : State) (h : Nat) : State :=
  let bit := BitVec.ofNat 16 (2 ^ h)
  { s with cc := { s.cc with mtip := (s.cc.mtip &&& ~~~bit) ||| (if s.timerDue h then bit else 0) } }

/-- MACHINE_TIMER_EXPIRY (R312). -/
def execMachineTimerExpiry (h : Hart) (s : State) : Host.Outcome State Fault Refusal := .next (s.timer h.val)

/-! ## Wake and reset (R318) -/

/-- A wake source asserts while the control complex sleeps: its domain is requested on. -/
def State.wake (s : State) (n : Nat) : State :=
  match s.cc.retain with
  | some r =>
    let cfg := mapGet (fun _ => 0#64) r.regs (Reg.addr .intSrcCfg 0 n)
    if wbit cfg 6 && s.levelOf n then s.switchOn 74 else s
  | none => s

/-- CC_WAKE (R318). -/
def execCcWake (n : Fin 512) (s : State) : Host.Outcome State Fault Refusal := .next (s.wake n.val)

/-- Restore a word of the retention copy. -/
def State.restoreReg (s : State) (p : Nat × Word) : State := { s with regs := mapPut s.regs p.1 p.2 }

/-- The controller starts: with its retained state after a sleep, INT_MTIME moved on by the cycles counted; every
target is idle, and levels are sampled anew. -/
def State.startCc (s : State) : State :=
  let s := match s.cc.retain with
    | some r =>
      let s := r.regs.foldl State.restoreReg s
      State.setReg { s with cc := { s.cc with retain := none } } .intMtime 0 0 (s.reg .intMtime + BitVec.ofNat 64 r.ticks)
    | none => s
  let s := { s with cc := { s.cc with tgts := [], lv := s.levels } }
  (List.range 16).foldl (fun s h => s.timer h) s

/-- A reset of the control complex, as opposed to a sleep: its registers are at their reset values and the retention
copy is not restored. -/
def State.resetCcNow (s : State) : State :=
  if s.dom 74 = .on then
    let r := s.ready 74
    let s := { s.loseCc with cc := { s.loseCc.cc with retain := none } }
    (s.setReady 74 r).startCc
  else s

end Sys2Proof.Machine
end

