-- ==== Sys2Proof/Machine/Ether.lean ====
section
/-! DEFINITION. Ethernet MACs (R319, R320): rings in the carve-out, frames received and sent, link and errors. -/
namespace Sys2Proof.Machine

/-- Whether n bytes from an address lie in the carve-out (R183, R254). -/
def inCarve (a n : Nat) : Bool :=
  decide (heathBase + carveLo ≤ a ∧ a + n ≤ heathBase + carveHi)

/-- Whether the MAC of a port runs: its domain is on and the port is enabled. Port 2's MAC serves the control complex
(R321). -/
def State.macOn (s : State) (p : Nat) : Bool := s.dom 74 == .on && s.flag .pltEthCfg p 0

/-- log2 of the entries of a port's rings. -/
def State.ethLog (s : State) (p : Nat) : Nat := s.fld .pltEthRing p 52 48

/-- The register of a ring. -/
def ringReg (tx : Bool) : Reg := if tx then .pltEthTx else .pltEthRx
def State.ringProd (s : State) (p : Nat) (tx : Bool) : Nat := s.fld (ringReg tx) p 16 0
def State.ringDone (s : State) (p : Nat) (tx : Bool) : Nat := s.fld (ringReg tx) p 33 17
def State.ringCons (s : State) (p : Nat) (tx : Bool) : Nat := s.fld (ringReg tx) p 50 34

/-- Address of entry i of a ring; the transmit ring follows the receive ring. -/
def State.ringEntry (s : State) (p : Nat) (tx : Bool) (i : Nat) : Nat :=
  let n := 2 ^ s.ethLog p
  s.fld .pltEthRing p 47 0 + (if tx then 16 * n else 0) + 16 * (i % n)

/-- Whether the MAC stopped at an entry with own = 0. -/
def State.macStopped (s : State) (p : Nat) (tx : Bool) : Bool := mapGet (fun _ => false) s.cc.stopped (2 * p + b2n tx)
def State.setStopped (s : State) (p : Nat) (tx b : Bool) : State :=
  { s with cc := { s.cc with stopped := mapSet (fun _ => false) s.cc.stopped (2 * p + b2n tx) b } }

/-- A write of a ring's prod count: one that would place more than 2^n entries between cons and prod is ignored;
another lets the MAC go on. -/
def State.prodWrite (s : State) (p : Nat) (tx : Bool) (v : Nat) : State :=
  if 2 ^ s.ethLog p < (v + 2 ^ 17 - s.ringCons p tx) % 2 ^ 17 then s
  else (s.setFld (ringReg tx) p 16 0 v).setStopped p tx false

/-- RECEIVE_PROD (R320). -/
def execReceiveProd (p : Fin 3) (prod : BitVec 17) (s : State) : Host.Outcome State Fault Refusal :=
  .next (s.prodWrite p.val false prod.toNat)

/-- TRANSMIT_PROD (R320). -/
def execTransmitProd (p : Fin 3) (prod : BitVec 17) (s : State) : Host.Outcome State Fault Refusal :=
  .next (s.prodWrite p.val true prod.toNat)

/-- Bytes that a MAC reads from the carve-out; bad where the place is no memory of the carve-out or its data is
poisoned. -/
def State.macRead (s : State) (p : Fin 3) (a n : Nat) : State × List Byte × Bool :=
  if !inCarve a n || (s.noAnswer a).isSome then (s, List.replicate n 0#8, true)
  else
    let (s, r) := s.readRun a n
    (s.reportBads (.mac p) false r.bads, r.data, r.bad)

/-- The entry at a ring's done count that the MAC owns; without one the MAC stops there until prod is written
(R320). An entry that cannot be read is not owned (log entry 38). -/
def State.nextEntry (s : State) (p : Fin 3) (tx : Bool) : State × Option Word :=
  if !s.macOn p.val || s.macStopped p.val tx || decide (s.ringDone p.val tx = s.ringProd p.val tx) then (s, none)
  else
    let (s, d, _) := s.macRead p (s.ringEntry p.val tx (s.ringDone p.val tx)) 16
    let w := BitVec.ofNat 64 (leNat (d.take 8))
    if wbit w 62 then (s, some w) else (s.setStopped p.val tx true, none)

/-- Return an entry: own = 0, the length and error; done advances once the write is visible. -/
def State.returnEntry (s : State) (p : Fin 3) (tx : Bool) (w : Word) (len : Nat) (err : Bool) : State :=
  let v := wb w 47 0 + len % 2 ^ 14 * 2 ^ 48 + b2n err * 2 ^ 63
  let d := s.ringDone p.val tx
  let s := s.writeBytes (byteWrites (s.ringEntry p.val tx d) (leBytes 16 v) [])
  s.setFld (ringReg tx) p.val 33 17 ((d + 1) % 2 ^ 17)

/-- A frame's length is 64 to 9,216 bytes. -/
def frameLen (n : Nat) : Bool := decide (64 ≤ n ∧ n ≤ 9216)

/-- A received frame goes to the buffer of the next entry. A buffer outside the carve-out, a frame in error, one of a
length the port does not carry, or one longer than its buffer ends the entry with error = 1; of the last the buffer's
length is written (log entry 39). -/
def State.receive (s : State) (p : Fin 3) (frame : List Byte) (bad : Bool) : State :=
  match s.nextEntry p false with
  | (s, none) => s
  | (s, some w) =>
    let a := wb w 47 0
    let n := wb w 61 48
    let ok := inCarve a n && (s.noAnswer a).isNone
    let err := bad || !ok || !frameLen frame.length || decide (n < frame.length)
    let s := if ok then s.writeBytes (byteWrites a (frame.take n) []) else s
    s.returnEntry p false w (min n frame.length) err

/-- FRAME_RECEIVE (R320). -/
def execFrameReceive (p : Fin 3) (frame : List Byte) (bad : Bool) (s : State) : Host.Outcome State Fault Refusal :=
  .next (s.receive p frame bad)

/-- The frame of the next transmit entry is sent; a buffer that cannot be read, or a length the port does not carry,
ends the entry with error = 1. -/
def State.transmit (s : State) (p : Fin 3) : State :=
  match s.nextEntry p true with
  | (s, none) => s
  | (s, some w) =>
    let n := wb w 61 48
    let (s, d, bad) := s.macRead p (wb w 47 0) n
    let err := bad || !frameLen n
    let s := if err then s else { s with cc := { s.cc with sent := mapPut s.cc.sent p.val d } }
    s.returnEntry p true w n err

/-- FRAME_TRANSMIT (R320). -/
def execFrameTransmit (p : Fin 3) (s : State) : Host.Outcome State Fault Refusal := .next (s.transmit p)

/-- ETH_STAT_READ (R320): the read returns the register and clears fec_uncorr. -/
def execEthStatRead (p : Fin 3) (s : State) : Host.Outcome State Fault Refusal :=
  .next ((s.answerCore (s.reg .pltEthStat p.val).toNat).setFld .pltEthStat p.val 31 1 0)

/-- Whether the port's PCS runs: that of port 2 lies in the always-on domain (R319). -/
def State.pcsOn (s : State) (p : Nat) : Bool := p == 2 || s.dom 74 == .on

/-- ETH_LINK_CHANGE (R320). -/
def execEthLinkChange (p : Fin 3) (up : Bool) (s : State) : Host.Outcome State Fault Refusal :=
  .next (if s.pcsOn p.val then s.setBit .pltEthStat p.val 0 up else s)

/-- ETH_FEC_UNCORRECTABLE (R320): the count stops at all ones. -/
def execEthFecUncorrectable (p : Fin 3) (s : State) : Host.Outcome State Fault Refusal :=
  .next (if s.pcsOn p.val then s.setFld .pltEthStat p.val 31 1 (min (2 ^ 31 - 1) (s.fld .pltEthStat p.val 31 1 + 1)) else s)

end Sys2Proof.Machine
end

