-- ==== Sys2Proof/Machine/Boot.lean ====
section
/-! DEFINITION. Start-up, trust and self-test (R332–R353): the boot chain, the configuration record, readiness, self-tests,
measurements, certificates and quotes, flash operations, test access and the clearing of secrets. -/
namespace Sys2Proof.Machine

/-! ## Flash and digests (R332–R335) -/

/-- Bytes of the flash. -/
def State.flashByte (s : State) (a : Nat) : Byte := mapGet (fun _ => 0xFF#8) s.se.flash a
def State.flashBytes (s : State) (a n : Nat) : List Byte := (List.range n).map (fun i => s.flashByte (a + i))

/-- Little-endian number of n bytes of the flash. -/
def State.flashNat (s : State) (a n : Nat) : Nat := leNat (s.flashBytes a n)

/-- Exactly n bytes: zeros follow where a list is short. -/
def fitBytes (n : Nat) (l : List Byte) : List Byte := (List.range n).map (fun i => l.getD i 0)

/-- SHAKE256 of a message, of 64 bytes. -/
def digest (m : List Byte) : List Byte := fitBytes 64 (Config.shake256 m 64)

/-- Whether a header copy is valid (R334). -/
def State.headerOk (s : State) (i : Nat) : Bool :=
  let a := 0x10000 * i
  decide (s.flashNat a 4 = 0x53504B48) && decide ((digest (s.flashBytes a 16)).take 8 = s.flashBytes (a + 16) 8)
def State.headerSeq (s : State) (i : Nat) : Nat := s.flashNat (0x10000 * i + 4) 4

/-- The copy that the ROM uses: the valid one with the higher sequence, copy 0 where both are equal. -/
def State.header (s : State) : Option Nat :=
  match s.headerOk 0, s.headerOk 1 with
  | true, true => some (if s.headerSeq 0 < s.headerSeq 1 then 1 else 0)
  | true, false => some 0
  | false, true => some 1
  | false, false => none

/-- Flash offset of slot A (0) or B (1). -/
def slotBase (n : Nat) : Nat := if n = 0 then 0x00200000 else 0x08100000

/-- Length of a slot, and the offset of its record (R333, R335). -/
def slotLen : Nat := 0x07F00000
def recordAt : Nat := 0x07EFE000

/-! ## PLT_BOOT_STAT -/

def State.stage (s : State) : Nat := s.fld .pltBootStat 0 2 0
def State.setStage (s : State) (n : Nat) : State := s.setFld .pltBootStat 0 2 0 n
def State.slotNo (s : State) : Nat := s.fld .pltBootStat 0 3 3
def State.failOf (s : State) (slot cause : Nat) : State :=
  if slot = 0 then s.setFld .pltBootStat 0 10 8 cause else s.setFld .pltBootStat 0 13 11 cause

/-! ## Measurements (R339) -/

def State.meas (s : State) (i : Nat) : List Byte := mapGet (fun _ => meas0) s.se.meas i

/-- Extend a measurement register by a value. -/
def State.extend (s : State) (i : Nat) (v : List Byte) : State :=
  { s with se := { s.se with meas := mapSet (fun _ => meas0) s.se.meas i (digest (s.meas i ++ v)) } }

/-- SEC_QUOTE_STAT.refused. -/
def State.refuseQuote (s : State) : State := s.setBit .secQuoteStat 0 2 true

/-- A write of SEC_MEAS_EXT_CTL with go: registers 0–3 are locked once hart 0 is released. -/
def State.measExt (s : State) (i : Nat) : State :=
  if s.se.locked ∧ i < 4 then s.refuseQuote
  else s.extend i (bytesOf ((List.range 8).map (fun n => s.reg .secMeasExt 0 n)))

/-- MEASUREMENT_EXTEND (R339). -/
def execMeasurementExtend (reg : BitVec 3) (s : State) : Host.Outcome State Fault Refusal := .next (s.measExt reg.toNat)

/-! ## The directory (R335) -/

/-- An image of the directory: type, slot offset, length, digest. -/
structure Image where
  type : Nat
  off : Nat
  len : Nat
  dig : List Byte
  deriving DecidableEq, Repr

/-- Images of a slot, in directory order. -/
def State.images (s : State) (slot : Nat) : List Image :=
  let b := slotBase slot
  (List.range (s.flashNat (b + 72) 4)).map (fun i =>
    let e := b + 128 + 128 * i
    ⟨s.flashNat e 4, s.flashNat (e + 4) 8, s.flashNat (e + 12) 8, s.flashBytes (e + 20) 64⟩)

/-- Whether bytes lo to hi − 1 of a region of the flash are 0. -/
def State.flashZero (s : State) (b lo hi : Nat) : Bool := (List.range (hi - lo)).all (fun i => s.flashByte (b + lo + i) == 0#8)

def imageTypeOk (t : Nat) : Bool := t == 1 || t == 3 || t == 4 || decide (5 ≤ t ∧ t ≤ 15)

/-- Whether the directory of a slot is malformed, or its signature does not verify. -/
def State.directoryBad (s : State) (slot : Nat) : Bool :=
  let b := slotBase slot
  decide (s.flashNat b 4 ≠ 0x53504B44) || decide (64 < s.flashNat (b + 4) 4) ||
  (let n := s.flashNat (b + 72) 4
   decide (n = 0 ∨ 16 < n) || !s.flashZero b 65 72 || !s.flashZero b 76 128 ||
   (List.range n).any (fun i => !s.flashZero b (128 + 128 * i + 84) (128 + 128 * i + 128)) ||
   !s.flashZero b (128 + 128 * n) 3968 || !s.flashZero b 4082 4096 ||
   (s.images slot).any (fun m => !imageTypeOk m.type || decide (recordAt < m.off + m.len))) ||
  !Config.ed448Verify (s.flashBytes (b + 8) 57) (digest (s.flashBytes b 3968)) (s.flashBytes (b + 3968) 114)

/-- The first image of a type. -/
def State.image (s : State) (slot ty : Nat) : Option Image := (s.images slot).find? (fun m => m.type == ty)

/-- Bytes of an image. -/
def State.imageBytes (s : State) (slot : Nat) (m : Image) : List Byte := s.flashBytes (slotBase slot + m.off) m.len

/-- Whether an image is within its size and has its digest. -/
def State.imageOk (s : State) (slot lim : Nat) (m : Image) : Bool :=
  decide (m.len ≤ lim) && decide (digest (s.imageBytes slot m) = m.dig)

def twoMiB : Nat := 0x200000

/-- The cause for which the ROM abandons a slot; 0 none (R336, R337). -/
def State.romCause (s : State) (slot : Nat) : Nat :=
  let b := slotBase slot
  if digest (s.flashBytes (b + 8) 57) ≠ s.se.vendor then 2
  else if s.directoryBad slot then 3
  else if s.flashNat (b + 4) 4 < s.se.floor then 4
  else match s.image slot 1 with
    | some m => if s.imageOk slot twoMiB m then 0 else 5
    | none => 5

/-! ## A failed slot (R337) -/

/-- Clear every measurement and readiness bit, and what the record gave. -/
def State.clearBoot (s : State) : State :=
  ({ s with se := { s.se with meas := [], locked := false, ownerNow := false, opKey := [], record := [], keys := false } }).setReg
    .pltReady0 0 0 0 |>.setReg .pltReady1 0 0 0

/-- A check failed: the slot is abandoned, and the other one is tried once. -/
def State.bootFail (s : State) (cause : Nat) : State :=
  let slot := s.slotNo
  let s := ((s.failOf slot cause).abortTests.cutAll (List.range 75)).clearBoot
  if s.se.attempt = 0 then
    let s := { s with se := { s.se with attempt := 1 } }
    (((s.setStage 0).setFld .pltBootStat 0 3 3 (1 - slot)).setBit .pltBootStat 0 4 true).setBit .secEvt 0 1 true
  else s.setStage 4

/-- A read of the flash in start-up fails or gets no response: what the flash does is outside the module's rules, so a
free bit decides (log entry 40). -/
def State.flashFails (s : State) : State × Bool :=
  let (s, w) := s.draw
  (s, wbit w 0)

/-- Slot tried by the ROM, with the absence of a valid header recorded against the slot tried first (R334, R337; log
entry 41). -/
def State.chooseSlot (s : State) : State :=
  if s.se.attempt ≠ 0 then s
  else match s.header with
    | some i => s.setFld .pltBootStat 0 3 3 (if s.flashByte (0x10000 * i + 8) = 1 then 1 else 0)
    | none => (s.setFld .pltBootStat 0 3 3 0).failOf 0 1

/-- The ROM's checks of a slot; one that passes is measured and its firmware starts. -/
def State.romSlot (s : State) (slot : Nat) : State :=
  if s.romCause slot ≠ 0 then s.bootFail (s.romCause slot)
  else
    let b := slotBase slot
    let s := s.extend 0 Config.romDigest
    let s := s.extend 0 s.se.vendor
    let s := s.extend 0 (digest (s.flashBytes b 3968))
    let s := s.extend 0 (((s.image slot 1).map Image.dig).getD [])
    let s := { s with se := { s.se with keys := true } }
    (s.setFld .pltBootStat 0 31 24 (s.flashNat (b + 4) 4)).setStage 1

/-- The boot ROM (step 1 of R336). -/
def State.rom (s : State) : State :=
  if s.stage ≠ 0 ∨ s.dom 75 ≠ .on then s
  else match s.chooseSlot.flashFails with
    | (t, true) => t.bootFail 7
    | (t, false) => t.romSlot s.chooseSlot.slotNo

/-- BOOT_ROM (R336). -/
def execBootRom (s : State) : Host.Outcome State Fault Refusal := .next s.rom

/-! ## The configuration record (R340, R341) -/

/-- The record of the running slot, as bytes by offset. -/
def State.recordBytes (s : State) : List Byte := s.flashBytes (slotBase s.slotNo + recordAt) 8192

/-- Number of n bytes of a record. -/
def rcNat (r : List Byte) (a n : Nat) : Nat := leNat ((r.drop a).take n)
def rcOptions (r : List Byte) : Nat := rcNat r 80 4
def rcMirror (r : List Byte) : Nat := rcNat r 88 1

/-- Remap words of a record: of stack s, controller h, cluster c. -/
def rcStk (r : List Byte) (s w : Nat) : Nat := rcNat r (632 + 8 * (16 * s + w)) 8
def rcHth (r : List Byte) (h i : Nat) : Nat := rcNat r (2680 + 8 * (64 * h + i)) 8
def rcMdw (r : List Byte) (c i : Nat) : Nat := rcNat r (4728 + 8 * (8 * c + i)) 8

/-- Bytes that no field of the record lists. -/
def rcGaps : List (Nat × Nat) :=
  [(2, 8), (65, 72), (78, 80), (84, 88), (89, 96), (102, 104), (110, 112), (115, 120), (7800, 8064), (8178, 8192)]

/-- Whether a remap word names a place beyond its home, or sets a bit that its kind does not use: the highest bit of
the unit field is given, and whether the spare bit is used. -/
def remapBad (w hi : Nat) (spare : Bool) : Bool :=
  bits w 28 (hi + 1) ≠ 0 || bits w 63 30 ≠ 0 || (!spare && bitOf w 1)

def remapWords (r : List Byte) : List (List Nat) :=
  (List.range 16).map (fun s => (List.range 16).map (rcStk r s)) ++
  (List.range 32).map (fun d => (List.range 8).map (fun i => rcHth r (d / 8) (8 * (d % 8) + i))) ++
  (List.range 48).map (fun c => (List.range 8).map (rcMdw r c))

/-- Whether the record is malformed. -/
def State.recordMalformed (s : State) (r : List Byte) : Bool :=
  let o := rcOptions r
  let m := rcMirror r
  decide (rcNat r 0 2 ≠ 1) || rcGaps.any (fun g => (List.range (g.2 - g.1)).any (fun i => r.getD (g.1 + i) 0 != 0#8)) ||
  decide (bits (rcNat r 112 3) 23 20 ≠ 0) || decide (bits o 27 20 &&& (255 - bits o 17 10) ≠ 0) ||
  (bitOf m 0 && decide (bits m 4 1 = (if bitOf o 4 then bits o 3 0 else s.pw.pins.toNat))) ||
  (List.range 16).any (fun st => (List.range 16).any (fun w => remapBad (rcStk r st w) 26 true)) ||
  (List.range 4).any (fun h => (List.range 64).any (fun i => remapBad (rcHth r h i) 23 false)) ||
  (List.range 48).any (fun c => (List.range 8).any (fun i => remapBad (rcMdw r c i) 18 false))

/-- Whether two enabled features claim one exclusive resource (R330). -/
def recordConflict (r : List Byte) : Bool :=
  let o := rcOptions r
  let m := rcMirror r
  let l := bits m 7 5
  (bitOf m 0 && (bitOf o (20 + l) || !bitOf o (10 + l) || !bitOf o 18 || !bitOf o 19)) || (bitOf o 8 && bitOf o 9)

/-- Whether some pair of a list's entries, in order, is in a relation. -/
def anyPair {α : Type} (f : α → α → Bool) : List α → Bool
  | [] => false
  | a :: t => t.any (f a) || anyPair f t

/-- Whether two valid words of one table name one unit, or one spare row of one bank. -/
def recordRemap (r : List Byte) : Bool :=
  (remapWords r).any (fun t => anyPair (fun a b => bitOf a 0 && bitOf b 0 && decide (bits a 28 2 = bits b 28 2)) t) ||
  ((remapWords r).take 16).any (fun t => anyPair (fun a b => bitOf a 0 && bitOf b 0 && decide (bits a 12 1 = bits b 12 1)) t)

/-- The result of the checker: the first check that fails (R341). -/
def State.checkRecord (s : State) (r : List Byte) : Nat :=
  let key := (r.drop 8).take 57
  if !Config.ed448Verify key (digest (r.take 8064)) ((r.drop 8064).take 114) then 1
  else if s.se.owner ≠ [] ∧ s.se.owner ≠ digest key then 2
  else if s.recordMalformed r then 3
  else if recordConflict r then 4
  else if recordRemap r then 5
  else 0

/-! ## Loading words of the accepted record (R340, R343) -/

/-- The accepted record. -/
def State.rc (s : State) (a n : Nat) : Nat := leNat ((List.range n).map (fun i => mapGet (fun _ => 0#8) s.se.record (a + i)))

/-- A remap word as loaded: valid words have boot = 1. -/
def bootWord (w : Nat) : Word := BitVec.ofNat 64 (if bitOf w 0 then putBits w 29 29 1 else putBits w 29 29 0)

/-- Load remap words of a home from the record. -/
def State.loadRemaps (s : State) (r : Reg) (p base n : Nat) : State :=
  (List.range n).foldl (fun s i => s.setReg r p i (bootWord (s.rc (base + 8 * i) 8))) s

/-- Load the BPU fuses of a stack. -/
def State.loadFuses (s : State) (st : Nat) : State :=
  (List.range 256).foldl (fun s i =>
    let e := s.rc (120 + 2 * i) 2
    if bitOf e 15 ∧ bits e 14 11 = st then
      s.setReg .stkBpuFuse st (bits e 10 6) (s.reg .stkBpuFuse st (bits e 10 6) ||| BitVec.ofNat 64 (2 ^ bits e 5 0))
    else s) s

/-! ## Self-tests (R345–R347) -/

/-- Domain of a unit of a kind; none where there is no such unit. -/
def unitDomain (k u : Nat) : Option Nat :=
  if k = 0 ∧ u < 48 then some u else if k = 1 ∧ u < 16 then some (52 + u) else if k = 2 ∧ u < 4 then some (68 + u) else none

/-- Units of a kind that may be under test at once, and the power of a test. -/
def testSlots (k : Nat) : Nat := if k = 0 then 4 else if k = 1 then 2 else 1
def testWatts (k : Nat) : Nat := if k = 0 then 32 else if k = 1 then 56 else 35

/-- A test begins: the unit is not ready in the same platform cycle, and its lines are written first (R266). -/
def State.startTest (s : State) (k u : Nat) : State :=
  match unitDomain k u with
  | none => s
  | some d => (((s.flushFor d).setReady d false).setSt k u ⟨1, 0⟩).showTests

/-- Start tests of the record that find a slot begin, in order. -/
def State.startTests (s : State) : List (Nat × Nat) → State
  | [] => s
  | (k, u) :: t =>
    match unitDomain k u with
    | some d =>
      if s.dom d = .on ∧ (s.testing k).length < testSlots k ∧ (s.stOf k u).st ≠ 1 then
        State.startTests { s.startTest k u with se := { (s.startTest k u).se with stq := (s.startTest k u).se.stq.erase (k, u) } } t
      else State.startTests s t
    | none => State.startTests s t

/-- Why a test request is refused; 0 where it is accepted (R345). -/
def State.testReason (s : State) (k u : Nat) : Nat :=
  if testSlots k ≤ (s.testing k).length then 1
  else match unitDomain k u with
    | none => 2
    | some d =>
      if s.dom d ≠ .on ∨ (s.stOf k u).st = 1 ∨ (k = 0 ∧ (s.boardUsed u ∨ s.twinState u ≠ 0)) ∨ (k = 1 ∧ s.stackUsed u) ∨
          (k = 2 ∧ s.heathUsed u) then 2
      else if s.sustain < s.fld .pwrIn 0 27 16 + testWatts k then 3
      else if s.anyAlert then 4
      else if s.scan ≠ 0 then 5
      else 0

/-- A write of SEC_ST_CTL with go. -/
def State.requestTest (s : State) (k u : Nat) : State :=
  let r := s.testReason k u
  let s := s.setFld .secStStat 0 9 7 r
  if r = 0 then s.startTest k u else s.setBit .secStStat 0 6 true

/-- SELF_TEST_REQUEST (R345). -/
def execSelfTestRequest (kind : BitVec 2) (unit : BitVec 6) (s : State) : Host.Outcome State Fault Refusal :=
  .next (s.requestTest kind.toNat unit.toNat)

/-- Remap words taken by a test: which failing units they cover only the test knows: free words (log entry 42). -/
def State.takeRemaps (s : State) (k u : Nat) : Nat → State
  | 0 => s
  | n + 1 =>
    let (r, m) := if k = 0 then (Reg.tenMremap, 8) else if k = 1 then (Reg.stkRemap, 16) else (Reg.hthRemap, 64)
    match (List.range m).find? (fun i => !wbit (s.reg r u i) 0) with
    | none => s
    | some i =>
      let (s, w) := s.draw
      let hi := if k = 0 then 18 else if k = 1 then 26 else 23
      State.takeRemaps (s.setReg r u i (BitVec.ofNat 64 (1 + (if k = 1 then wb w 1 1 * 2 else 0) + wb w hi 2 * 4))) k u n

/-- What a test leaves in a cluster: its registers but TEN_ID and TEN_MREMAP reset, its meadow the poison encoding (R346);
scrubbing resumes where it was (R96, R278). -/
def State.leaveCluster (s : State) (c : Nat) : State :=
  let ws := (List.range 8).map (fun i => s.reg .tenMremap c i)
  let at' := mapGet (fun _ => 0) s.ix.mpos c
  let seen := s.lastScrubs (20 + c)
  let s := (List.range 8).foldl (fun s i => s.setReg .tenMremap c i (ws.getD i 0)) (s.loseCluster c)
  { s with ix := { s.ix with mpos := mapSet (fun _ => 0) s.ix.mpos c at', last := mapSet (fun _ => []) s.ix.last (20 + c) seen } }

/-- What a test leaves in a stack: every pair the poison encoding, the BPUs and the activation counts 0 (R346); its registers
stand, and scrubbing resumes where it was (R96). -/
def State.leaveStack (s : State) (st : Nat) : State :=
  let pos := (List.range 32).map (fun ch => (s.chan st ch).pos)
  let s := { s with
    st := ⟨mapCut s.st.banks (2048 * st) 2048, mapCut s.st.chans (32 * st) 32⟩
    mm := { s.mm.cut (st * 2 ^ 36) (2 ^ 36) with wcb := mapDel s.mm.wcb st } }
  (List.range 32).foldl (fun s ch => s.modChan st ch (fun c => { c with pos := pos.getD ch 0 })) s

/-- What a test leaves in a heath group: every block the poison encoding (R346). -/
def State.leaveHeath (s : State) (h : Nat) : State :=
  let keep {α : Type} (m : SMap α) : SMap α := m.filter (fun p => decide (heathGroup p.1 ≠ some h))
  { s with mm := { s.mm with mem := keep s.mm.mem, chk := keep s.mm.chk, wcb := mapDel s.mm.wcb (16 + h),
                             hact := s.mm.hact.filter (fun p => decide (p.1 / 2 ^ 32 / 8 ≠ h)) } }

/-- What a test leaves behind (R346). -/
def State.leaveTest (s : State) (k u : Nat) : State :=
  if k = 0 then s.leaveCluster u else if k = 1 then s.leaveStack u else s.leaveHeath u

/-- A function becomes ready; a heath group shows it in HTH_STAT too. -/
def State.becomeReady (s : State) (d : Nat) : State :=
  if 68 ≤ d ∧ d < 72 then
    if s.fld .hthStat (d - 68) 7 0 ≠ 0xFF then s else (s.setReady d true).setBit .hthStat (d - 68) 8 true
  else s.setReady d true

/-- A self-test ends. -/
def State.endTest (s : State) (k u : Nat) (pass : Bool) (remaps : BitVec 8) : State :=
  match unitDomain k u with
  | none => s
  | some d =>
    if (s.stOf k u).st ≠ 1 then s
    else
      let s := (s.takeRemaps k u remaps.toNat).leaveTest k u
      let s := (s.setSt k u ⟨if pass then 2 else 3, remaps⟩).setBit .secEvt 0 2 true
      let s := if pass then s.becomeReady d else s.setBit .secEvt 0 3 true
      let s := s.showTests
      s.startTests s.se.stq

/-- SELF_TEST_END (R347). -/
def execSelfTestEnd (kind : BitVec 2) (unit : BitVec 6) (pass : Bool) (remaps : BitVec 8) (s : State) :
    Host.Outcome State Fault Refusal :=
  .next (s.endTest kind.toNat unit.toNat pass remaps)

/-! ## Switch-on completes; initialisation (R324, R343) -/

/-- A domain switch-on completes, and the next one that waits begins; with the last of them the start tests begin. -/
def State.switchDone (s : State) (d : Nat) : State :=
  match s.pw.onq with
  | h :: t =>
    if h = d ∧ s.dom d = .switching then
      let s := (s.setDom d .on).orReg .pwrEvt 0 (2 ^ 8)
      let s := if d = 74 then s.startCc else s
      let s := s.promote t
      if s.pw.onq.isEmpty then s.startTests s.se.stq else s
    else s
  | [] => s

/-- DOMAIN_SWITCH_DONE (R324). -/
def execDomainSwitchDone (d : Fin 76) (s : State) : Host.Outcome State Fault Refusal := .next (s.switchDone d.val)

/-- Kind and unit of the self-test of a domain's function. -/
def testOf (d : Nat) : Option (Nat × Nat) :=
  if d < 48 then some (0, d) else if 52 ≤ d ∧ d < 68 then some (1, d - 52) else if 68 ≤ d ∧ d < 72 then some (2, d - 68) else none

/-- Whether a self-test keeps a function from becoming ready: one that waits, runs, or has not been passed. -/
def State.testHolds (s : State) (d : Nat) : Bool :=
  match testOf d with
  | none => false
  | some (k, u) => s.se.stq.contains (k, u) || (s.stOf k u).st == 1 || (s.stOf k u).st == 3 || (s.stOf k u).st == 4

/-- Initialisation of a function ends: words of the record are loaded, and the function is ready unless a device of a
heath group did not train or a self-test holds it. -/
def State.initDone (s : State) (d : Nat) (trained : BitVec 8) : State :=
  if s.dom d ≠ .on ∨ s.ready d then s
  else
    let s := if d < 48 then s.loadRemaps .tenMremap d (4728 + 64 * d) 8
      else if 52 ≤ d ∧ d < 68 then (s.loadRemaps .stkRemap (d - 52) (632 + 128 * (d - 52)) 16).loadFuses (d - 52)
      else if 68 ≤ d ∧ d < 72 then
        (s.loadRemaps .hthRemap (d - 68) (2680 + 512 * (d - 68)) 64).setFld .hthStat (d - 68) 7 0 trained.toNat
      else if d = 72 ∨ d = 73 then
        (linksOf d).foldl (fun s l => s.linkEnable l (bitOf (s.rc 80 4) (10 + l))) s
      else s
    let s := if d = 74 then s.setBit .secEvt 0 0 true else s
    if s.testHolds d then s else s.becomeReady d

/-- INITIALISATION_DONE (R343). -/
def execInitialisationDone (d : Fin 76) (trained : BitVec 8) (s : State) : Host.Outcome State Fault Refusal :=
  .next (s.initDone d.val trained)

/-! ## The platform firmware (step 2 of R336) -/

/-- Domains in the order in which the firmware switches them on. -/
def bootOrder : List Nat :=
  [72, 73] ++ (List.range 4).map (68 + ·) ++ (List.range 4).map (48 + ·) ++ (List.range 16).map (52 + ·) ++ List.range 48

/-- Start tests that the record names, in ascending unit order. -/
def State.recordTests (s : State) : List (Nat × Nat) :=
  (setBits 48 (s.rc 104 6)).map (fun c => (0, c)) ++ (setBits 16 (bits (s.rc 112 3) 15 0)).map (fun u => (1, u)) ++
    (setBits 4 (bits (s.rc 112 3) 19 16)).map (fun u => (2, u))

/-- Fuse off the clusters that the record names. -/
def State.fuseClusters (s : State) : State :=
  (setBits 48 (s.rc 96 6)).foldl (fun s c => (s.setDom c .fused).setBit .tenId c 8 true) s

/-- The accepted record is held; the first one programs the owner fuse with the digest of its key (R342). -/
def State.takeRecord (s : State) (r : List Byte) : State :=
  let key := (r.drop 8).take 57
  let now := decide (s.se.owner = [])
  let cells := (List.range 8192).foldl (fun m i => mapSet (fun _ => 0#8) m i (r.getD i 0)) ([] : SMap Byte)
  { s with se := { s.se with record := cells, opKey := key, ownerNow := now, owner := if now then digest key else s.se.owner } }

/-- The accepted record is applied: options, mirror, management address, ports, fuses (R340). -/
def State.applyRecord (s : State) (r : List Byte) : State :=
  let s := s.takeRecord r
  let o := rcOptions r
  let m := rcMirror r
  let s := if bitOf o 4 then (s.setFld .lnkDev 0 3 0 (bits o 3 0)).setBit .lnkDev 0 4 true else s
  let s := s.setReg .lnkMirCfg 0 0 (BitVec.ofNat 64 (m + 2 ^ 8 * b2n (bitOf o 5)))
  let s := (s.setBit .icxCfg 0 27 (bitOf o 6)).logCfgWrite (wput (s.reg .icxLogCfg) 0 0 (b2n (bitOf o 9)))
  let s := s.setFld .pltMgmtCfg 0 47 0 (rcNat r 72 6)
  let s := [0, 1].foldl (fun s p => s.setReg .pltEthCfg p 0 (BitVec.ofNat 64 (b2n (bitOf o (28 + p)) + 2 * b2n (bitOf o (30 + p))))) s
  let s := ((s.fuseClusters).setBit .pltReady1 0 11 true).setBit .pltReady1 0 12 true
  s.showGp3

/-- Start tests of the record on domains that are not fused off. -/
def State.startList (s : State) : List (Nat × Nat) :=
  s.recordTests.filter (fun p => match unitDomain p.1 p.2 with
    | some d => decide (s.dom d ≠ Dom.fused)
    | none => false)

/-- The accepted record is applied, and the domains and start tests follow. -/
def State.firmwareGo (s : State) (r : List Byte) : State :=
  let s := (s.applyRecord r).setStage 2
  let s := { s with se := { s.se with stq := s.startList } }
  s.promote (bootOrder.filter (fun d => decide (s.dom d = Dom.off)))

/-- The checker's result is shown; a record that fails abandons the slot. -/
def State.firmwareRun (s : State) (r : List Byte) : State :=
  if s.checkRecord r ≠ 0 then (s.setFld .pltBootStat 0 16 14 (s.checkRecord r)).bootFail 6
  else (s.setFld .pltBootStat 0 16 14 0).firmwareGo r

/-- The platform firmware starts: record, checker, switch-on of the domains, start tests. -/
def State.firmware (s : State) : State :=
  if s.stage ≠ 1 then s
  else match s.flashFails with
    | (t, true) => t.bootFail 7
    | (t, false) => t.firmwareRun t.recordBytes

/-- PLATFORM_FIRMWARE_START (R336). -/
def execPlatformFirmwareStart (s : State) : Host.Outcome State Fault Refusal := .next s.firmware

/-- Carve-out offsets of the images after the loader: each at the next 2 MiB boundary after the one before. -/
def placeImages : Nat → List Image → List (Nat × Image)
  | _, [] => []
  | place, m :: t =>
    let a := (place + twoMiB - 1) / twoMiB * twoMiB
    (a, m) :: placeImages (a + m.len) t

/-- The images that the firmware loads, in order: loader, os, extras. -/
def State.loads (s : State) : List Image :=
  let l := s.images s.slotNo
  (match s.image s.slotNo 3 with | some m => [m] | none => []) ++ (match s.image s.slotNo 4 with | some m => [m] | none => []) ++
    l.filter (fun m => decide (5 ≤ m.type))

/-- A value of 64 bytes by which a register is extended. -/
def measValue (l : List Byte) : List Byte := fitBytes 64 l

/-- The results of the start self-tests that have ended, in ascending order (R339). -/
def State.testValues (s : State) : List (List Byte) :=
  (s.recordTests.filter (fun p => decide (2 ≤ (s.stOf p.1 p.2).st.toNat))).map (fun p =>
    let v := s.stOf p.1 p.2
    measValue [BitVec.ofNat 8 p.1, BitVec.ofNat 8 p.2, v.st.setWidth 8, v.remaps, 0#8])

/-- The images are in place: registers 1–3 are extended, domain 74 is switched on and hart 0 released. -/
def State.release (s : State) (slot : Nat) (ms : List Image) : State :=
  let s := (placeImages 0 ms).foldl (fun s p =>
    s.writeBytes (byteWrites (heathBase + carveLo + p.1) (s.imageBytes slot p.2) [])) s
  let s := s.extend 1 (digest (s.recordBytes.take 8064))
  let s := s.extend 1 (measValue [BitVec.ofNat 8 (b2n s.se.ownerNow), BitVec.ofNat 8 (b2n (s.option 6)), BitVec.ofNat 8 (b2n (s.option 7))])
  let s := ms.foldl (fun s m => s.extend 2 m.dig) s
  let s := s.testValues.foldl (fun s v => s.extend 3 v) s
  let s := (s.setDom 74 .on).orReg .pwrEvt 0 (2 ^ 8)
  let s := s.startCc.setReady 74 true
  let s := { s with se := { s.se with locked := true } }
  (s.setStage 3).setBit .secEvt 0 0 true

/-- Whether an image that the firmware loads is missing, too long or has another digest. -/
def State.imagesBad (s : State) : Bool :=
  let slot := s.slotNo
  (s.image slot 3).isNone || (s.image slot 4).isNone ||
    s.loads.any (fun m => !s.imageOk slot (if m.type = 3 then 4 * twoMiB else slotLen) m)

/-- The images are read, verified and loaded; the clearing of secrets overrides it (R352). -/
def State.loaded (s : State) : State :=
  if s.stage ≠ 2 ∨ s.scan ≠ 0 ∨ !s.ready 68 ∨ !s.ready 69 then s
  else match s.flashFails with
    | (t, true) => t.bootFail 7
    | (t, false) => if t.imagesBad then t.bootFail 5 else t.release t.slotNo t.loads

/-- IMAGES_LOADED (R336). -/
def execImagesLoaded (s : State) : Host.Outcome State Fault Refusal := .next s.loaded

/-! ## Flash operations (R332) -/

/-- Whether n bytes at a flash address may be erased or programmed: in the slot that does not run, or in the header copy
that the ROM does not use. -/
def State.flashFree (s : State) (a n : Nat) : Bool :=
  let b := slotBase (1 - s.slotNo)
  let h := 0x10000 * (1 - s.header.getD 0)
  decide ((b ≤ a ∧ a + n ≤ b + slotLen) ∨ (h ≤ a ∧ a + n ≤ h + 0x10000))

/-- Accept or refuse a flash operation: 1 erase of a sector, 2 program of a page. -/
def State.flashStart (s : State) (op a : Nat) : State :=
  let n := if op = 1 then 0x10000 else 256
  let buf := s.fld .secFlashBuf 0 51 0
  let refuse := s.setBit .secFlashStat 0 2 true
  if s.stage ≠ 3 ∨ s.scan ≠ 0 ∨ s.se.flashOp.isSome ∨ a % n ≠ 0 ∨ !s.flashFree a n ∨ (op = 2 ∧ (!inCarve buf 256 ∨ (s.noAnswer buf).isSome)) then
    refuse
  else
    let (s, d) := if op = 1 then (s, []) else let r := s.readRun buf 256; (r.1, r.2.data)
    State.setFld { s with se := { s.se with flashOp := some (op, a, d) } } .secFlashStat 0 1 0 1

/-- FLASH_ERASE (R332). -/
def execFlashErase (addr : BitVec 28) (s : State) : Host.Outcome State Fault Refusal := .next (s.flashStart 1 addr.toNat)

/-- FLASH_PROGRAM (R332). -/
def execFlashProgram (addr : BitVec 28) (s : State) : Host.Outcome State Fault Refusal := .next (s.flashStart 2 addr.toNat)

/-- Store bytes in the flash. -/
def flashPut (m : SMap Byte) (a : Nat) : List Byte → SMap Byte
  | [] => m
  | b :: t => flashPut (mapSet (fun _ => 0xFF#8) m a b) (a + 1) t

/-- A flash operation ends; of one that failed the bytes are free (log entry 43). -/
def State.flashDone (s : State) (pass : Bool) : State :=
  match s.se.flashOp with
  | none => s
  | some (op, a, d) =>
    let n := if op = 1 then 0x10000 else 256
    let bytes := if !pass then (List.range n).map (fun i => Config.streamByte s.free (a + i))
      else if op = 1 then List.replicate n 0xFF#8 else fitBytes 256 d
    let s := { s with se := { s.se with flash := flashPut s.se.flash a bytes, flashOp := none }
                      free := s.free + b2n (!pass) }
    let s := (s.setFld .secFlashStat 0 1 0 2).setBit .secEvt 0 5 true
    if pass then s else (s.setBit .secFlashStat 0 3 true).setBit .secEvt 0 6 true

/-- FLASH_OPERATION_DONE (R332). -/
def execFlashOperationDone (pass : Bool) (s : State) : Host.Outcome State Fault Refusal := .next (s.flashDone pass)

/-- A write of SEC_SVN_CTL.blow (R338). -/
def State.blow (s : State) : State :=
  let v := s.fld .pltBootStat 0 31 24
  if s.se.floor < v then
    (((State.setFld { s with se := { s.se with floor := v } } .pltBootStat 0 38 32 v).setBit .secSvnCtl 0 0 true)).setBit .secEvt 0 7 true
  else s

/-- SVN_BLOW (R338). -/
def execSvnBlow (s : State) : Host.Outcome State Fault Refusal := .next s.blow

/-! ## Certificates and quotes (R348–R350) -/

/-- Public keys: identity, and attestation for the running image. -/
def identityKey : List Byte := fitBytes 57 (Config.publicKey 0 [])
def State.aliasKey (s : State) : List Byte := fitBytes 57 (Config.publicKey 1 (s.meas 0))

/-- Identity digest: the first 64 bits of the digest of the identity public key (R348). -/
def identityDigest : List Byte := fitBytes 8 (digest identityKey)

/-- A structure followed by its signature over the digest of the bytes before it. -/
def signedBy (key : Nat) (l : List Byte) : List Byte := l ++ fitBytes 114 (Config.ed448Sign key (digest l))

/-- The three structures. -/
def State.identityCert (s : State) : List Byte := s.flashBytes 0x20000 194
def State.attestCert (s : State) : List Byte :=
  signedBy 0 (fitBytes 64 (leBytes 4 1 ++ s.aliasKey) ++ s.meas 0 ++ identityDigest)
def State.quoteBytes (s : State) (n : Nat) : List Byte :=
  let flags := b2n s.se.ownerNow + 2 * b2n (s.option 6) + 4 * b2n (s.option 7)
  signedBy 1 (leBytes 4 1 ++ leBytes 1 (s.fld .lnkDev 0 3 0) ++ leBytes 1 s.slotNo ++ leBytes 1 flags ++
    leBytes 1 (s.fld .pltBootStat 0 31 24) ++ identityDigest ++ bytesOf [s.reg .pltReady0, s.reg .pltReady1] ++ leBytes 8 n ++
    bytesOf ((List.range 8).map (fun i => s.reg .secQuoteNonce 0 i)) ++ (List.range 8).flatMap (fun i => s.meas i))

/-- A write of SEC_QUOTE_CTL (R350): refused while busy, outside the carve-out, or after clearing has begun. -/
def State.quoteStart (s : State) (op a : Nat) : State :=
  let n := if op = 1 then 194 else if op = 2 then 250 else 730
  if s.se.quoteOp.isSome ∨ !inCarve a n ∨ s.scan ≠ 0 ∨ !s.se.keys then s.refuseQuote
  else
    let c := (s.fld .secQuoteStat 0 63 32 + 1) % 2 ^ 32
    let s := if op = 3 then s.setFld .secQuoteStat 0 63 32 c else s
    let b := if op = 1 then s.identityCert else if op = 2 then s.attestCert else s.quoteBytes c
    State.setFld { s with se := { s.se with quoteOp := some (a, b) } } .secQuoteStat 0 1 0 1

/-- IDENTITY_CERTIFICATE (R350). -/
def execIdentityCertificate (buf : BitVec 46) (s : State) : Host.Outcome State Fault Refusal :=
  .next (s.quoteStart 1 (64 * buf.toNat))

/-- ATTESTATION_CERTIFICATE (R350). -/
def execAttestationCertificate (buf : BitVec 46) (s : State) : Host.Outcome State Fault Refusal :=
  .next (s.quoteStart 2 (64 * buf.toNat))

/-- QUOTE (R350). -/
def execQuote (buf : BitVec 46) (s : State) : Host.Outcome State Fault Refusal := .next (s.quoteStart 3 (64 * buf.toNat))

/-- A certificate or quote is written. -/
def State.quoteEnd (s : State) : State :=
  match s.se.quoteOp with
  | none => s
  | some (a, b) =>
    let s := if (s.noAnswer a).isSome then s else s.writeBytes (byteWrites a b [])
    (State.setFld { s with se := { s.se with quoteOp := none } } .secQuoteStat 0 1 0 2).setBit .secEvt 0 4 true

/-- QUOTE_DONE (R350). -/
def execQuoteDone (s : State) : Host.Outcome State Fault Refusal := .next s.quoteEnd

/-! ## Test access (R351) and the clearing of secrets (R352) -/

/-- The instruction register takes an instruction, and its data register is selected. -/
def State.jtag (s : State) (ir : BitVec 8) (dr : Word) : State := { s with se := { s.se with ir := ir, dr := dr } }

/-- The bypass register, which captures 0. -/
def State.bypassNow (s : State) : State := s.jtag 0xFF#8 0

/-- EXTEST (R351). -/
def execExtest (s : State) : Host.Outcome State Fault Refusal :=
  .next (if s.scan = 2 then s.jtag 0x00#8 s.se.boundary else s.bypassNow)

/-- IDCODE (R351). -/
def execIdcode (s : State) : Host.Outcome State Fault Refusal := .next (s.jtag 0x01#8 0x196406D7#64)

/-- SAMPLE/PRELOAD (R351): the pins are sampled, a free value, and the boundary register is preloaded. -/
def execSamplePreload (boundary : Word) (s : State) : Host.Outcome State Fault Refusal :=
  .next (
    let d := Config.pinSample s.free
    let s := { s with free := s.free + 1, se := { s.se with boundary := boundary } }
    s.jtag 0x02#8 d)

/-- INTSCAN (R351): what the internal chains hold is a free value (log entry 44). -/
def execIntscan (s : State) : Host.Outcome State Fault Refusal :=
  .next (if s.scan = 2 then let r := s.draw; r.1.jtag 0x20#8 r.2 else s.bypassNow)

/-- BYPASS (R351). -/
def execBypass (s : State) : Host.Outcome State Fault Refusal := .next s.bypassNow

/-- Every active pass is halted (R82, R352). -/
def State.haltAll (s : State) : State :=
  (s.st.chans.filter (fun p => p.2.pass.isSome)).foldl (fun s p => s.haltCmd (p.1 / 32) (p.1 % 32)) s

/-- The clearing begins: quotes are refused, fetch and dispatch stop, passes are halted, tests, repairs and flash
operations are given up. -/
def State.clearStart (s : State) : State :=
  let s := (s.setFld .secDbg 0 1 0 1).abortTests.haltAll
  let s := { s with se := { s.se with flashOp := none, quoteOp := none }, ix := { s.ix with slots := [], queue := [] } }
  (s.setBit .secFlashStat 0 0 false).setBit .secQuoteStat 0 0 false

/-- CLEAR (R351, R352): only with scan_allow or on a halted module, and once. -/
def execClear (s : State) : Host.Outcome State Fault Refusal :=
  .next (if s.option 7 || decide (s.stage = 4) then
      let s := s.jtag 0x10#8 0
      if s.scan = 0 then s.clearStart else s
    else s.bypassNow)

/-- Step 4: what the always-on domain holds of secrets and logs is zeroed. -/
def State.zeroSecrets (s : State) : State :=
  let s := ((s.dropRegs 0xD00180 0x50).dropRegs 0xD00200 0x40).clearBoot
  { s with ix := { s.ix with buf := [] }, cc := { s.cc with retain := none } }

/-- Steps 3 to 6: memory holds the poison encoding, secrets are zeroed, domains 0–74 are off, and scan is enabled unless
it is withheld. -/
def State.clearEnd (s : State) : State :=
  if s.scan ≠ 1 ∧ s.scan ≠ 3 then s
  else
    let t := ((s.cutAll (List.range 75)).zeroSecrets).setFld .secQuoteStat 0 63 32 0
    if s.scan = 1 then (t.setFld .secDbg 0 1 0 2).setStage 5 else t

/-- CLEAR_COMPLETE (R352). -/
def execClearComplete (s : State) : Host.Outcome State Fault Refusal := .next s.clearEnd

end Sys2Proof.Machine
end

