-- ==== Sys2Proof/Machine/Control.lean ====
section
/-! DEFINITION. The control space as software sees it (R7, R8, R311): what each register shows when it is read, what a write
of each register does, and the loads and stores of the cores, peers and homes (R178, R183, R192–R194, R255). A read or a
write of a register takes effect when it is applied; the crossings of R18 carry no state. -/
namespace Sys2Proof.Machine

/-! ## What registers show -/

/-- State of a context as SCH_RES_VIEW codes it (R171). -/
def Resid.code (r : Resid) : Nat :=
  match r with
  | .absent => 0 | .nonResident => 1 | .swappingIn => 2 | .resident => 3 | .blocked => 4 | .swappingOut => 5 | .tornDown => 6

/-- SCH_CTX_VIEW and SCH_RES_VIEW of a field's selected context. -/
def State.ctxView (s : State) (f : Nat) : Nat :=
  match s.ctx (s.fld .schCtxSel f 9 0) with
  | some c => if c.field = f then c.head.toNat + c.tail.toNat * 2 ^ 17 + 2 ^ 34 else 0
  | none => 0

def State.resView (s : State) (f : Nat) : Nat :=
  let x := s.fld .schCtxSel f 9 0
  match (s.settle f).ctx x with
  | some c =>
    if c.field = f then
      c.res.code + b2n c.pinned * 8 + b2n (cwBest c.cw) * 16 +
        min 512 (s.sc.tasks.filter (fun p => p.2.ctx == x && p.2.phase != Phase.recWait)).length * 32 +
        b2n (c.runnable && c.res == .nonResident) * 2 ^ 15
    else 0
  | none => 0

/-- SCH_GLINT_STATE of a field's selected slot (R144, R159). -/
def State.glintView (s : State) (f : Nat) : Nat :=
  let k := s.fld .schGlintSel f 11 0
  let g := s.glint f k
  g.epoch.toNat + g.st.toNat * 2 ^ 16 + (match s.slotOwner f k with
    | some x => x * 2 ^ 19
    | none => 2 ^ 18)

/-- Fields of the selected bucket (R268). -/
def State.bucketView (s : State) : Nat :=
  let h := s.fld .memRegSel 0 8 4
  if 20 ≤ h then 0
  else
    let b := s.bucket h (s.fld .memRegSel 0 3 0)
    b.rate + b.burst * 2 ^ 16 + b2n b.enable * 2 ^ 32

def State.bucketLevel (s : State) : Nat :=
  let h := s.fld .memRegSel 0 8 4
  if 20 ≤ h then 0 else (s.bucket h (s.fld .memRegSel 0 3 0)).level

/-- SRV_STREAM_VIEWn. -/
def Trk.word (e : Trk) (i : Nat) : Word := match i with | 0 => e.w0 | 1 => e.w1 | 2 => e.w2 | _ => e.w3

/-- SRV_CUST_CFG and SRV_CUST_BAL of the selected customer. -/
def Cust.cfgWord (c : Cust) : Nat := c.cap + c.promptW * 2 ^ 32 + b2n c.enabled * 2 ^ 36 + b2n c.test * 2 ^ 37
def Cust.balWord (c : Cust) : Nat := (c.bal % 2 ^ 40).toNat + b2n c.throttled * 2 ^ 40

/-- ICX_EVT_VIEW0 and ICX_EVT_VIEW1 of the selected slot (R290). -/
def Slot.view1 (v : Slot) : Nat :=
  v.st.toNat + v.tried.toNat * 8 + min 65535 v.held.length * 2 ^ 16 + v.island % 128 * 2 ^ 32 + v.parts.toNat * 2 ^ 39

/-- LNK_PEER_VIEW (R299). -/
def State.peerView (s : State) : Nat :=
  let l := s.upLinks (s.fld .lnkPeerSel 0 3 0)
  b2n (!l.isEmpty) + (l.foldl (fun a i => a + 2 ^ i) 0) * 2

/-- TLM_SENS_VIEW (R331). -/
def State.sensView (s : State) : Nat :=
  let n := s.fld .tlmSensSel 0 6 0
  if n < 112 then (mapGet (fun _ => 0#12) s.pw.temps n).toNat + b2n (s.alertAt n) * 2 ^ 12 else 0

/-- PWR_DOM_VIEW (R331). -/
def Dom.code (d : Dom) : Nat := match d with | .off => 0 | .switching => 1 | .on => 2 | .fused => 3

/-- INT_TGT_STAT (R322). -/
def State.tgtView (s : State) (t : Nat) : Nat :=
  (match (s.target t).serv with | some n => 1 + n * 2 | none => 0) + b2n (s.extLine t) * 2 ^ 10

/-- SEC_ST_VIEW, SEC_MEAS_DATAn (R353). -/
def State.stView (s : State) : Nat :=
  let v := s.stOf (s.fld .secStSel 0 1 0) (s.fld .secStSel 0 7 2)
  v.st.toNat + v.remaps.toNat * 8
def State.measView (s : State) (i : Nat) : Nat := leNat (((s.meas (s.fld .secMeasSel 0 2 0)).drop (8 * i)).take 8)

/-- The word of a register as it stands: the word it holds, or what it shows of other state. -/
def State.view (s : State) (r : Reg) (p i : Nat) : Nat :=
  match r with
  | .schCtxView => s.ctxView p
  | .schResView => s.resView p
  | .schGlintState => s.glintView p
  | .tenTwinCtl | .tenTwinStat => if p % 2 = 1 then 0 else (s.reg r p i).toNat
  | .stkScrubCfg => (s.reg r p i).toNat + b2n ((s.stOf 1 p).st == 1) * 2 ^ 40
  | .memRegCfg => s.bucketView
  | .memRegLevel => s.bucketLevel
  | .memRegWait => s.waitView
  | .kvsFmt => (s.cfg 0 .fmt (s.fld .kvsFmtSel 0 3 0)).toNat
  | .kvsFrame => (s.kvFmt 0 (s.fld .kvsFmtSel 0 3 0)).frame
  | .kvsPoolCfg => (s.pool p (s.fld .kvsPoolSel p 4 0)).cfg.toNat
  | .kvsPoolList => (s.pool p (s.fld .kvsPoolSel p 4 0)).list.toNat
  | .kvsPoolFree => (s.pool p (s.fld .kvsPoolSel p 4 0)).free
  | .srvStreamView => ((s.trk (s.fld .srvStreamSel 0 15 0)).word i).toNat
  | .srvCustCfg => (s.cust (s.fld .srvCustSel 0 11 0)).cfgWord
  | .srvCustBal => (s.cust (s.fld .srvCustSel 0 11 0)).balWord
  | .srvPartCfg => (s.pcfgOf 0 (s.fld .srvPartSel 0 3 0)).toNat
  | .srvPartCtl => (s.pstate 0 (s.fld .srvPartSel 0 3 0)).toNat + s.fld .srvPartCtl 0 3 3 * 8
  | .srvPartStop => (s.pstopOf 0 (s.fld .srvPartSel 0 3 0)).toNat
  | .srvPartStat => let o := s.openIn (s.fld .srvPartSel 0 3 0); o.1 + o.2 * 2 ^ 17
  | .srvCprogLoc => (s.progLoc 0 (s.fld .srvCprogSel 0 7 0)).toNat
  | .srvCprogN => s.progN 0 (s.fld .srvCprogSel 0 7 0)
  | .icxEvtView0 => (s.slot (s.fld .icxEvtSel 0 5 0)).addr
  | .icxEvtView1 => (s.slot (s.fld .icxEvtSel 0 5 0)).view1
  | .icxRmapCfg => (s.rmapWord (s.fld .icxRmapSel 0 5 0)).toNat
  | .tlmSensView => s.sensView
  | .lnkPeerView => s.peerView
  | .lnkMirPart => (s.reg r p i).toNat % 2 ^ 32 + (s.recState (s.fld .srvPartSel 0 3 0)).toNat * 2 ^ 32
  | .intSrcCfg => (s.reg r p i).toNat % 128 + b2n (s.asserted i) * 128
  | .intSwclr => (s.reg .intSwset 0 i).toNat
  | .intTgtStat => s.tgtView p
  | .pltEthEvt => s.ethEvt p
  | .pwrDomView => (s.dom (s.fld .pwrDomSel 0 6 0)).code
  | .secStView => s.stView
  | .secMeasData => s.measView i
  | _ => (s.reg r p i).toNat

/-! ## Reads (R7, R8) -/

/-- The event buffer (R287): 4,096 entries of four words. -/
def eventBase : Nat := 0x980000

/-- Add events that arrive in the clock of a read to the read-clears field of a register (R8); each such field stops at
all ones. -/
def lateFields (late : Nat) : List RField → Nat
  | [] => 0
  | f :: t => lateFields late t + (if f.acc = .rc then min late (2 ^ (f.hi + 1 - f.lo) - 1) * 2 ^ f.lo else 0)

/-- Whether a register has a read-clears field. -/
def readClears (r : Reg) : Bool := r.info.fields.any (fun f => f.acc == .rc)

/-- A read of a control-space word: the state after it and the value. A read of INT_CLAIM claims; read-clears fields are
cleared, and `late` events of the same clock are kept. -/
def State.controlRead (s : State) (off late : Nat) : State × Nat :=
  if eventBase ≤ off ∧ off < eventBase + 32 * 4096 ∧ off % 8 = 0 then
    (s, (mapGet (fun _ => 0#64) s.ix.buf ((off - eventBase) / 8)).toNat)
  else match locate off with
    | none => (s, 0)
    | some (.intClaim, t, _) => s.claim t
    | some (.memRegWait, _, _) => (s.clearWait late, s.waitView)
    | some (r, p, i) =>
      let v := s.view r p i
      let s := if readClears r then
          s.setReg r p i (BitVec.ofNat 64 (afterRead (s.reg r p i).toNat r.info.fields + lateFields late r.info.fields))
        else s
      (s, readFields v r.info.fields)

/-- READ_CLEAR (R8): the value goes to the reader. -/
def execReadClear (off : Nat) (late : Nat) (s : State) : Host.Outcome State Fault Refusal :=
  .next (let r := s.controlRead off late; r.1.answerCore r.2)

/-! ## Writes (R7, R8) -/

/-- Bounds of a field's buckets: each at least the one before, the last fixed (R215). -/
def State.putBounds (s : State) (f i : Nat) (v : Word) : State :=
  let bound (s : State) (n : Nat) : Nat := bits (s.reg .kvsBucket f (n / 4)).toNat (16 * (n % 4) + 15) (16 * (n % 4))
  let put (s : State) (n x : Nat) : State :=
    s.setReg .kvsBucket f (n / 4) (wput (s.reg .kvsBucket f (n / 4)) (16 * (n % 4) + 15) (16 * (n % 4)) x)
  (List.range 15).foldl (fun s n =>
    let x := if n / 4 = i then wb v (16 * (n % 4) + 15) (16 * (n % 4)) else bound s n
    put s n (if n = 0 then x else max x (bound s (n - 1)))) s

/-- Refusals that software clears by writing 1 beside a control field. -/
def State.clearBit (s : State) (r : Reg) (p n : Nat) (v : Word) : State := if wbit v n then s.setBit r p n false else s

/-- A write of an Ethernet ring register: cons is stored, then prod is offered to the MAC (R320). -/
def State.ethRing (s : State) (p : Nat) (tx : Bool) (v : Word) : State :=
  (s.setFld (ringReg tx) p 50 34 (wb v 50 34)).prodWrite p tx (wb v 16 0)

/-- A plain write by the access types of a register's fields; `hw` holds the bits that hardware sets in the same clock. -/
def State.plainWrite (s : State) (r : Reg) (p i : Nat) (v : Word) (hw : Nat) : State :=
  s.setReg r p i (BitVec.ofNat 64 (writeFields (s.reg r p i).toNat v.toNat hw r.info.fields))

/-- Registers of the scheduler, the clusters and the stacks whose writes do more than the access types say. -/
def State.writeCompute (s : State) (r : Reg) (p i : Nat) (v : Word) (hw : Nat) : State :=
  match r with
  | .schCtxCtl => s.ctxStart p v
  | .schQDoorbell => s.ring p v
  | .schGlintSignal => s.exportOp p (wb v 11 0) (wb v 27 12) (wb v 29 28)
  | .schAuditCfg => s.auditCfg p v
  | .schThinThr =>
    let w := BitVec.ofNat 64 (min 16 (wb v 4 0))
    (s.setReg r p i w).mirrorOut i p (.thinThr (Fin.ofNat 16 i) w)
  | .schClassRsv => s.setReg r p 0 (BitVec.ofNat 64 (min 512 (wb v 9 0) + min 256 (wb v 18 10) * 2 ^ 10))
  | .schResCtl => s.resCtl p v
  | .schSwapCfg => s.setReg r p 0 (BitVec.ofNat 64 (wb v 15 0 + wb v 55 33 * 2 ^ 33))
  | .schTdCreate => s.tdWrite p v
  | .tenStreamCfg =>
    let b := wb v 7 0
    s.setReg r p 0 (BitVec.ofNat 64 (b + min (min 64 (wb v 15 8)) (256 - b) * 2 ^ 8))
  | .tenTwinCtl =>
    if p % 2 = 1 then s
    else if wbit v 0 then s.twinFormOp p (wbit v 1) false
    else if wbit v 1 then s.twinDissolveOp p (wbit v 0) false
    else s
  | .tenTwinStat => if p % 2 = 1 then s else s.plainWrite r p i v hw
  | .vecSreg => if i = 0 then s else s.plainWrite r p i v hw
  | .stkArbCfg => s.arbCfg p v
  | .stkRhCfg =>
    let m := max 16 (wb v 7 0)
    s.setReg r p 0 (BitVec.ofNat 64 (m + max (2 * m) (wb v 16 8) * 2 ^ 8 + wb v 32 17 * 2 ^ 17))
  | _ => s.plainWrite r p i v hw

/-- Registers of the memory fabric, the KV service and the front end. -/
def State.writeServe (s : State) (r : Reg) (p i : Nat) (v : Word) (hw : Nat) : State :=
  match r with
  | .memRangeCtl =>
    if wbit v 12 || wbit v 13 then s.rangeStart ⟨wb v 11 0, wbit v 12, wbit v 12 && wbit v 13, s.rangeStage⟩ else s.rangeNone
  | .memRegCfg => s.regulator v
  | .kvsSrecCfg => s.writeCfg .srec 0 (BitVec.ofNat 64 (wb v 15 0 + wb v 55 37 * 2 ^ 37))
  | .kvsSrecCtl => s.srecCtl (wb v 15 0) (wb v 17 16)
  | .kvsFmt => s.setFmt (s.fld .kvsFmtSel 0 3 0) v
  | .kvsPoolCfg => s.poolWrite p false v
  | .kvsPoolList => s.poolWrite p true v
  | .kvsPoolFree => s.poolFree p v
  | .kvsBucket => s.putBounds p i v
  | .srvStreamCtl => s.streamCtl (wb v 15 0) (wb v 19 16)
  | .srvCustCfg => s.srvEnqueue (.custCfg (s.fld .srvCustSel 0 11 0) v)
  | .srvCustCredit => s.srvEnqueue (.credit (wb v 11 0) (BitVec.ofNat 32 (wb v 43 12)))
  | .srvPartCfg => s.partCfg (s.fld .srvPartSel 0 3 0) v
  | .srvPartCtl => (s.clearBit r 0 3 v).partState (s.fld .srvPartSel 0 3 0) (BitVec.ofNat 3 (wb v 2 0))
  | .srvPartStop => s.partStop (s.fld .srvPartSel 0 3 0) v
  | .srvCprogLoc => s.writeCfg .cprogLoc (s.fld .srvCprogSel 0 7 0) (BitVec.ofNat 64 (wb v 55 0))
  | .srvCprogN => s.writeCfg .cprogN (s.fld .srvCprogSel 0 7 0) (BitVec.ofNat 64 (wb v 15 0))
  | .srvOutCfg => s.outCfg p v
  | _ => s.plainWrite r p i v hw

/-- Registers of the integrity unit, telemetry and the links. One write may set several bits that act: TLM_TRACE_CTL starts
and then stops; LNK_MIR_CTL forms, then breaks, then confirms (DESIGN CHOICE, log entry 115: the manual gives no order). -/
def State.writeLinks (s : State) (r : Reg) (p i : Nat) (v : Word) (hw : Nat) : State :=
  match r with
  | .icxCfg => s.setReg r p 0 (BitVec.ofNat 64 (max 1 (wb v 15 0) + wb v 26 16 * 2 ^ 16 + b2n (s.flag r 0 27) * 2 ^ 27))
  | .icxHoldCtl =>
    if wb v 7 6 = 1 then s.holdRelease (wb v 5 0) else if wb v 7 6 = 2 then s.holdAbandon (wb v 5 0) else s
  | .icxReloadCtl => if wbit v 6 then s.reloadGo (wb v 5 0) else s
  | .icxRmapCfg => s.rmapWrite v
  | .icxInjCtl => s.injWrite v
  | .icxLogCfg => s.logCfgWrite v
  | .icxLogHead => (s.plainWrite r p i v hw).logLevel
  | .tlmTraceCfg => s.traceCfgWrite v
  | .tlmTraceCtl =>
    let s := if wbit v 0 then s.traceStart else s
    if wbit v 1 then s.traceStop else s
  | .lnkCtl =>
    let s := s.setFld r p 3 1 (wb v 3 1)
    let s := if wbit v 0 = s.flag r p 0 then s else s.linkEnable p (wbit v 0)
    if wbit v 4 then s.retrainNow p else s
  | .lnkInj => s.linkInj p v
  | .lnkMirCtl =>
    let s := if wbit v 0 then s.formPair else s
    let s := if wbit v 1 then s.breakPair else s
    if wbit v 2 then s.confirmNow else s
  | _ => s.plainWrite r p i v hw

/-- Registers of the platform, power, interrupt and security blocks. -/
def State.writePlatform (s : State) (r : Reg) (p i : Nat) (v : Word) (hw : Nat) : State :=
  match r with
  | .intSwset => s.putSoft i (s.reg .intSwset 0 i ||| v)
  | .intSwclr => s.putSoft i (s.reg .intSwset 0 i &&& ~~~v)
  | .intComplete => s.completeAt p (wb v 8 0)
  | .intMtimecmp => (s.plainWrite r p i v hw).timer i
  | .intMtime => (List.range 16).foldl (fun s h => s.timer h) (s.plainWrite r p i v hw)
  | .pltEthRing =>
    let n := wb v 52 48
    s.setReg r p 0 (BitVec.ofNat 64 (wb v 47 0 + (if 6 ≤ n ∧ n ≤ 16 then n else 6) * 2 ^ 48))
  | .pltEthRx => s.ethRing p false v
  | .pltEthTx => s.ethRing p true v
  | .pwrCfg => s.setReg r p 0 (BitVec.ofNat 64 (min 2400 (wb v 11 0)))
  | .pwrDomCtl =>
    let d := wb v 6 0
    if wb v 8 7 = 1 then (if d < 76 then s.switchOn d else s.refuseSwitch)
    else if wb v 8 7 = 2 then (if d < 76 then s.switchOff d else s.refuseSwitch)
    else s
  | .pwrInj => s.pwrInjWrite v
  | .secStCtl => if wbit v 8 then s.requestTest (wb v 1 0) (wb v 7 2) else s
  | .secMeasExtCtl => if wbit v 3 then s.measExt (wb v 2 0) else s
  | .secQuoteCtl => if wb v 1 0 = 0 then s else s.quoteStart (wb v 1 0) (64 * wb v 51 6)
  | .secFlashCtl => if wb v 1 0 = 1 ∨ wb v 1 0 = 2 then s.flashStart (wb v 1 0) (wb v 29 2) else s
  | .secSvnCtl => if wbit v 0 then s.blow else s
  | _ => s.plainWrite r p i v hw

/-- A write of a control-space word. A hole between registers takes no effect (R7). -/
def State.controlWrite (s : State) (off : Nat) (v : Word) (hw : Nat) : State :=
  match locate off with
  | none => s
  | some (r, p, i) =>
    match r.info.page with
    | .sch | .ten | .vec | .stk | .hth => s.writeCompute r p i v hw
    | .mem | .kvf | .kvc | .srf | .src => s.writeServe r p i v hw
    | .icx | .tlm | .lnk | .lnc => s.writeLinks r p i v hw
    | .plt | .eth | .mgt | .pwr | .int | .itg | .sec => s.writePlatform r p i v hw

/-- REGISTER_WRITE (R8). -/
def execRegisterWrite (off : Nat) (v hw : Word) (s : State) : Host.Outcome State Fault Refusal :=
  .next (s.controlWrite off v hw.toNat)

/-! ## Peers' control-space writes (R194) -/

/-- A control-space write from a peer: applied to SCH_GLINT_SIGNAL where the device is granted, else dropped and counted. -/
def State.peerWrite (s : State) (dev off : Nat) (v : Word) : State :=
  match locate off with
  | some (.schGlintSignal, f, _) =>
    if bitOf (s.fld .memPeerSig 0 15 0) dev then s.exportOp f (wb v 11 0) (wb v 27 12) (wb v 29 28)
    else s.bump .memPeerDrop 0 1
  | _ => s.bump .memPeerDrop 0 1

/-- PEER_CONTROL_WRITE (R194). -/
def execPeerControlWrite (dev : BitVec 4) (off : Nat) (v : Word) (s : State) : Host.Outcome State Fault Refusal :=
  .next (s.peerWrite dev.toNat off v)

/-! ## The cores (R310, R311) -/

/-- An access of a core takes an access fault. -/
def State.accessFault (s : State) (h a : Nat) : State :=
  { s with io := { s.io with fault := true, faultHart := h, faultAddr := a } }

/-- Whether a fabric-local address is in row 16,383 of a stack's bank (R255). -/
def scratchRow (a : Nat) : Bool :=
  match regionOf a with
  | .stack _ => decide ((stackPos a).row = 16383)
  | _ => false

/-- Where a core's access goes (R311). -/
inductive CoreTo where
  | fault               -- an access fault (R255, R311)
  | silent              -- a home that does not answer: an access fault, counted (R186, R196)
  | control (off : Nat)
  | memory
  | carve
  | peer (dev : Nat)
  deriving DecidableEq, Repr

/-- A width and alignment that the control space, or an I/O region of memory, takes. -/
def wordAccess (a n : Nat) : Bool := decide (n = 8 ∧ a % 8 = 0)
def ioAccess (a n : Nat) : Bool := decide ((n = 1 ∨ n = 2 ∨ n = 4 ∨ n = 8) ∧ a % n = 0)

/-- Classify a core's access of n bytes. -/
def State.coreTo (s : State) (addr : Nat) (n : Nat) : CoreTo :=
  let a := addr % 2 ^ 52
  let dev := addr / 2 ^ 52
  let own := decide (dev = s.fld .lnkDev 0 3 0)
  match regionOf a with
  | .unmapped => .fault
  | .control => if !wordAccess a n then .fault else if own then .control (a - controlBase) else .peer dev
  | _ =>
    if scratchRow a then .fault
    else if own && inCarve a n && decide (n ≠ 0) then (if (s.noAnswer a).isSome then .silent else .carve)
    else if !ioAccess a n then .fault
    else if !own then .peer dev
    else if (s.noAnswer a).isSome then .silent
    else .memory

/-- A core's access leaves for a peer, or faults where no link to it is up (R193). -/
def State.coreRemote (s : State) (h : Hart) (addr dev n : Nat) (rd : Bool) : State :=
  if (s.peerLinks dev).isEmpty then (s.accessFault h.val addr).bump .memNoAnswer 0 1
  else
    let s := if rd then s else s.setAcks h.val (s.acksOf h.val + 1)
    s.coreSend ⟨.core h, 0, dev, rd, s.free, addr % 2 ^ 52, n, [], []⟩

/-- A core's load. -/
def State.load (s : State) (h : Hart) (addr n : Nat) : State :=
  match s.coreTo addr n with
  | .fault => s.accessFault h.val addr
  | .silent => (s.accessFault h.val addr).bump .memNoAnswer 0 1
  | .control off => let r := s.controlRead off 0; r.1.answerCore r.2
  | .memory | .carve => s.request ⟨.core h, .rd, addr % 2 ^ 52, n, [], [], false, none⟩
  | .peer dev => s.coreRemote h addr dev n true

/-- CORE_LOAD (R311). -/
def execCoreLoad (h : Hart) (addr : BitVec 56) (len : Nat) (s : State) : Host.Outcome State Fault Refusal :=
  .next (s.load h addr.toNat len)

/-- A core's store: to the carve-out it is a store to main memory; to an I/O region it is posted, and counts as not yet
visible until its home has acknowledged it (R178, R183). -/
def State.store (s : State) (h : Hart) (addr : Nat) (data : List Byte) : State :=
  match s.coreTo addr data.length with
  | .fault => s.accessFault h.val addr
  | .silent => (s.accessFault h.val addr).bump .memNoAnswer 0 1
  | .carve => s.writeBytes (byteWrites (addr % 2 ^ 52) data [])
  | .control _ | .memory =>
    let s := s.setAcks h.val (s.acksOf h.val + 1)
    { s with io := { s.io with posts := s.io.posts ++ [⟨h.val, addr % 2 ^ 52, data⟩], fault := false } }
  | .peer dev => s.coreRemote h addr dev data.length false

/-- CORE_STORE (R311). -/
def execCoreStore (h : Hart) (addr : BitVec 56) (data : List Byte) (s : State) : Host.Outcome State Fault Refusal :=
  .next (s.store h addr.toNat data)

/-- FENCE (R183): with O in its predecessor set it completes once every earlier store of the hart to an I/O region is
visible; else at once. -/
def execFence (h : Hart) (_predI predO _succI _succO : Bool) (s : State) : Host.Outcome State Fault Refusal :=
  .next (if predO && decide (s.acksOf h.val ≠ 0) then { s with io := { s.io with fence := s.io.fence ++ [h.val] } } else s)

/-! ## Writes at a home (R178) -/

/-- The posted store that a core's write at its home completes. -/
def State.takePost (s : State) (i : Issuer) (a : Nat) (data : List Byte) : State :=
  match i with
  | .core h => { s with io := { s.io with posts := s.io.posts.erase ⟨h.val, a, data⟩ } }
  | _ => s

/-- Whether two addresses have one home: a memory home, or a page of one block's registers (R178). -/
def sameHome (a b : Nat) : Bool :=
  match regionOf a, regionOf b with
  | .control, .control => match locate (a - controlBase), locate (b - controlBase) with
    | some (r, p, _), some (q, p', _) => decide (r.info.page = q.info.page ∧ p = p')
    | _, _ => false
  | _, _ => (homeIsland a).isSome && homeIsland a == homeIsland b

/-- Whether an earlier posted store of the same core to the same home has not arrived: a home takes them in the order of
issue (R178). -/
def State.postWaits (s : State) (i : Issuer) (a : Nat) (data : List Byte) : Bool :=
  match i with
  | .core h =>
    let l := s.io.posts.filter (fun p => decide (p.hart = h.val) && sameHome p.addr a)
    l.contains ⟨h.val, a, data⟩ && l.head? != some ⟨h.val, a, data⟩
  | _ => false

/-- A write reaches its home: a core's word for the control space is applied there; another is merged under its mask and
visible on acceptance. -/
def State.writeAt (s : State) (i : Issuer) (a : Nat) (data mask : List Byte) (poison : Bool) : State :=
  if s.postWaits i a data then s
  else
  let s := s.takePost i a data
  match i, regionOf a with
  | .core _, .control => (s.controlWrite (a - controlBase) (BitVec.ofNat 64 (leNat data)) 0).sendAck a i
  | _, _ => s.request ⟨i, .wr, a, data.length, data, mask, poison, none⟩

/-- HOME_WRITE (R178, R179, R266). -/
def execHomeWrite (iss : Issuer) (addr : Nat) (data mask : List Byte) (poison : Bool) (s : State) :
    Host.Outcome State Fault Refusal :=
  .next (s.writeAt iss addr data mask poison)

end Sys2Proof.Machine
end

