-- ==== Sys2Proof/Machine/Mgmt.lean ====
section
/-! DEFINITION. The management responder and the I3C target (R321, R360). -/
namespace Sys2Proof.Machine

/-! ## Frames in (R321) -/

/-- A frame of the management port is dropped. -/
def State.dropFrame (s : State) : State := s.bump .pltMgmtDrop 0 1

/-- Whether a frame is for the responder. -/
def State.forResponder (s : State) (m : MgmtFrame) : Bool :=
  decide (m.dest.toNat = s.fld .pltMgmtCfg 0 47 0 ∧ m.etype.toNat = s.fld .pltMgmtCfg 0 63 48)

/-- The filter: the responder's frames enter its queue of four; others go to the management MAC, whose work
FRAME_RECEIVE at port 2 is, while the control complex is on and ready; what finds no place is dropped and counted. -/
def State.filterFrame (s : State) (m : MgmtFrame) : State :=
  if s.forResponder m then
    if s.cc.mq.length < 4 then { s with cc := { s.cc with mq := s.cc.mq ++ [m] } } else s.dropFrame
  else if s.dom 74 = .on ∧ s.ready 74 then s
  else s.dropFrame

/-- MANAGEMENT_FRAME (R321). -/
def execManagementFrame (m : MgmtFrame) (s : State) : Host.Outcome State Fault Refusal := .next (s.filterFrame m)

/-! ## Replies -/

/-- The last reply: its bytes, or the cause of a refusal. -/
def State.reply (s : State) (l : List Byte) (c : MgmtCause) : State := { s with cc := { s.cc with reply := l, cause := c } }

/-- Device number, identity digest and readiness. -/
def State.identReply (s : State) : List Byte :=
  leBytes 1 (s.fld .lnkDev 0 3 0) ++ identityDigest ++ bytesOf [s.reg .pltReady0, s.reg .pltReady1]

/-- The registers that READ serves: the PLT, PWR and TLM blocks, ICX_STAT and LNK_STAT. -/
def served (r : Reg) : Bool :=
  match r with
  | .icxStat | .lnkStat => true
  | _ => match r.info.page with
    | .plt | .eth | .mgt | .pwr | .tlm => true
    | _ => false

/-- READ replies with a register, or with a refusal. -/
def State.readReply (s : State) (off : Nat) : State :=
  match locate off with
  | some (r, _, _) =>
    if served r then let x := s.controlRead off 0; x.1.reply (leBytes 8 x.2) .none else s.reply [] .address
  | none => s.reply [] .address

/-- Operations of the responder. -/
def mgmtOps : List (BitVec 8) := [0x01, 0x02, 0x10, 0x11, 0x12, 0x13]

/-- The frames that wait, from the first with a listed operation: one with another operation has no effect. -/
def State.waiting (s : State) : List MgmtFrame := s.cc.mq.dropWhile (fun m => !mgmtOps.contains m.op)

/-- The responder takes the frame at the front of its queue where it asks for an operation. -/
def State.takeUnsigned (s : State) (op : BitVec 8) : Option State :=
  match s.waiting with
  | m :: t => if m.op = op then some { s with cc := { s.cc with mq := t } } else none
  | [] => none

/-- MANAGEMENT_IDENT (R321). -/
def execManagementIdent (s : State) : Host.Outcome State Fault Refusal :=
  .next (match s.takeUnsigned 0x01#8 with
    | some s => s.reply s.identReply .none
    | none => s)

/-- READ (R321). -/
def execRead (off : Nat) (s : State) : Host.Outcome State Fault Refusal :=
  .next (match s.takeUnsigned 0x02#8 with
    | some s => s.readReply off
    | none => s)

/-! ## Signed operations -/

/-- The payload that a signature covers. -/
def payload (m : MgmtFrame) : List Byte := m.op :: leBytes 8 m.seq.toNat ++ m.args

/-- Why a signed frame is refused. -/
def State.signedCause (s : State) (m : MgmtFrame) : MgmtCause :=
  if s.se.opKey = [] ∨ !Config.ed448Verify s.se.opKey (digest (payload m)) m.sig then .signature
  else if m.seq.toNat ≤ (s.reg .pltMgmtSeq).toNat then .seq
  else .none

/-- PLT_MGMT_SEQ and PLT_MGMT_STAT after a signed frame has been accepted. -/
def State.accept (s : State) (m : MgmtFrame) : State :=
  s.setReg .pltMgmtSeq 0 0 m.seq |>.setReg .pltMgmtStat 0 0 (BitVec.ofNat 64 (1 + 2 * m.op.toNat))

/-- The responder takes a signed frame at the front of its queue, and applies the operation unless it refuses the
frame. -/
def State.signed (s : State) (op : BitVec 8) (m : MgmtFrame) (act : State → State) : State :=
  match s.waiting with
  | h :: t =>
    if h = m ∧ m.op = op then
      let s := { s with cc := { s.cc with mq := t } }
      match s.signedCause m with
      | .none => State.reply (act (s.accept m)) [] .none
      | c => s.reply [] c
    else s
  | [] => s

/-- DOMAIN (R321, R324). -/
def execDomain (d : Fin 76) (on : Bool) (m : MgmtFrame) (s : State) : Host.Outcome State Fault Refusal :=
  .next (s.signed 0x10#8 m (fun s => if on then s.switchOn d.val else s.switchOff d.val))

/-- RESET_CC (R318, R321). -/
def execResetCc (m : MgmtFrame) (s : State) : Host.Outcome State Fault Refusal :=
  .next (s.signed 0x11#8 m State.resetCcNow)

/-- A reset of the whole module: start-up begins again. What the input alone brings back stays: the pins as sampled and
the I3C addresses (R358), the residency bins (R327), the fuses and the flash; and the sensors and the input are as they
are. Once secret clearing has begun, only a power-on leaves it (R352). -/
def State.resetModule (s : State) : State :=
  if s.scan ≠ 0 then s
  else
    let t := s.powerOn
    let t := { t with pw := { t.pw with
      input := s.pw.input, bins := s.pw.bins, temps := s.pw.temps, sampled := s.pw.sampled, pins := s.pw.pins,
      i2c := s.pw.i2c, dyn := s.pw.dyn, hbIn := s.pw.hbIn } }
    (t.setReg .pwrRes 0 0 (s.reg .pwrRes)).setFld .lnkDev 0 3 0 s.pw.pins.toNat

/-- RESET_MODULE (R321). -/
def execResetModule (m : MgmtFrame) (s : State) : Host.Outcome State Fault Refusal :=
  .next (s.signed 0x12#8 m State.resetModule)

/-- POWER_OFF (R321). -/
def execPowerOff (m : MgmtFrame) (s : State) : Host.Outcome State Fault Refusal :=
  .next (s.signed 0x13#8 m State.allOff)

/-! ## The I3C target (R321, R360) -/

/-- I3C_IDENT (R360). -/
def execI3cIdent (s : State) : Host.Outcome State Fault Refusal := .next (s.reply s.identReply .none)

/-- I3C_READ (R360). -/
def execI3cRead (off : Nat) (s : State) : Host.Outcome State Fault Refusal := .next (s.readReply off)

/-- I3C_POWER_OFF (R360). -/
def execI3cPowerOff (s : State) : Host.Outcome State Fault Refusal := .next (s.allOff.reply [] .none)

end Sys2Proof.Machine
end

