-- ==== Sys2Proof/Machine/Dispatch.lean ====
section
/-! DEFINITION. The meaning of every command: one arm per constructor of Instr, each one direct call. -/
namespace Sys2Proof.Machine
open Sys2Proof

def exec (i : Instr) (s : State) : Host.Outcome State Fault Refusal :=
  match i with
  | .registerWrite off v hw => Sys2Proof.Machine.execRegisterWrite off v hw s
  | .readClear off late => Sys2Proof.Machine.execReadClear off late s
  | .coreLoad h addr len => Sys2Proof.Machine.execCoreLoad h addr len s
  | .coreStore h addr data => Sys2Proof.Machine.execCoreStore h addr data s
  | .fence h predI predO succI succO => Sys2Proof.Machine.execFence h predI predO succI succO s
  | .twinForm c both sameAc => Sys2Proof.Machine.execTwinForm c both sameAc s
  | .twinDissolve c both sameAc => Sys2Proof.Machine.execTwinDissolve c both sameAc s
  | .twinClockSwitched c => Sys2Proof.Machine.execTwinClockSwitched c s
  | .twinRelock c => Sys2Proof.Machine.execTwinRelock c s
  | .auditConfigWrite f v => Sys2Proof.Machine.execAuditConfigWrite f v s
  | .auditTile t => Sys2Proof.Machine.execAuditTile t s
  | .tileComplete c => Sys2Proof.Machine.execTileComplete c s
  | .drainComplete c => Sys2Proof.Machine.execDrainComplete c s
  | .kUnitStart c ac => Sys2Proof.Machine.execKUnitStart c ac s
  | .vectorRound c ac => Sys2Proof.Machine.execVectorRound c ac s
  | .bset st ch w => Sys2Proof.Machine.execBset st ch w s
  | .pcfg st ch w => Sys2Proof.Machine.execPcfg st ch w s
  | .mpass st ch w => Sys2Proof.Machine.execMpass st ch w s
  | .passEnd st ch => Sys2Proof.Machine.execPassEnd st ch s
  | .lpass st ch w => Sys2Proof.Machine.execLpass st ch w s
  | .spass st ch w => Sys2Proof.Machine.execSpass st ch w s
  | .fpass st ch w => Sys2Proof.Machine.execFpass st ch w s
  | .ldr st ch w pins => Sys2Proof.Machine.execLdr st ch w pins s
  | .rdr st ch w => Sys2Proof.Machine.execRdr st ch w s
  | .aclr st ch w => Sys2Proof.Machine.execAclr st ch w s
  | .stat st ch w => Sys2Proof.Machine.execStat st ch w s
  | .halt st ch w => Sys2Proof.Machine.execHalt st ch w s
  | .bpuReservedOpcode st ch w => Sys2Proof.Machine.execBpuReservedOpcode st ch w s
  | .columnNop st ch => Sys2Proof.Machine.execColumnNop st ch s
  | .rd st ch w => Sys2Proof.Machine.execRd st ch w s
  | .wr st ch w data => Sys2Proof.Machine.execWr st ch w data s
  | .scrb st ch w => Sys2Proof.Machine.execScrb st ch w s
  | .wrp st ch w => Sys2Proof.Machine.execWrp st ch w s
  | .columnReservedOpcode st ch w => Sys2Proof.Machine.execColumnReservedOpcode st ch w s
  | .rowNop st ch => Sys2Proof.Machine.execRowNop st ch s
  | .act st ch w => Sys2Proof.Machine.execAct st ch w s
  | .pre st ch w => Sys2Proof.Machine.execPre st ch w s
  | .prea st ch => Sys2Proof.Machine.execPrea st ch s
  | .sact st ch w => Sys2Proof.Machine.execSact st ch w s
  | .spre st ch => Sys2Proof.Machine.execSpre st ch s
  | .ref st ch => Sys2Proof.Machine.execRef st ch s
  | .rfm st ch w => Sys2Proof.Machine.execRfm st ch w s
  | .srfm st ch => Sys2Proof.Machine.execSrfm st ch s
  | .bankDescriptorIssue st ch t => Sys2Proof.Machine.execBankDescriptorIssue st ch t s
  | .passBoundary st ch => Sys2Proof.Machine.execPassBoundary st ch s
  | .bankDescriptorComplete st t => Sys2Proof.Machine.execBankDescriptorComplete st t s
  | .refreshDue st ch => Sys2Proof.Machine.execRefreshDue st ch s
  | .scrubTick st ch => Sys2Proof.Machine.execScrubTick st ch s
  | .arbConfigWrite st v => Sys2Proof.Machine.execArbConfigWrite st v s
  | .ordinaryRequest st iss addr len data isWrite => Sys2Proof.Machine.execOrdinaryRequest st iss addr len data isWrite s
  | .add c e w => Sys2Proof.Machine.execAdd c e w s
  | .sub c e w => Sys2Proof.Machine.execSub c e w s
  | .mul c e w => Sys2Proof.Machine.execMul c e w s
  | .fma c e w => Sys2Proof.Machine.execFma c e w s
  | .min c e w => Sys2Proof.Machine.execMin c e w s
  | .max c e w => Sys2Proof.Machine.execMax c e w s
  | .abs c e w => Sys2Proof.Machine.execAbs c e w s
  | .neg c e w => Sys2Proof.Machine.execNeg c e w s
  | .cmplt c e w => Sys2Proof.Machine.execCmplt c e w s
  | .cmple c e w => Sys2Proof.Machine.execCmple c e w s
  | .cmpeq c e w => Sys2Proof.Machine.execCmpeq c e w s
  | .sel c e w => Sys2Proof.Machine.execSel c e w s
  | .mov c e w => Sys2Proof.Machine.execMov c e w s
  | .rcp c e w => Sys2Proof.Machine.execRcp c e w s
  | .div c e w => Sys2Proof.Machine.execDiv c e w s
  | .sqrt c e w => Sys2Proof.Machine.execSqrt c e w s
  | .rsqrt c e w => Sys2Proof.Machine.execRsqrt c e w s
  | .exp c e w => Sys2Proof.Machine.execExp c e w s
  | .exp2 c e w => Sys2Proof.Machine.execExp2 c e w s
  | .log c e w => Sys2Proof.Machine.execLog c e w s
  | .tanh c e w => Sys2Proof.Machine.execTanh c e w s
  | .sigm c e w => Sys2Proof.Machine.execSigm c e w s
  | .silu c e w => Sys2Proof.Machine.execSilu c e w s
  | .gelut c e w => Sys2Proof.Machine.execGelut c e w s
  | .sin c e w => Sys2Proof.Machine.execSin c e w s
  | .cos c e w => Sys2Proof.Machine.execCos c e w s
  | .iadd c e w => Sys2Proof.Machine.execIadd c e w s
  | .imul c e w => Sys2Proof.Machine.execImul c e w s
  | .imin c e w => Sys2Proof.Machine.execImin c e w s
  | .imax c e w => Sys2Proof.Machine.execImax c e w s
  | .cvti c e w => Sys2Proof.Machine.execCvti c e w s
  | .cvtf c e w => Sys2Proof.Machine.execCvtf c e w s
  | .iota c e w => Sys2Proof.Machine.execIota c e w s
  | .rand c e w => Sys2Proof.Machine.execRand c e w s
  | .bcast c e w => Sys2Proof.Machine.execBcast c e w s
  | .rot c e w => Sys2Proof.Machine.execRot c e w s
  | .shft c e w => Sys2Proof.Machine.execShft c e w s
  | .rev c e w => Sys2Proof.Machine.execRev c e w s
  | .zip c e w => Sys2Proof.Machine.execZip c e w s
  | .unzip c e w => Sys2Proof.Machine.execUnzip c e w s
  | .xpose16 c e w => Sys2Proof.Machine.execXpose16 c e w s
  | .idx c e w => Sys2Proof.Machine.execIdx c e w s
  | .sum c => Sys2Proof.Machine.execSum c s
  | .reduceMax c => Sys2Proof.Machine.execReduceMax c s
  | .reduceMin c => Sys2Proof.Machine.execReduceMin c s
  | .argmax c => Sys2Proof.Machine.execArgmax c s
  | .topk c kM1 => Sys2Proof.Machine.execTopk c kM1 s
  | .sample c companion => Sys2Proof.Machine.execSample c companion s
  | .tensorCreate f v => Sys2Proof.Machine.execTensorCreate f v s
  | .tensorDestroy f v => Sys2Proof.Machine.execTensorDestroy f v s
  | .tensorCreationComplete f => Sys2Proof.Machine.execTensorCreationComplete f s
  | .contextCreate f v => Sys2Proof.Machine.execContextCreate f v s
  | .contextDestroy f v => Sys2Proof.Machine.execContextDestroy f v s
  | .contextCheckComplete f => Sys2Proof.Machine.execContextCheckComplete f s
  | .doorbell f v => Sys2Proof.Machine.execDoorbell f v s
  | .fetch f => Sys2Proof.Machine.execFetch f s
  | .glintChange f pool gf slot => Sys2Proof.Machine.execGlintChange f pool gf slot s
  | .glintSignalArrival f slot epoch failed => Sys2Proof.Machine.execGlintSignalArrival f slot epoch failed s
  | .rearmRequest f slot epoch t => Sys2Proof.Machine.execRearmRequest f slot epoch t s
  | .garmAnswer t applied => Sys2Proof.Machine.execGarmAnswer t applied s
  | .dispatch c eng => Sys2Proof.Machine.execDispatch c eng s
  | .killComplete t => Sys2Proof.Machine.execKillComplete t s
  | .killedWritesAcked t => Sys2Proof.Machine.execKilledWritesAcked t s
  | .routePoolDispatch f => Sys2Proof.Machine.execRoutePoolDispatch f s
  | .headerArrival t => Sys2Proof.Machine.execHeaderArrival t s
  | .routeHandoff t => Sys2Proof.Machine.execRouteHandoff t s
  | .unitDone t rep killSameAc => Sys2Proof.Machine.execUnitDone t rep killSameAc s
  | .descriptorRelease t slot => Sys2Proof.Machine.execDescriptorRelease t slot s
  | .writeAck iss => Sys2Proof.Machine.execWriteAck iss s
  | .nop t => Sys2Proof.Machine.execNop t s
  | .garm t => Sys2Proof.Machine.execGarm t s
  | .tcreate t => Sys2Proof.Machine.execTcreate t s
  | .tdestroy t => Sys2Proof.Machine.execTdestroy t s
  | .matmul t => Sys2Proof.Machine.execMatmul t s
  | .matmulG t => Sys2Proof.Machine.execMatmulG t s
  | .matmulB t => Sys2Proof.Machine.execMatmulB t s
  | .vop t => Sys2Proof.Machine.execVop t s
  | .copy t => Sys2Proof.Machine.execCopy t s
  | .aadd t => Sys2Proof.Machine.execAadd t s
  | .aminmax t => Sys2Proof.Machine.execAminmax t s
  | .aswap t => Sys2Proof.Machine.execAswap t s
  | .acas t => Sys2Proof.Machine.execAcas t s
  | .swapSelect f => Sys2Proof.Machine.execSwapSelect f s
  | .swapOutDone f => Sys2Proof.Machine.execSwapOutDone f s
  | .swapInDone f => Sys2Proof.Machine.execSwapInDone f s
  | .pin f x => Sys2Proof.Machine.execPin f x s
  | .unpin f x => Sys2Proof.Machine.execUnpin f x s
  | .evict f x => Sys2Proof.Machine.execEvict f x s
  | .admission f x => Sys2Proof.Machine.execAdmission f x s
  | .tearDown f x => Sys2Proof.Machine.execTearDown f x s
  | .teardownComplete x => Sys2Proof.Machine.execTeardownComplete x s
  | .exportDone f slot epoch => Sys2Proof.Machine.execExportDone f slot epoch s
  | .exportFailed f slot epoch => Sys2Proof.Machine.execExportFailed f slot epoch s
  | .exportRearm f slot epoch => Sys2Proof.Machine.execExportRearm f slot epoch s
  | .peerControlWrite dev off v => Sys2Proof.Machine.execPeerControlWrite dev off v s
  | .homeWrite iss addr data mask poison => Sys2Proof.Machine.execHomeWrite iss addr data mask poison s
  | .homeRead iss addr len => Sys2Proof.Machine.execHomeRead iss addr len s
  | .readResponse iss => Sys2Proof.Machine.execReadResponse iss s
  | .memoryAdd iss addr etype data poison => Sys2Proof.Machine.execMemoryAdd iss addr etype data poison s
  | .wcbFlush home base => Sys2Proof.Machine.execWcbFlush home base s
  | .streamRecordOpen stream => Sys2Proof.Machine.execStreamRecordOpen stream s
  | .streamRecordClose stream => Sys2Proof.Machine.execStreamRecordClose stream s
  | .forwardedRequest m => Sys2Proof.Machine.execForwardedRequest m s
  | .kvFormatWrite v => Sys2Proof.Machine.execKvFormatWrite v s
  | .poolConfigWrite f list v => Sys2Proof.Machine.execPoolConfigWrite f list v s
  | .kappend t => Sys2Proof.Machine.execKappend t s
  | .kadvance t => Sys2Proof.Machine.execKadvance t s
  | .kfree t => Sys2Proof.Machine.execKfree t s
  | .kread t => Sys2Proof.Machine.execKread t s
  | .kbucket t => Sys2Proof.Machine.execKbucket t s
  | .kmigrate t => Sys2Proof.Machine.execKmigrate t s
  | .kexpand t => Sys2Proof.Machine.execKexpand t s
  | .kvEngineYield f migration => Sys2Proof.Machine.execKvEngineYield f migration s
  | .advance stream c => Sys2Proof.Machine.execAdvance stream c s
  | .lengthQuery t => Sys2Proof.Machine.execLengthQuery t s
  | .lengthAnswer t => Sys2Proof.Machine.execLengthAnswer t s
  | .lengthHoldExpiry t => Sys2Proof.Machine.execLengthHoldExpiry t s
  | .astep t => Sys2Proof.Machine.execAstep t s
  | .alatent t => Sys2Proof.Machine.execAlatent t s
  | .adense t => Sys2Proof.Machine.execAdense t s
  | .lscan t => Sys2Proof.Machine.execLscan t s
  | .lsum t => Sys2Proof.Machine.execLsum t s
  | .aring t => Sys2Proof.Machine.execAring t s
  | .ringCredit t half => Sys2Proof.Machine.execRingCredit t half s
  | .ringReady t => Sys2Proof.Machine.execRingReady t s
  | .streamOpen stream => Sys2Proof.Machine.execStreamOpen stream s
  | .streamClose stream => Sys2Proof.Machine.execStreamClose stream s
  | .cancel stream => Sys2Proof.Machine.execCancel stream s
  | .pause stream => Sys2Proof.Machine.execPause stream s
  | .resume stream => Sys2Proof.Machine.execResume stream s
  | .expire stream => Sys2Proof.Machine.execExpire stream s
  | .abort stream => Sys2Proof.Machine.execAbort stream s
  | .finish stream => Sys2Proof.Machine.execFinish stream s
  | .constrain stream => Sys2Proof.Machine.execConstrain stream s
  | .fail stream => Sys2Proof.Machine.execFail stream s
  | .sbegin t => Sys2Proof.Machine.execSbegin t s
  | .semit t => Sys2Proof.Machine.execSemit t s
  | .sverify t => Sys2Proof.Machine.execSverify t s
  | .smask t => Sys2Proof.Machine.execSmask t s
  | .report r => Sys2Proof.Machine.execReport r s
  | .outputRecordAck f => Sys2Proof.Machine.execOutputRecordAck f s
  | .debit cust amount => Sys2Proof.Machine.execDebit cust amount s
  | .throttle f cust => Sys2Proof.Machine.execThrottle f cust s
  | .unthrottle f cust => Sys2Proof.Machine.execUnthrottle f cust s
  | .credit cust amount => Sys2Proof.Machine.execCredit cust amount s
  | .customerConfigWrite cust v => Sys2Proof.Machine.execCustomerConfigWrite cust v s
  | .partitionStateWrite p v => Sys2Proof.Machine.execPartitionStateWrite p v s
  | .outputRingConfig f v => Sys2Proof.Machine.execOutputRingConfig f v s
  | .rangeCreate h both => Sys2Proof.Machine.execRangeCreate h both s
  | .rangeDestroy h => Sys2Proof.Machine.execRangeDestroy h s
  | .rangeUpdateComplete => Sys2Proof.Machine.execRangeUpdateComplete s
  | .creditRefill home p => Sys2Proof.Machine.execCreditRefill home p s
  | .regulatorConfigWrite v => Sys2Proof.Machine.execRegulatorConfigWrite v s
  | .heathRefreshDue dev => Sys2Proof.Machine.execHeathRefreshDue dev s
  | .poisonReport r => Sys2Proof.Machine.execPoisonReport r s
  | .repairSourceAnswer slot clean data => Sys2Proof.Machine.execRepairSourceAnswer slot clean data s
  | .repairSourceTimeout slot => Sys2Proof.Machine.execRepairSourceTimeout slot s
  | .reload slot => Sys2Proof.Machine.execReload slot s
  | .repairVerify slot => Sys2Proof.Machine.execRepairVerify slot s
  | .repairStallTimeout iss => Sys2Proof.Machine.execRepairStallTimeout iss s
  | .repairBoundExpiry slot => Sys2Proof.Machine.execRepairBoundExpiry slot s
  | .holdRelease slot => Sys2Proof.Machine.execHoldRelease slot s
  | .holdAbandon slot => Sys2Proof.Machine.execHoldAbandon slot s
  | .remapCopyDone slot => Sys2Proof.Machine.execRemapCopyDone slot s
  | .repairMapWrite v => Sys2Proof.Machine.execRepairMapWrite v s
  | .heathScrubTick dev => Sys2Proof.Machine.execHeathScrubTick dev s
  | .meadowScrubTick c => Sys2Proof.Machine.execMeadowScrubTick c s
  | .injectionArm v => Sys2Proof.Machine.execInjectionArm v s
  | .logFullWrite v => Sys2Proof.Machine.execLogFullWrite v s
  | .traceStart => Sys2Proof.Machine.execTraceStart s
  | .traceStop => Sys2Proof.Machine.execTraceStop s
  | .traceConfigWrite v => Sys2Proof.Machine.execTraceConfigWrite v s
  | .traceEvent e => Sys2Proof.Machine.execTraceEvent e s
  | .idleExit l => Sys2Proof.Machine.execIdleExit l s
  | .retrain l => Sys2Proof.Machine.execRetrain l s
  | .trainingStepDone l => Sys2Proof.Machine.execTrainingStepDone l s
  | .trainingTimeout l => Sys2Proof.Machine.execTrainingTimeout l s
  | .retrainTimer l => Sys2Proof.Machine.execRetrainTimer l s
  | .uncorrectableFlit l seq => Sys2Proof.Machine.execUncorrectableFlit l seq s
  | .nak l seq => Sys2Proof.Machine.execNak l seq s
  | .linkRxTimeout l => Sys2Proof.Machine.execLinkRxTimeout l s
  | .ident l dev index mirror digest => Sys2Proof.Machine.execIdent l dev index mirror digest s
  | .remoteRequest l r => Sys2Proof.Machine.execRemoteRequest l r s
  | .remoteResponse l t a => Sys2Proof.Machine.execRemoteResponse l t a s
  | .heartbeatSend => Sys2Proof.Machine.execHeartbeatSend s
  | .heartbeat port => Sys2Proof.Machine.execHeartbeat port s
  | .heartbeatMiss port => Sys2Proof.Machine.execHeartbeatMiss port s
  | .gp3Toggle => Sys2Proof.Machine.execGp3Toggle s
  | .hbInToggle => Sys2Proof.Machine.execHbInToggle s
  | .hbInMiss => Sys2Proof.Machine.execHbInMiss s
  | .mirrorMessage port m => Sys2Proof.Machine.execMirrorMessage port m s
  | .mirrorAck stream => Sys2Proof.Machine.execMirrorAck stream s
  | .form => Sys2Proof.Machine.execForm s
  | .breakPair => Sys2Proof.Machine.execBreakPair s
  | .confirm => Sys2Proof.Machine.execConfirm s
  | .catchUpStreamDone => Sys2Proof.Machine.execCatchUpStreamDone s
  | .sourceLevelChange n => Sys2Proof.Machine.execSourceLevelChange n s
  | .claim t => Sys2Proof.Machine.execClaim t s
  | .complete t n => Sys2Proof.Machine.execComplete t n s
  | .completionSample t => Sys2Proof.Machine.execCompletionSample t s
  | .softwareSourceSet n v => Sys2Proof.Machine.execSoftwareSourceSet n v s
  | .softwareSourceClear n v => Sys2Proof.Machine.execSoftwareSourceClear n v s
  | .machineTimerExpiry h => Sys2Proof.Machine.execMachineTimerExpiry h s
  | .ccWake n => Sys2Proof.Machine.execCcWake n s
  | .receiveProd p prod => Sys2Proof.Machine.execReceiveProd p prod s
  | .transmitProd p prod => Sys2Proof.Machine.execTransmitProd p prod s
  | .frameReceive p frame bad => Sys2Proof.Machine.execFrameReceive p frame bad s
  | .frameTransmit p => Sys2Proof.Machine.execFrameTransmit p s
  | .ethStatRead p => Sys2Proof.Machine.execEthStatRead p s
  | .managementFrame m => Sys2Proof.Machine.execManagementFrame m s
  | .managementIdent => Sys2Proof.Machine.execManagementIdent s
  | .read off => Sys2Proof.Machine.execRead off s
  | .domain d on m => Sys2Proof.Machine.execDomain d on m s
  | .resetCc m => Sys2Proof.Machine.execResetCc m s
  | .resetModule m => Sys2Proof.Machine.execResetModule m s
  | .powerOff m => Sys2Proof.Machine.execPowerOff m s
  | .i3cIdent => Sys2Proof.Machine.execI3cIdent s
  | .i3cRead off => Sys2Proof.Machine.execI3cRead off s
  | .i3cPowerOff => Sys2Proof.Machine.execI3cPowerOff s
  | .domainOn d => Sys2Proof.Machine.execDomainOn d s
  | .domainOff d => Sys2Proof.Machine.execDomainOff d s
  | .domainSwitchDone d => Sys2Proof.Machine.execDomainSwitchDone d s
  | .initialisationDone d trained => Sys2Proof.Machine.execInitialisationDone d trained s
  | .governorSample watts => Sys2Proof.Machine.execGovernorSample watts s
  | .gatingLevelArrival island => Sys2Proof.Machine.execGatingLevelArrival island s
  | .residencyBinRollover => Sys2Proof.Machine.execResidencyBinRollover s
  | .sensorSample n temp => Sys2Proof.Machine.execSensorSample n temp s
  | .powerApplied => Sys2Proof.Machine.execPowerApplied s
  | .undervoltageWarning => Sys2Proof.Machine.execUndervoltageWarning s
  | .undervoltageShutdown => Sys2Proof.Machine.execUndervoltageShutdown s
  | .overvoltageShutdown => Sys2Proof.Machine.execOvervoltageShutdown s
  | .converterFault => Sys2Proof.Machine.execConverterFault s
  | .senseOpen => Sys2Proof.Machine.execSenseOpen s
  | .powerInjectionArm v => Sys2Proof.Machine.execPowerInjectionArm v s
  | .slotIdSample pins => Sys2Proof.Machine.execSlotIdSample pins s
  | .bootRom => Sys2Proof.Machine.execBootRom s
  | .platformFirmwareStart => Sys2Proof.Machine.execPlatformFirmwareStart s
  | .imagesLoaded => Sys2Proof.Machine.execImagesLoaded s
  | .flashErase addr => Sys2Proof.Machine.execFlashErase addr s
  | .flashProgram addr => Sys2Proof.Machine.execFlashProgram addr s
  | .flashOperationDone pass => Sys2Proof.Machine.execFlashOperationDone pass s
  | .svnBlow => Sys2Proof.Machine.execSvnBlow s
  | .measurementExtend reg => Sys2Proof.Machine.execMeasurementExtend reg s
  | .identityCertificate buf => Sys2Proof.Machine.execIdentityCertificate buf s
  | .attestationCertificate buf => Sys2Proof.Machine.execAttestationCertificate buf s
  | .quote buf => Sys2Proof.Machine.execQuote buf s
  | .quoteDone => Sys2Proof.Machine.execQuoteDone s
  | .selfTestRequest kind unit => Sys2Proof.Machine.execSelfTestRequest kind unit s
  | .selfTestEnd kind unit pass remaps => Sys2Proof.Machine.execSelfTestEnd kind unit pass remaps s
  | .extest => Sys2Proof.Machine.execExtest s
  | .idcode => Sys2Proof.Machine.execIdcode s
  | .samplePreload boundary => Sys2Proof.Machine.execSamplePreload boundary s
  | .clear => Sys2Proof.Machine.execClear s
  | .clearComplete => Sys2Proof.Machine.execClearComplete s
  | .intscan => Sys2Proof.Machine.execIntscan s
  | .bypass => Sys2Proof.Machine.execBypass s
  | .ethLinkChange p up => Sys2Proof.Machine.execEthLinkChange p up s
  | .ethFecUncorrectable p => Sys2Proof.Machine.execEthFecUncorrectable p s
  | .dynamicAddressAssignment a => Sys2Proof.Machine.execDynamicAddressAssignment a s
  | .overvoltageEvent => Sys2Proof.Machine.execOvervoltageEvent s
  | .inputLoss => Sys2Proof.Machine.execInputLoss s
  | .forwardedResult m => Sys2Proof.Machine.execForwardedResult m s
  | .costOverrun t => Sys2Proof.Machine.execCostOverrun t s
  | .linkEnableWrite l on => Sys2Proof.Machine.execLinkEnableWrite l on s
  | .linkInjectionArm l v => Sys2Proof.Machine.execLinkInjectionArm l v s

end Sys2Proof.Machine
end

