-- ==== Sys2Proof/Certificates/Slice0/Obligations.lean ====
section
/-! DEFINITION. The statements for the provers: what each command does, what it leaves as it was, and what every
step keeps. -/
open Sys2Proof Sys2Proof.Machine

namespace Sys2Proof.Claims

/-- A value rounded to FP32, ties to even (R37, R42). -/
def round32 (x : FV) : BitVec 32 := BitVec.ofNat 32 (convert .fp32 .rne x).1

/-- Operand b of a chain word: the scalar where sslot is 1, else register b (R105, R109). -/
def srcB (v : Engine) (w : BitVec 24) (i : Nat) : Lane :=
  if bits w.toNat 7 6 = 1 then ⟨v.scalar (bits w.toNat 5 0), false⟩ else v.lane (bits w.toNat 15 12) i

/-- Operand c of a chain word: the scalar where sslot is 2, else register c. -/
def srcC (v : Engine) (w : BitVec 24) (i : Nat) : Lane :=
  if bits w.toNat 7 6 = 2 then ⟨v.scalar (bits w.toNat 5 0), false⟩ else v.lane (bits w.toNat 11 8) i

/-- Operand a of a chain word; MOV takes the scalar where sslot is 1. -/
def srcA (v : Engine) (w : BitVec 24) (mov : Bool) (i : Nat) : Lane :=
  if mov ∧ bits w.toNat 7 6 = 1 then ⟨v.scalar (bits w.toNat 5 0), false⟩ else v.lane (bits w.toNat 19 16) i

/-- Poison of the operands that an operation reads (R116). -/
def badOf (v : Engine) (w : BitVec 24) (mov : Bool) (n : Nat) (i : Nat) : Bool :=
  (decide (1 ≤ n) && (srcA v w mov i).p) || (decide (2 ≤ n) && (srcB v w i).p) || (decide (3 ≤ n) && (srcC v w i).p)

/-- The engine after an operation on every lane of the strip that reads its first `n` operands. -/
def lanesOut (v : Engine) (w : BitVec 24) (mov : Bool) (n : Nat) (f : Nat → BitVec 32 → BitVec 32 → BitVec 32 → BitVec 32) : Engine :=
  v.setReg (bits w.toNat 23 20) ((List.range v.vl).map (fun i =>
    ⟨f i (srcA v w mov i).v (srcB v w i).v (srcC v w i).v, badOf v w mov n i⟩))

/-- The value of half j of an operand of a packed step: the half's own, or the FP32 scalar (R106, R109). -/
def halfVal (v : Engine) (scalar : Bool) (x : BitVec 32) (j : Nat) : FV :=
  if scalar then f32 x else decodeElt v.halfType (x.toNat / 2 ^ (16 * j) % 65536)

/-- The code of half j of an operand that a packed step passes on: a scalar is rounded once. -/
def halfCode (v : Engine) (scalar : Bool) (x : BitVec 32) (j : Nat) : Nat :=
  if scalar then (convert v.halfType .rne (f32 x)).1 else x.toNat / 2 ^ (16 * j) % 65536

/-- Whether operand a (of MOV), b or c is the scalar. -/
def scalA (w : BitVec 24) (mov : Bool) : Bool := mov && decide (bits w.toNat 7 6 = 1)
def scalB (w : BitVec 24) : Bool := decide (bits w.toNat 7 6 = 1)
def scalC (w : BitVec 24) : Bool := decide (bits w.toNat 7 6 = 2)

/-- The engine after a packed operation: half j of every lane that holds elements gets code `f` of the lane and j (R106). -/
def packOut (v : Engine) (w : BitVec 24) (mov : Bool) (n : Nat) (f : Nat → Nat → Nat) : Engine :=
  v.setReg (bits w.toNat 23 20) ((List.range ((v.vl + 1) / 2)).map (fun i =>
    ⟨BitVec.ofNat 32 (f i 0 + 65536 * f i 1), badOf v w mov n i⟩))

/-- The engine after an arithmetic operation `g` of n operands: in every lane, and in packed mode in both halves of it, the
exact result of the operand values rounded once, to nearest even (R105, R106). -/
def arith (v : Engine) (w : BitVec 24) (n : Nat) (g : FV → FV → FV → FV) : Engine :=
  if v.packed then
    packOut v w false n (fun i j => (convert v.halfType .rne (g (halfVal v false (srcA v w false i).v j)
      (halfVal v (scalB w) (srcB v w i).v j) (halfVal v (scalC w) (srcC v w i).v j))).1)
  else lanesOut v w false n (fun _ x y z => round32 (g (f32 x) (f32 y) (f32 z)))

/-- The engine after SEL: a where c is not 0, else b. -/
def selected (v : Engine) (w : BitVec 24) : Engine :=
  if v.packed then
    packOut v w false 3 (fun i j =>
      if (halfVal v (scalC w) (srcC v w i).v j).eq (.fin false 0 1 0) then halfCode v (scalB w) (srcB v w i).v j
      else halfCode v false (srcA v w false i).v j)
  else lanesOut v w false 3 (fun _ x y z => if (f32 z).eq (.fin false 0 1 0) then y else x)

/-- The engine after MOV: operand a. -/
def moved (v : Engine) (w : BitVec 24) : Engine :=
  if v.packed then packOut v w true 1 (fun i j => halfCode v (scalA w true) (srcA v w true i).v j)
  else lanesOut v w true 1 (fun _ x _ _ => x)

/-- Command `op` leaves engine e of cluster c with `f` of the lane number and the operands, outside packed mode. -/
def writes (op : Cl → Fin 2 → BitVec 24 → Instr) (n : Nat)
    (f : Engine → Nat → BitVec 32 → BitVec 32 → BitVec 32 → BitVec 32) : Prop :=
  ∀ (c : Cl) (e : Fin 2) (w : BitVec 24) (s : State),
    let k := 2 * c.val + e.val
    (s.engine k).packed = false →
      exec (op c e w) s = .next (s.setEngine k (lanesOut (s.engine k) w false n (f (s.engine k))))

/-- Command `op` saturates: like `writes`, and each lane that saturates is counted (R46). -/
def saturates (op : Cl → Fin 2 → BitVec 24 → Instr) (n : Nat)
    (f : Engine → Nat → BitVec 32 → BitVec 32 → BitVec 32 × Bool) : Prop :=
  ∀ (c : Cl) (e : Fin 2) (w : BitVec 24) (s : State),
    let k := 2 * c.val + e.val
    let v := s.engine k
    v.packed = false → exec (op c e w) s = .next (s.setEngine k
      { lanesOut v w false n (fun i x y _ => (f v i x y).1) with
        sat := v.sat + (List.range v.vl).countP (fun i => (f v i (srcA v w false i).v (srcB v w i).v).2) })

/-- Command `op` moves whole lanes: lane i of the destination takes lane `j` of register a, and a lane `j` outside
the strip gives 0 and is counted in the engine and in the cluster's counter (R110). -/
def moves (op : Cl → Fin 2 → BitVec 24 → Instr) (idx : Bool) (j : Nat → Nat → Nat → Int → Int) : Prop :=
  ∀ (c : Cl) (e : Fin 2) (w : BitVec 24) (s : State),
    let k := 2 * c.val + e.val
    let v := s.engine k
    let src (i : Nat) : Int := j (bits w.toNat 11 0) v.count i (v.lane (bits w.toNat 15 12) i).v.toInt
    let out (i : Nat) : Bool := decide (src i < 0 ∨ (v.count : Int) ≤ src i)
    let lane (i : Nat) : Lane :=
      let ib := idx && (v.lane (bits w.toNat 15 12) i).p
      if out i then ⟨0, ib⟩
      else ⟨(v.lane (bits w.toNat 19 16) (src i).toNat).v, (v.lane (bits w.toNat 19 16) (src i).toNat).p || ib⟩
    let n := (List.range v.count).countP out
    exec (op c e w) s = .next ((s.setEngine k
      { v.setReg (bits w.toNat 23 20) ((List.range v.count).map lane) with prange := v.prange + n }).bump .vecPerfPrange c.val n)

end Sys2Proof.Claims

/-- R105–R109, R116: the plain operations of a strip, outside and in packed mode; SEL keeps a where c is not 0. -/
def Obligations.VectorArithmetic : Prop :=
  ∀ (c : Cl) (e : Fin 2) (w : BitVec 24) (s : State),
    let k := 2 * c.val + e.val
    let v := s.engine k
    let put (n : Nat) (g : FV → FV → FV → FV) : State := s.setEngine k (Claims.arith v w n g)
    exec (.add c e w) s = .next (put 2 (fun x y _ => x.add y)) ∧
    exec (.sub c e w) s = .next (put 2 (fun x y _ => x.add y.neg)) ∧
    exec (.mul c e w) s = .next (put 2 (fun x y _ => x.mul y)) ∧
    exec (.fma c e w) s = .next (put 3 (fun x y z => (x.mul y).add z)) ∧
    exec (.min c e w) s = .next (put 2 (fun x y _ => fvMin x y)) ∧
    exec (.max c e w) s = .next (put 2 (fun x y _ => fvMax x y)) ∧
    exec (.abs c e w) s = .next (put 1 (fun x _ _ => x.abs)) ∧
    exec (.neg c e w) s = .next (put 1 (fun x _ _ => x.neg)) ∧
    exec (.cmplt c e w) s = .next (put 2 (fun x y _ => fvBool (x.lt y))) ∧
    exec (.cmple c e w) s = .next (put 2 (fun x y _ => fvBool (x.lt y || x.eq y))) ∧
    exec (.cmpeq c e w) s = .next (put 2 (fun x y _ => fvBool (x.eq y))) ∧
    exec (.sel c e w) s = .next (s.setEngine k (Claims.selected v w)) ∧
    exec (.mov c e w) s = .next (s.setEngine k (Claims.moved v w))

namespace Sys2Proof.Claims

/-- A result is the rounded exact value, or lies within k units in the last place of it. -/
def accurate (k : Nat) (v : FV) (r : BitVec 32) : Prop := r = toF32 v ∨ nearUlp k v r = true

/-- A result is the rounded exact value, or lies within 2^−12 of it. -/
def close (v : FV) (r : BitVec 32) : Prop := r = toF32 v ∨ (FV.fin false 1 1 (-12)).lt ((f32 r).add v.neg).abs = false

/-- The exact value 1. -/
def one : FV := .fin false 1 1 0

/-- The sigmoid 1 ÷ (1 + e^(−x)) of a fixed-point number. -/
def sigmoid (x : Int) : FV := (FV.ofInt fxOne).div (FV.ofInt (fxOne + fxExp (-x)))

end Sys2Proof.Claims

/-- R107, R108: the functions; where in its accuracy a result lies is free (log entry 6).
The model's own choices in it, not the manual's: log entry 6. -/
def Obligations.VectorFunctions : Prop :=
  Claims.writes .rcp 1 (fun _ _ x _ _ => transc 0x10 x) ∧ Claims.writes .div 2 (fun _ _ x y _ => fdiv x y) ∧
  Claims.writes .sqrt 1 (fun _ _ x _ _ => transc 0x12 x) ∧ Claims.writes .rsqrt 1 (fun _ _ x _ _ => transc 0x13 x) ∧
  Claims.writes .exp 1 (fun _ _ x _ _ => transc 0x14 x) ∧ Claims.writes .exp2 1 (fun _ _ x _ _ => transc 0x15 x) ∧
  Claims.writes .log 1 (fun _ _ x _ _ => transc 0x16 x) ∧ Claims.writes .tanh 1 (fun _ _ x _ _ => transc 0x17 x) ∧
  Claims.writes .sigm 1 (fun _ _ x _ _ => transc 0x18 x) ∧ Claims.writes .silu 1 (fun _ _ x _ _ => transc 0x19 x) ∧
  Claims.writes .gelut 1 (fun _ _ x _ _ => transc 0x1A x) ∧ Claims.writes .sin 1 (fun _ _ x _ _ => transc 0x1B x) ∧
  Claims.writes .cos 1 (fun _ _ x _ _ => transc 0x1C x) ∧
  (∀ (a : BitVec 32) (g : Bool) (n d : Nat) (e : Int), f32 a = .fin g n d e →
    let v := FV.fin g n d e
    transc 0x12 a = fsqrt a ∧
    (n = 0 → transc 0x10 a = toF32 (.inf g) ∧ transc 0x13 a = toF32 (.inf g) ∧ transc 0x17 a = toF32 v ∧
      (g = false → transc 0x16 a = 0xFF800000#32)) ∧
    (n ≠ 0 → Claims.accurate 1 (Claims.one.div v) (transc 0x10 a) ∧
      (g = true → transc 0x13 a = nan32 ∧ transc 0x16 a = nan32) ∧
      (g = false → Claims.accurate 1 (Claims.one.div v.sqrt) (transc 0x13 a) ∧
        Claims.accurate 2 (fxVal (fxLog n d e)) (transc 0x16 a)) ∧
      (let x := fxExp (2 * v.fix);
        Claims.accurate 3 ((FV.ofInt (x - fxOne)).div (FV.ofInt (x + fxOne))) (transc 0x17 a))) ∧
    Claims.accurate 2 (expVal v.fix) (transc 0x14 a) ∧
    (let i := roundInt ⟨.rtz, 0⟩ g n d e
      if (FV.ofInt i).eq v ∧ -126 ≤ i ∧ i ≤ 127 then transc 0x15 a = toF32 (.fin false 1 1 i)
      else if a = 0xBF000000#32 then transc 0x15 a = 0x3F3504F3#32
      else Claims.accurate 1 (expVal (fxMul v.fix fxLn2)) (transc 0x15 a)) ∧
    Claims.accurate 3 (Claims.sigmoid v.fix) (transc 0x18 a) ∧
    Claims.accurate 4 (v.mul (Claims.sigmoid v.fix)) (transc 0x19 a) ∧
    (let y := fxClamp (40 * fxOne) v.fix;
      Claims.accurate 4 (v.mul (Claims.sigmoid (2 * fxMul fxGelu (y + fxMul (fxMul y y) y * 44715 / 1000000)))) (transc 0x1A a)) ∧
    (∀ q < 2,
      (v.fix.natAbs ≤ 2 ^ (fxP + 18) → Claims.accurate 2 (fxVal (fxSin v.fix q)) (transc (0x1B + q) a)) ∧
      (2 ^ (fxP + 18) < v.fix.natAbs → Claims.close (fxVal (fxSin v.fix q)) (transc (0x1B + q) a)))) ∧
  (∀ (a : BitVec 32) (g : Bool), f32 a = .inf g →
    transc 0x10 a = toF32 (.fin g 0 1 0) ∧ transc 0x1B a = nan32 ∧ transc 0x1C a = nan32 ∧
    (g = false → (∀ op ∈ [0x12, 0x14, 0x15, 0x16, 0x19, 0x1A], transc op a = 0x7F800000#32) ∧ transc 0x13 a = 0#32 ∧
      transc 0x17 a = 0x3F800000#32 ∧ transc 0x18 a = 0x3F800000#32) ∧
    (g = true → (∀ op ∈ [0x12, 0x13, 0x16, 0x19, 0x1A], transc op a = nan32) ∧ (∀ op ∈ [0x14, 0x15, 0x18], transc op a = 0#32) ∧
      transc 0x17 a = 0xBF800000#32)) ∧
  (∀ a : BitVec 32, f32 a = .nan → ∀ op, transc op a = nan32)

/-- R107, R108, R111: the INT32 operations saturate and count; IOTA and RAND use the position and index of lane 0.
The model's own choices in it, not the manual's: log entry 74. -/
def Obligations.VectorIntegers : Prop :=
  Claims.saturates .iadd 2 (fun _ _ x y => let r := satInt 32 (x.toInt + y.toInt); (BitVec.ofInt 32 r.1, r.2)) ∧
  Claims.saturates .imul 2 (fun _ _ x y => let r := satInt 32 (x.toInt * y.toInt); (BitVec.ofInt 32 r.1, r.2)) ∧
  Claims.writes .imin 2 (fun _ _ x y _ => if x.toInt ≤ y.toInt then x else y) ∧
  Claims.writes .imax 2 (fun _ _ x y _ => if x.toInt ≤ y.toInt then y else x) ∧
  Claims.saturates .cvti 1 (fun v i x _ =>
    let r := convInt 32 (Rnd.of v.mode v.seed (v.lin0 + i)) (f32 x); (BitVec.ofNat 32 r.1, r.2)) ∧
  Claims.writes .cvtf 1 (fun _ _ x _ _ => f32OfInt x.toInt) ∧
  Claims.writes .iota 0 (fun v i _ _ _ => BitVec.ofNat 32 (v.pos0 + i)) ∧
  Claims.writes .rand 0 (fun v i _ _ _ => toF32 (.fin false (srZ v.seed (v.lin0 + i) / 2 ^ 40) 1 (-24)))

/-- R110, R116: the prism; j(i) for each operation. -/
def Obligations.PrismOperations : Prop :=
  Claims.moves .bcast false (fun p _ _ _ => (p % 256 : Nat)) ∧
  Claims.moves .rot false (fun p n i _ => ((i + p % 256) % max n 1 : Nat)) ∧
  Claims.moves .shft false (fun p _ i _ => (i : Int) + sext 9 p) ∧
  Claims.moves .rev false (fun _ n i _ => (n : Int) - 1 - i) ∧
  Claims.moves .zip false (fun _ _ i _ => (if i % 2 = 0 then i / 2 else 128 + (i - 1) / 2 : Nat)) ∧
  Claims.moves .unzip false (fun _ _ i _ => (if i < 128 then 2 * i else 2 * (i - 128) + 1 : Nat)) ∧
  Claims.moves .xpose16 false (fun _ _ i _ => (16 * (i % 16) + i / 16 : Nat)) ∧
  Claims.moves .idx true (fun _ _ _ ix => ix)

/-- R113–R116: the reductions of a row that the unit has taken in. -/
def Obligations.RowReductions : Prop :=
  ∀ (c : Cl) (s : State),
    let u := s.redUnit c.val
    let row := u.row.map (·.v)
    let bad := u.row.any (·.p)
    let top (k : Nat) : List (Nat × BitVec 32) := topRanked k row
    let ranked (k : Nat) : RedUnit := { u with
      vals := (top k).map (fun p => canon32 p.2) ++ List.replicate (k - (top k).length) 0xFF800000#32
      idxs := (top k).map (fun p => BitVec.ofNat 32 p.1) ++ List.replicate (k - (top k).length) 0xFFFFFFFF#32
      bad := bad }
    exec (.sum c) s = .next (s.setRed c.val { u with vals := [treeSum row], idxs := [], bad := bad }) ∧
    (∀ a t, row = a :: t →
      exec (.reduceMax c) s = .next (s.setRed c.val { u with vals := [t.foldl fmax (canon32 a)], idxs := [], bad := bad }) ∧
      exec (.reduceMin c) s = .next (s.setRed c.val { u with vals := [t.foldl fmin (canon32 a)], idxs := [], bad := bad })) ∧
    exec (.argmax c) s = .next (s.setRed c.val (ranked 1)) ∧
    (∀ k : BitVec 10, exec (.topk c k) s = .next (s.setRed c.val (ranked (k.toNat + 1)))) ∧
    exec (.sample c false) s = .next (s.setRed c.val { u with
      hasComp := false, bad := bad, idxs := []
      vals := [match samplePos row u.seed u.rowNo with | none => 0xFFFFFFFF#32 | some i => BitVec.ofNat 32 i] }) ∧
    exec (.sample c true) s = .next (s.setRed c.val { u with
      hasComp := true, bad := bad || u.comp.any (·.p), idxs := []
      vals := [match samplePos row u.seed u.rowNo with | none => 0xFFFFFFFF#32 | some i => (u.comp.getD i Lane.zero).v] })

namespace Sys2Proof.Claims

/-- The registers that a pass in progress on a channel keeps from other commands (R81). -/
def busy (s : State) (st : St) (ch : Ch) (r : Nat) : Bool := (s.regsInUse st.val ch.val).contains r

/-- Every bank of a channel's bank set has an open row. -/
def rowsOpen (s : State) (st : St) (ch : Ch) : Prop := ∀ b ∈ s.setOf st.val ch.val, (s.bank st.val ch.val b).row.isSome

/-- Do `f` in every bank of a list, in its order, on the row open there. -/
def onRows (s : State) (st : St) (ch : Ch) (bs : List Nat) (f : State → Nat → Nat → State) : State :=
  bs.foldl (fun u b => match (u.bank st.val ch.val b).row with
    | some r => f u b r
    | none => u) s

/-- Change every bank of a list. -/
def onBanks (s : State) (st : St) (ch : Ch) (bs : List Nat) (f : Bank → Bank) : State :=
  bs.foldl (fun u b => u.modBank st.val ch.val b f) s

/-- Passes may begin on a channel: no refresh debt stops them and no open row of the set holds a pair in repair. -/
def admits (s : State) (st : St) (ch : Ch) : Prop := (s.chan st.val ch.val).stop = false ∧ s.markedSet st.val ch.val = false

end Sys2Proof.Claims

/-- R69, R77, R78, R80, R89, R93: the commands that set up, run and end a pass.
The model's own choices in it, not the manual's: log entries 12, 19, 57, 104, 105. -/
def Obligations.BankSetCommands : Prop :=
  ∀ (st : St) (ch : Ch) (w : BitVec 26) (s : State),
    (∃ v : BitVec 64, exec (.bset st ch w) s = .next (s.setChan st.val ch.val { s.chan st.val ch.val with bset := v }) ∧
      ∀ i < 64, v.getLsbD i = if i / 16 = bits w.toNat 17 16 then w.getLsbD (i % 16)
        else (s.chan st.val ch.val).bset.getLsbD i) ∧
    ((PassCfg.ofWord w).isSome → s.passOn st.val ch.val = false →
      exec (.pcfg st ch w) s = .next (s.modChan st.val ch.val (fun c => { c with pcfg := w }))) ∧
    (∀ c, PassCfg.ofWord (s.chan st.val ch.val).pcfg = some c → 0 < (PassWord.of w).n →
      (PassWord.of w).c0 + (PassWord.of w).n ≤ 64 → s.passOn st.val ch.val = false → Claims.admits s st ch → s.setOf st.val ch.val ≠ [] →
      Claims.rowsOpen s st ch → exec (.mpass st ch w) s = .next (((Claims.onRows s st ch (s.setOf st.val ch.val)
        (fun u b r => u.bankMpass st.val ch.val b c (PassWord.of w) r)).modChan st.val ch.val
        (fun c => { c with pass := some w })).bump .stkPerfPass st.val (((s.setOf st.val ch.val).length + 31) / 32))) ∧
    exec (.passEnd st ch) s = .next ((Claims.onBanks s st ch (List.range 64) (fun v => v.setStatus stActive false)).modChan st.val ch.val
      (fun c => { c with pass := none }))

/-- R79–R84: the commands that move registers of the banks.
The model's own choices in it, not the manual's: log entries 19, 57, 104. -/
def Obligations.BankRegisterCommands : Prop :=
  ∀ (st : St) (ch : Ch) (w : BitVec 26) (s : State),
    (bits w.toNat 13 12 + bits w.toNat 7 6 + 1 ≤ 4 → Claims.busy s st ch (bits w.toNat 11 8) = false → Claims.rowsOpen s st ch →
      exec (.lpass st ch w) s = .next (Claims.onRows s st ch (s.setOf st.val ch.val) (fun u b r => u.bankLoad st.val ch.val b r
        ((List.range (bits w.toNat 7 6 + 1)).map (fun i => bits w.toNat 5 0 + i)) (bits w.toNat 11 8) (bits w.toNat 13 12)))) ∧
    (bits w.toNat 5 0 ≤ 60 → Claims.rowsOpen s st ch →
      exec (.spass st ch w) s = .next (Claims.onRows s st ch (s.setOf st.val ch.val) (fun u b r =>
        u.bankSpill st.val ch.val b r (bits w.toNat 5 0) (bits w.toNat 9 6)))) ∧
    (bits w.toNat 5 0 ≤ 60 → Claims.busy s st ch (bits w.toNat 9 6) = false → Claims.rowsOpen s st ch →
      exec (.fpass st ch w) s = .next (Claims.onRows s st ch (s.setOf st.val ch.val) (fun u b r => u.bankLoad st.val ch.val b r
        ((List.range 4).map (fun i => bits w.toNat 5 0 + i)) (bits w.toNat 9 6) 0))) ∧
    (∀ pins, Claims.busy s st ch (bits w.toNat 3 0) = false →
      exec (.ldr st ch w pins) s = .next (Claims.onBanks s st ch (s.setOf st.val ch.val) (fun v =>
        (v.setReg (bits w.toNat 3 0) pins).setRp (bits w.toNat 3 0) (bitOf w.toNat 4)))) ∧
    exec (.rdr st ch w) s = .next (s.modChan st.val ch.val (fun c =>
      let v := s.bank st.val ch.val (bits w.toNat 9 4)
      { c with pins := (v.reg (bits w.toNat 3 0)).setWidth 8192, pinP := v.regBad (bits w.toNat 3 0) })) ∧
    ((∀ r < 16, bitOf w.toNat r = true → Claims.busy s st ch r = false) →
      (s.passOn st.val ch.val = true → bits w.toNat 17 16 = 0) →
      exec (.aclr st ch w) s = .next (Claims.onBanks s st ch (s.setOf st.val ch.val) (bankClear w.toNat))) ∧
    exec (.stat st ch w) s = .next (s.modChan st.val ch.val (fun c =>
      { c with pins := (s.bank st.val ch.val (bits w.toNat 5 0)).status.setWidth 8192, pinP := false })) ∧
    (let u := Claims.onBanks s st ch (s.setOf st.val ch.val) (fun v =>
      { v with bk := [], acc := [], rp := 0, ap := 0, status := wput v.status 3 3 0 });
     exec (.halt st ch w) s = .next (if (List.range 64).any (fun b => (u.bank st.val ch.val b).active) then u
      else u.modChan st.val ch.val (fun c => { c with pass := none })))

/-- R80, R81, R84, R87, R93, R281: commands that are ignored, and what they leave.
The model's own choices in it, not the manual's: log entries 11, 57. -/
def Obligations.BankCommandsTurnedAway : Prop :=
  ∀ (st : St) (ch : Ch) (w : BitVec 26) (s : State),
    let bad : State := s.bpuMalformed st.val ch.val (s.setOf st.val ch.val)
    let hit : List Nat := s.activeSet st.val ch.val
    let clash : State := s.bpuConflict st.val ch.val hit
    let free : List Nat := s.freeSet st.val ch.val
    (∀ x : BitVec 32, exec (.bpuReservedOpcode st ch x) s = .next bad ∧ exec (.columnReservedOpcode st ch x) s = .next bad) ∧
    (bits w.toNat 6 5 = 3 ∨ bits w.toNat 25 14 ≠ 0 ∨ EType.ofCode (bits w.toNat 4 0) = none →
      exec (.pcfg st ch w) s = .next bad) ∧
    ((PassCfg.ofWord w).isSome → s.passOn st.val ch.val = true → exec (.pcfg st ch w) s = .next clash) ∧
    ((PassWord.of w).n = 0 ∨ 64 < (PassWord.of w).c0 + (PassWord.of w).n → exec (.mpass st ch w) s = .next bad) ∧
    ((PassCfg.ofWord (s.chan st.val ch.val).pcfg).isSome → 0 < (PassWord.of w).n →
      (PassWord.of w).c0 + (PassWord.of w).n ≤ 64 → s.passOn st.val ch.val = true → Claims.admits s st ch →
      exec (.mpass st ch w) s = .next clash) ∧
    ((PassCfg.ofWord (s.chan st.val ch.val).pcfg).isSome → 0 < (PassWord.of w).n →
      (PassWord.of w).c0 + (PassWord.of w).n ≤ 64 → ¬Claims.admits s st ch → exec (.mpass st ch w) s = .next s) ∧
    (4 < bits w.toNat 13 12 + bits w.toNat 7 6 + 1 → exec (.lpass st ch w) s = .next bad) ∧
    (60 < bits w.toNat 5 0 → exec (.spass st ch w) s = .next bad ∧ exec (.fpass st ch w) s = .next bad) ∧
    (bits w.toNat 13 12 + bits w.toNat 7 6 + 1 ≤ 4 → Claims.busy s st ch (bits w.toNat 11 8) = true → Claims.rowsOpen s st ch →
      exec (.lpass st ch w) s = .next ((Claims.onRows s st ch free (fun u b r => u.bankLoad st.val ch.val b r
        ((List.range (bits w.toNat 7 6 + 1)).map (fun i => bits w.toNat 5 0 + i)) (bits w.toNat 11 8) (bits w.toNat 13 12))).bpuConflict
          st.val ch.val hit)) ∧
    (bits w.toNat 5 0 ≤ 60 → Claims.busy s st ch (bits w.toNat 9 6) = true → Claims.rowsOpen s st ch →
      exec (.fpass st ch w) s = .next ((Claims.onRows s st ch free (fun u b r => u.bankLoad st.val ch.val b r
        ((List.range 4).map (fun i => bits w.toNat 5 0 + i)) (bits w.toNat 9 6) 0)).bpuConflict st.val ch.val hit)) ∧
    (∀ pins, Claims.busy s st ch (bits w.toNat 3 0) = true → exec (.ldr st ch w pins) s = .next ((Claims.onBanks s st ch free
      (fun v => (v.setReg (bits w.toNat 3 0) pins).setRp (bits w.toNat 3 0) (bitOf w.toNat 4))).bpuConflict st.val ch.val hit))

/-- R87: the column commands.
The model's own choices in it, not the manual's: log entry 74. -/
def Obligations.ColumnCommands : Prop :=
  ∀ (st : St) (ch : Ch) (w : BitVec 26) (s : State),
    exec (.columnNop st ch) s = .next s ∧
    ∀ r, (s.bank st.val ch.val (colBank w.toNat)).row = some r →
      let b := colBank w.toNat
      let at' (i : Nat) : Nat := stackAddr st.val ch.val b r (colFirst w.toNat + i)
      (colFirst w.toNat + colCount w.toNat ≤ 64 →
        (let got := (List.range (colCount w.toNat)).foldl (fun (p : State × List Decoded) i =>
            ((p.1.loadUnit false (at' i)).1, p.2 ++ [(p.1.loadUnit false (at' i)).2])) (s, [])
         ∃ v : BitVec 8192,
          exec (.rd st ch w) s = .next ((got.1.modChan st.val ch.val (fun c =>
            { c with pins := v, pinP := got.2.any (fun d => d.outc.bad) })).autoPre st.val ch.val b w.toNat) ∧
          ∀ i < colCount w.toNat, v.toNat / 2 ^ (256 * i) % 2 ^ 256 =
            (match got.2[i]? with
              | some d => if d.outc.bad then 0 else leNat d.data % 2 ^ 256
              | none => 0)) ∧
        (∀ data, exec (.wr st ch w data) s = .next (((List.range (colCount w.toNat)).foldl (fun u i =>
          u.storeUnit (at' i) ((List.range 32).map (fun j => data.getD (32 * i + j) 0))) s).autoPre st.val ch.val b w.toNat))) ∧
      exec (.scrb st ch w) s = .next (s.scrubPair st.val (at' 0) [at' 0, at' 1]) ∧
      exec (.wrp st ch w) s = .next ((s.storePoison (at' 0)).storePoison (at' 1))

namespace Sys2Proof.Claims

/-- How a unit says that its work for a descriptor ended: the status it met, poison, or done (R152, R155). -/
def endOf : Option Task → UnitRep
  | some k => match k.dead with
    | some (e, d) => .error e d
    | none => if k.poison then .poison else .done
  | none => .done

/-- A message of R19 can arrive: one of its copies in flight has no earlier one of its crossing before it, or it comes
from outside the machine. One behind another waits (exec answers the same state, stated of every message in
StepRunsFront). -/
abbrev mayCome (s : State) (m : Instr) : Prop := (takeMsg m [] s.flight).isSome = true ∨ s.inFlight m = false

/-- The state in which an arriving message takes effect: it is in flight no more. -/
def came (s : State) (m : Instr) : State :=
  match takeMsg m [] s.flight with
  | some l => { s with flight := l }
  | none => s

end Sys2Proof.Claims

/-- R88, R93, R94: the row commands.
The model's own choices in it, not the manual's: log entries 58, 106. -/
def Obligations.RowCommands : Prop :=
  ∀ (st : St) (ch : Ch) (w : BitVec 20) (s : State),
    let b := bits w.toNat 19 14
    let row := bits w.toNat 13 0
    let v := s.bank st.val ch.val b
    let n := mapGet (fun _ => 0) v.track row + 1
    let m := mapSet (fun _ => 0) v.track row n
    let close (v : Bank) : Bank := if v.active then v else { v with row := none }
    exec (.rowNop st ch) s = .next s ∧
    (v.raa < s.raaimt st.val → v.raa < s.raammt st.val →
      exec (.act st ch w) s = .next (s.setBank st.val ch.val b { v with
        row := some row, raa := v.raa + 1, track := m
        alert := v.alert || ((trackedRows m).any (fun p => p.1 == row) && decide (s.rowAlert st.val ≤ n)) })) ∧
    ((s.chan st.val ch.val).steps = true → (s.chan st.val ch.val).bset.getLsbD b = true → s.raammt st.val ≤ v.raa →
      exec (.act st ch w) s = .next s) ∧
    exec (.pre st ch w) s = .next (s.setBank st.val ch.val b (close v)) ∧
    exec (.prea st ch) s = .next ((List.range 64).foldl (fun u i => u.modBank st.val ch.val i close) s) ∧
    exec (.spre st ch) s = .next (s.eachBank st.val ch.val close) ∧
    exec (.sact st ch w) s = .next ((s.setOf st.val ch.val).foldl (fun u i =>
      (u.flushBank st.val ch.val i).activate st.val ch.val i row) s) ∧
    exec (.ref st ch) s = .next (if (s.chan st.val ch.val).mayRefresh then
      let d := (s.chan st.val ch.val).debt
      let u := (s.trace 8 (52 + st.val) none 0 0 0 0 (ch.val + min 8 d.toNat * 32)).preaCmd st.val ch.val
      let u := (List.range 64).foldl (fun u i => u.modBank st.val ch.val i (fun v => { v with raa := v.raa - 32 })) u
      ((u.modChan st.val ch.val (fun c => { c with debt := c.debt - 1 })).bump .stkPerfRef st.val 1).showDebt st.val
      else s) ∧
    exec (.rfm st ch w) s = .next (if v.active then s else (s.rfmBank st.val ch.val b).bump .stkPerfRfm st.val 1) ∧
    exec (.srfm st ch) s = .next (if (s.setOf st.val ch.val).any (fun i => (s.bank st.val ch.val i).active) then s else
      ((s.setOf st.val ch.val).foldl (fun u i => u.rfmBank st.val ch.val i) s).bump .stkPerfRfm st.val 1)

/-- R91, R93, R95, R96, R102: what the stack controller does between passes. -/
def Obligations.StackSchedule : Prop :=
  ∀ (st : St) (ch : Ch) (s : State),
    (let u := s.modChan st.val ch.val (fun c => { c with debt := c.debt + 1 })
     s.injEvent 4 st.val = false → (u.chan st.val ch.val).debt ≤ 8 →
      ((u.chan st.val ch.val).steps = true → exec (.refreshDue st ch) s = .next (u.showDebt st.val)) ∧
      ((u.chan st.val ch.val).steps = false →
        exec (.refreshDue st ch) s = .next (((u.payDebt st.val ch.val).showDebt st.val).chanNext st.val ch.val))) ∧
    (0 < s.fld .stkScrubCfg st.val 31 0 → s.flag .stkScrubCfg st.val 40 = false → s.ready (52 + st.val) = true →
      exec (.scrubTick st ch) s = .next
        ((s.modChan st.val ch.val (fun c => { c with ord := c.ord ++ [.scrub] })).idleScrubs st.val ch.val)) ∧
    (∀ v : Word, exec (.arbConfigWrite st v) s = .next (s.setFld .stkArbCfg st.val 7 0 (max 24 (v.toNat % 256)))) ∧
    (∀ (iss : Issuer) (addr len : Nat) (data : List Byte) (write : Bool),
      let q : MemReq := ⟨iss, if write then .wr else .rd, addr, if write then data.length else len,
        if write then data else [], [], false, none⟩
      (regionOf addr ≠ .stack st.val → exec (.ordinaryRequest st iss addr len data write) s = .next s) ∧
      (regionOf addr = .stack st.val → exec (.ordinaryRequest st iss addr len data write) s = .next (s.atHome q)) ∧
      (regionOf addr = .stack st.val → s.repairing addr q.len = [] → s.mm.stalled.any (fun p => p.before q) = false →
        s.ordBehind st.val q = none →
        exec (.ordinaryRequest st iss addr len data write) s = .next (if s.stepping addr
          then s.modChan st.val (stackPos addr).ch (fun c => { c with ord := c.ord ++ [.req q] }) else s.serveReq q)))

/-- R76, R90, R92: the life of a bank descriptor in a stack.
The model's own choices in it, not the manual's: log entries 24, 59, 94, 105. -/
def Obligations.BankDescriptors : Prop :=
  ∀ (st : St) (ch : Ch) (t : Nat) (k : Task) (s : State),
    (let u := Claims.came s (.bankDescriptorIssue st ch t)
     Claims.mayCome s (.bankDescriptorIssue st ch t) → s.task t = some k → k.phase = .running → k.route = true → (u.chansWith t).contains (st.val, ch.val) = false →
      exec (.bankDescriptorIssue st ch t) s = .next ((u.modChan st.val ch.val (fun c =>
        { c with queue := u.enqueue t c.queue })).chanNext st.val ch.val)) ∧
    ((s.chan st.val ch.val).pass = none →
      exec (.passBoundary st ch) s = .next (((((((s.spreCmd st.val ch.val).payDebt st.val ch.val).boundaryRfm st.val ch.val).boundaryOrd
        st.val ch.val)).boundarySwitch st.val ch.val).showDebt st.val)) ∧
    (s.task t = some k → k.phase = .running → k.route = true →
      let r := { s with mm := { s.mm with marked := false } }.bankWork st.val t k
      let u := r.injectOverrun st.val (52 + st.val) t
      (s.stackChans st.val t).all (fun c => (s.chan st.val c).run == some t) = true → s.stackChans st.val t ≠ [] →
      (s.issuesOf t).contains st.val = false →
      exec (.bankDescriptorComplete st t) s = .next (if r.mm.marked then s
        else (s.stackChans st.val t).foldl (fun u c => u.leaveBank st.val c t)
          (u.send (52 + st.val) (48 + k.field) (.unitDone t (Claims.endOf (u.task t)) false)))) ∧
    ((s.stackChans st.val t).all (fun c => (s.chan st.val c).run == some t) = false →
      exec (.bankDescriptorComplete st t) s = .next s)

namespace Sys2Proof.Claims

/-- A state in which nothing has met a pass or a pair in repair. -/
def fresh (s : State) : State := { s with mm := { s.mm with late := false, marked := false } }

/-- Whether work that would leave r has to wait at s: one of its reads met a pass, one of its accesses a pair in repair, or
a bucket that it charges owes credits (R12, R91, R268, R281). -/
def waits (s r : State) : Bool := r.mm.late || r.mm.marked || s.overdrawn r

/-- A command that tries work which would leave r: it takes place, or it waits and nothing changes. -/
def tries (e : Host.Outcome State Fault Refusal) (s r : State) : Prop :=
  (waits s r = false → e = .next r) ∧ (waits s r = true → e = .next s)

/-- A unit reports how a descriptor's work ended; an injection on a cluster's cost bound is met then (R152, R286). -/
def reported (v : State) (t : Nat) : State :=
  let u := v.injectCluster t
  match u.task t with
  | none => u
  | some k => u.sendOnce k.owner k.owner (.unitDone t (endOf (some k)) false)

/-- Opcode `op` runs on the unit that holds its descriptor: of a descriptor that runs, is not yet issued and has this
opcode, the command marks it issued, does the work `f`, and the unit reports how it ended, unless the work has to wait. -/
def runsUnit (c : Nat → Instr) (op : Nat) (f : Nat → State → Task → State) : Prop :=
  ∀ (t : Nat) (k : Task) (s : State), s.task t = some k → k.phase = .running → k.issued = false → twOpcode k.w = op →
    tries (exec (c t) s) s (reported (f t ((fresh s).putTask t { k with issued := true }) k) t)

/-- The same of an opcode whose work reports its end itself. -/
def runsOp (c : Nat → Instr) (op : Nat) (f : Nat → State → Task → State) : Prop :=
  ∀ (t : Nat) (k : Task) (s : State), s.task t = some k → k.phase = .running → k.issued = false → twOpcode k.w = op →
    tries (exec (c t) s) s (f t ((fresh s).putTask t { k with issued := true }) k)

end Sys2Proof.Claims

/-- R47, R62, R65: the states of a pair of clusters.
The model's own choices in it, not the manual's: log entries 103, 116. -/
def Obligations.TwinCommands : Prop :=
  ∀ (c : Cl) (s : State), c.val % 2 = 0 →
    let st (s : State) (v : Nat) : State := s.setFld .tenTwinStat c.val 1 0 v
    let ctl (form dissolve : Bool) : State := s.orReg .tenTwinCtl c.val (b2n form + 2 * b2n dissolve)
    let refuse (u : State) (cause : Nat) : State := (u.setBit .tenTwinStat c.val 2 true).setFld .tenTwinStat c.val 5 3 cause
    (s.twinState c.val = 0 → s.entriesOf c.val false = 0 → s.entriesOf (c.val + 1) false = 0 → s.dom c.val = .on →
      s.dom (c.val + 1) = .on → exec (.twinForm c false false) s = .next (st (ctl true false) 1)) ∧
    (s.twinState c.val = 1 → exec (.twinClockSwitched c) s =
      .next ((((st s 2).setFld .tenId c.val 10 9 1).setFld .tenId (c.val + 1) 10 9 2).settle (c.val / 12))) ∧
    (s.twinState c.val = 2 → s.entriesOf c.val false = 0 → s.entriesOf (c.val + 1) false = 0 →
      exec (.twinDissolve c false false) s = .next ((st (ctl false true) 3).setFld .tenId c.val 10 9 0)) ∧
    (s.twinState c.val = 3 → exec (.twinRelock c) s =
      .next (((st s 0).setFld .tenId (c.val + 1) 10 9 0).settle (c.val / 12))) ∧
    (∀ sameAc, exec (.twinForm c true sameAc) s = .next (refuse (ctl true true) 4) ∧
      exec (.twinDissolve c true sameAc) s = .next (refuse (ctl true true) 4)) ∧
    (s.twinState c.val = 0 → exec (.twinForm c false true) s = .next (refuse (ctl true false) 1)) ∧
    (s.twinState c.val = 2 → exec (.twinDissolve c false true) s = .next (refuse (ctl false true) 1)) ∧
    (∀ (f : Fd) (v : Word), exec (.auditConfigWrite f v) s =
      .next ((s.setFld .schAuditCfg f.val 15 0 (wb v 15 0)).setFld .schAuditCnt f.val 47 0 0))

/-- R46, R54, R57, R59, R61, R328: K units, tiles, drain and audit of a product.
The model's own choices in it, not the manual's: log entries 23, 55, 116. -/
def Obligations.ArrayCommands : Prop :=
  ∀ (c : Cl) (t : Nat) (k : Task) (s u : State) (p : Prod),
    let a := s.arrays c.val
    let z := Claims.fresh s
    (∀ ac : BitVec 4, s.arrayTask c.val = some (t, k) → s.mayIssue c.val k ac.toNat = true →
      z.openProd t k (!k.issued) = (u, some p) → k.empty = false → p.tiles ≠ 0 →
      (k.issued = true → a.task = some t → (u.arrays c.val).tile < p.tiles → (u.arrays c.val).unit < p.units →
        Claims.tries (exec (.kUnitStart c ac) s) s ((u.kUnit c.val t k p).setArrays c.val
          { (u.kUnit c.val t k p).arrays c.val with units := ac.toNat })) ∧
      (k.issued = false →
        let v := ((u.streams k).modTask t (fun k => { k with issued := true })).setArrays c.val { arrays0 with task := some t }
        (v.arrays c.val).tile < p.tiles → (v.arrays c.val).unit < p.units →
        Claims.tries (exec (.kUnitStart c ac) s) s ((v.kUnit c.val t k p).setArrays c.val
          { (v.kUnit c.val t k p).arrays c.val with units := ac.toNat }))) ∧
    (s.arrayTask c.val = some (t, k) → a.task = some t → z.openProd t k false = (u, some p) →
      (a.drain = none → a.tile < p.tiles → p.units ≤ a.unit →
        Claims.tries (exec (.tileComplete c) s) s (u.setArrays c.val
          (({ a with drain := some a.tile, tile := a.tile + 1, unit := 0, bank := !a.bank } : Arrays).setAccs []))) ∧
      (∀ n k', a.drain = some n →
        let v := ((u.drainTile t k p n (if a.bank then a.acc0 else a.acc1)).setArrays c.val
          { a with drain := none, acc0 := if a.bank then [] else a.acc0, acc1 := if a.bank then a.acc1 else [] }).modTask t
            (fun k => { k with round := n + 1 })
        v.task t = some k' →
        Claims.tries (exec (.drainComplete c) s) s (if n + 1 < p.tiles || v.auditDue k' then v else v.sendDone t))) ∧
    (s.task t = some k → k.auditWaits = true →
      s.flight.any (fun x => match x.m with | .unitDone y _ _ => decide (y = t) | _ => false) = false →
      z.openProd t k false = (u, some p) → p.tiles ≤ k.round →
      Claims.tries (exec (.auditTile t) s) s ((u.auditArrays t k p).sendDone t))

/-- R54, R60, R76, R104, R141, R328.
The model's own choices in it, not the manual's: log entries 23, 55, 114. -/
def Obligations.ClusterDescriptors : Prop :=
  (∀ (t : Nat) (k : Task) (s : State), s.task t = some k → k.phase = .running →
    (k.route = false → k.issued = false →
      let r : State := Claims.reported (((Claims.fresh s).putTask t { k with issued := true }).productRun t k) t
      (twOpcode k.w = 0x10 → Claims.tries (exec (.matmul t) s) s r) ∧ (twOpcode k.w = 0x11 → Claims.tries (exec (.matmulG t) s) s r) ∧
      (twOpcode k.w = 0x12 → Claims.tries (exec (.matmulB t) s) s r) ∧ (twOpcode k.w = 0x53 → Claims.tries (exec (.lscan t) s) s r)) ∧
    (k.route = true →
      let r : State := (uniq ((s.chansWith t).map (·.1))).foldl (fun u st => u.bankComplete st t) s
      (twOpcode k.w = 0x10 → exec (.matmul t) s = .next r) ∧ (twOpcode k.w = 0x11 → exec (.matmulG t) s = .next r) ∧
      (twOpcode k.w = 0x12 → exec (.matmulB t) s = .next r) ∧ (twOpcode k.w = 0x53 → exec (.lscan t) s = .next r))) ∧
  Claims.runsOp .vop 0x20 (fun t u k => u.vopRun t k allStrips) ∧
  Claims.runsUnit .copy 0x30 (fun t u k => u.copyRun t k) ∧
  (∀ (c : Cl) (ac : BitVec 4) (t : Nat) (k : Task) (s u : State) (l : List (Nat × Opnd)) (g : Bool),
    s.holder c.val .vector = some (t, k) → k.phase = .running → twOpcode k.w = 0x20 → s.mayIssue c.val k ac.toNat = true →
    (Claims.fresh s).openMany t k [0, 1, 2, 3] false = (u, l, g) →
    (k.issued = true → 0 < k.round ∧ k.round < stripCount k.w (iterShape k.w l) * passesOf k.w) →
    Claims.tries (exec (.vectorRound c ac) s) s ((u.putTask t { k with issued := true }).vopRun t k (if twTwin k.w then 4 else 2)))

/-- R265, R270: a range request runs from its write to its result.
The model's own choices in it, not the manual's: log entry 26. -/
def Obligations.RangeCommands : Prop :=
  ∀ (s : State) (h : BitVec 12) (both : Bool),
    (s.flag .memRangeStat 0 1 = false →
      let u := (s.setBit .memRangeStat 0 0 false).setBit .memRangeStat 0 1 true
      exec (.rangeCreate h both) s = .next { u with mm := { u.mm with rangeReq := some ⟨h.toNat, true, both,
        (List.range 12).map (fun i => s.reg .memRangeStage 0 i)⟩ } } ∧
      exec (.rangeDestroy h) s = .next { u with mm := { u.mm with rangeReq := some ⟨h.toNat, false, false, []⟩ } }) ∧
    (∀ q : RangeReq, s.mm.rangeReq = some q →
      let fin (r : Nat) (m : Mem) : State :=
        ((({ s with mm := { m with rangeReq := none } } : State).setBit .memRangeStat 0 0 true).setBit .memRangeStat 0 1 false).setFld
          .memRangeStat 0 4 2 r
      (s.rangeReason q = 0 → q.create = true →
        exec .rangeUpdateComplete s = .next (fin 0 { s.mm with ranges := mapPut s.mm.ranges q.h q.words })) ∧
      (s.rangeReason q = 0 → q.create = false →
        exec .rangeUpdateComplete s = .next (fin 0 { s.mm with ranges := mapDel s.mm.ranges q.h })) ∧
      (s.rangeReason q ≠ 0 → exec .rangeUpdateComplete s = .next (fin (s.rangeReason q) s.mm)))

namespace Sys2Proof.Claims

/-- A request that nothing holds up at its home: no pair of it is in repair, no earlier write of its unit waits, and its bank
is in no stepping set (R91, R178, R281). -/
def clear (s : State) (q : MemReq) : Prop :=
  s.repairing q.addr q.len = [] ∧ s.mm.stalled.any (fun p => p.before q) = false ∧
    ∀ st, regionOf q.addr = .stack st → s.ordBehind st q = none ∧ s.stepping q.addr = false

/-- What a home does with a request: a read opens its rows and returns the bytes that the coded store holds, its bad units
reported; a write merges its bytes under the mask, or poisons its units; an add opens its rows and adds each element; both
are acknowledged (R178, R187, R262, R266, R267). -/
def served (s : State) (q : MemReq) : State :=
  match q.kind with
  | .rd =>
    let (u, r) := (s.ordRows q.addr q.len).readRun q.addr q.len
    let w := u.reportBads q.iss false r.bads
    { w with mm := { w.mm with reads := w.mm.reads ++ [⟨q.iss, r.data, r.bad⟩] } }
  | .wr => (if q.poison then (unitsOf q.addr q.len).foldl (fun s u => s.writePoison u) s
      else s.writeBytes (byteWrites q.addr q.data q.mask)).sendAck q.addr q.iss
  | .add et => ((s.ordRows q.addr q.len).addRun q.iss q.addr et q.data q.poison).sendAck q.addr q.iss

/-- Command c presents the request q at its home, which u is the state of: it is served where no bucket charges it; else it
takes one credit for each 64 bytes first, and joins the bucket's queue where it has too few (R268). -/
def presents (c : Instr) (s u : State) (q : MemReq) : Prop :=
  u.noAnswer q.addr = none →
    (u.chargedPart q = none → clear u q → exec c s = .next (served u q)) ∧
    (∀ p, u.chargedPart q = some p →
      let b := u.bucket (homeOf q.addr) p
      (b.enable = false ∨ 20 ≤ homeOf q.addr → clear u q → exec c s = .next (served u q)) ∧
      (b.enable = true → homeOf q.addr < 20 → b.wait = [] → b.debt = 0 → creditsOf q.len ≤ b.level → clear u q →
        exec c s = .next (served (u.setBucket (homeOf q.addr) p { b with level := b.level - creditsOf q.len }) q)) ∧
      (b.enable = true → homeOf q.addr < 20 → b.level < creditsOf q.len →
        exec c s = .next (u.setBucket (homeOf q.addr) p { b with wait := b.wait ++ [q] })))

end Sys2Proof.Claims

/-- R178, R187, R262, R266–R268: what a home does with a request it accepts.
The model's own choices in it, not the manual's: log entry 54. -/
def Obligations.HomeReadsAndWrites : Prop :=
  ∀ (i : Issuer) (a n : Nat) (data mask : List Byte) (et : BitVec 5) (poison : Bool) (s : State),
    Claims.presents (.homeRead i a n) s s ⟨i, .rd, a, n, [], [], false, none⟩ ∧
    Claims.presents (.memoryAdd i a et data poison) s s ⟨i, .add et, a, data.length, data, [], poison, none⟩ ∧
    (s.postWaits i a data = false → (∀ h, i = .core h → regionOf a ≠ .control) →
      Claims.presents (.homeWrite i a data mask poison) s (s.takePost i a data)
        ⟨i, .wr, a, data.length, data, mask, poison, none⟩) ∧
    (s.postWaits i a data = true → exec (.homeWrite i a data mask poison) s = .next s)

/-- R259, R262, R266, R268, R270, R275, R281.
The model's own choices in it, not the manual's: log entries 10, 55, 56, 93, 106. -/
def Obligations.MemoryService : Prop :=
  ∀ (s : State),
    (∀ (h : Hart) (r : ReadData) (t : List ReadData), takeRead (.core h) s.mm.reads = some (r, t) →
      exec (.readResponse (.core h)) s = .next { s with
        mm := { s.mm with reads := t }
        io := if r.bad then { s.io with fault := true, faultHart := h.val } else { s.io with rdata := r.data, fault := false } }) ∧
    (∀ (h : Home) (b : Nat) (l : WLine), s.stepping b = true → exec (.wcbFlush h b) s = .next s) ∧
    (∀ (h : Home) (b : Nat) (l : WLine), s.stepping b = false → findLine b (s.mm.lines h.val) = some l →
      exec (.wcbFlush h b) s = .next
        (({ s with mm := s.mm.setLines h.val (dropLine b (s.mm.lines h.val)) } : State).flushLine l)) ∧
    (∀ (h : Fin 20) (p : Fin 16), (s.bucket h.val p.val).enable = true → (s.bucket h.val p.val).wait = [] →
      let b := s.bucket h.val p.val
      exec (.creditRefill h p) s = .next (s.setBucket h.val p.val { b with
        level := min b.burst (b.level + (b.rate - b.debt)), debt := b.debt - b.rate, held := false
        waited := min (2 ^ 48 - 1) b.waited })) ∧
    (∀ (v : Word), s.fld .memRegSel 0 8 4 < 20 → wbit v 32 = true →
      let p := s.fld .memRegSel 0 3 0
      let h := s.fld .memRegSel 0 8 4
      let b := s.bucket h p
      let burst := max 16 (wb v 31 16)
      exec (.regulatorConfigWrite v) s = .next (s.setBucket h p
        { b with rate := min 1280 (wb v 15 0), burst := burst, enable := true
                 level := if b.enable then min burst b.level else burst, debt := if b.enable then b.debt else 0 })) ∧
    (∀ d : Fin 32, exec (.heathRefreshDue d) s = .next s) ∧
    (∀ (i : Issuer) (q : MemReq) (t : List MemReq), takeStall i s.mm.stalled = some (q, t) → q.kind = .rd →
      let u := (pairsOf q.addr q.len).foldl (fun s b => if s.inRepair b then s.reportBad i false b .uncorrectable else s)
        { s with mm := { s.mm with stalled := t } }
      exec (.repairStallTimeout i) s = .next
        { u with mm := { u.mm with reads := u.mm.reads ++ [⟨i, List.replicate q.len 0#8, true⟩] } }) ∧
    (∀ (i : Issuer) (q : MemReq) (t : List MemReq), takeStall i s.mm.stalled = some (q, t) → q.kind ≠ .rd →
      exec (.repairStallTimeout i) s = .next (((unitsOf q.addr q.len).foldl (fun (s : State) u => s.writePoison u)
        { s with mm := { s.mm with stalled := t } }).sendAck q.addr i)) ∧
    (∀ (t : Nat) (k : Task), takeStall (.task t) s.mm.stalled = none → s.task t = some k → k.phase = .running →
      exec (.repairStallTimeout (.task t)) s = .next (s.putTask t { k with expired := true }))

/-- R144–R147, R194: what signals and re-arms do to a slot. -/
def Obligations.GlintCommands : Prop :=
  ∀ (f gf : Fd) (pool : Fin 13) (slot : BitVec 12) (ep : BitVec 16) (failed : Bool) (t : Nat) (s : State),
    (let u := Claims.came s (.glintSignalArrival f slot ep failed)
     Claims.mayCome s (.glintSignalArrival f slot ep failed) →
     (u.glint f.val slot.toNat = ⟨ep, 0⟩ → exec (.glintSignalArrival f slot ep failed) s =
       .next (u.setGlint f.val slot.toNat ⟨ep, if failed then 2 else 1⟩)) ∧
     ((u.glint f.val slot.toNat).st ≠ 0 ∨ (u.glint f.val slot.toNat).epoch ≠ ep →
       exec (.glintSignalArrival f slot ep failed) s = .next (u.bump .schGlintDup f.val 1))) ∧
    (let u := Claims.came s (.rearmRequest f slot ep t)
     let g := u.glint f.val slot.toNat
     Claims.mayCome s (.rearmRequest f slot ep t) →
     (g.st ≠ 0 → ep.toNat = (g.epoch.toNat + 1) % 65536 → exec (.rearmRequest f slot ep t) s =
       .next (let v := u.setGlint f.val slot.toNat ⟨BitVec.ofNat 16 ep.toNat, 0⟩
         v.send (48 + f.val) (v.ownerOf t) (.garmAnswer t true))) ∧
     (g.st = 0 ∨ ep.toNat ≠ (g.epoch.toNat + 1) % 65536 → exec (.rearmRequest f slot ep t) s =
       .next (u.send (48 + f.val) (u.ownerOf t) (.garmAnswer t false)))) ∧
    (∀ (k : Task) (ok : Bool),
      let u := Claims.came s (.garmAnswer t ok)
      Claims.mayCome s (.garmAnswer t ok) → u.task t = some k → k.phase = .running → k.units = 1 → exec (.garmAnswer t ok) s =
        .next ((((u.putTask t { (if ok then k else k.fail 0x13 0) with units := 0 }).atomsBack t k.field).kvEngLeave t).allDone t)) ∧
    (let u := Claims.came s (.glintChange f pool gf slot)
     Claims.mayCome s (.glintChange f pool gf slot) → exec (.glintChange f pool gf slot) s = .next
      ((u.sc.tasks.filter (fun p => p.2.waiting && decide (poolOf p.2 = (f.val, pool.val)) && awaitsOn p.2 gf.val slot.toNat)).foldl
        (fun u p => u.evaluate p.1) u)) ∧
    (s.slotOwner f.val slot.toNat ≠ none → exec (.exportDone f slot ep) s = .next (s.bump .schGlintDup f.val 1) ∧
      exec (.exportFailed f slot ep) s = .next (s.bump .schGlintDup f.val 1) ∧
      exec (.exportRearm f slot ep) s = .next (s.bump .schGlintDup f.val 1)) ∧
    (s.slotOwner f.val slot.toNat = none →
      (s.glint f.val slot.toNat = ⟨ep, 0⟩ →
        exec (.exportDone f slot ep) s = .next (s.setGlint f.val slot.toNat ⟨ep, 1⟩) ∧
        exec (.exportFailed f slot ep) s = .next (s.setGlint f.val slot.toNat ⟨ep, 2⟩)) ∧
      ((s.glint f.val slot.toNat).st ≠ 0 → ep.toNat = ((s.glint f.val slot.toNat).epoch.toNat + 1) % 65536 →
        exec (.exportRearm f slot ep) s = .next (s.setGlint f.val slot.toNat ⟨BitVec.ofNat 16 ep.toNat, 0⟩)) ∧
      ((s.glint f.val slot.toNat).st = 0 ∨ ep.toNat ≠ ((s.glint f.val slot.toNat).epoch.toNat + 1) % 65536 →
        exec (.exportRearm f slot ep) s = .next (s.bump .schGlintDup f.val 1)))

/-- R152–R156, R164, R170, R176, R178, R183: what ends an attempt.
The model's own choices in it, not the manual's: log entries 2, 11, 94. -/
def Obligations.DescriptorEnds : Prop :=
  ∀ (t : Nat) (s : State),
    (∀ (rep : UnitRep) (same : Bool) (k : Task),
      let u := Claims.came s (.unitDone t rep false)
      let k1 : Task := match rep with
        | .done => k
        | .poison => { k with poison := true, everPoison := true }
        | .error st d => k.fail st.toNat d.toNat
      Claims.mayCome s (.unitDone t rep false) → u.task t = some k → k.phase = .running →
      (k1.units = 1 → exec (.unitDone t rep same) s = .next
        ((((u.putTask t { k1 with units := 0 }).atomsBack t k1.field).kvEngLeave t).allDone t)) ∧
      (1 < k1.units → exec (.unitDone t rep same) s = .next (u.putTask t { k1 with units := k1.units - 1 }))) ∧
    (∀ h : Hart, let u := Claims.came s (.writeAck (.core h))
      Claims.mayCome s (.writeAck (.core h)) →
      (1 < u.acksOf h.val → exec (.writeAck (.core h)) s = .next (u.setAcks h.val (u.acksOf h.val - 1))) ∧
      (u.acksOf h.val = 1 → let v := u.setAcks h.val 0
        exec (.writeAck (.core h)) s = .next { v with io := { v.io with fence := v.io.fence.filter (· ≠ h.val) } })) ∧
    (∀ d : BitVec 4, Claims.mayCome s (.writeAck (.peer d)) →
      exec (.writeAck (.peer d)) s = .next ((Claims.came s (.writeAck (.peer d))).setSats d.toNat 0)) ∧
    (let u := Claims.came s (.writeAck (.task t))
     Claims.mayCome s (.writeAck (.task t)) →
     (1 < u.acksOf (16 + t) → exec (.writeAck (.task t)) s = .next (u.setAcks (16 + t) (u.acksOf (16 + t) - 1))) ∧
     (∀ k, u.acksOf (16 + t) = 1 → u.task t = some k →
       let v := (u.setAcks (16 + t) 0).readyShards t
       (k.phase = .doneWait → exec (.writeAck (.task t)) s = .next (v.allDone t)) ∧
       (k.phase = .recWait → exec (.writeAck (.task t)) s = .next (v.closeTask t k k.dead.isSome)) ∧
       (k.phase = .killWait → exec (.writeAck (.task t)) s = .next (v.sendOnce k.owner k.owner (.killedWritesAcked t))))) ∧
    (∀ k, let u := Claims.came s (.killComplete t)
      Claims.mayCome s (.killComplete t) → u.task t = some k → k.phase = .killed →
      let v := (u.discard t k).kvLeave t k
      ((v.ctx k.ctx).map (·.dying) = some true → exec (.killComplete t) s = .next ((v.modTask t (fun k => { k with counts := counts0 })).endCore t 0x20 0)) ∧
      ((v.ctx k.ctx).map (·.dying) ≠ some true → v.acksOf (16 + t) = 0 →
        exec (.killComplete t) s = .next ((v.putTask t k.again).whenReady t)) ∧
      ((v.ctx k.ctx).map (·.dying) ≠ some true → v.acksOf (16 + t) ≠ 0 →
        exec (.killComplete t) s = .next (v.putTask t { k.again with phase := .killWait }))) ∧
    (∀ k, let u := Claims.came s (.killedWritesAcked t)
      Claims.mayCome s (.killedWritesAcked t) → u.task t = some k → k.phase = .killWait → u.acksOf (16 + t) = 0 →
      exec (.killedWritesAcked t) s = .next ((u.putTask t { k with phase := .placed }).whenReady t)) ∧
    (∀ (slot : BitVec 6) (k : Task), let u := Claims.came s (.descriptorRelease t slot)
      Claims.mayCome s (.descriptorRelease t slot) → u.task t = some k → exec (.descriptorRelease t slot) s = .next
        (((u.traceTask 6 k 0 slot.toNat).putTask t { k with slots := k.slots.erase slot.toNat }).tryRelease t)) ∧
    (∀ (k : Task) (v : State) (isl : Nat), s.task t = some k → (k.phase = .running ∨ k.phase = .doneWait) →
      s.overrunIsland t k = (v, isl) →
      let d := v.draw
      let u := d.1.logE { kind := 0x0A, island := isl, ctx := k.ctx, part := d.1.partOf k.ctx, detail := d.2.toNat }
      exec (.costOverrun t) s = .next ((u.discard t k).endTask t 0x24 isl)) ∧
    (∀ (x : BitVec 10) (c : Ctx), let u := Claims.came s (.teardownComplete x)
      Claims.mayCome s (.teardownComplete x) → u.ctx x.toNat = some c → c.dying = true → c.res ≠ .tornDown → u.hasTasks x.toNat = false →
      let v := (List.range (cwGCount c.cw)).foldl (fun s i =>
        if (s.glint c.field (cwGBase c.cw + i)).st = 0
        then s.setGlint c.field (cwGBase c.cw + i) { s.glint c.field (cwGBase c.cw + i) with st := 2 } else s) u
      exec (.teardownComplete x) s = .next ((v.setCtx x.toNat
        (some { c with res := .tornDown, pinned := false, runnable := false, held := false })).bump .schPerfTeardown c.field 1))

/-- R137, R138, R159: contexts.
The model's own choices in it, not the manual's: log entry 66. -/
def Obligations.ContextCommands : Prop :=
  ∀ (f : Fd) (v : Word) (s : State),
    ((s.fieldAt f.val).cx = none →
      let u := s.setBit .schCtxStat f.val 0 false
      let st := (List.range 4).map (fun i => u.reg .schCtxStage f.val i)
      (let c := v ||| BitVec.ofNat 64 (2 ^ 10)
       wbit c 10 = true → exec (.contextCreate f v) s = .next (u.modField f.val (fun t =>
        { t with cx := some ⟨wb c 9 0, true, wbit c 11, st⟩ }))) ∧
      (let d := v ||| BitVec.ofNat 64 (2 ^ 11)
       wbit d 11 = true → exec (.contextDestroy f v) s = .next (u.modField f.val (fun t =>
        { t with cx := some ⟨wb d 9 0, wbit d 10, true, st⟩ })))) ∧
    (∀ q : CxReq, (s.fieldAt f.val).cx = some q →
      let u := s.modField f.val (fun t => { t with cx := none })
      let w := (u.setFld .schCtxStat f.val 3 1 (u.ctxReason f.val q)).setBit .schCtxStat f.val 0 true
      (u.ctxReason f.val q = 0 → q.create = true → exec (.contextCheckComplete f) s =
        .next ((List.range (cwGCount q.words)).foldl (fun s i => s.setGlint f.val (cwGBase q.words + i) ⟨0, 0⟩)
          (w.setCtx q.ctx (some ⟨q.words, f.val, 0, 0, .nonResident, false, 0, 0, false, false, false, none⟩)))) ∧
      (u.ctxReason f.val q = 0 → q.create = false → exec (.contextCheckComplete f) s =
        .next (let x := w.setCtx q.ctx none
          { x with sc := { x.sc with tens := x.sc.tens.filter (fun p => decide (p.1 / 65536 ≠ q.ctx)) } })) ∧
      (u.ctxReason f.val q ≠ 0 → exec (.contextCheckComplete f) s = .next w)) ∧
    (∀ c : Ctx, s.ctx (wb v 9 0) = some c → c.field = f.val → c.dying = false →
      let tail := BitVec.ofNat 17 (wb v 26 10)
      (tail - c.head).toNat ≤ 2 ^ cwQLog c.cw → tail ≠ c.head →
      exec (.doorbell f v) s = .next (((s.setCtx (wb v 9 0) (some { c with tail := tail })).makeRunnable (wb v 9 0)).settle f.val))

/-- R134–R136, R148: creation and destruction of tensors.
The model's own choices in it, not the manual's: log entry 66. -/
def Obligations.TensorCommands : Prop :=
  ∀ (f : Fd) (v : Word) (s : State),
    (s.flag .schTdResult f.val 1 = false → ((s.setBit .schTdResult f.val 0 false).fieldAt f.val).td = none →
      let u := s.setBit .schTdResult f.val 0 false
      let st := (List.range 16).map (fun i => s.reg .schTdStage f.val i)
      let go (w : Word) : State := (u.modField f.val (fun t =>
        { t with td := some ⟨wb w 9 0, wb w 25 10, wbit w 26, st, none⟩ })).setBit .schTdResult f.val 1 true
      exec (.tensorCreate f v) s = .next (go (wput v 26 26 0)) ∧ exec (.tensorDestroy f v) s = .next (go (wput v 26 26 1))) ∧
    (∀ (q : TdReq) (u x : State) (c : Ctx) (r : Nat) (e : List Word), (s.fieldAt f.val).td = some q → s.tdNext f.val = u →
      (q.destroy = true → u.ctx q.ctx = some c → c.field = f.val →
        exec (.tensorCreationComplete f) s = .next (((((u.setValid q.ctx q.handle false).staleCopies q.ctx q.handle).setBit
          .schTdResult f.val 0 true).setFld .schTdResult f.val 15 8 0).setFld .schTdResult f.val 47 16 0)) ∧
      (q.destroy = false → u.creationCheck f.val q.ctx q.handle q.words = (x, r, e) →
        (r = 0 → q.task = none → exec (.tensorCreationComplete f) s = .next
          (((((x.writeEntry q.ctx q.handle e).staleCopies q.ctx q.handle).setBit .schTdResult f.val 0 true).setFld
            .schTdResult f.val 15 8 0).setFld .schTdResult f.val 47 16 (teSize e (teRank e - 1)))) ∧
        (r ≠ 0 → q.task = none → exec (.tensorCreationComplete f) s = .next
          ((((x.bump .schTdRefused f.val 1).setBit .schTdResult f.val 0 true).setFld .schTdResult f.val 15 8 r).setFld
            .schTdResult f.val 47 16 0)) ∧
        (∀ t, r = 0 → q.task = some t → exec (.tensorCreationComplete f) s = .next
          ((x.modTask t (fun k => { k with entries := [e] })).sendDone t)) ∧
        (∀ t, r ≠ 0 → q.task = some t → exec (.tensorCreationComplete f) s = .next
          (((x.bump .schTdRefused f.val 1).modTask t (fun k => k.fail r 0)).sendDone t))))

/-- R101, R139, R149–R151, R161, R352.
The model's own choices in it, not the manual's: log entries 64, 94, 108, 116. -/
def Obligations.FetchAndDispatch : Prop :=
  ∀ (f : Fd) (s : State),
    let z := Claims.fresh s
    (s.clearing = false →
      (∀ x, (s.settle f.val).fetchNext f.val = some x →
        exec (.fetch f) s = .next ((((s.settle f.val).modField f.val (fun v => { v with rr := x })).fetchTurn f.val x 8).settle f.val)) ∧
      (∀ (c : Cl) (e : Fin 3) (p : Nat × Task),
        let cand := s.sc.tasks.filter (fun p => selectable p.2 && decide (twHome p.2.w = c.val) && !p.2.inPool &&
          !(decide (bits (s.gate c.val) 4 0 = 0) && s.bestOf p.2.ctx && engOf (twOpcode p.2.w) != Eng.none) &&
          (match engOf (twOpcode p.2.w) with
            | .arrays | .vector | .copy => engOf (twOpcode p.2.w) == engNo e.val
            | _ => true))
        s.twinState c.val ≠ 1 → s.holder c.val (engNo e.val) = none →
        s.bestTask (cand.filter (fun p => s.engineFree c.val p.2)) = some p →
        Claims.tries (exec (.dispatch c e) s) s ((z.dispatchTask p.1).settle (c.val / 12))) ∧
      (∀ (t : Nat) (k k1 k2 : Task) (u v : State),
        s.bestTask (s.sc.tasks.filter (fun p => selectable p.2 && decide (p.2.field = f.val) && p.2.inPool)) = some (t, k) →
        z.sample t = (u, none) → u.task t = some k1 →
        (u.routeOf k1 = some false → Claims.tries (exec (.routePoolDispatch f) s) s
          (((u.putTask t { k1 with phase := .handoff }).countDispatch t 0).send (48 + f.val) (twHome k1.w) (.routeHandoff t))) ∧
        (u.routeOf k1 = some true → u.sampleCounts t = (v, false) → v.task t = some k2 → v.dispatchFail k2 = none →
          Claims.tries (exec (.routePoolDispatch f) s) s ((v.issueBanks t).settle f.val)))) ∧
    (∀ (t : Nat) (k : Task) (u v : State) (es : List (List Word)) (n o : Nat),
      let x := Claims.came z (.headerArrival t)
      Claims.mayCome s (.headerArrival t) → x.task t = some k → k.phase = .header →
      (if k.stale then x.readEntries k.ctx k.w 0 else (x, k.entries, none)) = (u, es, none) →
      teBound (es.getD 0 []) = true → teIsIndex (es.getD 5 []) = true →
      u.sampleCount t k.field (es.getD 5 []) = (v, some (n, o, false)) →
      Claims.tries (exec (.headerArrival t) s) s (v.modTask t (fun k => { k with
        phase := .placed, gcount := mapPut k.gcount 0 n, counts := { k.counts with irange := k.counts.irange + o } }))) ∧
    (∀ (t : Nat) (k : Task), let x := Claims.came s (.routeHandoff t)
      Claims.mayCome s (.routeHandoff t) → x.task t = some k → k.phase = .handoff →
      exec (.routeHandoff t) s = .next (x.putTask t { k with phase := .placed, inPool := false }))

/-- R135, R141, R147. -/
def Obligations.FieldDescriptors : Prop :=
  Claims.runsUnit .nop 0x00 (fun _ u _ => u) ∧ Claims.runsUnit .tdestroy 0x03 (fun _ u _ => u) ∧
  Claims.runsOp .tcreate 0x02 (fun t u k => u.tcreateRun t k) ∧
  Claims.runsOp .garm 0x01 (fun t u k => u.send k.owner (48 + refField (twArea k.w 0)) (.rearmRequest (Fin.ofNat 4 (refField (twArea k.w 0)))
    (BitVec.ofNat 12 (refSlot (twArea k.w 0))) (BitVec.ofNat 16 (refEpoch (twArea k.w 0))) t))

/-- R171, R176, R177.
The model's own choices in it, not the manual's: log entry 73. -/
def Obligations.ResidencyCommands : Prop :=
  ∀ (f : Fd) (x : BitVec 10) (s : State),
    let refused : State := s.setBit .schSwapStat f.val 3 true
    let u := s.settle f.val
    (∀ c : Ctx, u.ctx x.toNat = some c → c.field = f.val →
      (c.dying = false → c.res = .blocked → c.pinned = false → u.fld .schSwapCfg f.val 15 0 ≠ 0 → (u.fieldAt f.val).swap = .idle →
        exec (.evict f x) s = .next (((u.leaveResidency x.toNat).modField f.val (fun v => { v with swap := .out x.toNat none })).setBit
          .schSwapStat f.val 0 true |>.send (48 + f.val) (48 + f.val) (.swapOutDone (Fin.ofNat 4 f.val)))) ∧
      (c.dying = true ∨ c.res ≠ .blocked ∨ c.pinned = true ∨ u.fld .schSwapCfg f.val 15 0 = 0 →
        exec (.evict f x) s = .next (u.setBit .schSwapStat f.val 3 true))) ∧
    (∀ c : Ctx, u.ctx x.toNat = some c → c.field ≠ f.val → exec (.evict f x) s = .next (u.setBit .schSwapStat f.val 3 true)) ∧
    (∀ c : Ctx, s.ctx x.toNat = some c → c.field = f.val →
      (cwBest c.cw = false → exec (.pin f x) s = .next (s.setCtx x.toNat (some { c with pinned := true }))) ∧
      (cwBest c.cw = true → exec (.pin f x) s = .next refused) ∧
      exec (.unpin f x) s = .next (s.setCtx x.toNat (some { c with pinned := false })) ∧
      (c.dying = false → c.res = .nonResident → c.held = false → s.slotFree f.val (cwBest c.cw) = true →
        (s.fieldAt f.val).swap = .idle → exec (.admission f x) s = .next (s.startIn f.val x.toNat)) ∧
      (s.slotFree f.val (cwBest c.cw) = false → exec (.admission f x) s = .next refused) ∧
      (c.res ≠ .tornDown → exec (.tearDown f x) s = .next (s.teardown x.toNat 0x20 c.head.toNat))) ∧
    (∀ c : Ctx, s.ctx x.toNat = some c → c.field ≠ f.val →
      exec (.pin f x) s = .next refused ∧ exec (.unpin f x) s = .next refused ∧
      exec (.admission f x) s = .next refused ∧ exec (.tearDown f x) s = .next refused)

/-- R171–R175: swapping.
The model's own choices in it, not the manual's: log entries 21, 73, 94. -/
def Obligations.SwapEngine : Prop :=
  ∀ (f : Fd) (s : State),
    (∀ (x : Nat) (c : Ctx), let w := s.settle f.val
      (w.fieldAt f.val).swap = .idle → w.nextIn f.val = some (x, c) →
      (w.slotFree f.val (cwBest c.cw) = true →
        exec (.swapSelect f) s = .next ((w.setBit .schSwapStat f.val 1 false).startIn f.val x)) ∧
      (∀ v, w.slotFree f.val (cwBest c.cw) = false → (w.setBit .schSwapStat f.val 1 true).victim f.val (cwBest c.cw) = some v →
        exec (.swapSelect f) s = .next ((w.setBit .schSwapStat f.val 1 true).startOut f.val v (some x)))) ∧
    (∀ (x : Nat) (c : Ctx), let a := Claims.came s (.swapOutDone f)
      Claims.mayCome s (.swapOutDone f) → (a.fieldAt f.val).swap = .out x none → (a.writeImage f.val x).ctx x = some c →
      let u := (a.writeImage f.val x).modCtx x (fun c => { c with res := .nonResident, runnable := false })
      let v := ((u.bump .schPerfSwapout f.val 1).setFld .schSwapStat f.val 13 4 x).trace 0x0C (48 + f.val) (some x) 0 0 0 0 x
      exec (.swapOutDone f) s = .next
        ((((if c.runnable || decide (c.head ≠ c.tail) then v.makeRunnable x else v).tearWaiting x).settle f.val).swapIdle f.val)) ∧
    (∀ (x : Nat) (c : Ctx) (b : State) (ws : List (List Word)), let a := Claims.came s (.swapInDone f)
      Claims.mayCome s (.swapInDone f) → (a.fieldAt f.val).swap = .inn x → a.ctx x = some c →
      (if c.hasImage then a.readImage f.val x else (a, [], [])) = (b, ws, []) →
      let r := b.replaceTasks f.val x (((b.imageTasks x).map (·.1)).zip ws)
      let u := r.modCtx x (fun c => { c with res := .resident })
      let v := ((if c.hasImage then u.bump .schPerfSwapin f.val 1 else u).setFld .schSwapStat f.val 23 14 x).trace 0x0D (48 + f.val)
        (some x) 0 0 0 0 x
      (r.imageTasks x = [] → exec (.swapInDone f) s = .next (((v.tearWaiting x).swapIdle f.val).settle f.val)) ∧
      (r.imageTasks x ≠ [] → exec (.swapInDone f) s = .next (r.send (48 + f.val) (48 + f.val) (.swapInDone (Fin.ofNat 4 f.val)))))

/-- R188–R190: the atomics.
The model's own choices in it, not the manual's: log entries 55, 60, 61, 62, 110. -/
def Obligations.AtomicDescriptors : Prop :=
  Claims.runsUnit .aadd 0x70 (fun t u k => u.atomRun t k) ∧ Claims.runsUnit .aminmax 0x71 (fun t u k => u.atomRun t k) ∧
  Claims.runsUnit .aswap 0x72 (fun t u k => u.atomRun t k) ∧ Claims.runsUnit .acas 0x73 (fun t u k => u.atomRun t k) ∧
  (∀ (t : Nat) (k : Task) (s u : State) (l : List (Nat × Opnd)) (a d : Opnd), s.openMany t k [0, 1, 2, 3] true = (u, l, false) →
    opndAt l 0 = some a → opndAt l 3 = some d → k.empty = false →
    let vs := (List.range (prodOf d.wshape)).map (coordsOf d.wshape)
    ∀ (v : State) (ma : Snap), u.fetchViews (.task t) k.field false a vs [] = (v, ma) →
      ∀ (v' : State) (mb : Snap), (match opndAt l 1 with
        | some b => v.fetchViews (.task t) k.field false b vs []
        | none => (v, [])) = (v', mb) →
      let w := vs.foldl (fun s x => s.atomStep t k d a (opndAt l 1) (opndAt l 2) ma mb x) v'
      let home (x : List Nat) : Option Nat := match d.loc false x with
        | .hit c _ =>
          let y := (itemBytes d.e d.rg .elem c).1.headD 0
          if (atomBuf k.w k.field y).isNone && decide (y < peerSpace) && (v'.noAnswer y).isNone then some y else none
        | _ => none
      s.atomRun t k = (match vs.findSome? home with
        | some y => w.sendAck y (.task t)
        | none => w)) ∧
  (∀ (t f x y addr : Nat) (w : List Word) (ty : EType) (bad : Bool) (s u : State) (g : Got), addr < peerSpace →
    s.noAnswer addr = none → (s.settleLines addr (ty.width / 8) false).fetchUnit (.task t) f false (unitBase addr) = (u, g) →
    let old := leNat ((g.data.drop (addr - unitBase addr)).take (ty.width / 8))
    ((bad || g.bad) = true → s.atomAtHome t f w ty addr x y bad = (u.writePoison (unitBase addr), ⟨old, true, false⟩)) ∧
    ((bad || g.bad) = false →
      (twOpcode w = 0x72 → s.atomAtHome t f w ty addr x y bad =
        (u.writeBytes (byteWrites addr (leBytes (ty.width / 8) x) []), ⟨old, false, false⟩)) ∧
      (twOpcode w = 0x73 → s.atomAtHome t f w ty addr x y bad =
        (u.writeBytes (byteWrites addr (leBytes (ty.width / 8) (if old = y then x else old)) []), ⟨old, false, false⟩)) ∧
      (twOpcode w = 0x70 → s.atomAtHome t f w ty addr x y bad =
        (u.writeBytes (byteWrites addr (leBytes (ty.width / 8) (addElt ty old x).1) []), ⟨old, false, (addElt ty old x).2⟩))))

/-- R199, R201, R207, R215, R364.
The model's own choices in it, not the manual's: log entries 27, 70, 95, 102, 113. -/
def Obligations.StreamRecords : Prop :=
  ∀ (x : BitVec 16) (s : State),
    (s.flag .kvsSrecStat 0 1 = false →
      let u := s.setBit .kvsSrecStat 0 0 false
      let w := (List.range 3).map (fun i => u.reg .kvsSrecStage 0 i)
      let go (q : Fwd) : State := { u.setBit .kvsSrecStat 0 1 true with kv := { u.kv with fwd := some q } }
      let to' (q : Fwd) (v : State) (f : Nat) : State := v.send 48 (48 + f) (.forwardedRequest ⟨Fin.ofNat 4 f, q⟩)
      exec (.streamRecordOpen x) s = .next (to' (.recOpen x.toNat w) (go (.recOpen x.toNat w)) (reField w)) ∧
      exec (.streamRecordClose x) s = .next ([0, 1, 2, 3].foldl (to' (.recClose x.toNat)) (go (.recClose x.toNat)))) ∧
    (∀ (f : Fd) (n : Nat) (w old : List Word) (u : State) (bad : Bool),
      let a := Claims.came s (.forwardedRequest ⟨f, .recOpen n w⟩)
      Claims.mayCome s (.forwardedRequest ⟨f, .recOpen n w⟩) →
      a.recGet (.service (Fin.ofNat 4 f.val)) f.val n = (u, old, bad) → (!bad && reOpen old) = false →
      reCap w ≠ 0 → reCap w ≤ 16384 → (u.recAddr f.val n).isSome = true → u.ptInRange w = true →
      (u.kvFmt f.val (rePart w)).ok = true →
      let v := u.recPut f.val n (freshRec w)
      let v1 : State := { v with kv := { v.kv with opens := mapPut v.kv.opens n (rePart w) } }
      let v2 := v1.mirrorOut (rePart w) f.val (.recOpen (BitVec.ofNat 16 n) (wordAt w 0) (wordAt w 1) (wordAt w 2))
      exec (.forwardedRequest ⟨f, .recOpen n w⟩) s = .next (v2.send (48 + f.val) 48 (.forwardedResult ⟨false, 0⟩))) ∧
    (∀ (f : Fd) (n : Nat) (u : State) (r : BitVec 3),
      let q : Fwd := .recClose n
      let a := Claims.came s (.forwardedRequest ⟨f, q⟩)
      Claims.mayCome s (.forwardedRequest ⟨f, q⟩) → a.recClose f.val n = (u, r) →
      (r ≠ 2 ∨ (u.kv.fwd = some q ∧ u.closeLeft n = false) →
        exec (.forwardedRequest ⟨f, q⟩) s = .next (u.send (48 + f.val) 48 (.forwardedResult ⟨false, r⟩))) ∧
      (r = 2 → (u.kv.fwd ≠ some q ∨ u.closeLeft n = true) → exec (.forwardedRequest ⟨f, q⟩) s = .next u)) ∧
    (∀ (f n : Nat) (r : List Word) (u : State) (bad : Bool), s.recGet (.service (Fin.ofNat 4 f)) f n = (u, r, bad) →
      (bad = true ∨ reOpen r = false ∨ reField r ≠ f → s.recClose f n = (u, 2)) ∧
      (bad = false → reOpen r = true → reField r = f →
        ((reInflight r || reMoving r || decide (reReaders r ≠ 0)) = true → s.recClose f n = (u, 5)) ∧
        ((reInflight r || reMoving r || decide (reReaders r ≠ 0)) = false →
          let v := (u.dropPages (.service (Fin.ofNat 4 f)) f n r 0 (reCap r)).1
          let r' := reSet (reSet r 0 42 42 0) 2 50 36 0
          let v1 := (v.recDrop f n r').labDrop f n
          let v2 : State := { v1 with kv := { v1.kv with opens := mapDel v1.kv.opens n } }
          s.recClose f n = (v2.mirrorOut (rePart r') f (.recClose (BitVec.ofNat 16 n)), 0)))) ∧
    (∀ r : BitVec 3, let a := Claims.came s (.forwardedResult ⟨false, r⟩)
      Claims.mayCome s (.forwardedResult ⟨false, r⟩) →
      (a.kv.fwd.isSome = true → exec (.forwardedResult ⟨false, r⟩) s = .next
        (({ a with kv := { a.kv with fwd := none } } : State).setFld .kvsSrecStat 0 4 0 (1 + 4 * r.toNat))) ∧
      (a.kv.fwd = none → exec (.forwardedResult ⟨false, r⟩) s = .next a)) ∧
    (∀ v : Word, let p := s.fld .kvsFmtSel 0 3 0
      let w := BitVec.ofNat 64 (wb v 32 0)
      let u := ([1, 2, 3] : List (Fin 4)).foldl (fun s f => s.send 48 (48 + f.val) (.forwardedRequest ⟨f, .copy .fmt p w⟩)) (s.setCfg 0 .fmt p w)
      (s.kv.opens.any (fun o => decide (o.2 = p)) = false →
        exec (.kvFormatWrite v) s = .next (u.mirrorOut p 0 (.kvFmt (Fin.ofNat 16 p) w))) ∧
      (s.kv.opens.any (fun o => decide (o.2 = p)) = true → exec (.kvFormatWrite v) s = .next (s.setBit .kvsSrecStat 0 5 true))) ∧
    (∀ (f : Fd) (v : Word), let p := s.fld .kvsPoolSel f.val 4 0
      let o := s.pool f.val p
      (o.held = 0 → exec (.poolConfigWrite f true v) s = .next (s.setPool f.val p { o with list := v }) ∧
        exec (.poolConfigWrite f false v) s = .next (s.setPool f.val p { o with cfg := BitVec.ofNat 64 (wb v 55 0) })) ∧
      (o.held ≠ 0 → ∀ b, exec (.poolConfigWrite f b v) s = .next (s.setBit .kvsPoolStat f.val 0 true)))

namespace Sys2Proof.Claims

/-- Opcode `op` runs on a KV engine: on one that is free, or already the descriptor's, it takes the engine, does the
work `f` and reports, unless the work has to wait, for which it keeps the engine; on one that runs another it waits, each
descriptor once. -/
def runsOnEngine (c : Nat → Instr) (op : Nat) (mig : Bool) (f : Nat → State → Task → State) : Prop :=
  ∀ (t : Nat) (k : Task) (s : State), s.task t = some k → k.phase = .running → k.issued = false → twOpcode k.w = op →
    let j := 2 * k.field + b2n mig
    let e := s.kvEng j
    ((e.run = none ∨ e.run = some t) →
      let v := s.setKvEng j ⟨some t, e.wait.filter (· ≠ t)⟩
      tries (exec (c t) s) v (reported (f t ((fresh v).putTask t { k with issued := true }) k) t)) ∧
    (∀ x, e.run = some x → x ≠ t → exec (c t) s =
      .next (s.setKvEng j ⟨some x, if e.wait.contains t then e.wait else e.wait ++ [t]⟩))

end Sys2Proof.Claims

/-- R202, R203, R205, R208–R213.
The model's own choices in it, not the manual's: log entries 28, 55, 68, 69, 71. -/
def Obligations.KvDescriptors : Prop :=
  Claims.runsOnEngine .kappend 0x40 false (fun t u k => u.kappendRun t k allPieces) ∧
  Claims.runsOnEngine .kadvance 0x41 false (fun t u k => u.kadvanceRun t k) ∧
  Claims.runsOnEngine .kfree 0x42 false (fun t u k => u.kfreeRun t k) ∧
  Claims.runsOnEngine .kbucket 0x44 false (fun t u k => u.kbucketRun t k) ∧
  Claims.runsOnEngine .kmigrate 0x45 true (fun t u k => u.kmigrateRun t k allPieces) ∧
  (∀ (t : Nat) (k : Task) (s u : State) (r : List Word), s.kvOpen t k (kvStream k.w) = (u, some r) →
    (∀ n, kvCount k.w = 0 → s.kappendRun t k n = u) ∧
    (u.kvUnfit k r = false → u.appendRefused k r (if kvPos k.w = 0x1FFFFF then reCommitted r else kvPos k.w) = true →
      u.kappendStart t k r = u.kvFail t 0x50) ∧
    (∀ n v k', kvCount k.w ≠ 0 → k.round = 0 → u.kappendStart t k r = v → v.task t = some k' → v.stopped t = true →
      s.kappendRun t k n = v) ∧
    ((kvPos k.w < reCommitted r ∨ reTracked r = true) → s.kadvanceRun t k = u.kvFail t 0x50) ∧
    (reCommitted r ≤ kvPos k.w → reTracked r = false → s.kadvanceRun t k = u)) ∧
  (∀ (t : Nat) (k : Task) (s u : State) (r : List Word), s.task t = some k → k.phase = .running → k.issued = false →
    let joins (v : State) (run : State → State) (stay : State) : State :=
      if k.reader then Claims.reported (run v) t
      else if reReaders r = 65535 then stay
      else Claims.reported (run ((v.recPut k.field (kvStream k.w) (reSet r 3 47 32 (reReaders r + 1))).modTask t
        (fun k => { k with reader := true }))) t
    (let j := 2 * k.field
     let e := s.kvEng j
     let a := (Claims.fresh s).setKvEng j ⟨some t, e.wait.filter (· ≠ t)⟩
     twOpcode k.w = 0x43 → (e.run = none ∨ e.run = some t) →
     (a.modTask t (fun k => { k with issued := true })).kvOpen t k (kvStream k.w) = (u, some r) →
     Claims.tries (exec (.kread t) s) s (joins u (fun v => v.kreadRun t k r allPieces) a)) ∧
    (let a := Claims.fresh s
     twOpcode k.w = 0x46 → (a.modTask t (fun k => { k with issued := true })).kvOpen t k (kvStream k.w) = (u, some r) →
     Claims.tries (exec (.kexpand t) s) s (joins u (fun v => v.kexpandRun t k r) a)))

/-- R203, R205, R209, R218.
The model's own choices in it, not the manual's: log entries 67, 69, 94. -/
def Obligations.KvLengths : Prop :=
  ∀ (s : State),
    (∀ (f : Fd) (mig : Bool) (t v : Nat) (k : Task), let j := 2 * f.val + b2n mig
      let z := (Claims.fresh s).draw
      let u := z.1.kvPart t k z.2.toNat
      (s.kvEng j).run = some t → s.kvPick (s.kvEng j).wait = some v → s.task t = some k → k.phase = .running → k.issued = false →
      s.bestTaskOf t = true → s.bestTaskOf v = false →
      (u.stopped t = false → Claims.tries (exec (.kvEngineYield f mig) s) s
        (u.setKvEng j ⟨some v, (s.kvEng j).wait.filter (· ≠ v) ++ [t]⟩)) ∧
      (u.stopped t = true → Claims.tries (exec (.kvEngineYield f mig) s) s
        (Claims.reported (u.modTask t (fun k => { k with issued := true })) t))) ∧
    (∀ (x : BitVec 16) (c : BitVec 21) (u : State) (r : List Word), let f := x.toNat / 16384
      Claims.mayCome s (.advance x c) → (Claims.came s (.advance x c)).recGet (.service (Fin.ofNat 4 f)) f x.toNat = (u, r, false) →
      (reOpen r = false → exec (.advance x c) s = .next (u.clamp f)) ∧
      (reOpen r = true → reField r = f → c.toNat ≤ reTentative r → c.toNat ≤ (if reInflight r then reInflightPos r else maxPos) →
        exec (.advance x c) s = .next (u.setCommitted f x.toNat r c.toNat)) ∧
      (reOpen r = true → reField r = f →
        let m := min (reTentative r) (if reInflight r then reInflightPos r else maxPos)
        m < c.toNat → exec (.advance x c) s = .next ((u.clamp f).setCommitted f x.toNat
          (reSet r 3 31 0 (min 0xFFFFFFFF (reClamps r + 1))) m))) ∧
    (∀ (t : Nat) (k : Task), let a := Claims.came s (.lengthQuery t)
      let x := wb (twArea k.w 0) 15 0
      Claims.mayCome s (.lengthQuery t) → a.task t = some k → k.phase = .query →
      a.kv.holds.any (fun h => decide (h.task = t)) = false → k.reader = false →
      ∀ (u : State) (r : List Word), a.kvOpen t k x = (u, some r) → readsPages (twOpcode k.w) = true → reReaders r ≠ 65535 →
      let p0 := if atQpos k.w = 0x1FFFFF then reCommitted r else atQpos k.w
      let v := ((u.recPut k.field x (reSet r 3 47 32 (reReaders r + 1))).modTask t (fun k => { k with reader := true })).modTask t
        (fun k => { k with pos := p0, len := reCommitted r })
      (p0 ≤ reCommitted r → exec (.lengthQuery t) s = .next (v.send (48 + x / 16384) k.owner (.lengthAnswer t))) ∧
      (reCommitted r < p0 → exec (.lengthQuery t) s = .next
        (({ v with kv := { v.kv with holds := v.kv.holds ++ [⟨t, x, p0⟩] } } : State).bump .kvsPerfHold k.field 1))) ∧
    (∀ (t : Nat) (k : Task), let a := Claims.came s (.lengthAnswer t)
      Claims.mayCome s (.lengthAnswer t) → a.task t = some k → k.phase = .query → a.kv.holds.any (fun h => decide (h.task = t)) = false →
      exec (.lengthAnswer t) s = .next (a.putTask t { k with phase := .placed, answer := some true })) ∧
    (∀ (t : Nat) (k : Task), s.task t = some k → k.phase = .query → s.kv.holds.any (fun h => decide (h.task = t)) = true →
      exec (.lengthHoldExpiry t) s = .next (s.endTask t 0x50 (twOpcode k.w)))

namespace Sys2Proof.Claims

/-- The requests of SRV_STREAM_CTL and their numbers. -/
def streamOps : List (Nat × (BitVec 16 → Instr)) :=
  [(1, .streamOpen), (2, .streamClose), (3, .cancel), (4, .pause), (5, .resume), (6, .expire), (7, .abort), (8, .finish),
   (9, .constrain), (10, .fail)]

/-- A request goes to the field that owns what it acts on; the others wait in their order for its result. -/
def crosses (s : State) (q : Fwd) (rest : List Fwd) : State :=
  let f := match q with
    | .custCfg u _ | .credit u _ => u % 4
    | .stream x _ _ => x / 16384
    | _ => 0
  ({ s with sv := { s.sv with fwd := some q, fwdC := rest } } : State).send 48 (48 + f) (.forwardedRequest ⟨Fin.ofNat 4 f, q⟩)

/-- A customer's request whose field holds the common page takes effect without a crossing. -/
def isLocal (q : Fwd) : Bool :=
  match q with
  | .custCfg u _ | .credit u _ => decide (u % 4 = 0)
  | _ => false

/-- A customer's entry after a configuration. -/
def configured (s : State) (u : Nat) (v : Word) : State :=
  let c := s.cust u
  s.setCust u { c with cap := wb v 31 0, promptW := wb v 35 32, enabled := wbit v 36, test := wbit v 37,
                       bal := min c.bal (wb v 31 0 : Nat) }

/-- A customer's entry after a credit; one whose balance becomes positive is unthrottled in every field. -/
def credited (s : State) (u : Nat) (m : Int) : State :=
  let c := s.cust u
  let b := max (min (c.bal + m) c.cap) (-(2 ^ 39 : Int))
  if 0 < b ∧ c.throttled = true then
    (List.range 4).foldl (fun (s : State) f => s.send (48 + u % 4) (48 + f) (.unthrottle (Fin.ofNat 4 f) (BitVec.ofNat 12 u)))
      (s.setCust u { c with bal := b, throttled := false })
  else s.setCust u { c with bal := b }

/-- The states in which the tracker takes each request but open and cancel. -/
def allowedIn : List (Nat × List Nat) :=
  [(2, [1, 6, 7, 8, 9]), (4, [2, 3, 4, 5]), (5, [2, 3, 4, 5]), (6, [5]), (7, [2, 4]), (8, [3]), (9, [1, 3, 5]), (10, [1, 2, 3, 4, 5])]

/-- A configuration write: F0 has the new word, and a copy crosses to each other field. -/
def copied (s : State) (r : CfgReg) (i : Nat) (v : Word) : State :=
  ([1, 2, 3] : List Fd).foldl (fun (s : State) f => s.send 48 (48 + f.val) (.forwardedRequest ⟨f, .copy r i v⟩)) (s.setCfg 0 r i v)

/-- The request `op` with the staged words `w` makes the entry of a stream into `n` and answers 0. -/
def applies (s : State) (x op : Nat) (w : List Word) (n : Trk) : Prop :=
  let u := if (op = 2 ∨ op = 7) ∧ (s.trk x).resv = true then s.unreserve (x / 16384) else s
  s.streamReq x op w = (u.putTrk x n false, 0)

/-- A serving descriptor `op` runs on its stream's entry: with an entry of its field, partition and class it does the
work `f` and reports; a free or foreign stream ends it with stream-state. -/
def runsOnStream (c : Nat → Instr) (op : Nat) (bad : State → Task → State) (f : Nat → State → Task → Trk → State) : Prop :=
  runsUnit c op (fun t u k => match u.srvMismatch k with
    | some r => (bad u k).modTask t (fun k => k.fail 0x50 (twOpcode k.w + 256 * r))
    | none => f t u k (u.trk (twStream k.w)))

end Sys2Proof.Claims

/-- R232–R235, R249, R250, R364.
The model's own choices in it, not the manual's: log entries 77, 95, 113. -/
def Obligations.StreamRequests : Prop :=
  (∀ p ∈ Claims.streamOps, ∀ (x : BitVec 16) (s : State), s.flag .srvStreamStat 0 1 = false →
    let u := s.setBit .srvStreamStat 0 0 false
    let v := u.setBit .srvStreamStat 0 1 true
    let q : Fwd := .stream x.toNat p.1 [v.reg .srvStreamStage 0 0, v.reg .srvStreamStage 0 1]
    (v.sv.fwd = none → exec (p.2 x) s = .next (Claims.crosses v q [])) ∧
    (v.sv.fwd.isSome = true → exec (p.2 x) s = .next { v with sv := { v.sv with fwdC := v.sv.fwdC ++ [q] } })) ∧
  (∀ (f : Fd) (s : State) (x op : Nat) (w : List Word), let q : Fwd := .stream x op w
    let a := Claims.came s (.forwardedRequest ⟨f, q⟩); Claims.mayCome s (.forwardedRequest ⟨f, q⟩) →
    exec (.forwardedRequest ⟨f, q⟩) s = .next ((a.streamReq x op w).1.send (48 + f.val) 48 (.forwardedResult ⟨true, (a.streamReq x op w).2⟩))) ∧
  (∀ (f : Fd) (s : State) (u : Nat), (∀ v : Word, let q : Fwd := .custCfg u v
      let a := Claims.came s (.forwardedRequest ⟨f, q⟩); Claims.mayCome s (.forwardedRequest ⟨f, q⟩) →
      exec (.forwardedRequest ⟨f, q⟩) s = .next ((Claims.configured a u v).send (48 + f.val) 48 (.forwardedResult ⟨true, 0⟩))) ∧
    (∀ m : BitVec 32, let q : Fwd := .credit u m
      let a := Claims.came s (.forwardedRequest ⟨f, q⟩); Claims.mayCome s (.forwardedRequest ⟨f, q⟩) →
      exec (.forwardedRequest ⟨f, q⟩) s = .next ((Claims.credited a u m.toInt).send (48 + f.val) 48 (.forwardedResult ⟨true, 0⟩)))) ∧
  (∀ (s : State) (r : BitVec 3), let a := Claims.came s (.forwardedResult ⟨true, r⟩); Claims.mayCome s (.forwardedResult ⟨true, r⟩) →
    (a.sv.fwd = none → exec (.forwardedResult ⟨true, r⟩) s = .next a) ∧
    (∀ q, a.sv.fwd = some q →
      let b : State := { a with sv := { a.sv with fwd := none } }
      let c := match q with
        | .stream _ _ _ => b.setFld .srvStreamStat 0 4 0 (1 + 4 * r.toNat)
        | _ => b
      (c.sv.fwdC = [] → exec (.forwardedResult ⟨true, r⟩) s = .next c) ∧
      (∀ n l, c.sv.fwdC = n :: l → Claims.isLocal n = false → exec (.forwardedResult ⟨true, r⟩) s = .next (Claims.crosses c n l)) ∧
      (∀ n, c.sv.fwdC = [n] → Claims.isLocal n = true →
        exec (.forwardedResult ⟨true, r⟩) s = .next ({ (c.atBudget n) with sv := { (c.atBudget n).sv with fwdC := [] } })))) ∧
  (∀ (s : State) (x : Nat) (w : List Word), let e := s.trk x
    let w0 := wordAt w 0
    let n : Trk := ⟨BitVec.ofNat 64 (1 + wb w0 5 4 * 2 ^ 4 + wb w0 47 8 * 2 ^ 8), BitVec.ofNat 64 (wb (wordAt w 1) 41 21 * 2 ^ 21), 0, 0⟩
    (e.state = 0 → s.admissionBad (x / 16384) n = false → 0 < n.maxLen →
      (n.cstate = cFree ∨ n.cstate < s.progN (x / 16384) n.cprog) → s.streamReq x 1 w = (s.putTrk x n false, 0)) ∧
    (e.state = 0 → ∀ op, 2 ≤ op → op ≤ 10 → s.streamReq x op w = (s, 1)) ∧
    (e.state = 0 → s.admissionBad (x / 16384) n = true → s.streamReq x 1 w = (s, 5)) ∧
    (e.state = 0 → s.admissionBad (x / 16384) n = false →
      (n.maxLen = 0 ∨ n.cstate ≠ cFree ∧ s.progN (x / 16384) n.cprog ≤ n.cstate) → s.streamReq x 1 w = (s, 6)) ∧
    (e.state ≠ 0 → s.streamReq x 1 w = (s, 7)) ∧
    (e.state = 1 ∨ ended e.state = true → Claims.applies s x 2 w ((e.setState 0).setResv false)) ∧
    (1 ≤ e.state → e.state ≤ 5 → Claims.applies s x 3 w ((e.setState 7).setReason 8)) ∧
    (e.state = 3 → Claims.applies s x 4 w (e.setState 5) ∧ Claims.applies s x 8 w ((e.setState 6).setReason 6)) ∧
    (e.state = 2 ∨ e.state = 4 → Claims.applies s x 4 w (e.setPend true) ∧ Claims.applies s x 5 w (e.setPend false)) ∧
    (e.state = 5 → Claims.applies s x 5 w (e.setState 3) ∧ Claims.applies s x 6 w ((e.setState 8).setReason 9)) ∧
    (e.state = 2 → Claims.applies s x 7 w
      (((e.setState (if e.pend then 5 else if e.tokPos = 0 then 1 else 3)).setPend false).setResv false)) ∧
    (e.state = 4 → Claims.applies s x 7 w (((e.setState (if e.pend then 5 else 3)).setPend false).setResv false)) ∧
    (e.state = 1 ∨ e.state = 3 ∨ e.state = 5 →
      Claims.applies s x 9 w { e with w0 := wput e.w0 47 24 (wb (wordAt w 0) 47 24) }) ∧
    (1 ≤ e.state → e.state ≤ 5 → Claims.applies s x 10 w ((e.setState 9).setReason 7)) ∧
    (e.state = 5 → Claims.applies s x 4 w e) ∧ (e.state = 3 → Claims.applies s x 5 w e) ∧
    (e.state = 6 → s.streamReq x 3 w = (s, 3)) ∧ (7 ≤ e.state → e.state ≤ 9 → s.streamReq x 3 w = (s, 4)) ∧
    (∀ p ∈ Claims.allowedIn, e.state ≠ 0 → e.state ≤ 9 → e.state ∉ p.2 → s.streamReq x p.1 w = (s, 2)))

/-- R245–R249, R253, R301, R364.
The model's own choices in it, not the manual's: log entries 78, 102, 113. -/
def Obligations.Budgets : Prop :=
  ∀ (u : BitVec 12) (f : Fd) (s : State),
    (∀ n : Nat, let a := Claims.came s (.debit u n)
      let c := a.cust u.toNat
      let b := max (c.bal - n) (-(2 ^ 39 : Int))
      Claims.mayCome s (.debit u n) →
      (b ≤ 0 → exec (.debit u n) s = .next ((List.range 4).foldl
        (fun (s : State) g => s.send (48 + u.toNat % 4) (48 + g) (.throttle (Fin.ofNat 4 g) (BitVec.ofNat 12 u.toNat)))
        (a.setCust u.toNat { c with bal := b, throttled := true }))) ∧
      (0 < b → exec (.debit u n) s = .next (a.setCust u.toNat { c with bal := b }))) ∧
    (Claims.mayCome s (.throttle f u) →
      exec (.throttle f u) s = .next ((Claims.came s (.throttle f u)).setThrottle f.val u.toNat true)) ∧
    (Claims.mayCome s (.unthrottle f u) →
      exec (.unthrottle f u) s = .next ((Claims.came s (.unthrottle f u)).setThrottle f.val u.toNat false)) ∧
    (∀ (m : BitVec 32) (v : Word),
      (s.sv.fwd.isSome = true →
        exec (.credit u m) s = .next { s with sv := { s.sv with fwdC := s.sv.fwdC ++ [.credit u.toNat m] } } ∧
        exec (.customerConfigWrite u v) s = .next { s with sv := { s.sv with fwdC := s.sv.fwdC ++ [.custCfg u.toNat v] } }) ∧
      (s.sv.fwd = none → u.toNat % 4 ≠ 0 →
        exec (.credit u m) s = .next (Claims.crosses s (.credit u.toNat m) []) ∧
        exec (.customerConfigWrite u v) s = .next (Claims.crosses s (.custCfg u.toNat v) [])) ∧
      (s.sv.fwd = none → u.toNat % 4 = 0 → let y := Claims.credited s u.toNat m.toInt
        let z := Claims.configured s u.toNat v
        exec (.credit u m) s = .next { y with sv := { y.sv with fwdC := [] } } ∧
        exec (.customerConfigWrite u v) s = .next { z with sv := { z.sv with fwdC := [] } })) ∧
    (∀ (p : Fin 16) (v : BitVec 3),
      (v ≠ 7 → (s.pstate 0 p.val ≠ 6 ∨ v = 0 ∨ v = 1) → (s.standby p.val = false ∨ v = 1) →
        exec (.partitionStateWrite p v) s =
          .next ((Claims.copied s .partState p.val (v.setWidth 64)).mirrorOut p.val 0 (.partState (Fin.ofNat 16 p.val) v))) ∧
      (v = 7 ∨ (s.pstate 0 p.val = 6 ∧ v ≠ 0 ∧ v ≠ 1) ∨ (s.standby p.val = true ∧ v ≠ 1) → exec (.partitionStateWrite p v) s = .next (s.setBit .srvPartCtl 0 3 true))) ∧
    (∀ v : Word, (s.outTail f.val = s.outHead f.val → s.outResv f.val = 0 →
        exec (.outputRingConfig f v) s = .next (s.setReg .srvOutCfg f.val 0 (BitVec.ofNat 64 (wb v 60 0)))) ∧
      (s.outTail f.val ≠ s.outHead f.val ∨ s.outResv f.val ≠ 0 → exec (.outputRingConfig f v) s = .next (s.setBit .srvOutStat f.val 34 true))) ∧
    (let a := Claims.came s (.outputRecordAck f)
     Claims.mayCome s (.outputRecordAck f) → a.outsOf f.val ≠ 0 →
     let b : State := { a with sv := { a.sv with outs := mapSet (fun _ => 0) a.sv.outs f.val (a.outsOf f.val - 1) } }
     exec (.outputRecordAck f) s = .next ((b.setFld .srvOutStat f.val 16 0 ((b.outTail f.val + 1) % 131072)).unreserve f.val))

/-- R234, R236–R239, R244, R248.
The model's own choices in it, not the manual's: log entries 55, 77. -/
def Obligations.ServingSteps : Prop :=
  Claims.runsOnStream .sbegin 0x60 (fun u k => u.bump .srvPerfRefused k.field 1) (fun t u k e => u.beginStep t k e) ∧
  Claims.runsOnStream .semit 0x61 (fun u _ => u) (fun t u k e => u.emission t k e false) ∧
  Claims.runsOnStream .sverify 0x62 (fun u _ => u) (fun t u k e => u.emission t k e true) ∧
  Claims.runsOnStream .smask 0x63 (fun u _ => u) (fun t u k e => u.smaskRun t k e) ∧
  (∀ (t : Nat) (k : Task) (e : Trk) (s : State), let prefill := wbit (twArea k.w 0) 0
    (∀ r, s.beginRefused k.field prefill e = some r → s.beginStep t k e =
      (s.bump .srvPerfRefused k.field 1).modTask t (fun k => k.fail 0x50 (twOpcode k.w + 256 * r))) ∧
    (s.beginRefused k.field prefill e = none → s.beginStep t k e = ((s.setFld .srvOutStat k.field 33 17 (s.outResv k.field + 1)).putTrk
      (twStream k.w) ((e.setState (if prefill then 2 else 4)).setResv true) false).bump .srvPerfSteps k.field 1)) ∧
  (∀ (r : Emission) (s : State), let a := Claims.came s (.report r)
    let x := r.stream.toNat
    let f := x / 16384
    let e := a.trk x
    Claims.mayCome s (.report r) →
    (e.state ≠ 2 → e.state ≠ 4 → e.resv = false → exec (.report r) s = .next (a.bump .srvPerfDiscard f 1)) ∧
    (e.state ≠ 2 → e.state ≠ 4 → e.state ≠ 0 → e.resv = true →
      let n := e.setResv false
      exec (.report r) s = .next (((a.bump .srvPerfDiscard f 1).putTrk x n true).record x n 3 r.cookie.toNat 0 [])) ∧
    ((e.state = 2 ∨ e.state = 4) → r.ending = 1 →
      let n := ((e.setState 9).setReason 5).setResv false
      exec (.report r) s = .next ((a.putTrk x n true).record x n 4 r.cookie.toNat 0 [])) ∧
    ((e.state = 2 ∨ e.state = 4) → r.ending ≠ 1 →
      let n := reportEntry e r
      let d := r.toks.length + (if r.prefillStep then ((r.qpos - e.tokPos) * (a.cust e.cust).promptW + 15) / 16 else 0)
      let kind := if r.ending.toNat = 2 ∨ r.ending.toNat = 5 then 2 else if r.ending.toNat = 3 ∨ r.ending.toNat = 4 then 1 else 0
      let b := a.bump .srvPerfTokens f r.toks.length
      let c := if r.verify = true then (b.bump .srvPerfDrafted f r.k).bump .srvPerfAccepted f (r.toks.length - 1) else b
      exec (.report r) s = .next ((((c.putTrk x n true).send (48 + f) (48 + f)
        (.advance r.stream (BitVec.ofNat 21 n.tokPos))).send (48 + f) (48 + e.cust % 4)
        (.debit (BitVec.ofNat 12 e.cust) d)).record x n kind r.cookie.toNat d r.toks)))

/-- R209, R218, R221, R225, R227–R229.
The model's own choices in it, not the manual's: log entries 29, 55, 64, 75, 76, 107, 112. -/
def Obligations.AttentionSteps : Prop :=
  Claims.runsUnit .astep 0x50 (fun t u k => u.attPaged t k) ∧ Claims.runsUnit .alatent 0x51 (fun t u k => u.attPaged t k) ∧
  Claims.runsUnit .adense 0x52 (fun t u k => u.attDense t k) ∧
  (∀ (t : Nat) (k : Task) (s u : State) (r : List Word), s.kvOpen t k (wb (twArea k.w 0) 15 0) = (u, some r) →
    u.attUnfit k (rePart r) = false → k.entryAt 12 = [] →
    (if atMaxpages k.w = 0 then reCap r else atMaxpages k.w) < cdiv k.pos 64 → s.attPaged t k = u.kvFail t 0x51) ∧
  (∀ (t : Nat) (k : Task) (s u : State) (r : List Word), s.task t = some k → k.phase = .running → k.issued = false →
    twOpcode k.w = 0x54 → let a := Claims.fresh s
    (a.modTask t (fun k => { k with issued := true })).kvOpen t k (kvStream k.w) = (u, some r) →
    Claims.tries (exec (.lsum t) s) s (if k.reader then Claims.reported (u.lsumRun t k r) t
      else if reReaders r = 65535 then a
      else Claims.reported (((u.recPut k.field (kvStream k.w) (reSet r 3 47 32 (reReaders r + 1))).modTask t
        (fun k => { k with reader := true })).lsumRun t k r) t)) ∧
  (∀ (t : Nat) (k : Task) (s : State), s.task t = some k → k.phase = .running → twOpcode k.w = 0x55 →
    (k.issued = true → Claims.tries (exec (.aring t) s) s ((Claims.fresh s).ringGo t 16)) ∧
    (k.issued = false → let a := (Claims.fresh s).modTask t (fun k => { k with issued := true })
      (a.ringLinksBad k.w = none → Claims.tries (exec (.aring t) s) s ((a.streams k).ringGo t 16)) ∧
      (∀ st d, a.ringLinksBad k.w = some (st, d) →
        Claims.tries (exec (.aring t) s) s (Claims.reported (a.modTask t (fun k => k.fail st d)) t)))) ∧
  (∀ (t : Nat) (half : Bool) (s : State),
    (let v := s.modTask t (fun k => { k with credits := k.credits ||| BitVec.ofNat 2 (2 ^ b2n half) })
     Claims.tries (exec (.ringCredit t half) s) v ((Claims.fresh v).ringGo t 16)) ∧
    (let v := s.modTask t (fun k => { k with readys := k.readys + 1 })
     Claims.tries (exec (.ringReady t) s) v ((Claims.fresh v).ringGo t 16))) ∧
  (∀ (t n : Nat) (k : Task) (s : State), s.task t = some k → k.phase = .running → k.issued = true → twOpcode k.w = 0x55 →
    k.dead = none → k.poison = false →
    (ringN k.w ≤ k.round → s.ringGo t (n + 1) = Claims.reported (s.ringEnd t k) t) ∧
    (k.round < ringN k.w → ringMay k = false → s.ringGo t (n + 1) = s) ∧
    (k.round < ringN k.w → ringMay k = true → s.ringGo t (n + 1) = (s.ringRound t k).ringGo t n))

/-- R275, R277, R280, R282–R285, R290.
The model's own choices in it, not the manual's: log entries 17, 50, 51. -/
def Obligations.EventSlots : Prop :=
  (∀ (r : PReport) (s : State), let a := Claims.came s (.poisonReport r)
    Claims.mayCome s (.poisonReport r) →
    (r ∈ a.ix.rels → exec (.poisonReport r) s = .next
      ((({ a with ix := { a.ix with rels := a.ix.rels.erase r } } : State).logReport r 0).releaseReport r)) ∧
    (r ∉ a.ix.rels → r.outcome = 2 → exec (.poisonReport r) s = .next ((a.logReport r 0).releaseReport r)) ∧
    (r ∉ a.ix.rels → r.outcome ≠ 2 → r.auditPath = false → a.slotOf r.addr = none → ∀ k, a.freeSlot = some k →
      exec (.poisonReport r) s = .next ((a.assignSlot k r.addr r.island (heldOf r)).logReport r k)) ∧
    (r ∉ a.ix.rels → r.outcome ≠ 2 → r.auditPath = true → exec (.poisonReport r) s = .next (a.logReport r 0))) ∧
  (∀ (k : BitVec 6) (data : List Byte) (s : State), let v := s.slot k.toNat
    (v.st = 1 → v.src < 2 → exec (.repairSourceAnswer k true data) s = .next (s.restore k.toNat data) ∧
      exec (.repairSourceAnswer k false data) s = .next (s.trySource k.toNat) ∧
      exec (.repairSourceTimeout k) s = .next (s.trySource k.toNat)) ∧
    (v.st = 2 → exec (.reload k) s = .next (s.restore k.toNat (bytesOf ((List.range 8).map (fun i => s.reg .icxReloadData 0 i))))) ∧
    (∀ (u : State) (ok : Bool), v.st = 4 → (unitsOf v.addr 64).foldl (fun (p : State × Bool) a =>
        ((p.1.loadUnit false a).1, p.2 && (p.1.loadUnit false a).2.outc == .clean)) (s, true) = (u, ok) →
      exec (.repairVerify k) s = .next (if ok then (u.repairDone k.toNat v.src).serveStalled else u.hardFaultSlot k.toNat)) ∧
    (v.st ≠ 0 → v.st ≠ 3 →
      exec (.repairBoundExpiry k) s = .next (s.degrade k.toNat 0) ∧ exec (.holdAbandon k) s = .next (s.degrade k.toNat 1)) ∧
    (v.st = 3 → exec (.holdAbandon k) s = .next s) ∧
    (v.st ≠ 0 → exec (.holdRelease k) s = .next (((s.releaseHeld k.toNat v.held).emptySlot k.toNat).serveStalled)) ∧
    (v.st = 5 →
      let x := remapTable v.addr
      let sp := if (s.sparesUsed v.addr).contains 0 then 1 else 0
      let w := 1 + (if x.1 = .stkRemap then sp * 2 else 0) + remapUnitOf v.addr * 4
      let u := ((remapUnits v.addr).foldl (fun s a => s.copyUnit v a) s).setReg x.1 x.2.1 (x.2.2.1 + v.word) (BitVec.ofNat 64 w)
      let e : LogRec := { kind := 0x08, island := v.island, slot := k.toNat, addr := v.addr, detail := w }
      let a := (u.setBit .icxStat 0 5 true).logE e
      (v.src < 4 → exec (.remapCopyDone k) s = .next (a.repairDone k.toNat v.src).serveStalled) ∧
      (4 ≤ v.src → exec (.remapCopyDone k) s = .next ((a.releaseHeld k.toNat v.held).emptySlot k.toNat).serveStalled)))

/-- R278, R279, R286, R287, R289.
The model's own choices in it, not the manual's: log entries 8, 53, 103. -/
def Obligations.ScrubAndTrace : Prop :=
  ∀ s : State,
    (∀ d : Fin 32, let n := mapGet (fun _ => 0) s.ix.hpos d.val
      let a := heathPairAddr d.val n
      let t : State := { s with ix := { s.ix with hpos := mapSet (fun _ => 0) s.ix.hpos d.val ((n + 1) % 62914560) } }
      (s.fld .icxScrubHth 0 31 0 = 0 → exec (.heathScrubTick d) s = .next s) ∧
      (s.fld .icxScrubHth 0 31 0 ≠ 0 → s.ready (68 + d.val / 8) = true → t.inRepair a = true → exec (.heathScrubTick d) s = .next t) ∧
      (∀ u x, s.fld .icxScrubHth 0 31 0 ≠ 0 → s.ready (68 + d.val / 8) = true → t.inRepair a = false →
        t.loadUnit false a = (u, x) → (x.outc = .clean ∨ x.outc = .poison) → exec (.heathScrubTick d) s = .next u)) ∧
    (∀ c : Cl, let n := mapGet (fun _ => 0) s.ix.mpos c.val
      let a := meadowBase + c.val * 2 ^ 24 + 32 * n
      let t : State := { s with ix := { s.ix with mpos := mapSet (fun _ => 0) s.ix.mpos c.val ((n + 1) % 524288) } }
      (s.fld .icxScrubMdw 0 31 0 = 0 → exec (.meadowScrubTick c) s = .next s) ∧
      (∀ u x, s.fld .icxScrubMdw 0 31 0 ≠ 0 → s.ready c.val = true → t.inRepair a = false →
        t.loadUnit false a = (u, x) → (x.outc = .clean ∨ x.outc = .poison) → exec (.meadowScrubTick c) s = .next u)) ∧
    (∀ v : Word, let w := v ||| BitVec.ofNat 64 (2 ^ 19)
      let u := s.setReg .icxInjCtl 0 0 (BitVec.ofNat 64 (wb w 10 0 + (if wb w 18 11 = 0 then 1 else wb w 18 11) * 2 ^ 11 +
        b2n (s.flag .icxInjCtl 0 19) * 2 ^ 19))
      wbit w 19 = true →
      (u.flag .icxCfg 0 27 = true → injAccepts (u.fld .icxInjSel 0 3 0) (wb w 2 0) (wbit w 3) = true →
        exec (.injectionArm v) s = .next ((u.setBit .icxInjCtl 0 19 true).setBit .icxInjStat 0 0 true)) ∧
      (injAccepts (u.fld .icxInjSel 0 3 0) (wb w 2 0) (wbit w 3) = false →
        exec (.injectionArm v) s = .next (u.setBit .icxInjStat 0 2 true))) ∧
    (∀ v : Word, let e := s.fld .icxRmapSel 0 5 0
      (wbit (s.rmapWord e) 39 = false → wbit (v &&& BitVec.ofNat 64 (2 ^ 40 - 1)) 39 = false →
        let m := mapSet (fun _ => 0#64) s.ix.rmap e (v &&& BitVec.ofNat 64 (2 ^ 40 - 1))
        exec (.repairMapWrite v) s = .next { s with ix := { s.ix with rmap := m } }) ∧
      (wbit (s.rmapWord e) 39 = true → s.rangeActive (wb (s.rmapWord e) 15 0) = true →
        exec (.repairMapWrite v) s = .next (s.setBit .icxStat 0 9 true))) ∧
    (∀ v : Word, let u := s.setFld .icxLogCfg 0 13 1 (wb v 13 1)
      (u.logCount ≠ 0 → exec (.logFullWrite v) s = .next u.logLevel) ∧
      (u.logCount = 0 → wbit v 0 = false → exec (.logFullWrite v) s = .next (u.setBit .icxLogCfg 0 0 false).logLevel) ∧
      (u.logCount = 0 → wbit v 0 = true → exec (.logFullWrite v) s = .next (u.setBit .icxLogCfg 0 0 true).stopTrace.dropTrace.logLevel)) ∧
    (let b := s.setBit .tlmTraceCtl 0 0 true
     (s.option 8 = false → exec .traceStart s = .next (b.traceRefuse 1)) ∧
      (s.option 8 = true → s.flag .icxLogCfg 0 0 = true → exec .traceStart s = .next (b.traceRefuse 2)) ∧
      (s.option 8 = true → s.flag .icxLogCfg 0 0 = false → s.flag .tlmTraceStat 0 0 = true → exec .traceStart s = .next (b.traceRefuse 3)) ∧
      (s.option 8 = true → s.flag .icxLogCfg 0 0 = false → s.flag .tlmTraceStat 0 0 = false →
        exec .traceStart s = .next (({ b with ix := { b.ix with trSeq := 0, trq := [] } } : State).setReg .tlmTraceStat 0 0
          (BitVec.ofNat 64 (1 + b2n (s.flag .tlmTraceStat 0 1) * 2))))) ∧
    exec .traceStop s = .next (s.setBit .tlmTraceCtl 0 1 true).stopTrace ∧
    (∀ v : Word, (s.flag .tlmTraceStat 0 0 = false → exec (.traceConfigWrite v) s =
        .next (s.setReg .tlmTraceCfg 0 0 (v &&& BitVec.ofNat 64 (2 ^ 51 - 2 ^ 16 + 2 ^ 14 - 2)))) ∧
      (s.flag .tlmTraceStat 0 0 = true → exec (.traceConfigWrite v) s = .next (s.traceRefuse 3))) ∧
    (∀ e : TraceEv, let a := Claims.came s (.traceEvent e)
      Claims.mayCome s (.traceEvent e) →
      (a.flag .tlmTraceStat 0 0 = false → exec (.traceEvent e) s = .next a) ∧
      (a.flag .tlmTraceStat 0 0 = true → a.ix.trq = [] → a.ix.trBusy = false → exec (.traceEvent e) s = .next (a.writeTrace e)) ∧
      (a.flag .tlmTraceStat 0 0 = true → (a.ix.trq ≠ [] ∨ a.ix.trBusy = true) → a.ix.trq.length < 16 →
        exec (.traceEvent e) s = .next { a with ix := { a.ix with trq := a.ix.trq ++ [e] } }) ∧
      (a.flag .tlmTraceStat 0 0 = true → 16 ≤ a.ix.trq.length → exec (.traceEvent e) s = .next (a.bump .tlmTraceDrop 0 1)))

/-- R292–R294, R309.
The model's own choices in it, not the manual's: log entries 31, 80, 103. -/
def Obligations.LinkTraining : Prop :=
  ∀ (l : Lk) (s : State), let v := s.link l.val
    (s.flag .lnkCtl l.val 0 = true → s.linkState l.val = 0 → v.spent = false → exec (.idleExit l) s = .next (s.train l.val)) ∧
    (let t := s.setBit .lnkCtl l.val 4 true
     (t.flag .lnkCtl l.val 0 = true → exec (.retrain l) s = .next ((t.train l.val).setFld .lnkStat l.val 20 18 0)) ∧
     (t.flag .lnkCtl l.val 0 = false → exec (.retrain l) s = .next t)) ∧
    (s.linkState l.val = 1 →
      let t := s.setLink l.val { v with step := v.step + 1 }
      (v.step = 0 → exec (.trainingStepDone l) s = .next (t.setFld .lnkStat l.val 10 3 (laneMask l.val))) ∧
      (v.step = 1 → exec (.trainingStepDone l) s = .next t) ∧
      (v.step = 2 → exec (.trainingStepDone l) s = .next ((t.setLinkState l.val 2).sendFlit l.val))) ∧
    (s.linkState l.val = 1 ∨ s.linkState l.val = 2 → exec (.trainingTimeout l) s = .next (s.linkFail l.val)) ∧
    (s.linkState l.val = 4 → s.flag .lnkCtl l.val 0 = true → s.fld .lnkStat l.val 20 18 < s.fld .lnkCtl l.val 3 1 →
      exec (.retrainTimer l) s = .next ((s.train l.val).setFld .lnkStat l.val 20 18 (s.fld .lnkStat l.val 20 18 + 1))) ∧
    (s.linkState l.val = 4 → s.fld .lnkCtl l.val 3 1 ≤ s.fld .lnkStat l.val 20 18 →
      exec (.retrainTimer l) s = .next ((s.setLinkState l.val 0).setLink l.val { s.link l.val with spent := true })) ∧
    (∀ q : BitVec 10, s.receives l.val = true →
      (v.discard = false → exec (.uncorrectableFlit l q) s =
        .next (((s.setLink l.val { v with discard := true }).bump .lnkPerfReplay l.val 1).trace 0x0A (linkIod l.val) none 0 0 0 0 l.val)) ∧
      (v.discard = true → q = v.rx → exec (.uncorrectableFlit l q) s = .next (s.linkFail l.val)) ∧
      ((v.tx - q).toNat ≤ 512 → v.replay ≠ some q → exec (.nak l q) s = .next (s.setLink l.val { v with replay := some q, ackd := q })) ∧
      ((v.tx - q).toNat ≤ 512 → v.replay = some q → exec (.nak l q) s = .next (s.linkFail l.val))) ∧
    (s.receives l.val = true → exec (.linkRxTimeout l) s = .next (s.linkFail l.val)) ∧
    (let t := s.setBit .lnkCtl l.val 0 true
     exec (.linkEnableWrite l true) s = .next (t.setLink l.val { t.link l.val with idle := false })) ∧
    (let t := s.setBit .lnkCtl l.val 0 false
     t.linkState l.val ≠ 3 → exec (.linkEnableWrite l false) s = .next
       (((t.setLinkState l.val 0).setLink l.val { link0 with digest := ((t.setLinkState l.val 0).link l.val).digest }).setFld .lnkStat l.val 10 3 0)) ∧
    (∀ w : Word, exec (.linkInjectionArm l w) s = .next (s.setReg .lnkInj l.val 0
      (BitVec.ofNat 64 (wb w 3 0 + (if 8 ≤ l.val then 16 * b2n (wbit w 4) else 0) +
        32 * b2n ((wbit w 5 && s.flag .icxCfg 0 27) || s.flag .lnkInj l.val 5)))))

/-- R192–R194, R264, R295, R298, R299.
The model's own choices in it, not the manual's: log entries 7, 25, 31, 111. -/
def Obligations.PeerTraffic : Prop :=
  (∀ (l : Lk) (dev : BitVec 4) (i : BitVec 3) (mir : Bool) (dg : Word) (s : State), s.linkState l.val = 2 →
    let a := s.flitIn l.val 1
    (a.identBad l.val dev.toNat mir dg = true →
      exec (.ident l dev i mir dg) s = .next ((a.setLinkState l.val 5).setBit .lnkEvt 0 2 true)) ∧
    (a.identBad l.val dev.toNat mir dg = false →
      let u := ((((a.setLink l.val { a.link l.val with step := 4, digest := dg, spent := false }).setFld .lnkStat l.val 14 11 dev.toNat).setFld
        .lnkStat l.val 17 15 i.toNat).setFld .lnkStat l.val 20 18 0).setLinkState l.val 3
      exec (.ident l dev i mir dg) s = .next (if decide (l.val < 8) && (a.upLinks dev.toNat).isEmpty then u.setBit .lnkEvt 0 0 true else u))) ∧
  (∀ (l : Lk) (r : RemoteReq) (s : State), s.linkState l.val = 3 → s.fld .lnkStat l.val 14 11 = r.dev.toNat → (l.val < 8 ∨ r.kind = 0) →
    let a := s.flitIn l.val (flitsOf r.data.length)
    let x := r.addr.toNat % 2 ^ 52
    (a.peerMay r = false → exec (.remoteRequest l r) s = .next { a with lk := { a.lk with resp := a.lk.resp ++ [⟨l.val, r.tag⟩] } }) ∧
    (a.peerMay r = true →
      let kind := if r.kind = 0 then .rd else if r.kind = 1 then .wr else .add r.etype
      Claims.presents (.remoteRequest l r) s a ⟨.peer r.dev, kind, x, r.len, r.data, [], r.poison, r.part.map (·.toNat)⟩) ∧
    (a.noAnswer x ≠ none → exec (.remoteRequest l r) s = .next { a with lk := { a.lk with resp := a.lk.resp ++ [⟨l.val, r.tag⟩] } })) ∧
  (∀ (l : Lk) (tag sat : Nat) (bad : Bool) (r : Remote) (s : State), (s.sentOn l.val).find? (fun r => decide (r.tag = tag)) = some r →
    let a := s.flitIn l.val (flitsOf r.len)
    let b := a.setLink l.val { a.link l.val with replay := none }
    let u := State.sendWaiting { b with lk := { b.lk with remote := b.lk.remote.erase r } }
    (∀ h, r.iss = .core h →
      (let v := (if r.isRead then u else u.writeAcked r.iss).bump .memNoAnswer 0 1
       exec (.remoteResponse l tag ⟨true, sat, bad⟩) s = .next { v with
        io := { v.io with fault := true, faultHart := h.val, faultAddr := r.addr } }) ∧
      (r.isRead = false → exec (.remoteResponse l tag ⟨false, sat, bad⟩) s = .next (u.writeAcked r.iss)) ∧
      (r.isRead = true → bad = false → exec (.remoteResponse l tag ⟨false, sat, bad⟩) s = .next { u with
        io := { u.io with fault := false, rdata := (List.range r.len).map (fun i => Config.peerByte r.dev (r.addr + i) u.free) }
        free := u.free + 1 }) ∧
      (r.isRead = true → bad = true → exec (.remoteResponse l tag ⟨false, sat, bad⟩) s = .next { u with
        io := { u.io with fault := true, faultHart := h.val, faultAddr := r.addr } })) ∧
    (∀ t, r.iss = .task t →
      exec (.remoteResponse l tag ⟨true, sat, bad⟩) s = .next ((u.noAnswerTask t (linkIod r.link)).writeAcked r.iss) ∧
      (let c := u.modTask t (fun k => { k with counts := { k.counts with sat := k.counts.sat + if r.isRead then 0 else sat } })
       let d := if (r.isRead && bad) = true then c.consume t else c
       exec (.remoteResponse l tag ⟨false, sat, bad⟩) s = .next ((d.shardAcked t r.tag).writeAcked r.iss)))) ∧
  (∀ (dev : BitVec 4) (off : Nat) (v : Word) (s : State),
    (∀ f i, locate off = some (.schGlintSignal, f, i) → bitOf (s.fld .memPeerSig 0 15 0) dev.toNat = true →
      exec (.peerControlWrite dev off v) s = .next (s.exportOp f (wb v 11 0) (wb v 27 12) (wb v 29 28))) ∧
    (∀ f i, locate off = some (.schGlintSignal, f, i) → bitOf (s.fld .memPeerSig 0 15 0) dev.toNat = false →
      exec (.peerControlWrite dev off v) s = .next (s.bump .memPeerDrop 0 1)) ∧
    (locate off = none → exec (.peerControlWrite dev off v) s = .next (s.bump .memPeerDrop 0 1)))

/-- R302–R309, R251.
The model's own choices in it, not the manual's: log entries 32, 33, 79, 103, 115. -/
def Obligations.MirrorPair : Prop :=
  ∀ s : State,
    (let c := s.setBit .lnkMirCtl 0 0 true
     let start := fun (u : State) => (({ u with lk := { u.lk with
        incr := [], copied := [], cus := none, out := [], wantConfirm := false } } : State).setPair 1)
     (s.flag .lnkMirCfg 0 0 = true → s.formed = false → s.pair ≠ 5 → exec .form s = .next (start c)) ∧
     (s.flag .lnkMirCfg 0 0 = true → s.pair = 5 →
       exec .form s = .next (start { c with lk := { c.lk with recSt := [] } })) ∧
     (s.pair ≠ 5 → (s.flag .lnkMirCfg 0 0 = false ∨ s.formed = true) → exec .form s = .next c)) ∧
    (let u := (s.setBit .lnkMirCtl 0 1 true).unmirror
     exec .breakPair s = .next (({ u with lk := { u.lk with incr := [], copied := [], cus := none, wantConfirm := false } } : State).setPair 0)) ∧
    (s.lk.wantConfirm = true → exec .confirm s = .next (s.setBit .lnkMirCtl 0 2 true).takeover) ∧
    (s.lk.wantConfirm = false → exec .confirm s = .next (s.setBit .lnkMirCtl 0 2 true)) ∧
    (∀ p : Fin 2,
      (s.linkState (8 + p.val) = 3 →
        let u := ((s.flitIn (8 + p.val) 1).setFld .lnkStat (8 + p.val) 22 21 0).setBit .lnkMirStat 0 (3 + p.val) true
        (u.pair ≠ 1 → exec (.heartbeat p) s = .next u) ∧
        (u.pair = 1 → u.linkState (u.fld .lnkMirCfg 0 7 5) = 3 → exec (.heartbeat p) s = .next ((u.setPair 2).markMirrored true).nextCopy)) ∧
      (let n := min 3 (s.fld .lnkStat (8 + p.val) 22 21 + 1)
       let u := s.setFld .lnkStat (8 + p.val) 22 21 n
       (n < 3 → exec (.heartbeatMiss p) s = .next u) ∧
       (n = 3 → u.portAlive p.val = true →
         let v := u.setBit .lnkMirStat 0 (3 + p.val) false
         (v.formed = true → v.portAlive (1 - p.val) = true → exec (.heartbeatMiss p) s = .next (v.setBit .lnkEvt 0 4 true).bothSilent) ∧
         (v.formed = true → v.portAlive (1 - p.val) = false → exec (.heartbeatMiss p) s = .next v.bothSilent)))) ∧
    (s.formed = true → s.portAlive 0 = false → s.portAlive 1 = false → s.gp3Pair = false → s.bothSilent = s.partnerLost) ∧
    (s.linkState 8 ≠ 3 → s.linkState 9 ≠ 3 → exec .heartbeatSend s = .next s) ∧
    (s.linkState 8 = 3 → s.flag .lnkInj 8 4 = false → s.linkState 9 ≠ 3 → (s.sendFlit 8).linkState 9 ≠ 3 →
      let u := s.sendFlit 8
      exec .heartbeatSend s = .next { u with lk := { u.lk with hbSent := u.lk.hbSent + 1 } }) ∧
    (s.gp3Pair = true → exec .gp3Toggle s = .next { s with pw := { s.pw with gp3 := !s.pw.gp3 } }) ∧
    (let u : State := { s with pw := { s.pw with hbIn := !s.pw.hbIn } }
     (s.gp3Pair = false → exec .hbInToggle s = .next u ∧ exec .hbInMiss s = .next s) ∧
     (s.gp3Pair = true → exec .hbInToggle s = .next (({ u with lk := { u.lk with hbMiss := 0 } } : State).setBit .lnkMirStat 0 5 true).bothSilent) ∧
     (s.gp3Pair = true → s.lk.hbMiss < 2 → exec .hbInMiss s = .next { s with lk := { s.lk with hbMiss := min 3 (s.lk.hbMiss + 1) } })) ∧
    (∀ (p : Fin 2) (m : MirrorMsg), s.pair = 3 → s.linkState (8 + p.val) = 3 → s.standby (s.msgPart m) = true →
      let u := s.flitIn (8 + p.val) 1
      exec (.mirrorMessage (Fin.castSucc p) m) s = .next (u.applyMsg m)) ∧
    (∀ (x : BitVec 16) (r : OutRec) (t : List OutRec), s.lk.out = [] → takeRec x.toNat s.sv.waitMir = some (r, t) →
      exec (.mirrorAck x) s = .next (({ s with sv := { s.sv with waitMir := t } } : State).writeOut (x.toNat / 16384) r.words)) ∧
    (∀ x, s.pair = 2 → s.linkState (s.fld .lnkMirCfg 0 7 5) = 3 → s.lk.cus = some x →
      let mine := s.lk.incr.filter (fun m => decide (msgStream m = some x))
      let u : State := { s with lk := { s.lk with
        copied := s.lk.copied ++ [x], incr := s.lk.incr.filter (fun m => decide (msgStream m ≠ some x)),
        out := s.lk.out.filter (fun m => decide (m.1 ≠ 2)) } }
      exec .catchUpStreamDone s = .next (mine.foldl (fun s m => s.applyMsg m) u).nextCopy)

/-- R312–R318.
The model's own choices in it, not the manual's: log entry 87. -/
def Obligations.InterruptCommands : Prop :=
  ∀ s : State,
    (∀ n : Fin 512, s.dom 74 = .on → let b := BitVec.ofNat 512 (2 ^ n.val)
      exec (.sourceLevelChange n) s = .next { s with cc := { s.cc with lv := (s.cc.lv &&& ~~~b) ||| (if s.levelOf n.val then b else 0) } }) ∧
    (∀ (t : Fin 32) (n : Nat), (s.target t.val).serv = none → s.pendingFor t.val = some n →
      exec (.claim t) s = .next ((s.setTarget t.val { s.target t.val with serv := some n }).answerCore (512 + n))) ∧
    (∀ t : Fin 32, (s.target t.val).serv ≠ none ∨ s.pendingFor t.val = none → exec (.claim t) s = .next (s.answerCore 0)) ∧
    (∀ (t : Fin 32) (n : BitVec 9),
      ((s.target t.val).serv = some n.toNat → exec (.complete t n) s = .next (s.setTarget t.val ⟨none, true⟩)) ∧
      ((s.target t.val).serv ≠ some n.toNat → exec (.complete t n) s = .next (s.bump .intCplBad 0 1))) ∧
    (∀ t : Fin 32, (s.target t.val).sample = true →
      let u := s.setTarget t.val { s.target t.val with sample := false }
      exec (.completionSample t) s = .next { u with cc := { u.cc with lv := u.levels } }) ∧
    (∀ (n : Fin 4) (v : Word),
      exec (.softwareSourceSet n v) s = .next (s.putSoft n.val (s.reg .intSwset 0 n.val ||| v)) ∧
      exec (.softwareSourceClear n v) s = .next (s.putSoft n.val (s.reg .intSwset 0 n.val &&& ~~~v))) ∧
    (∀ h : Hart, let b := BitVec.ofNat 16 (2 ^ h.val)
      exec (.machineTimerExpiry h) s = .next { s with cc := { s.cc with mtip := (s.cc.mtip &&& ~~~b) |||
        (if (s.reg .intMtimecmp 0 h.val).toNat ≤ (s.reg .intMtime).toNat then b else 0) } }) ∧
    (∀ (n : Fin 512) (r : Retain), s.cc.retain = some r → wbit (mapGet (fun _ => 0#64) r.regs (Reg.addr .intSrcCfg 0 n.val)) 6 = true →
      s.levelOf n.val = true → exec (.ccWake n) s = .next (s.switchOn 74)) ∧
    (∀ n : Fin 512, s.cc.retain = none → exec (.ccWake n) s = .next s)

/-- R319, R320.
The model's own choices in it, not the manual's: log entries 38, 39. -/
def Obligations.EthernetCommands : Prop :=
  ∀ (p : Fin 3) (s : State),
    (∀ v : BitVec 17,
      ((v.toNat + 2 ^ 17 - s.ringCons p.val false) % 2 ^ 17 ≤ 2 ^ s.ethLog p.val →
        exec (.receiveProd p v) s = .next ((s.setFld .pltEthRx p.val 16 0 v.toNat).setStopped p.val false false)) ∧
      ((v.toNat + 2 ^ 17 - s.ringCons p.val true) % 2 ^ 17 ≤ 2 ^ s.ethLog p.val →
        exec (.transmitProd p v) s = .next ((s.setFld .pltEthTx p.val 16 0 v.toNat).setStopped p.val true false)) ∧
      (2 ^ s.ethLog p.val < (v.toNat + 2 ^ 17 - s.ringCons p.val false) % 2 ^ 17 → exec (.receiveProd p v) s = .next s)) ∧
    (∀ (frame : List Byte) (bad : Bool) (u : State) (w : Word), s.nextEntry p false = (u, some w) →
      inCarve (wb w 47 0) (wb w 61 48) = true → u.noAnswer (wb w 47 0) = none →
      exec (.frameReceive p frame bad) s = .next ((u.writeBytes (byteWrites (wb w 47 0) (frame.take (wb w 61 48)) [])).returnEntry p false w
        (min (wb w 61 48) frame.length) (bad || !frameLen frame.length || decide (wb w 61 48 < frame.length)))) ∧
    (∀ (u v : State) (w : Word) (d : List Byte), s.nextEntry p true = (u, some w) → u.macRead p (wb w 47 0) (wb w 61 48) = (v, d, false) →
      frameLen (wb w 61 48) = true → exec (.frameTransmit p) s = .next
        (({ v with cc := { v.cc with sent := mapPut v.cc.sent p.val d } } : State).returnEntry p true w (wb w 61 48) false)) ∧
    (∀ (frame : List Byte) (bad : Bool) (u : State), (s.nextEntry p false = (u, none) → exec (.frameReceive p frame bad) s = .next u) ∧
      (s.nextEntry p true = (u, none) → exec (.frameTransmit p) s = .next u)) ∧
    exec (.ethStatRead p) s = .next ((s.answerCore (s.reg .pltEthStat p.val).toNat).setFld .pltEthStat p.val 31 1 0) ∧
    (s.pcsOn p.val = true → (∀ up, exec (.ethLinkChange p up) s = .next (s.setBit .pltEthStat p.val 0 up)) ∧
      exec (.ethFecUncorrectable p) s = .next
        (s.setFld .pltEthStat p.val 31 1 (min (2 ^ 31 - 1) (s.fld .pltEthStat p.val 31 1 + 1))))

/-- R318, R321, R324, R360.
The model's own choices in it, not the manual's: log entries 86, 92. -/
def Obligations.ManagementCommands : Prop :=
  ∀ s : State,
    (∀ m : MgmtFrame, s.forResponder m = true →
      (s.cc.mq.length < 4 → exec (.managementFrame m) s = .next { s with cc := { s.cc with mq := s.cc.mq ++ [m] } }) ∧
      (4 ≤ s.cc.mq.length → exec (.managementFrame m) s = .next (s.bump .pltMgmtDrop 0 1))) ∧
    (∀ (m : MgmtFrame) (t : List MgmtFrame), s.waiting = m :: t →
      let u : State := { s with cc := { s.cc with mq := t } }
      (m.op = 0x01 → exec .managementIdent s = .next (u.reply u.identReply .none)) ∧
      (∀ off, m.op = 0x02 → exec (.read off) s = .next (u.readReply off)) ∧
      (let refused := u.reply [] (u.signedCause m)
       let done (f : State → State) : State := (f (u.accept m)).reply [] .none
       (u.signedCause m = .none →
         (m.op = 0x10 → ∀ d, exec (.domain d true m) s = .next (done (fun s => s.switchOn d.val)) ∧
           exec (.domain d false m) s = .next (done (fun s => s.switchOff d.val))) ∧
         (m.op = 0x11 → exec (.resetCc m) s = .next (done State.resetCcNow)) ∧
         (m.op = 0x12 → exec (.resetModule m) s = .next (done State.resetModule)) ∧
         (m.op = 0x13 → exec (.powerOff m) s = .next (done State.allOff))) ∧
       (u.signedCause m ≠ .none →
         (m.op = 0x10 → ∀ d on, exec (.domain d on m) s = .next refused) ∧ (m.op = 0x11 → exec (.resetCc m) s = .next refused) ∧
         (m.op = 0x12 → exec (.resetModule m) s = .next refused) ∧ (m.op = 0x13 → exec (.powerOff m) s = .next refused)))) ∧
    exec .i3cIdent s = .next (s.reply s.identReply .none) ∧ (∀ off, exec (.i3cRead off) s = .next (s.readReply off)) ∧
    exec .i3cPowerOff s = .next (s.allOff.reply [] .none)

/-- R324, R343.
The model's own choices in it, not the manual's: log entries 81, 82. -/
def Obligations.DomainCommands : Prop :=
  ∀ (d : Fin 76) (s : State),
    (s.dom d.val = .off → s.pw.onq.contains d.val = false →
      (s.onOk d.val = true →
        (s.pw.onq = [] → let t := s.setDom d.val .switching
          exec (.domainOn d) s = .next { t with pw := { t.pw with onq := [d.val] } }) ∧
        (∀ h q, s.pw.onq = h :: q → s.dom h = .switching →
          exec (.domainOn d) s = .next { s with pw := { s.pw with onq := h :: (q ++ [d.val]) } })) ∧
      (s.onOk d.val = false → exec (.domainOn d) s = .next (s.orReg .pwrEvt 0 (2 ^ 9)))) ∧
    (s.dom d.val = .on ∨ s.dom d.val = .switching → exec (.domainOn d) s = .next s) ∧
    (s.dom d.val = .fused → exec (.domainOn d) s = .next (s.orReg .pwrEvt 0 (2 ^ 9)) ∧ exec (.domainOff d) s = .next s) ∧
    (s.dom d.val = .on → let t := if d.val = 74 then s.keepCc else s.flushFor d.val
      (s.offOk d.val = true → exec (.domainOff d) s = .next ((t.cutDomain d.val).orReg .pwrEvt 0 (2 ^ 8))) ∧
      (s.offOk d.val = false → exec (.domainOff d) s = .next (s.orReg .pwrEvt 0 (2 ^ 9)))) ∧
    (∀ q, s.pw.onq = d.val :: q → s.dom d.val = .switching → d.val ≠ 74 →
      let t := ((s.setDom d.val .on).orReg .pwrEvt 0 (2 ^ 8)).promote q
      (t.pw.onq ≠ [] → exec (.domainSwitchDone d) s = .next t) ∧
      (t.pw.onq = [] → exec (.domainSwitchDone d) s = .next (t.startTests t.se.stq))) ∧
    (∀ m : BitVec 8, s.dom d.val = .on → s.ready d.val = false →
      (48 ≤ d.val → d.val < 52 → exec (.initialisationDone d m) s = .next (s.setReady d.val true)) ∧
      (d.val < 48 → let t := s.loadRemaps .tenMremap d.val (4728 + 64 * d.val) 8
        (t.testHolds d.val = false → exec (.initialisationDone d m) s = .next (t.setReady d.val true)) ∧
        (t.testHolds d.val = true → exec (.initialisationDone d m) s = .next t)) ∧
      (52 ≤ d.val → d.val < 68 →
        let t := (s.loadRemaps .stkRemap (d.val - 52) (632 + 128 * (d.val - 52)) 16).loadFuses (d.val - 52)
        (t.testHolds d.val = false → exec (.initialisationDone d m) s = .next (t.setReady d.val true)) ∧
        (t.testHolds d.val = true → exec (.initialisationDone d m) s = .next t)) ∧
      (68 ≤ d.val → d.val < 72 →
        let t := (s.loadRemaps .hthRemap (d.val - 68) (2680 + 512 * (d.val - 68)) 64).setFld .hthStat (d.val - 68) 7 0 m.toNat
        (t.testHolds d.val = true ∨ t.fld .hthStat (d.val - 68) 7 0 ≠ 0xFF → exec (.initialisationDone d m) s = .next t) ∧
        (t.testHolds d.val = false → t.fld .hthStat (d.val - 68) 7 0 = 0xFF →
          exec (.initialisationDone d m) s = .next ((t.setReady d.val true).setBit .hthStat (d.val - 68) 8 true))) ∧
      (d.val = 72 ∨ d.val = 73 → exec (.initialisationDone d m) s = .next
        (((linksOf d.val).foldl (fun (s : State) l => s.linkEnable l (bitOf (s.rc 80 4) (10 + l))) s).setReady d.val true)) ∧
      (d.val = 74 → exec (.initialisationDone d m) s = .next ((s.setBit .secEvt 0 0 true).setReady d.val true)))

namespace Sys2Proof.Claims

/-- A step of the governor is offered to a trace capture with the levels that it leaves. -/
def stepped (s : State) : State := s.trace 0x0B 75 none 0 0 0 0 (s.fld .pwrGovStat 0 10 0)

end Sys2Proof.Claims

/-- R325–R329.
The model's own choices in it, not the manual's: log entries 4, 34, 36, 37, 84. -/
def Obligations.GovernorAndSensors : Prop :=
  ∀ s : State,
    (∀ (w : BitVec 12) (u v : State) (x : Int) (n : Word), s.injected 0 w.toNat 0 4095 = (u, x) → u.draw = (v, n) →
      exec (.governorSample w) s = .next (((((((v.setFld .pwrIn 0 27 16 x.toNat).setFld .pwrIn 0 15 0 (wb n 15 0)).residency x.toNat).creditStep
        x.toNat).govern x.toNat)).overTrip x.toNat)) ∧
    (∀ w, let u := s.setFld .pwrGovStat 0 22 11 s.ceiling
      (s.ceiling < w + u.switchWatts →
        let t : State := { u with pw := { u.pw with below := 0 } }
        let gated := fun (v : State) => Claims.stepped (v.orReg .pwrEvt 0 1)
        (t.govB ≠ 0 → s.govern w = gated (t.setFld .pwrGovStat 0 4 0 (t.govB - 1))) ∧
        (t.govB = 0 → t.govAudit = true → s.govern w = gated (t.setBit .pwrGovStat 0 5 false)) ∧
        (t.govB = 0 → t.govAudit = false → 1 < t.govQ →
          s.govern w = gated ((t.setFld .pwrGovStat 0 10 6 (t.govQ - 1)).orReg .pwrEvt 0 (2 ^ 5))) ∧
        (t.govB = 0 → t.govAudit = false → t.govQ ≤ 1 → s.govern w = t)) ∧
      (100 * (w + u.switchWatts) < 97 * s.ceiling → u.pw.below = 99 →
        let t : State := { u with pw := { u.pw with below := 0 } }
        (t.govQ < 16 → s.govern w = Claims.stepped (t.setFld .pwrGovStat 0 10 6 (t.govQ + 1))) ∧
        (16 ≤ t.govQ → t.pw.alerts ≠ 0 → s.govern w = t) ∧
        (16 ≤ t.govQ → t.pw.alerts = 0 → t.govAudit = false → s.govern w = Claims.stepped (t.setBit .pwrGovStat 0 5 true)) ∧
        (16 ≤ t.govQ → t.pw.alerts = 0 → t.govAudit = true → t.govB < 16 → s.govern w = Claims.stepped (t.setFld .pwrGovStat 0 4 0 (t.govB + 1))) ∧
        (16 ≤ t.govQ → t.pw.alerts = 0 → t.govAudit = true → 16 ≤ t.govB → s.govern w = t))) ∧
    (∀ island : Fin 76, exec (.gatingLevelArrival island) s = .next { s with pw := { s.pw with
      lvl := mapSet (fun _ => level0) s.pw.lvl island.val (BitVec.ofNat 11 (s.fld .pwrGovStat 0 10 0)) } }) ∧
    (let t := s.setBins (0 :: s.pw.bins.take 95)
     (t.pw.bins.foldl (· + ·) 0 < residencyMax → exec .residencyBinRollover s = .next (t.setBit .pwrRes 0 40 false)) ∧
     (residencyMax ≤ t.pw.bins.foldl (· + ·) 0 → exec .residencyBinRollover s = .next t)) ∧
    (∀ (n : Fin 112) (t : BitVec 12), exec (.sensorSample n t) s = .next (s.sense n.val t)) ∧
    (∀ (n : Fin 112) (t : BitVec 12) (u v : State) (x : Int), s.injected (n.val + 1) t.toInt (-2048) 2047 = (u, x) →
      v = State.fastRef (State.doubling { u with pw := { u.pw with temps := mapSet (fun _ => 0#12) u.pw.temps n.val (BitVec.ofInt 12 x) } }
        n.val x) n.val →
      let bit := BitVec.ofNat 112 (2 ^ n.val)
      let al := (thresholds n.val).1
      let tr := (thresholds n.val).2
      let w : State := { v with pw := { v.pw with alerts := (v.pw.alerts &&& ~~~bit) ||| bit } }
      let w := (((w.orReg .tlmEvt 0 (2 ^ alertBit n.val)).setFld .pwrGovStat 0 4 0 0).setBit .pwrGovStat 0 5 false).showGp3
      (4 * (al : Int) ≤ x → x < 4 * (tr : Int) → s.sense n.val t = w) ∧
      (4 * (tr : Int) ≤ x → 4 * (al : Int) ≤ x → s.sense n.val t = w.powerTrip.orReg .tlmEvt 0 (2 ^ 7)) ∧
      (x < 4 * ((al : Int) - 3) → x < 4 * (tr : Int) →
        s.sense n.val t = State.showGp3 { v with pw := { v.pw with alerts := (v.pw.alerts &&& ~~~bit) ||| 0 } }))

/-- R323, R331, R355, R358.
The model's own choices in it, not the manual's: log entries 4, 82, 85. -/
def Obligations.InputEvents : Prop :=
  ∀ s : State,
    (s.pw.input = true → s.dom 75 = .on → exec .powerApplied s = .next s) ∧
    (s.pw.input = false → exec .powerApplied s = .next (State.setFld { State.reset with
        se := { Sec.reset with flash := s.se.flash, owner := s.se.owner, floor := s.se.floor, vendor := s.se.vendor }
        free := s.free, pending := s.pending } .pltBootStat 0 38 32 s.se.floor)) ∧
    exec .undervoltageWarning s = .next (s.orReg .pwrEvt 0 (2 ^ 3)) ∧ exec .overvoltageEvent s = .next (s.orReg .pwrEvt 0 (2 ^ 4)) ∧
    exec .converterFault s = .next (s.orReg .pwrEvt 0 (2 ^ 7)) ∧
    (let t := ((s.abortTests).failClearing).cutAll (List.range 75)
     let t : State := { t with pw := { t.pw with input := false }, cc := { t.cc with retain := none } }
     exec .undervoltageShutdown s = .next t ∧ exec .senseOpen s = .next t) ∧
    (let t := s.powerOn
     let t : State := { t with pw := { Pwr.reset with dom := [], input := false } }
     exec .overvoltageShutdown s = .next t ∧ exec .inputLoss s = .next t) ∧
    (∀ v, exec (.powerInjectionArm v) s = .next (s.setReg .pwrInj 0 0 (BitVec.ofNat 64
      (wb v 23 0 + b2n (wbit v 24 && s.flag .icxCfg 0 27 && decide (wb v 7 0 ≤ 112)) * 2 ^ 24)))) ∧
    (∀ p : BitVec 4, (s.pw.sampled = true → exec (.slotIdSample p) s = .next s) ∧
      (s.pw.sampled = false → exec (.slotIdSample p) s = .next
        (State.setFld { s with pw := { s.pw with sampled := true, pins := p, i2c := 0x40#7 + p.setWidth 7 } } .lnkDev 0 3 0 p.toNat))) ∧
    (∀ a, exec (.dynamicAddressAssignment a) s = .next { s with pw := { s.pw with dyn := some a } })

/-- R336, R337, R339, R341.
The model's own choices in it, not the manual's: log entries 40, 41, 90. -/
def Obligations.BootChain : Prop :=
  ∀ s : State,
    (s.stage = 0 → s.dom 75 = .on → ∀ (t : State) (f : Bool), s.chooseSlot.flashFails = (t, f) →
      let slot := s.chooseSlot.slotNo
      (f = true → exec .bootRom s = .next (t.bootFail 7)) ∧
      (f = false → t.romCause slot ≠ 0 → exec .bootRom s = .next (t.bootFail (t.romCause slot))) ∧
      (f = false → t.romCause slot = 0 → exec .bootRom s = .next (
        let b := slotBase slot
        let u := t.extend 0 Config.romDigest
        let u := u.extend 0 u.se.vendor
        let u := u.extend 0 (digest (u.flashBytes b 3968))
        let u := u.extend 0 (((u.image slot 1).map Image.dig).getD [])
        let u := { u with se := { u.se with keys := true } }
        (u.setFld .pltBootStat 0 31 24 (u.flashNat (b + 4) 4)).setStage 1))) ∧
    (s.stage = 1 → ∀ (t : State) (f : Bool), s.flashFails = (t, f) →
      let r := t.recordBytes
      let u := t.setFld .pltBootStat 0 16 14 (t.checkRecord r)
      (f = true → exec .platformFirmwareStart s = .next (t.bootFail 7)) ∧
      (f = false → t.checkRecord r ≠ 0 → exec .platformFirmwareStart s = .next (u.bootFail 6)) ∧
      (f = false → t.checkRecord r = 0 → exec .platformFirmwareStart s = .next (
        let v := ((t.setFld .pltBootStat 0 16 14 0).applyRecord r).setStage 2
        let v := { v with se := { v.se with stq := v.startList } }
        v.promote (bootOrder.filter (fun d => decide (v.dom d = Dom.off)))))) ∧
    (s.stage = 2 → s.scan = 0 → s.ready 68 = true → s.ready 69 = true → ∀ (t : State) (f : Bool), s.flashFails = (t, f) →
      (f = true → exec .imagesLoaded s = .next (t.bootFail 7)) ∧
      (f = false → (t.image t.slotNo 3 = none ∨ t.image t.slotNo 4 = none ∨ t.imagesBad = true) → exec .imagesLoaded s = .next (t.bootFail 5)) ∧
      (f = false → t.imagesBad = false → exec .imagesLoaded s = .next (
        let u := (placeImages 0 t.loads).foldl (fun s p =>
          s.writeBytes (byteWrites (heathBase + carveLo + p.1) (s.imageBytes t.slotNo p.2) [])) t
        let u := u.extend 1 (digest (u.recordBytes.take 8064))
        let u := u.extend 1 (measValue [BitVec.ofNat 8 (b2n u.se.ownerNow), BitVec.ofNat 8 (b2n (u.option 6)), BitVec.ofNat 8 (b2n (u.option 7))])
        let u := t.loads.foldl (fun s m => s.extend 2 m.dig) u
        let u := u.testValues.foldl (fun s v => s.extend 3 v) u
        let u := (u.setDom 74 .on).orReg .pwrEvt 0 (2 ^ 8)
        let u := u.startCc.setReady 74 true
        let u := { u with se := { u.se with locked := true } }
        (u.setStage 3).setBit .secEvt 0 0 true))) ∧
    (s.stage ≠ 0 → exec .bootRom s = .next s) ∧ (s.stage ≠ 1 → exec .platformFirmwareStart s = .next s) ∧
    (s.stage ≠ 2 ∨ s.scan ≠ 0 ∨ s.ready 68 = false ∨ s.ready 69 = false → exec .imagesLoaded s = .next s)

/-- R332, R338, R339, R348–R350.
The model's own choices in it, not the manual's: log entries 43, 46, 89, 91. -/
def Obligations.FlashAndTrust : Prop :=
  ∀ s : State,
    (∀ a : BitVec 28, s.stage = 3 → s.scan = 0 → s.se.flashOp = none →
      (a.toNat % 0x10000 = 0 → s.flashFree a.toNat 0x10000 = true → exec (.flashErase a) s = .next
        (State.setFld { s with se := { s.se with flashOp := some (1, a.toNat, []) } } .secFlashStat 0 1 0 1)) ∧
      (a.toNat % 256 = 0 → s.flashFree a.toNat 256 = true → inCarve (s.fld .secFlashBuf 0 51 0) 256 = true →
        s.noAnswer (s.fld .secFlashBuf 0 51 0) = none → ∀ (u : State) (r : ReadRes), s.readRun (s.fld .secFlashBuf 0 51 0) 256 = (u, r) →
        exec (.flashProgram a) s = .next
          (State.setFld { u with se := { u.se with flashOp := some (2, a.toNat, r.data) } } .secFlashStat 0 1 0 1))) ∧
    (∀ a : BitVec 28, s.stage ≠ 3 ∨ s.scan ≠ 0 ∨ s.se.flashOp.isSome = true →
      exec (.flashErase a) s = .next (s.setBit .secFlashStat 0 2 true) ∧ exec (.flashProgram a) s = .next (s.setBit .secFlashStat 0 2 true)) ∧
    (∀ (op a : Nat) (d : List Byte), s.se.flashOp = some (op, a, d) →
      let stored (bytes : List Byte) (n : Nat) : State :=
        (State.setFld { s with se := { s.se with flash := flashPut s.se.flash a bytes, flashOp := none }, free := n } .secFlashStat 0 1 0 2).setBit
          .secEvt 0 5 true
      (op = 1 → exec (.flashOperationDone true) s = .next (stored (List.replicate 0x10000 0xFF#8) s.free)) ∧
      (op ≠ 1 → exec (.flashOperationDone true) s = .next (stored (fitBytes 256 d) s.free)) ∧
      exec (.flashOperationDone false) s = .next (((stored ((List.range (if op = 1 then 0x10000 else 256)).map
        (fun i => Config.streamByte s.free (a + i))) (s.free + 1)).setBit .secFlashStat 0 3 true).setBit .secEvt 0 6 true)) ∧
    (let v := s.fld .pltBootStat 0 31 24
     (s.se.floor < v → exec .svnBlow s = .next (((State.setFld { s with se := { s.se with floor := v } } .pltBootStat 0 38 32 v).setBit
        .secSvnCtl 0 0 true).setBit .secEvt 0 7 true)) ∧
     (v ≤ s.se.floor → exec .svnBlow s = .next s)) ∧
    (∀ i : BitVec 3, ((s.se.locked = false ∨ 4 ≤ i.toNat) → exec (.measurementExtend i) s = .next { s with se := { s.se with
        meas := mapSet (fun _ => meas0) s.se.meas i.toNat (digest (s.meas i.toNat ++ bytesOf ((List.range 8).map (fun n => s.reg .secMeasExt 0 n)))) } }) ∧
      (s.se.locked = true → i.toNat < 4 → exec (.measurementExtend i) s = .next (s.setBit .secQuoteStat 0 2 true))) ∧
    (∀ b : BitVec 46, s.se.quoteOp = none → s.scan = 0 → s.se.keys = true →
      (inCarve (64 * b.toNat) 194 = true → exec (.identityCertificate b) s = .next
        (State.setFld { s with se := { s.se with quoteOp := some (64 * b.toNat, s.identityCert) } } .secQuoteStat 0 1 0 1)) ∧
      (inCarve (64 * b.toNat) 250 = true → exec (.attestationCertificate b) s = .next
        (State.setFld { s with se := { s.se with quoteOp := some (64 * b.toNat, s.attestCert) } } .secQuoteStat 0 1 0 1)) ∧
      (inCarve (64 * b.toNat) 730 = true → let c := (s.fld .secQuoteStat 0 63 32 + 1) % 2 ^ 32
        let u := s.setFld .secQuoteStat 0 63 32 c
        exec (.quote b) s = .next (State.setFld { u with se := { u.se with quoteOp := some (64 * b.toNat, u.quoteBytes c) } } .secQuoteStat 0 1 0 1))) ∧
    (∀ b : BitVec 46, s.se.quoteOp.isSome = true ∨ s.scan ≠ 0 ∨ s.se.keys = false → let r := s.setBit .secQuoteStat 0 2 true
      exec (.identityCertificate b) s = .next r ∧ exec (.attestationCertificate b) s = .next r ∧ exec (.quote b) s = .next r) ∧
    (∀ (a : Nat) (b : List Byte), s.se.quoteOp = some (a, b) → s.noAnswer a = none → let u := s.writeBytes (byteWrites a b [])
      exec .quoteDone s = .next ((State.setFld { u with se := { u.se with quoteOp := none } } .secQuoteStat 0 1 0 2).setBit .secEvt 0 4 true))

/-- R345–R347.
The model's own choices in it, not the manual's: log entries 42, 82, 90. -/
def Obligations.SelfTests : Prop :=
  ∀ (kind : BitVec 2) (unit : BitVec 6) (s : State), let k := kind.toNat; let u := unit.toNat
    (s.testReason k u ≠ 0 → exec (.selfTestRequest kind unit) s =
      .next ((s.setFld .secStStat 0 9 7 (s.testReason k u)).setBit .secStStat 0 6 true)) ∧
    (∀ d, unitDomain k u = some d → s.testReason k u = 0 → exec (.selfTestRequest kind unit) s =
      .next (((((s.setFld .secStStat 0 9 7 0).flushFor d).setReady d false).setSt k u ⟨1, 0⟩).showTests)) ∧
    (∀ d, unitDomain k u = some d →
      (testSlots k ≤ (s.testing k).length → s.testReason k u = 1) ∧
      ((s.testing k).length < testSlots k →
        (s.dom d ≠ .on ∨ (s.stOf k u).st = 1 → s.testReason k u = 2) ∧
        (s.dom d = .on → (s.stOf k u).st ≠ 1 → (k = 0 → s.boardUsed u = false ∧ s.twinState u = 0) → (k = 1 → s.stackUsed u = false) →
          (k = 2 → s.heathUsed u = false) →
          (s.sustain < s.fld .pwrIn 0 27 16 + testWatts k → s.testReason k u = 3) ∧
          (s.fld .pwrIn 0 27 16 + testWatts k ≤ s.sustain → s.anyAlert = true → s.testReason k u = 4) ∧
          (s.fld .pwrIn 0 27 16 + testWatts k ≤ s.sustain → s.anyAlert = false → s.scan ≠ 0 → s.testReason k u = 5) ∧
          (s.fld .pwrIn 0 27 16 + testWatts k ≤ s.sustain → s.anyAlert = false → s.scan = 0 → s.testReason k u = 0)))) ∧
    (∀ (d : Nat) (n : BitVec 8), unitDomain k u = some d → (s.stOf k u).st = 1 →
      let t := (s.takeRemaps k u n.toNat).leaveTest k u
      let p := (((t.setSt k u ⟨2, n⟩).setBit .secEvt 0 2 true).becomeReady d).showTests
      let f := (((t.setSt k u ⟨3, n⟩).setBit .secEvt 0 2 true).setBit .secEvt 0 3 true).showTests
      exec (.selfTestEnd kind unit true n) s = .next (p.startTests p.se.stq) ∧
      exec (.selfTestEnd kind unit false n) s = .next (f.startTests f.se.stq)) ∧
    (∀ (pass : Bool) (n : BitVec 8), (unitDomain k u = none ∨ (s.stOf k u).st ≠ 1) → exec (.selfTestEnd kind unit pass n) s = .next s)

/-- R351, R352.
The model's own choices in it, not the manual's: log entries 35, 44, 47. -/
def Obligations.TestAccess : Prop :=
  ∀ s : State,
    let select (s : State) (ir : BitVec 8) (dr : Word) : State := { s with se := { s.se with ir := ir, dr := dr } }
    exec .idcode s = .next (select s 0x01#8 0x196406D7#64) ∧ exec .bypass s = .next (select s 0xFF#8 0) ∧
    (∀ b, exec (.samplePreload b) s = .next (select { s with free := s.free + 1, se := { s.se with boundary := b } } 0x02#8 (Config.pinSample s.free))) ∧
    (s.scan = 2 → exec .extest s = .next (select s 0x00#8 s.se.boundary) ∧
      exec .intscan s = .next (select { s with free := s.free + 1 } 0x20#8 s.draw.2)) ∧
    (s.scan ≠ 2 → exec .extest s = .next (select s 0xFF#8 0) ∧ exec .intscan s = .next (select s 0xFF#8 0)) ∧
    (s.option 7 = true ∨ s.stage = 4 →
      (s.scan ≠ 0 → exec .clear s = .next (select s 0x10#8 0)) ∧
      (s.scan = 0 → let t := (((select s 0x10#8 0).setFld .secDbg 0 1 0 1).abortTests).haltAll
        let t : State := { t with se := { t.se with flashOp := none, quoteOp := none }, ix := { t.ix with slots := [], queue := [] } }
        exec .clear s = .next ((t.setBit .secFlashStat 0 0 false).setBit .secQuoteStat 0 0 false))) ∧
    (s.option 7 = false → s.stage ≠ 4 → exec .clear s = .next (select s 0xFF#8 0)) ∧
    (let t := ((s.cutAll (List.range 75)).zeroSecrets).setFld .secQuoteStat 0 63 32 0
     (s.scan = 1 → exec .clearComplete s = .next ((t.setFld .secDbg 0 1 0 2).setStage 5)) ∧
     (s.scan = 3 → exec .clearComplete s = .next t) ∧ (s.scan = 0 → exec .clearComplete s = .next s))

namespace Sys2Proof.Claims

/-- The registers whose write does more than the access types of their fields say. -/
def special : List Reg :=
  [.schCtxCtl, .schQDoorbell, .schGlintSignal, .schAuditCfg, .schThinThr, .schClassRsv, .schResCtl, .schSwapCfg, .schTdCreate,
   .tenStreamCfg, .tenTwinCtl, .tenTwinStat, .vecSreg, .stkArbCfg, .stkRhCfg, .memRangeCtl, .memRegCfg, .kvsSrecCfg, .kvsSrecCtl,
   .kvsFmt, .kvsPoolCfg, .kvsPoolList, .kvsPoolFree, .kvsBucket, .srvStreamCtl, .srvCustCfg, .srvCustCredit, .srvPartCfg, .srvPartCtl,
   .srvPartStop, .srvCprogLoc, .srvCprogN, .srvOutCfg] ++
  [.icxCfg, .icxHoldCtl, .icxReloadCtl, .icxRmapCfg, .icxInjCtl, .icxLogCfg, .icxLogHead, .tlmTraceCfg, .tlmTraceCtl, .lnkCtl, .lnkInj,
   .lnkMirCtl, .intSwset, .intSwclr, .intComplete, .intMtimecmp, .intMtime, .pltEthRing, .pltEthRx, .pltEthTx, .pwrCfg, .pwrDomCtl,
   .pwrInj, .secStCtl, .secMeasExtCtl, .secQuoteCtl, .secFlashCtl, .secSvnCtl]

/-- Whether a bit lies in a field of a register. -/
def inField (r : Reg) (n : Nat) : Bool := r.info.fields.any (fun f => decide (f.lo ≤ n ∧ n ≤ f.hi))

end Sys2Proof.Claims

/-- R7, R8.
The model's own choices in it, not the manual's: log entries 97, 99. -/
def Obligations.RegisterAccess : Prop :=
  (∀ (off late : Nat) (v hw : Word) (s : State), locate off = none →
    exec (.registerWrite off v hw) s = .next s ∧
    ((off < eventBase ∨ eventBase + 32 * 4096 ≤ off) → exec (.readClear off late) s = .next (s.answerCore 0))) ∧
  (∀ (off : Nat) (v hw : Word) (s : State) (r : Reg) (p i : Nat), locate off = some (r, p, i) → Claims.special.contains r = false →
    exec (.registerWrite off v hw) s =
      .next (s.setReg r p i (BitVec.ofNat 64 (writeFields (s.reg r p i).toNat v.toNat hw.toNat r.info.fields)))) ∧
  (∀ (r : Reg) (old v hw : Nat),
    (∀ f ∈ r.info.fields, bits (writeFields old v hw r.info.fields) f.hi f.lo =
      (match f.acc with
      | .ro | .rc => bits old f.hi f.lo
      | .rw => bits v f.hi f.lo
      | .w1c => (bits old f.hi f.lo ^^^ (bits old f.hi f.lo &&& bits v f.hi f.lo)) ||| bits hw f.hi f.lo
      | .w1s => bits old f.hi f.lo ||| bits v f.hi f.lo
      | .wo => 0)) ∧
    (∀ n, Claims.inField r n = false → (writeFields old v hw r.info.fields).testBit n = false)) ∧
  (∀ (off late : Nat) (s : State) (r : Reg) (p i : Nat), (off < eventBase ∨ eventBase + 32 * 4096 ≤ off) →
    locate off = some (r, p, i) → r ≠ .intClaim → r ≠ .memRegWait →
    (readClears r = false → exec (.readClear off late) s = .next (s.answerCore (readFields (s.view r p i) r.info.fields))) ∧
    (readClears r = true → exec (.readClear off late) s = .next ((s.setReg r p i (BitVec.ofNat 64
      (afterRead (s.reg r p i).toNat r.info.fields + lateFields late r.info.fields))).answerCore (readFields (s.view r p i) r.info.fields)))) ∧
  (∀ (off late p i : Nat) (s : State), (off < eventBase ∨ eventBase + 32 * 4096 ≤ off) →
    (∀ t : Fin 32, locate off = some (.intClaim, t.val, i) → exec (.readClear off late) s = exec (.claim t) s) ∧
    (locate off = some (.memRegWait, p, i) → let h := s.fld .memRegSel 0 8 4
      let q := s.fld .memRegSel 0 3 0
      (20 ≤ h → exec (.readClear off late) s = .next (s.answerCore 0)) ∧
      (h < 20 → exec (.readClear off late) s =
        .next ((s.setBucket h q { s.bucket h q with waited := late % 2 ^ 48 }).answerCore (s.bucket h q).waited)))) ∧
  (∀ (off late : Nat) (s : State), eventBase ≤ off → off < eventBase + 32 * 4096 → off % 8 = 0 →
    exec (.readClear off late) s = .next (s.answerCore (mapGet (fun _ => 0#64) s.ix.buf ((off - eventBase) / 8)).toNat)) ∧
  (∀ (r : Reg) (w : Nat), (∀ f ∈ r.info.fields, bits (readFields w r.info.fields) f.hi f.lo = (if f.acc = .wo then 0 else bits w f.hi f.lo) ∧
      bits (afterRead w r.info.fields) f.hi f.lo = (if f.acc = .rc then 0 else bits w f.hi f.lo)) ∧
    (∀ n, Claims.inField r n = false → (readFields w r.info.fields).testBit n = false))

namespace Sys2Proof.Claims

/-- A core's access leaves for a device: over the link that the home key of its address picks among those that are up (of the
device's control space, which has no home key, the model leaves the choice free, log entry 25). It waits where an access to
the same home is outstanding on another link, or waits (R297). -/
def leaves (s : State) (h : Hart) (d x n : Nat) (rd : Bool) : State :=
  let ls := s.peerLinks d
  let r (l : Nat) : Remote := ⟨.core h, l, d, rd, s.free, x, n, [], []⟩
  let send (u : State) (l : Nat) : State :=
    let v := u.sendFlit l
    { v with lk := { v.lk with remote := v.lk.remote ++ [r l] } }
  match homeIsland x with
  | some j =>
    let key := if 68 ≤ j then 16 + (j - 68) else if 52 ≤ j then j - 52 else 20 + j
    let l := ls.getD (key % max 1 ls.length) 0
    if s.linkBusy l (r 0) then { s with lk := { s.lk with waiting := s.lk.waiting ++ [r l] } } else send s l
  | none => send { s with free := s.free + 1 } (ls.getD ((Config.freeWord s.free).toNat % max 1 ls.length) 0)

/-- The access fault of a core, at a home or device that does not answer. -/
def unanswered (s : State) (h : Hart) (a : Nat) : State :=
  State.bump { s with io := { s.io with fault := true, faultHart := h.val, faultAddr := a } } .memNoAnswer 0 1

end Sys2Proof.Claims

/-- R178, R183, R192, R193, R311.
The model's own choices in it, not the manual's: log entries 7, 25, 31, 96. -/
def Obligations.CoreAccesses : Prop :=
  ∀ (h : Hart) (a : BitVec 56) (s : State),
    (∀ n, (s.coreTo a.toNat n = .fault → exec (.coreLoad h a n) s = .next { s with io := { s.io with fault := true, faultHart := h.val, faultAddr := a.toNat } }) ∧
      (∀ off (u : State) (v : Nat), s.coreTo a.toNat n = .control off → s.controlRead off 0 = (u, v) →
        exec (.coreLoad h a n) s = .next (u.answerCore v)) ∧
      (s.coreTo a.toNat n = .silent → exec (.coreLoad h a n) s = .next (Claims.unanswered s h a.toNat)) ∧
      (s.coreTo a.toNat n = .memory ∨ s.coreTo a.toNat n = .carve →
        Claims.presents (.coreLoad h a n) s s ⟨.core h, .rd, a.toNat % 2 ^ 52, n, [], [], false, none⟩) ∧
      (∀ d, s.coreTo a.toNat n = .peer d → s.peerLinks d = [] → exec (.coreLoad h a n) s = .next (Claims.unanswered s h a.toNat)) ∧
      (∀ d, s.coreTo a.toNat n = .peer d → s.peerLinks d ≠ [] →
        exec (.coreLoad h a n) s = .next (Claims.leaves s h d (a.toNat % 2 ^ 52) n true))) ∧
    (∀ data : List Byte,
      (s.coreTo a.toNat data.length = .fault → exec (.coreStore h a data) s = .next { s with io := { s.io with fault := true, faultHart := h.val, faultAddr := a.toNat } }) ∧
      (s.coreTo a.toNat data.length = .carve → exec (.coreStore h a data) s = .next (s.writeBytes (byteWrites (a.toNat % 2 ^ 52) data []))) ∧
      (s.coreTo a.toNat data.length = .silent → exec (.coreStore h a data) s = .next (Claims.unanswered s h a.toNat)) ∧
      (∀ d, s.coreTo a.toNat data.length = .peer d → s.peerLinks d = [] →
        exec (.coreStore h a data) s = .next (Claims.unanswered s h a.toNat)) ∧
      (∀ d, s.coreTo a.toNat data.length = .peer d → s.peerLinks d ≠ [] → exec (.coreStore h a data) s =
        .next (Claims.leaves (s.setAcks h.val (s.acksOf h.val + 1)) h d (a.toNat % 2 ^ 52) data.length false)) ∧
      ((∃ off, s.coreTo a.toNat data.length = .control off) ∨ s.coreTo a.toNat data.length = .memory →
        let u := s.setAcks h.val (s.acksOf h.val + 1)
        exec (.coreStore h a data) s = .next { u with io := { u.io with posts := u.io.posts ++ [⟨h.val, a.toNat % 2 ^ 52, data⟩], fault := false } })) ∧
    (∀ (off : Nat) (data mask : List Byte) (poison : Bool), regionOf (controlBase + off) = .control →
      let u : State := { s with io := { s.io with posts := s.io.posts.erase ⟨h.val, controlBase + off, data⟩ } }
      (s.postWaits (.core h) (controlBase + off) data = true → exec (.homeWrite (.core h) (controlBase + off) data mask poison) s = .next s) ∧
      (s.postWaits (.core h) (controlBase + off) data = false → exec (.homeWrite (.core h) (controlBase + off) data mask poison) s =
        .next ((u.controlWrite off (BitVec.ofNat 64 (leNat data)) 0).sendAck (controlBase + off) (.core h)))) ∧
    (∀ pi si so, (s.acksOf h.val ≠ 0 → exec (.fence h pi true si so) s = .next { s with io := { s.io with fence := s.io.fence ++ [h.val] } }) ∧
      (s.acksOf h.val = 0 → exec (.fence h pi true si so) s = .next s) ∧ exec (.fence h pi false si so) s = .next s)

namespace Sys2Proof.Claims

/-- The commands that are the arrival of a message from another island (R19). -/
def crossing : Instr → Bool
  | .bankDescriptorIssue _ _ _ | .glintChange _ _ _ _ | .glintSignalArrival _ _ _ _ | .rearmRequest _ _ _ _ | .garmAnswer _ _
  | .unitDone _ _ false | .descriptorRelease _ _ | .killComplete _ | .killedWritesAcked _ | .writeAck _ | .teardownComplete _
  | .poisonReport _ | .traceEvent _ | .advance _ _ | .lengthQuery _ | .lengthAnswer _ | .routeHandoff _ | .outputRecordAck _
  | .debit _ _ | .throttle _ _ | .unthrottle _ _ | .forwardedRequest _ | .forwardedResult _ | .report _ | .swapOutDone _
  | .swapInDone _ => true
  | _ => false

end Sys2Proof.Claims

/-- The block's step, and what an empty queue does (log entry 1).
The model's own choices in it, not the manual's: log entry 94. -/
def Obligations.StepRunsFront : Prop :=
  (∀ (c : Instr) (rest : List Instr) (s : State), s.pending = c :: rest → step s = exec c { s with pending := rest }) ∧
  (∀ (c : Instr) (s : State), step { s with pending := c :: s.pending } = exec c s) ∧
  (∀ (c : Instr) (s : State), ∃ t, exec c s = .next t) ∧
  (∀ (c : Instr) (s : State), Claims.crossing c = true → ¬ Claims.mayCome s c → exec c s = .next s) ∧
  (∀ s : State, s.pending = [] → s.ix.trq = [] →
    (s.dom 74 = .on → step s = .next (let t := s.setReg .intMtime 0 0 (s.reg .intMtime + 1); { t with ix := { t.ix with trBusy := false } })) ∧
    (∀ r, s.dom 74 ≠ .on → s.cc.retain = some r → step s = .next { s with
      cc := { s.cc with retain := some { r with ticks := r.ticks + 1 } }, ix := { s.ix with trBusy := false } }) ∧
    (s.dom 74 ≠ .on → s.cc.retain = none → step s = .next { s with ix := { s.ix with trBusy := false } })) ∧
  (∀ (s : State) (e : TraceEv) (t : List TraceEv), s.pending = [] → s.dom 74 ≠ .on → s.cc.retain = none → s.ix.trq = e :: t →
    step s = .next (State.writeTrace { s with ix := { s.ix with trq := t } } e)) ∧
  (∀ (n w : Nat) (s : State), decodeTableWord n w = none ∧ s.withFetchWord n w = s)

/-- The state after power-on, from the reset values of the chapters.
The model's own choices in it, not the manual's: log entries 3, 4, 100. -/
def Obligations.ResetState : Prop :=
  let s := State.reset
  (∀ (r : Reg) (p i : Nat), s.reg r p i = r.resetWord p i) ∧
  s.dom 75 = .on ∧ (∀ d < 75, s.dom d = .off) ∧ (∀ d < 75, s.ready d = false) ∧ s.stage = 0 ∧ s.scan = 0 ∧
  s.mm.wf = true ∧
  (∀ u, s.mm.unitData u = List.replicate (unitLen u) 0#8 ∧
    s.mm.unitChk u = Quad.unpack (poisonChk (unitLen u) (keyOf u)).pack) ∧
  (∀ u < 4096, (s.cust u).bal = 0 ∧ (s.cust u).enabled = false) ∧ (∀ i < 8, s.meas i = List.replicate 64 0#8) ∧
  s.se.owner = [] ∧ s.se.floor = 0 ∧ s.pending = [] ∧ s.flight = [] ∧
  (∀ c r i, (s.engine c).lane r i = ⟨0, false⟩) ∧ (∀ st ch b, (s.bank st ch b).row = none)

/-- The invariant of the stored memory, over every command, with what a step does to the queue. -/
def Obligations.StepKeepsQueueAndMemory : Prop :=
  ∀ s t : State, s.mm.wf = true → step s = .next t → t.mm.wf = true ∧ t.pending = s.pending.tail

/-- R342, with the floor of R338 and the vendor key of R336 beside it.
The model's own choices in it, not the manual's: log entry 46. -/
def Obligations.FusesStay : Prop :=
  State.reset.se.owner = [] ∧
  (∀ (s : State) (r : List Byte), s.checkRecord r = 0 →
    Config.ed448Verify ((r.drop 8).take 57) (digest (r.take 8064)) ((r.drop 8064).take 114) = true ∧
    (s.se.owner = [] ∨ s.se.owner = digest ((r.drop 8).take 57))) ∧
  (∀ s t : State, s.stage = 1 → s.flashFails = (t, false) → t.checkRecord t.recordBytes = 0 → t.se.owner = [] →
    ∃ u, exec .platformFirmwareStart s = .next u ∧ u.se.owner = digest ((t.recordBytes.drop 8).take 57) ∧ u.se.owner.length = 64) ∧
  (∀ s : State, s.stage ≠ 2 → exec .imagesLoaded s = .next s) ∧
  (∀ s t : State, step s = .next t → s.se.floor ≤ t.se.floor ∧ t.se.vendor = s.se.vendor ∧ (s.se.owner ≠ [] → t.se.owner = s.se.owner))

/-- R28: the table, in halves. -/
def Obligations.Fp4Codes : Prop :=
  ∀ c < 16, ∃ n d e, decodeElt .fp4 c = .fin (decide (8 ≤ c)) n d e ∧
    (FV.fin (decide (8 ≤ c)) n d e).eq (.fin (decide (8 ≤ c)) ([0, 1, 2, 3, 4, 6, 8, 12].getD (c % 8) 0) 1 (-1)) = true

/-- R256. -/
def Obligations.StackAddress : Prop :=
  (∀ a, a < heathBase → regionOf a = .stack (a / 2 ^ 36) ∧
    let x := BitVec.ofNat 36 a
    let p := stackPos a
    p.ch = (x.extractLsb' 10 5).toNat ∧ p.bank = (x.extractLsb' 15 6).toNat ∧ p.row = (x.extractLsb' 22 14).toNat ∧
    p.col = 32 * (x.extractLsb' 21 1).toNat + (x.extractLsb' 0 10).toNat / 32) ∧
  (∀ st ch bank row col, st < 16 → ch < 32 → bank < 64 → row < 16384 → col < 64 →
    regionOf (stackAddr st ch bank row col) = .stack st ∧ stackPos (stackAddr st ch bank row col) = ⟨ch, bank, row, col⟩ ∧
    stackAddr st ch bank row col % 2 ^ 36 / 2 ^ 22 = row)

/-- R33. -/
def Obligations.BlockScales : Prop :=
  ∀ (t : EType) (thr : Option Nat) (rnds : List Rnd) (xs : List FV),
    ((∀ x ∈ xs, ∃ sg d e, x = .fin sg 0 d e) →
      (quantBlock t .e8m0 thr rnds xs).scale = 0x7F ∧ (quantBlock t .e4m3 thr rnds xs).scale = 0x38 ∧
      ∀ sc, sc = .e8m0 ∨ sc = .e4m3 → (quantBlock t sc thr rnds xs).codes = xs.map (fun _ => 0) ∧
        (quantBlock t sc thr rnds xs).low = xs.map (fun _ => 0)) ∧
    ((∃ x ∈ xs, x.isFin = false) →
      (quantBlock t .e8m0 thr rnds xs).scale = 0xFF ∧ (quantBlock t .e4m3 thr rnds xs).scale = 0x7F ∧
      ∀ sc, sc = .e8m0 ∨ sc = .e4m3 → (quantBlock t sc thr rnds xs).codes = xs.map (fun _ => 0) ∧
        (quantBlock t sc thr rnds xs).tag = false ∧
        (quantBlock t sc thr rnds xs).sat = xs.countP (fun x => !x.isFin))

/-- R271–R274. -/
def Obligations.GranuleCode : Prop :=
  ∀ data key : List Byte, (data.length = 32 ∨ data.length = 64) → key.length = 4 →
    let c := encodeChk data key
    decodeUnit data c key = ⟨.clean, data, c, ⟨0#8, 0#8, 0#8, 0#8⟩⟩ ∧
    (∀ (p : Nat) (e : Byte), p < data.length → e ≠ 0#8 → (decodeUnit (data.modify p (· ^^^ e)) c key).outc = .corrected ∧
      (decodeUnit (data.modify p (· ^^^ e)) c key).data = data) ∧
    (∀ e : Byte, e ≠ 0#8 → ∀ q ∈ ([⟨c.a0 ^^^ e, c.a1, c.a2, c.a3⟩, ⟨c.a0, c.a1 ^^^ e, c.a2, c.a3⟩, ⟨c.a0, c.a1, c.a2 ^^^ e, c.a3⟩,
      ⟨c.a0, c.a1, c.a2, c.a3 ^^^ e⟩] : List Quad), (decodeUnit data q key).outc = .corrected ∧ (decodeUnit data q key).data = data) ∧
    (∀ (p : Nat) (e : Byte), p < 4 → e ≠ 0#8 → (decodeUnit data c (key.modify p (· ^^^ e))).outc = .address) ∧
    (decodeUnit (List.replicate data.length 0#8) (poisonChk data.length key) key).outc = .poison

/-- R67, R179, R271: what a store of one unit changes, and all it changes.
The model's own choices in it, not the manual's: log entry 15. -/
def Obligations.UnitStores : Prop :=
  (∀ (s : State) (u : Nat) (data : List Byte), s.mm.wf = true → data.length = unitLen u → s.injMeets false u false = false →
    let t := s.storeUnit u data
    t.mm.unitData u = data ∧ t.mm.unitChk u = encodeChk data (keyOf u) ∧
    ∀ v, (v + unitLen v ≤ u ∨ u + unitLen u ≤ v) → t.mm.unitData v = s.mm.unitData v ∧ t.mm.unitChk v = s.mm.unitChk v) ∧
  (∀ (s t : State) (i : Issuer) (a c : Nat) (data mask : List Byte), s.mm.wf = true → (∀ h, i ≠ .core h) → regionOf a = .meadow c →
    a % 32 + data.length ≤ 32 → s.noAnswer a = none → s.repairing a data.length = [] →
    exec (.homeWrite i a data mask false) s = .next t →
    ∀ v, (v + unitLen v ≤ unitBase a ∨ unitBase a + 32 ≤ v) → t.mm.unitData v = s.mm.unitData v ∧ t.mm.unitChk v = s.mm.unitChk v)
end

