-- ==== Sys2Proof/Laws/Code.lean ====
section
/-! SUPPORT. Laws of the granule code (R271–R274): multiplication by α is additive, the encoder leaves a word whose
syndromes are 0, and one changed symbol changes each syndrome by its own share. -/
namespace Sys2Proof.Machine

theorem gfX_xor (a b : BitVec 8) : gfX (a ^^^ b) = gfX a ^^^ gfX b := by
  have e : ∀ x y c : BitVec 8, x ^^^ y = (x ^^^ c) ^^^ (y ^^^ c) := fun x y c => by
    rw [show (x ^^^ c) ^^^ (y ^^^ c) = (x ^^^ y) ^^^ (c ^^^ c) by ac_rfl, BitVec.xor_self, BitVec.xor_zero]
  unfold gfX
  rw [BitVec.msb_xor, BitVec.shiftLeft_xor_distrib]
  cases a.msb <;> cases b.msb
  · rfl
  · simp only [Bool.false_xor, if_true, Bool.false_eq_true, if_false]; ac_rfl
  · simp only [Bool.xor_false, if_true, Bool.false_eq_true, if_false]; ac_rfl
  · simp only [Bool.xor_self, if_true, Bool.false_eq_true, if_false]; exact e _ _ _

theorem gfXs_xor (n : Nat) (a b : BitVec 8) : gfXs n (a ^^^ b) = gfXs n a ^^^ gfXs n b := by
  induction n with
  | zero => rfl
  | succ n ih => simp only [gfXs, ih, gfX_xor]

theorem gfXs_zero (n : Nat) : gfXs n 0#8 = 0#8 := by
  induction n with
  | zero => rfl
  | succ n ih => simp only [gfXs, ih]; decide

theorem gfXs_add (m n : Nat) (a : BitVec 8) : gfXs (m + n) a = gfXs m (gfXs n a) := by
  induction m with
  | zero => rw [Nat.zero_add]; rfl
  | succ m ih => rw [Nat.succ_add]; simp only [gfXs, ih]

/-- The product with a fixed element is additive. -/
theorem gfMulAux_xor (a x y : BitVec 8) (n : Nat) : gfMulAux (x ^^^ y) a n = gfMulAux x a n ^^^ gfMulAux y a n := by
  induction n generalizing a with
  | zero => simp only [gfMulAux]; decide
  | succ n ih =>
    simp only [gfMulAux, ih, gfX_xor]
    split
    · ac_rfl
    · rfl

theorem gfMul_xor (a x y : BitVec 8) : gfMul a (x ^^^ y) = gfMul a x ^^^ gfMul a y := gfMulAux_xor a x y 8

/-- Additive functions that agree on the eight single bits agree. -/
theorem additive_ext (f g : BitVec 8 → BitVec 8) (hf : ∀ a b, f (a ^^^ b) = f a ^^^ f b) (hg : ∀ a b, g (a ^^^ b) = g a ^^^ g b)
    (h : ∀ b ∈ [1#8, 2#8, 4#8, 8#8, 16#8, 32#8, 64#8, 128#8], f b = g b) (x : BitVec 8) : f x = g x := by
  have z : ∀ k : BitVec 8 → BitVec 8, (∀ a b, k (a ^^^ b) = k a ^^^ k b) → k 0#8 = 0#8 := by
    intro k hk
    have := hk 0#8 0#8
    rw [BitVec.xor_self, BitVec.xor_self] at this
    exact this
  have hx : ∀ x : BitVec 8, x = (x &&& 1#8) ^^^ (x &&& 2#8) ^^^ (x &&& 4#8) ^^^ (x &&& 8#8) ^^^ (x &&& 16#8) ^^^ (x &&& 32#8) ^^^
      (x &&& 64#8) ^^^ (x &&& 128#8) := by
    intro x
    apply BitVec.eq_of_getLsbD_eq
    intro i hi
    simp only [BitVec.getLsbD_xor, BitVec.getLsbD_and]
    have : i = 0 ∨ i = 1 ∨ i = 2 ∨ i = 3 ∨ i = 4 ∨ i = 5 ∨ i = 6 ∨ i = 7 := by omega
    rcases this with rfl | rfl | rfl | rfl | rfl | rfl | rfl | rfl <;> simp
  have hb : ∀ x : BitVec 8, ∀ k < 8, x &&& BitVec.ofNat 8 (2 ^ k) = 0#8 ∨ x &&& BitVec.ofNat 8 (2 ^ k) = BitVec.ofNat 8 (2 ^ k) := by
    intro x k hk
    have h2 : ∀ i < 8, (BitVec.ofNat 8 (2 ^ k)).getLsbD i = decide (i = k) := by
      intro i hi
      simp only [BitVec.getLsbD_ofNat, hi, decide_true, Bool.true_and, Nat.testBit_two_pow]
      exact decide_eq_decide.2 eq_comm
    cases hx : x.getLsbD k with
    | false =>
      left; apply BitVec.eq_of_getLsbD_eq; intro i hi
      rw [BitVec.getLsbD_and, h2 i hi]
      by_cases c : i = k
      · subst c; rw [hx]; simp
      · simp [c]
    | true =>
      right; apply BitVec.eq_of_getLsbD_eq; intro i hi
      rw [BitVec.getLsbD_and, h2 i hi]
      by_cases c : i = k
      · subst c; rw [hx]; simp
      · simp [c]
  have e : ∀ b ∈ [1#8, 2#8, 4#8, 8#8, 16#8, 32#8, 64#8, 128#8], f (x &&& b) = g (x &&& b) := by
    intro b hm
    have hk : ∃ k < 8, b = BitVec.ofNat 8 (2 ^ k) := by
      simp only [List.mem_cons, List.not_mem_nil, or_false] at hm
      rcases hm with rfl | rfl | rfl | rfl | rfl | rfl | rfl | rfl
      exacts [⟨0, by omega, rfl⟩, ⟨1, by omega, rfl⟩, ⟨2, by omega, rfl⟩, ⟨3, by omega, rfl⟩, ⟨4, by omega, rfl⟩, ⟨5, by omega, rfl⟩,
        ⟨6, by omega, rfl⟩, ⟨7, by omega, rfl⟩]
    obtain ⟨k, hk, rfl⟩ := hk
    rcases hb x k hk with h0 | h0
    · rw [h0, z f hf, z g hg]
    · rw [h0, h _ hm]
  rw [hx x]
  simp only [hf, hg]
  rw [e 1#8 (by simp), e 2#8 (by simp), e 4#8 (by simp), e 8#8 (by simp), e 16#8 (by simp), e 32#8 (by simp), e 64#8 (by simp), e 128#8 (by simp)]

/-- The check symbols evaluated at α^i. -/
def Quad.eval (i : Nat) (q : Quad) : BitVec 8 := q.a0 ^^^ gfXs i q.a1 ^^^ gfXs (2 * i) q.a2 ^^^ gfXs (3 * i) q.a3

/-- g(α^i) = 0, as the encoder uses it. -/
theorem genPoly_root (i : Nat) (hi : i < 4) (f : BitVec 8) :
    gfMul genPoly.a0 f ^^^ gfXs i (gfMul genPoly.a1 f) ^^^ gfXs (2 * i) (gfMul genPoly.a2 f) ^^^ gfXs (3 * i) (gfMul genPoly.a3 f) = gfXs (4 * i) f := by
  refine additive_ext (fun f => gfMul genPoly.a0 f ^^^ gfXs i (gfMul genPoly.a1 f) ^^^ gfXs (2 * i) (gfMul genPoly.a2 f) ^^^ gfXs (3 * i) (gfMul genPoly.a3 f))
    (gfXs (4 * i)) ?_ (gfXs_xor _) ?_ f
  · intro a b; simp only [gfMul_xor, gfXs_xor]; ac_rfl
  · have : ∀ i < 4, ∀ b ∈ [1#8, 2#8, 4#8, 8#8, 16#8, 32#8, 64#8, 128#8], gfMul genPoly.a0 b ^^^ gfXs i (gfMul genPoly.a1 b) ^^^ gfXs (2 * i) (gfMul genPoly.a2 b) ^^^ gfXs (3 * i) (gfMul genPoly.a3 b) = gfXs (4 * i) b := by decide
    exact this i hi

/-- One step of the encoder at α^i. -/
theorem encStep_eval (i : Nat) (hi : i < 4) (s : BitVec 8) (r : Quad) :
    (encStep s r).eval i = gfXs i (r.eval i) ^^^ gfXs (4 * i) s := by
  have h := genPoly_root i hi (s ^^^ r.a3)
  have e2 : ∀ x, gfXs (2 * i) x = gfXs i (gfXs i x) := fun x => by rw [← gfXs_add]; congr 1; omega
  have e3 : ∀ x, gfXs (3 * i) x = gfXs i (gfXs (2 * i) x) := fun x => by rw [← gfXs_add]; congr 1; omega
  have e4 : ∀ x, gfXs (4 * i) x = gfXs i (gfXs (3 * i) x) := fun x => by rw [← gfXs_add]; congr 1; omega
  have l : (encStep s r).eval i = (gfMul genPoly.a0 (s ^^^ r.a3) ^^^ gfXs i (gfMul genPoly.a1 (s ^^^ r.a3)) ^^^
      gfXs (2 * i) (gfMul genPoly.a2 (s ^^^ r.a3)) ^^^ gfXs (3 * i) (gfMul genPoly.a3 (s ^^^ r.a3))) ^^^
      (gfXs i r.a0 ^^^ gfXs (2 * i) r.a1 ^^^ gfXs (3 * i) r.a2) := by
    simp only [Quad.eval, encStep, gfXs_xor]; ac_rfl
  rw [l, h]
  have r' : gfXs i (r.eval i) = gfXs i r.a0 ^^^ gfXs (2 * i) r.a1 ^^^ gfXs (3 * i) r.a2 ^^^ gfXs (4 * i) r.a3 := by
    simp only [Quad.eval, gfXs_xor, ← e2, ← e3, ← e4]
  rw [r', gfXs_xor]
  ac_rfl

/-- The remainder that the encoder holds, at α^i, is the word shifted by the four check positions. -/
theorem encode_eval (i : Nat) (hi : i < 4) (w : List (BitVec 8)) :
    (w.foldr encStep ⟨0#8, 0#8, 0#8, 0#8⟩).eval i = gfXs (4 * i) (syndrome i w) := by
  induction w with
  | nil => simp only [List.foldr_nil, Quad.eval, syndrome, gfXs_zero]; rfl
  | cons a t ih =>
    simp only [List.foldr_cons, syndrome] at ih ⊢
    rw [encStep_eval i hi, ih, gfXs_xor, ← gfXs_add, ← gfXs_add]
    congr 2; omega

/-- A word preceded by four symbols, evaluated at α^i. -/
theorem syndrome_quad (i : Nat) (q : Quad) (w : List (BitVec 8)) :
    syndrome i (q.toList ++ w) = q.eval i ^^^ gfXs (4 * i) (syndrome i w) := by
  have e2 : ∀ x, gfXs (2 * i) x = gfXs i (gfXs i x) := fun x => by rw [← gfXs_add]; congr 1; omega
  have e3 : ∀ x, gfXs (3 * i) x = gfXs i (gfXs (2 * i) x) := fun x => by rw [← gfXs_add]; congr 1; omega
  have e4 : ∀ x, gfXs (4 * i) x = gfXs i (gfXs (3 * i) x) := fun x => by rw [← gfXs_add]; congr 1; omega
  simp only [syndrome, Quad.toList, List.cons_append, List.nil_append, List.foldr_cons, Quad.eval, gfXs_xor, ← e2, ← e3, ← e4]
  ac_rfl

/-- Every syndrome of an encoded unit is 0. -/
theorem syndrome_encode (i : Nat) (hi : i < 4) (data key : List (BitVec 8)) :
    syndrome i ((encodeChk data key).toList ++ data ++ key) = 0#8 := by
  rw [List.append_assoc, syndrome_quad, encodeChk, encode_eval i hi, BitVec.xor_self]

/-- A symbol changed at a position changes the syndrome by α^(i p) times the change. -/
theorem syndrome_modify (i : Nat) (w : List (BitVec 8)) (p : Nat) (e : BitVec 8) (hp : p < w.length) :
    syndrome i (w.modify p (· ^^^ e)) = syndrome i w ^^^ gfXs (i * p) e := by
  induction w generalizing p with
  | nil => simp at hp
  | cons a t ih =>
    cases p with
    | zero => simp only [List.modify_zero_cons, syndrome, List.foldr_cons, Nat.mul_zero, gfXs]; ac_rfl
    | succ p =>
      have h := ih p (by simpa using hp)
      simp only [List.modify_succ_cons, syndrome, List.foldr_cons] at h ⊢
      rw [h, gfXs_xor, ← gfXs_add, show i + i * p = i * (p + 1) by rw [Nat.mul_succ]; omega]
      ac_rfl

end Sys2Proof.Machine
end

