-- ==== Sys2Proof/Laws/SMap.lean ====
section
/-! SUPPORT. Laws of sparse maps: reading after writing, and that every operation keeps the canonical form. -/
namespace Sys2Proof.Machine

variable {α : Type}

/-- Keys that all lie at `hi` or above lie at any lower bound or above. -/
theorem mapSorted_mono {lo hi : Nat} {m : SMap α} (h : mapSorted hi m = true) (hle : lo ≤ hi) : mapSorted lo m = true := by
  cases m with
  | nil => rfl
  | cons p t =>
    simp only [mapSorted, Bool.and_eq_true, decide_eq_true_eq] at h ⊢
    exact ⟨by omega, h.2⟩

/-- A key below every listed key is not listed. -/
theorem mapGet_below (d : Nat → α) {lo k : Nat} {m : SMap α} (h : mapSorted lo m = true) (hk : k < lo) : mapGet d m k = d k := by
  induction m generalizing lo with
  | nil => rfl
  | cons p t ih =>
    simp only [mapSorted, Bool.and_eq_true, decide_eq_true_eq] at h
    simp only [mapGet]
    rw [if_neg (by omega)]
    exact ih h.2 (by omega)

/-- Inserting an entry keeps the keys rising. -/
theorem mapSorted_mapPut {lo k : Nat} {v : α} {m : SMap α} (h : mapSorted lo m = true) (hk : lo ≤ k) :
    mapSorted lo (mapPut m k v) = true := by
  induction m generalizing lo with
  | nil => simp [mapPut, mapSorted, hk]
  | cons p t ih =>
    obtain ⟨a, b⟩ := p
    simp only [mapSorted, Bool.and_eq_true, decide_eq_true_eq] at h
    simp only [mapPut]
    split
    · simp only [mapSorted, Bool.and_eq_true, decide_eq_true_eq]
      exact ⟨hk, by omega, h.2⟩
    · split
      · simp only [mapSorted, Bool.and_eq_true, decide_eq_true_eq]
        exact ⟨hk, by simp_all⟩
      · simp only [mapSorted, Bool.and_eq_true, decide_eq_true_eq]
        exact ⟨h.1, ih h.2 (by omega)⟩

/-- Removing an entry keeps the keys rising. -/
theorem mapSorted_mapDel {lo k : Nat} {m : SMap α} (h : mapSorted lo m = true) : mapSorted lo (mapDel m k) = true := by
  induction m generalizing lo with
  | nil => rfl
  | cons p t ih =>
    obtain ⟨a, b⟩ := p
    simp only [mapSorted, Bool.and_eq_true, decide_eq_true_eq] at h
    simp only [mapDel]
    split
    · exact mapSorted_mono h.2 (by omega)
    · simp only [mapSorted, Bool.and_eq_true, decide_eq_true_eq]
      exact ⟨h.1, ih h.2⟩

/-- Dropping entries keeps the keys rising. -/
theorem mapSorted_filter {lo : Nat} (p : Nat × α → Bool) {m : SMap α} (h : mapSorted lo m = true) :
    mapSorted lo (m.filter p) = true := by
  induction m generalizing lo with
  | nil => rfl
  | cons q t ih =>
    obtain ⟨a, b⟩ := q
    simp only [mapSorted, Bool.and_eq_true, decide_eq_true_eq] at h
    rw [List.filter_cons]
    split
    · simp only [mapSorted, Bool.and_eq_true, decide_eq_true_eq]
      exact ⟨h.1, ih h.2⟩
    · exact mapSorted_mono (ih h.2) (by omega)

section
variable [DecidableEq α]

/-- Inserting a value that is not the default keeps the map free of defaults. -/
theorem mapClean_mapPut (d : Nat → α) {k : Nat} {v : α} {m : SMap α} (h : mapClean d m = true) (hv : v ≠ d k) :
    mapClean d (mapPut m k v) = true := by
  induction m with
  | nil => simp [mapPut, mapClean, hv]
  | cons p t ih =>
    obtain ⟨a, b⟩ := p
    simp only [mapClean, Bool.and_eq_true, decide_eq_true_eq] at h
    simp only [mapPut]
    split
    · simp only [mapClean, Bool.and_eq_true, decide_eq_true_eq]
      exact ⟨hv, h.1, h.2⟩
    · split
      · simp only [mapClean, Bool.and_eq_true, decide_eq_true_eq]
        exact ⟨hv, h.2⟩
      · simp only [mapClean, Bool.and_eq_true, decide_eq_true_eq]
        exact ⟨h.1, ih h.2⟩

/-- Dropping entries keeps the map free of defaults. -/
theorem mapClean_filter (d : Nat → α) (p : Nat × α → Bool) {m : SMap α} (h : mapClean d m = true) :
    mapClean d (m.filter p) = true := by
  induction m with
  | nil => rfl
  | cons q t ih =>
    simp only [mapClean, Bool.and_eq_true, decide_eq_true_eq] at h
    rw [List.filter_cons]
    split
    · simp only [mapClean, Bool.and_eq_true, decide_eq_true_eq]
      exact ⟨h.1, ih h.2⟩
    · exact ih h.2

/-- Removing an entry keeps the map free of defaults. -/
theorem mapClean_mapDel (d : Nat → α) {k : Nat} {m : SMap α} (h : mapClean d m = true) : mapClean d (mapDel m k) = true := by
  induction m with
  | nil => rfl
  | cons p t ih =>
    obtain ⟨a, b⟩ := p
    simp only [mapClean, Bool.and_eq_true, decide_eq_true_eq] at h
    simp only [mapDel]
    split
    · exact h.2
    · simp only [mapClean, Bool.and_eq_true, decide_eq_true_eq]
      exact ⟨h.1, ih h.2⟩

/-- Setting a value keeps the canonical form. -/
theorem mapWf_mapSet (d : Nat → α) {k : Nat} {v : α} {m : SMap α} (h : mapWf d m = true) : mapWf d (mapSet d m k v) = true := by
  simp only [mapWf, Bool.and_eq_true] at h ⊢
  unfold mapSet
  split
  · exact ⟨mapSorted_mapDel h.1, mapClean_mapDel d h.2⟩
  · exact ⟨mapSorted_mapPut h.1 (by omega), mapClean_mapPut d h.2 ‹_›⟩

/-- Dropping entries keeps the canonical form. -/
theorem mapWf_filter (d : Nat → α) (p : Nat × α → Bool) {m : SMap α} (h : mapWf d m = true) : mapWf d (m.filter p) = true := by
  simp only [mapWf, Bool.and_eq_true] at h ⊢
  exact ⟨mapSorted_filter p h.1, mapClean_filter d p h.2⟩

end

/-- Reading an inserted entry. -/
theorem mapGet_mapPut (d : Nat → α) (m : SMap α) (k : Nat) (v : α) : mapGet d (mapPut m k v) k = v := by
  induction m with
  | nil => simp [mapPut, mapGet]
  | cons p t ih =>
    obtain ⟨a, b⟩ := p
    simp only [mapPut]
    split
    · simp [mapGet]
    · split
      · simp [mapGet]
      · simp only [mapGet]
        rw [if_neg (by omega)]
        exact ih

/-- Reading another key than the inserted one. -/
theorem mapGet_mapPut_ne (d : Nat → α) (m : SMap α) {k j : Nat} (v : α) (h : j ≠ k) :
    mapGet d (mapPut m k v) j = mapGet d m j := by
  induction m with
  | nil => simp [mapPut, mapGet, Ne.symm h]
  | cons p t ih =>
    obtain ⟨a, b⟩ := p
    simp only [mapPut]
    split
    · simp only [mapGet]
      rw [if_neg (Ne.symm h)]
    · split
      · simp only [mapGet]
        rw [if_neg (Ne.symm h), if_neg (by omega)]
      · simp only [mapGet]
        split
        · rfl
        · exact ih

/-- Reading a removed key of a sorted map. -/
theorem mapGet_mapDel (d : Nat → α) {lo : Nat} {m : SMap α} (k : Nat) (h : mapSorted lo m = true) :
    mapGet d (mapDel m k) k = d k := by
  induction m generalizing lo with
  | nil => rfl
  | cons p t ih =>
    obtain ⟨a, b⟩ := p
    simp only [mapSorted, Bool.and_eq_true, decide_eq_true_eq] at h
    simp only [mapDel]
    split
    · exact mapGet_below d h.2 (by omega)
    · simp only [mapGet]
      rw [if_neg ‹_›]
      exact ih h.2

/-- Reading another key than the removed one. -/
theorem mapGet_mapDel_ne (d : Nat → α) (m : SMap α) {k j : Nat} (h : j ≠ k) : mapGet d (mapDel m k) j = mapGet d m j := by
  induction m with
  | nil => rfl
  | cons p t ih =>
    obtain ⟨a, b⟩ := p
    simp only [mapDel]
    split
    · simp only [mapGet]
      rw [if_neg (by omega)]
    · simp only [mapGet]
      split
      · rfl
      · exact ih

/-- A canonical map reads back what was set. -/
theorem mapGet_mapSet [DecidableEq α] (d : Nat → α) {m : SMap α} (k : Nat) (v : α) (h : mapWf d m = true) :
    mapGet d (mapSet d m k v) k = v := by
  simp only [mapWf, Bool.and_eq_true] at h
  unfold mapSet
  split
  · rw [mapGet_mapDel d k h.1]
    exact Eq.symm ‹_›
  · exact mapGet_mapPut d m k v

/-- Setting a key keeps the keys in their order. -/
theorem mapSorted_mapSet [DecidableEq α] (d : Nat → α) {m : SMap α} {k : Nat} {v : α} (h : mapSorted 0 m = true) :
    mapSorted 0 (mapSet d m k v) = true := by
  unfold mapSet
  split
  · exact mapSorted_mapDel h
  · exact mapSorted_mapPut h (Nat.zero_le _)

/-- Setting a key leaves every other key alone, whatever stands where nothing is listed. -/
theorem mapGet_mapSet_other [DecidableEq α] (d e : Nat → α) (m : SMap α) {k j : Nat} (v : α) (h : j ≠ k) :
    mapGet e (mapSet d m k v) j = mapGet e m j := by
  unfold mapSet
  split
  · exact mapGet_mapDel_ne e m h
  · exact mapGet_mapPut_ne e m v h

/-- Setting a key leaves every other key alone. -/
theorem mapGet_mapSet_ne [DecidableEq α] (d : Nat → α) (m : SMap α) {k j : Nat} (v : α) (h : j ≠ k) :
    mapGet d (mapSet d m k v) j = mapGet d m j := mapGet_mapSet_other d d m v h

/-- Reading the record that was put. -/
theorem optGet_mapPut (m : SMap α) (k : Nat) (v : α) : optGet (mapPut m k v) k = some v := by
  induction m with
  | nil => simp [mapPut, optGet]
  | cons p t ih =>
    obtain ⟨a, b⟩ := p
    simp only [mapPut]
    split
    · simp [optGet]
    · split
      · simp [optGet]
      · simp only [optGet]
        rw [if_neg (by omega)]
        exact ih

/-- Reading another record than the one put. -/
theorem optGet_mapPut_ne (m : SMap α) {k j : Nat} (v : α) (h : j ≠ k) : optGet (mapPut m k v) j = optGet m j := by
  induction m with
  | nil => simp [mapPut, optGet, Ne.symm h]
  | cons p t ih =>
    obtain ⟨a, b⟩ := p
    simp only [mapPut]
    split
    · simp only [optGet]
      rw [if_neg (Ne.symm h)]
    · split
      · simp only [optGet]
        rw [if_neg (Ne.symm h), if_neg (by omega)]
      · simp only [optGet]
        split
        · rfl
        · exact ih

end Sys2Proof.Machine
end

