-- ==== Sys2Proof/Laws/Keeps.lean ====
section
/-! SUPPORT. What every operation of the machine keeps: the queue of waiting commands, the canonical form of the stored
memory, and the fuses (R336, R338, R342). `Keeps s t` says that t stands to s so; it holds of one update that touches none
of them, chains, and carries through folds. -/
namespace Sys2Proof.Machine

/-- The floor does not fall, the vendor key digest stays, and a programmed owner fuse stays (R336, R338, R342). -/
def Sec.FusesKept (x y : Sec) : Prop := x.floor ≤ y.floor ∧ y.vendor = x.vendor ∧ (x.owner ≠ [] → y.owner = x.owner)

theorem Sec.FusesKept.refl (x : Sec) : x.FusesKept x := ⟨Nat.le_refl _, rfl, fun _ => rfl⟩

theorem Sec.FusesKept.trans {x y z : Sec} (h : x.FusesKept y) (k : y.FusesKept z) : x.FusesKept z :=
  ⟨h.1.trans k.1, k.2.1.trans h.2.1, fun w => (k.2.2 (by rw [h.2.2 w]; exact w)).trans (h.2.2 w)⟩

/-- The queue is the same, a canonical memory stays canonical, and the fuses are kept. -/
def Keeps (s t : State) : Prop :=
  t.pending = s.pending ∧ (s.mm.wf = true → t.mm.wf = true) ∧ s.se.FusesKept t.se

theorem Keeps.refl (s : State) : Keeps s s := ⟨rfl, id, Sec.FusesKept.refl _⟩

theorem Keeps.trans {s t u : State} (h : Keeps s t) (k : Keeps t u) : Keeps s u :=
  ⟨k.1.trans h.1, fun w => k.2.1 (h.2.1 w), h.2.2.trans k.2.2⟩

/-- A change of neither the queue nor the stored memory, that keeps the fuses. -/
theorem Keeps.fuses {s t u : State} (h : Keeps s t) (hp : u.pending = t.pending) (hm : u.mm.mem = t.mm.mem)
    (hc : u.mm.chk = t.mm.chk) (hf : t.se.FusesKept u.se) : Keeps s u :=
  h.trans ⟨hp, fun w => by unfold Mem.wf at *; rw [hm, hc]; exact w, hf⟩

/-- A record update of neither the queue, the stored memory nor the fuses. -/
theorem Keeps.mk {s t : State} {regs : SMap Word} {vx : Vec} {ax : SMap Arrays} {st : Stacks} {mm : Mem} {sc : Sched} {kv : Kv} {sv : Srv} {ix : Icx} {lk : Links} {cc : Cc} {pw : Pwr} {se : Sec} {io : Io} {flight : List Msg} {free : Nat} {pending : List Instr} (h : Keeps s t)
    (hp : pending = t.pending) (hm : mm.mem = t.mm.mem) (hc : mm.chk = t.mm.chk) (hf : se.floor = t.se.floor)
    (hv : se.vendor = t.se.vendor) (ho : se.owner = t.se.owner) :
    Keeps s ⟨regs, vx, ax, st, mm, sc, kv, sv, ix, lk, cc, pw, se, io, flight, free, pending⟩ :=
  h.fuses hp hm hc ⟨Nat.le_of_eq hf.symm, hv, fun _ => ho⟩

/-- A choice of two states. -/
theorem Keeps.ite {s a b : State} {c : Prop} [Decidable c] (h : Keeps s a) (k : Keeps s b) : Keeps s (if c then a else b) := by
  split <;> assumption

/-- A choice of two pairs. -/
theorem Keeps.itePair {α : Type} {s : State} {a b : State × α} {c : Prop} [Decidable c] (h : Keeps s a.1) (k : Keeps s b.1) :
    Keeps s (if c then a else b).1 := by
  split <;> assumption

/-- The state of a pair. -/
theorem Keeps.pair {α : Type} {s t : State} {p : State × α} {x : α} (e : p = (t, x)) (h : Keeps s p.1) : Keeps s t := by
  rw [e] at h; exact h

/-- A fold over states. -/
theorem Keeps.fold {α : Type} {s t : State} (f : State → α → State) (l : List α) (h : Keeps s t)
    (hf : ∀ s a, Keeps s (f s a)) : Keeps s (l.foldl f t) := by
  induction l generalizing t with
  | nil => exact h
  | cons a l ih => exact ih (h.trans (hf t a))

/-- A fold over pairs of a state and a result. -/
theorem Keeps.foldPair {α β : Type} {s : State} {p : State × β} (f : State × β → α → State × β) (l : List α)
    (h : Keeps s p.1) (hf : ∀ q a, Keeps q.1 (f q a).1) : Keeps s (l.foldl f p).1 := by
  induction l generalizing p with
  | nil => exact h
  | cons a l ih => exact ih (h.trans (hf p a))

theorem putBytes_wf (m : List Host.Cell) (a : Nat) (l : List Byte) (h : mapWf (fun _ => 0#8) m = true) :
    mapWf (fun _ => 0#8) (putBytes m a l) = true := by
  induction l generalizing m a with
  | nil => exact h
  | cons b t ih => exact ih _ _ (mapWf_mapSet _ h)

theorem clearJunk_mem (m : Mem) (u : Nat) : (m.clearJunk u).mem = m.mem := by
  unfold Mem.clearJunk; split <;> rfl

/-- Storing a unit keeps the canonical form. -/
theorem Mem.putUnit_wf (m : Mem) (u : Nat) (d : List Byte) (c : Quad) (h : m.wf = true) : (m.putUnit u d c).wf = true := by
  unfold Mem.wf at *
  simp only [Bool.and_eq_true] at h ⊢
  exact ⟨putBytes_wf _ _ _ h.1, mapWf_mapSet _ h.2⟩

/-- A store of a unit in the fabric. -/
theorem Keeps.putUnit {s t u : State} (h : Keeps s t) (a : Nat) (d : List Byte) (c : Quad) (hp : u.pending = t.pending)
    (hm : u.mm = t.mm.putUnit a d c) (hs : u.se = t.se) : Keeps s u :=
  h.trans ⟨hp, fun w => by rw [hm]; exact Mem.putUnit_wf _ _ _ _ w, by rw [hs]; exact Sec.FusesKept.refl _⟩

/-- Memory that loses part of what it holds. -/
theorem Keeps.cut {s t u : State} (h : Keeps s t) (p q : Nat × _ → Bool) (hp : u.pending = t.pending)
    (hm : u.mm.mem = t.mm.mem.filter p) (hc : u.mm.chk = t.mm.chk.filter q) (hs : u.se = t.se) : Keeps s u :=
  h.trans ⟨hp, fun w => by
    unfold Mem.wf at *
    simp only [Bool.and_eq_true] at w ⊢
    rw [hm, hc]
    exact ⟨mapWf_filter _ _ w.1, mapWf_filter _ _ w.2⟩, by rw [hs]; exact Sec.FusesKept.refl _⟩

end Sys2Proof.Machine
end

