-- ==== Sys2Proof/Laws/KeepsRegs.lean ====
section
/-! SUPPORT. What the operations of Machine/Regs.lean keep. -/
namespace Sys2Proof.Machine

theorem State.setReg_keeps (s : State) (r : Reg) (p i : Nat) (v : Word) : Keeps s (State.setReg s r p i v) := by
  unfold State.setReg
  repeat' first
    | with_reducible exact Keeps.refl _
    | fail_if_no_progress (with_reducible refine Keeps.mk ?_ rfl rfl rfl rfl rfl rfl)

theorem State.setFld_keeps (s : State) (r : Reg) (p hi lo x : Nat) : Keeps s (State.setFld s r p hi lo x) := by
  unfold State.setFld
  repeat' first
    | with_reducible exact Keeps.refl _
    | with_reducible apply Keeps.trans ?_ (State.setReg_keeps ..)

theorem State.setBit_keeps (s : State) (r : Reg) (p n : Nat) (b : Bool) : Keeps s (State.setBit s r p n b) := by
  unfold State.setBit
  repeat' first
    | with_reducible exact Keeps.refl _
    | with_reducible apply Keeps.trans ?_ (State.setFld_keeps ..)

theorem State.orReg_keeps (s : State) (r : Reg) (p m : Nat) : Keeps s (State.orReg s r p m) := by
  unfold State.orReg
  repeat' first
    | with_reducible exact Keeps.refl _
    | with_reducible apply Keeps.trans ?_ (State.setReg_keeps ..)

theorem State.bump_keeps (s : State) (r : Reg) (p n : Nat) : Keeps s (State.bump s r p n) := by
  refine Keeps.mk ?_ rfl rfl rfl rfl rfl rfl
  exact Keeps.refl _

theorem State.bumpFree_keeps (s : State) (r : Reg) (p n : Nat) : Keeps s (State.bumpFree s r p n) := by
  unfold State.bumpFree
  refine Keeps.mk ?_ rfl rfl rfl rfl rfl rfl
  exact Keeps.refl _

end Sys2Proof.Machine
end

