-- ==== Sys2Proof/Laws/KeepsOps.lean ====
section
/-! SUPPORT. What the operations of Machine/Ops.lean keep. -/
namespace Sys2Proof.Machine

theorem State.draw_keeps (s : State) : Keeps s (State.draw s).1 := by
  unfold State.draw
  repeat' first
    | with_reducible exact Keeps.refl _
    | dsimp only
    | fail_if_no_progress (with_reducible refine Keeps.mk ?_ rfl rfl rfl rfl rfl rfl)

theorem State.send_keeps (s : State) (frm dest : Nat) (m : Instr) : Keeps s (State.send s frm dest m) := by
  unfold State.send
  repeat' first
    | with_reducible exact Keeps.refl _
    | fail_if_no_progress (with_reducible refine Keeps.mk ?_ rfl rfl rfl rfl rfl rfl)

theorem State.sendOnce_keeps (s : State) (frm dest : Nat) (m : Instr) : Keeps s (State.sendOnce s frm dest m) := by
  unfold State.sendOnce
  repeat' first
    | with_reducible exact Keeps.refl _
    | with_reducible apply Keeps.trans ?_ (State.send_keeps ..)
    | with_reducible refine Keeps.ite ?_ ?_

theorem State.arrive_keeps (s : State) (m : Instr) (f : State → State) (hf : ∀ (a0 : State), Keeps a0 (f a0)) : Keeps s (State.arrive s m f) := by
  unfold State.arrive
  repeat' first
    | with_reducible exact Keeps.refl _
    | with_reducible apply Keeps.trans ?_ (hf _)
    | with_reducible refine Keeps.ite ?_ ?_
    | split
    | fail_if_no_progress (with_reducible refine Keeps.mk ?_ rfl rfl rfl rfl rfl rfl)

theorem State.setDom_keeps (s : State) (d : Nat) (v : Dom) : Keeps s (State.setDom s d v) := by
  unfold State.setDom
  repeat' first
    | with_reducible exact Keeps.refl _
    | dsimp only
    | fail_if_no_progress (with_reducible refine Keeps.mk ?_ rfl rfl rfl rfl rfl rfl)

theorem State.setReady_keeps (s : State) (d : Nat) (b : Bool) : Keeps s (State.setReady s d b) := by
  unfold State.setReady
  repeat' first
    | with_reducible exact Keeps.refl _
    | with_reducible apply Keeps.trans ?_ (State.setBit_keeps ..)

theorem State.putEvt_keeps (s : State) (i w : Nat) (v : Nat) : Keeps s (State.putEvt s i w v) := by
  unfold State.putEvt
  repeat' first
    | with_reducible exact Keeps.refl _
    | dsimp only
    | fail_if_no_progress (with_reducible refine Keeps.mk ?_ rfl rfl rfl rfl rfl rfl)

theorem State.logLevel_keeps (s : State) : Keeps s (State.logLevel s) := by
  unfold State.logLevel
  repeat' first
    | with_reducible exact Keeps.refl _
    | with_reducible apply Keeps.trans ?_ (State.setBit_keeps ..)

theorem State.logE_keeps (s : State) (e : LogRec) : Keeps s (State.logE s e) := by
  unfold State.logE
  repeat' first
    | with_reducible exact Keeps.refl _
    | with_reducible apply Keeps.trans ?_ (State.setFld_keeps ..)
    | with_reducible apply Keeps.trans ?_ (State.setBit_keeps ..)
    | with_reducible apply Keeps.trans ?_ (State.bump_keeps ..)
    | with_reducible apply Keeps.trans ?_ (State.putEvt_keeps ..)
    | with_reducible apply Keeps.trans ?_ (State.logLevel_keeps ..)
    | with_reducible refine Keeps.ite ?_ ?_
    | dsimp only
    | fail_if_no_progress (with_reducible refine Keeps.mk ?_ rfl rfl rfl rfl rfl rfl)

theorem State.trace_keeps (s : State) (kind island : Nat) (ctx : Option Nat) (ring status opcode cookie detail : Nat) : Keeps s (State.trace s kind island ctx ring status opcode cookie detail) := by
  unfold State.trace
  repeat' first
    | with_reducible exact Keeps.refl _
    | with_reducible apply Keeps.trans ?_ (State.draw_keeps ..)
    | with_reducible apply Keeps.trans ?_ (State.send_keeps ..)
    | with_reducible refine Keeps.ite ?_ ?_

theorem State.putTrace_keeps (s : State) (e : TraceEv) : Keeps s (State.putTrace s e) := by
  unfold State.putTrace
  repeat' first
    | with_reducible exact Keeps.refl _
    | with_reducible apply Keeps.trans ?_ (State.setFld_keeps ..)
    | with_reducible apply Keeps.trans ?_ (State.putEvt_keeps ..)
    | dsimp only
    | fail_if_no_progress (with_reducible refine Keeps.mk ?_ rfl rfl rfl rfl rfl rfl)

theorem State.stopTrace_keeps (s : State) : Keeps s (State.stopTrace s) := by
  unfold State.stopTrace
  repeat' first
    | with_reducible exact Keeps.refl _
    | with_reducible apply Keeps.trans ?_ (State.setBit_keeps ..)
    | with_reducible apply Keeps.trans ?_ (State.orReg_keeps ..)
    | with_reducible refine Keeps.ite ?_ ?_
    | dsimp only
    | fail_if_no_progress (with_reducible refine Keeps.mk ?_ rfl rfl rfl rfl rfl rfl)

theorem State.writeTrace_keeps (s : State) (e : TraceEv) : Keeps s (State.writeTrace s e) := by
  unfold State.writeTrace
  repeat' first
    | with_reducible exact Keeps.refl _
    | with_reducible apply Keeps.trans ?_ (State.putTrace_keeps ..)
    | with_reducible apply Keeps.trans ?_ (State.stopTrace_keeps ..)
    | with_reducible refine Keeps.ite ?_ ?_

theorem idleTick_keeps (s : State) : Keeps s (idleTick s) := by
  unfold idleTick
  repeat' first
    | with_reducible exact Keeps.refl _
    | with_reducible apply Keeps.trans ?_ (State.setReg_keeps ..)
    | with_reducible apply Keeps.trans ?_ (State.writeTrace_keeps ..)
    | dsimp only
    | split
    | fail_if_no_progress (with_reducible refine Keeps.mk ?_ rfl rfl rfl rfl rfl rfl)

theorem State.injFired_keeps (s : State) (island addr : Nat) : Keeps s (State.injFired s island addr) := by
  unfold State.injFired
  repeat' first
    | with_reducible exact Keeps.refl _
    | with_reducible apply Keeps.trans ?_ (State.setBit_keeps ..)
    | with_reducible apply Keeps.trans ?_ (State.logE_keeps ..)

theorem State.loadUnit_keeps (s : State) (bpu : Bool) (u : Nat) : Keeps s (State.loadUnit s bpu u).1 := by
  unfold State.loadUnit
  repeat' first
    | with_reducible exact Keeps.refl _
    | with_reducible apply Keeps.trans ?_ (State.injFired_keeps ..)
    | with_reducible refine Keeps.itePair ?_ ?_

theorem State.storeUnit_keeps (s : State) (u : Nat) (data : List Byte) : Keeps s (State.storeUnit s u data) := by
  unfold State.storeUnit
  with_reducible refine Keeps.ite ?_ ?_
  · dsimp only
    with_reducible apply Keeps.trans ?_ (State.injFired_keeps ..)
    exact Keeps.putUnit (Keeps.refl s) _ _ _ rfl rfl rfl
  · exact Keeps.putUnit (Keeps.refl s) _ _ _ rfl rfl rfl

theorem State.storePoison_keeps (s : State) (u : Nat) : Keeps s (State.storePoison s u) :=
  Keeps.putUnit (Keeps.refl s) _ _ _ rfl rfl rfl

theorem State.setChan_keeps (s : State) (st ch : Nat) (c : Chan) : Keeps s (State.setChan s st ch c) := by
  unfold State.setChan
  repeat' first
    | with_reducible exact Keeps.refl _
    | dsimp only
    | fail_if_no_progress (with_reducible refine Keeps.mk ?_ rfl rfl rfl rfl rfl rfl)

theorem State.modChan_keeps (s : State) (st ch : Nat) (f : Chan → Chan) : Keeps s (State.modChan s st ch f) := by
  unfold State.modChan
  repeat' first
    | with_reducible exact Keeps.refl _
    | with_reducible apply Keeps.trans ?_ (State.setChan_keeps ..)

theorem State.awaitBoundary_keeps (s : State) (f : State → State) (hf : ∀ (a0 : State), Keeps a0 (f a0)) : Keeps s (State.awaitBoundary s f) := by
  unfold State.awaitBoundary
  repeat' first
    | with_reducible exact Keeps.refl _
    | with_reducible apply Keeps.trans ?_ (hf _)
    | with_reducible refine Keeps.ite ?_ ?_
    | dsimp only
    | fail_if_no_progress (with_reducible refine Keeps.mk ?_ rfl rfl rfl rfl rfl rfl)

theorem State.setBank_keeps (s : State) (st ch b : Nat) (v : Bank) : Keeps s (State.setBank s st ch b v) := by
  unfold State.setBank
  repeat' first
    | with_reducible exact Keeps.refl _
    | dsimp only
    | fail_if_no_progress (with_reducible refine Keeps.mk ?_ rfl rfl rfl rfl rfl rfl)

theorem State.modBank_keeps (s : State) (st ch b : Nat) (f : Bank → Bank) : Keeps s (State.modBank s st ch b f) := by
  unfold State.modBank
  repeat' first
    | with_reducible exact Keeps.refl _
    | with_reducible apply Keeps.trans ?_ (State.setBank_keeps ..)

theorem State.eachBank_keeps (s : State) (st ch : Nat) (f : Bank → Bank) : Keeps s (State.eachBank s st ch f) := by
  unfold State.eachBank
  repeat' first
    | with_reducible exact Keeps.refl _
    | with_reducible apply Keeps.trans ?_ (State.modBank_keeps ..)
    | with_reducible refine Keeps.fold _ _ ?_ (fun _ _ => ?_)

theorem State.heathBurst_keeps (s : State) (u : Nat) (rd : Bool) : Keeps s (State.heathBurst s u rd) := by
  unfold State.heathBurst
  repeat' first
    | with_reducible exact Keeps.refl _
    | with_reducible apply Keeps.trans ?_ (State.bumpFree_keeps ..)
    | with_reducible apply Keeps.trans ?_ (State.draw_keeps ..)
    | with_reducible refine Keeps.ite ?_ ?_
    | dsimp only
    | split
    | fail_if_no_progress (with_reducible refine Keeps.mk ?_ rfl rfl rfl rfl rfl rfl)

theorem State.loadUnits_keeps (s : State) (us : List Nat) : Keeps s (State.loadUnits s us).1 := by
  unfold State.loadUnits
  repeat' first
    | with_reducible exact Keeps.refl _
    | with_reducible apply Keeps.trans ?_ (State.loadUnit_keeps ..)
    | with_reducible refine Keeps.foldPair _ _ ?_ (fun _ _ => ?_)

theorem State.flushPair_keeps (s : State) (l : WLine) (b : Nat) : Keeps s (State.flushPair s l b) := by
  unfold State.flushPair
  repeat' first
    | with_reducible exact Keeps.refl _
    | with_reducible apply Keeps.trans ?_ (State.logE_keeps ..)
    | with_reducible apply Keeps.trans ?_ (State.storeUnit_keeps ..)
    | with_reducible apply Keeps.trans ?_ (State.storePoison_keeps ..)
    | with_reducible apply Keeps.trans ?_ (State.loadUnits_keeps ..)
    | with_reducible refine Keeps.fold _ _ ?_ (fun _ _ => ?_)
    | with_reducible refine Keeps.ite ?_ ?_
    | dsimp only
    | split

theorem State.flushLine_keeps (s : State) (l : WLine) : Keeps s (State.flushLine s l) := by
  unfold State.flushLine
  repeat' first
    | with_reducible exact Keeps.refl _
    | with_reducible apply Keeps.trans ?_ (State.bump_keeps ..)
    | with_reducible apply Keeps.trans ?_ (State.heathBurst_keeps ..)
    | with_reducible apply Keeps.trans ?_ (State.flushPair_keeps ..)
    | with_reducible refine Keeps.fold _ _ ?_ (fun _ _ => ?_)
    | with_reducible refine Keeps.ite ?_ ?_
    | split

theorem State.flushBase_keeps (s : State) (h b : Nat) : Keeps s (State.flushBase s h b) := by
  unfold State.flushBase
  repeat' first
    | with_reducible exact Keeps.refl _
    | with_reducible apply Keeps.trans ?_ (State.flushLine_keeps ..)
    | split
    | fail_if_no_progress (with_reducible refine Keeps.mk ?_ rfl rfl rfl rfl rfl rfl)

theorem State.flushHome_keeps (s : State) (h : Nat) : Keeps s (State.flushHome s h) := by
  unfold State.flushHome
  repeat' first
    | with_reducible exact Keeps.refl _
    | with_reducible apply Keeps.trans ?_ (State.flushBase_keeps ..)
    | with_reducible refine Keeps.fold _ _ ?_ (fun _ _ => ?_)

theorem State.flushBank_keeps (s : State) (st ch bank : Nat) : Keeps s (State.flushBank s st ch bank) := by
  unfold State.flushBank
  repeat' first
    | with_reducible exact Keeps.refl _
    | with_reducible apply Keeps.trans ?_ (State.flushBase_keeps ..)
    | with_reducible refine Keeps.fold _ _ ?_ (fun _ _ => ?_)
    | with_reducible refine Keeps.ite ?_ ?_

theorem State.mergeMeadow_keeps (s : State) (u : Nat) (ws : List ByteW) : Keeps s (State.mergeMeadow s u ws) := by
  unfold State.mergeMeadow
  repeat' first
    | with_reducible exact Keeps.refl _
    | with_reducible apply Keeps.trans ?_ (State.loadUnit_keeps ..)
    | with_reducible apply Keeps.trans ?_ (State.storeUnit_keeps ..)
    | with_reducible apply Keeps.trans ?_ (State.storePoison_keeps ..)
    | with_reducible refine Keeps.ite ?_ ?_

theorem State.mergeLine_keeps (s : State) (h b : Nat) (ws : List ByteW) : Keeps s (State.mergeLine s h b ws) := by
  unfold State.mergeLine
  repeat' first
    | with_reducible exact Keeps.refl _
    | with_reducible apply Keeps.trans ?_ (State.flushLine_keeps ..)
    | with_reducible apply Keeps.trans ?_ (State.flushBase_keeps ..)
    | with_reducible refine Keeps.ite ?_ ?_
    | dsimp only
    | split
    | fail_if_no_progress (with_reducible refine Keeps.mk ?_ rfl rfl rfl rfl rfl rfl)

theorem State.mergeGroup_keeps (s : State) (u : Nat) (ws : List ByteW) : Keeps s (State.mergeGroup s u ws) := by
  unfold State.mergeGroup
  split
  · exact State.mergeMeadow_keeps ..
  · exact State.mergeLine_keeps ..
  · exact State.mergeLine_keeps ..
  · exact Keeps.refl _

theorem State.writeBytes_keeps (s : State) (ws : List ByteW) : Keeps s (State.writeBytes s ws) := by
  unfold State.writeBytes
  exact Keeps.fold _ _ (Keeps.refl _) (fun _ _ => State.mergeGroup_keeps ..)

theorem State.writePoison_keeps (s : State) (u : Nat) : Keeps s (State.writePoison s u) := by
  unfold State.writePoison
  repeat' first
    | with_reducible exact Keeps.refl _
    | with_reducible apply Keeps.trans ?_ (State.storePoison_keeps ..)
    | split
    | fail_if_no_progress (with_reducible refine Keeps.mk ?_ rfl rfl rfl rfl rfl rfl)

theorem State.readUnit_keeps (s : State) (u : Nat) : Keeps s (State.readUnit s u).1 := by
  unfold State.readUnit
  repeat' first
    | with_reducible exact Keeps.refl _
    | with_reducible apply Keeps.trans ?_ (State.loadUnit_keeps ..)
    | with_reducible apply Keeps.trans ?_ (State.heathBurst_keeps ..)
    | with_reducible refine Keeps.itePair ?_ ?_

theorem State.report_keeps (s : State) (r : PReport) : Keeps s (State.report s r) := by
  unfold State.report
  repeat' first
    | with_reducible exact Keeps.refl _
    | with_reducible apply Keeps.trans ?_ (State.sendOnce_keeps ..)

theorem State.readRun_keeps (s : State) (a n : Nat) : Keeps s (State.readRun s a n).1 := by
  unfold State.readRun
  repeat' first
    | with_reducible exact Keeps.refl _
    | with_reducible apply Keeps.trans ?_ (State.readUnit_keeps ..)
    | with_reducible refine Keeps.fold _ _ ?_ (fun _ _ => ?_)
    | with_reducible refine Keeps.foldPair _ _ ?_ (fun _ _ => ?_)

end Sys2Proof.Machine
end

