-- ==== Sys2Proof/Laws/KeepsRanges.lean ====
section
/-! SUPPORT. What the operations of Machine/Ranges.lean keep. -/
namespace Sys2Proof.Machine

theorem State.rangeStart_keeps (s : State) (q : RangeReq) : Keeps s (State.rangeStart s q) := by
  unfold State.rangeStart
  repeat' first
    | with_reducible exact Keeps.refl _
    | with_reducible apply Keeps.trans ?_ (State.setBit_keeps ..)
    | with_reducible refine Keeps.ite ?_ ?_
    | dsimp only
    | fail_if_no_progress (with_reducible refine Keeps.mk ?_ rfl rfl rfl rfl rfl rfl)

theorem State.rangeNone_keeps (s : State) : Keeps s (State.rangeNone s) := by
  unfold State.rangeNone
  repeat' first
    | with_reducible exact Keeps.refl _
    | with_reducible apply Keeps.trans ?_ (State.setBit_keeps ..)
    | with_reducible refine Keeps.ite ?_ ?_

theorem State.rangeFinish_keeps (s : State) : Keeps s (State.rangeFinish s) := by
  unfold State.rangeFinish
  repeat' first
    | with_reducible exact Keeps.refl _
    | with_reducible apply Keeps.trans ?_ (State.setFld_keeps ..)
    | with_reducible apply Keeps.trans ?_ (State.setBit_keeps ..)
    | dsimp only
    | split
    | fail_if_no_progress (with_reducible refine Keeps.mk ?_ rfl rfl rfl rfl rfl rfl)

end Sys2Proof.Machine
end

