-- ==== Sys2Proof/Laws/KeepsTasks.lean ====
section
/-! SUPPORT. What the operations of Machine/Tasks.lean keep. -/
namespace Sys2Proof.Machine

theorem State.setCtx_keeps (s : State) (x : Nat) (c : Option Ctx) : Keeps s (State.setCtx s x c) := by
  unfold State.setCtx
  repeat' first
    | with_reducible exact Keeps.refl _
    | dsimp only
    | split
    | fail_if_no_progress (with_reducible refine Keeps.mk ?_ rfl rfl rfl rfl rfl rfl)

theorem State.modCtx_keeps (s : State) (x : Nat) (f : Ctx → Ctx) : Keeps s (State.modCtx s x f) := by
  unfold State.modCtx
  repeat' first
    | with_reducible exact Keeps.refl _
    | with_reducible apply Keeps.trans ?_ (State.setCtx_keeps ..)
    | split

theorem State.putTask_keeps (s : State) (t : Nat) (k : Task) : Keeps s (State.putTask s t k) := by
  unfold State.putTask
  repeat' first
    | with_reducible exact Keeps.refl _
    | dsimp only
    | fail_if_no_progress (with_reducible refine Keeps.mk ?_ rfl rfl rfl rfl rfl rfl)

theorem State.dropTask_keeps (s : State) (t : Nat) : Keeps s (State.dropTask s t) := by
  unfold State.dropTask
  repeat' first
    | with_reducible exact Keeps.refl _
    | dsimp only
    | fail_if_no_progress (with_reducible refine Keeps.mk ?_ rfl rfl rfl rfl rfl rfl)

theorem State.modTask_keeps (s : State) (t : Nat) (f : Task → Task) : Keeps s (State.modTask s t f) := by
  unfold State.modTask
  repeat' first
    | with_reducible exact Keeps.refl _
    | with_reducible apply Keeps.trans ?_ (State.putTask_keeps ..)
    | split

theorem State.noAnswerTask_keeps (s : State) (t island : Nat) : Keeps s (State.noAnswerTask s t island) := by
  unfold State.noAnswerTask
  repeat' first
    | with_reducible exact Keeps.refl _
    | with_reducible apply Keeps.trans ?_ (State.bump_keeps ..)
    | with_reducible apply Keeps.trans ?_ (State.modTask_keeps ..)

theorem State.reportBad_keeps (s : State) (i : Issuer) (audit : Bool) (u : Nat) (o : Outc) : Keeps s (State.reportBad s i audit u o) := by
  unfold State.reportBad
  repeat' first
    | with_reducible exact Keeps.refl _
    | with_reducible apply Keeps.trans ?_ (State.report_keeps ..)
    | dsimp only
    | split

theorem State.reportBads_keeps (s : State) (i : Issuer) (audit : Bool) (l : List (Nat × Outc)) : Keeps s (State.reportBads s i audit l) := by
  unfold State.reportBads
  repeat' first
    | with_reducible exact Keeps.refl _
    | with_reducible apply Keeps.trans ?_ (State.reportBad_keeps ..)
    | with_reducible refine Keeps.fold _ _ ?_ (fun _ _ => ?_)

end Sys2Proof.Machine
end

