-- ==== Sys2Proof/Laws/KeepsSlots.lean ====
section
/-! SUPPORT. What the operations of Machine/Slots.lean keep. -/
namespace Sys2Proof.Machine

theorem State.setSlot_keeps (s : State) (k : Nat) (v : Slot) : Keeps s (State.setSlot s k v) := by
  unfold State.setSlot
  repeat' first
    | with_reducible exact Keeps.refl _
    | dsimp only
    | fail_if_no_progress (with_reducible refine Keeps.mk ?_ rfl rfl rfl rfl rfl rfl)

theorem State.meetRepair_keeps (s : State) (i : Issuer) (a : Nat) : Keeps s (State.meetRepair s i a).1 := by
  unfold State.meetRepair
  repeat' first
    | with_reducible exact Keeps.refl _
    | with_reducible refine Keeps.itePair ?_ ?_
    | dsimp only
    | split
    | fail_if_no_progress (with_reducible refine Keeps.mk ?_ rfl rfl rfl rfl rfl rfl)

theorem State.setLink_keeps (s : State) (l : Nat) (v : Link) : Keeps s (State.setLink s l v) := by
  unfold State.setLink
  repeat' first
    | with_reducible exact Keeps.refl _
    | dsimp only
    | fail_if_no_progress (with_reducible refine Keeps.mk ?_ rfl rfl rfl rfl rfl rfl)

theorem State.sendFlit_keeps (s : State) (l : Nat) : Keeps s (State.sendFlit s l) := by
  unfold State.sendFlit
  repeat' first
    | with_reducible exact Keeps.refl _
    | with_reducible apply Keeps.trans ?_ (State.setBit_keeps ..)
    | with_reducible apply Keeps.trans ?_ (State.setLink_keeps ..)

theorem State.trySource_keeps (s : State) (k : Nat) : Keeps s (State.trySource s k) := by
  unfold State.trySource
  repeat' first
    | with_reducible exact Keeps.refl _
    | with_reducible apply Keeps.trans ?_ (State.setBit_keeps ..)
    | with_reducible apply Keeps.trans ?_ (State.setSlot_keeps ..)
    | with_reducible refine Keeps.ite ?_ ?_
    | dsimp only
    | split

theorem State.releaseHeld_keeps (s : State) (k : Nat) (l : List Held) : Keeps s (State.releaseHeld s k l) := by
  unfold State.releaseHeld
  repeat' first
    | with_reducible exact Keeps.refl _
    | with_reducible apply Keeps.trans ?_ (State.send_keeps ..)
    | with_reducible apply Keeps.trans ?_ (State.modCtx_keeps ..)
    | with_reducible refine Keeps.fold _ _ ?_ (fun _ _ => ?_)
    | split

theorem State.logReport_keeps (s : State) (r : PReport) (k : Nat) : Keeps s (State.logReport s r k) := by
  unfold State.logReport
  repeat' first
    | with_reducible exact Keeps.refl _
    | with_reducible apply Keeps.trans ?_ (State.logE_keeps ..)

theorem State.noteHeld_keeps (s : State) (k : Nat) (l : List Held) : Keeps s (State.noteHeld s k l) := by
  unfold State.noteHeld
  repeat' first
    | with_reducible exact Keeps.refl _
    | with_reducible apply Keeps.trans ?_ (State.modTask_keeps ..)
    | with_reducible refine Keeps.fold _ _ ?_ (fun _ _ => ?_)
    | split

theorem State.assignSlot_keeps (s : State) (k : Nat) (a : Nat) (island : Nat) (hs : List Held) : Keeps s (State.assignSlot s k a island hs) := by
  unfold State.assignSlot
  repeat' first
    | with_reducible exact Keeps.refl _
    | with_reducible apply Keeps.trans ?_ (State.setBit_keeps ..)
    | with_reducible apply Keeps.trans ?_ (State.logE_keeps ..)
    | with_reducible apply Keeps.trans ?_ (State.writePoison_keeps ..)
    | with_reducible apply Keeps.trans ?_ (State.setSlot_keeps ..)
    | with_reducible apply Keeps.trans ?_ (State.trySource_keeps ..)
    | with_reducible apply Keeps.trans ?_ (State.noteHeld_keeps ..)
    | dsimp only
    | split

theorem State.takeReport_keeps (s : State) (r : PReport) : Keeps s (State.takeReport s r) := by
  unfold State.takeReport
  repeat' first
    | with_reducible exact Keeps.refl _
    | with_reducible apply Keeps.trans ?_ (State.setSlot_keeps ..)
    | with_reducible apply Keeps.trans ?_ (State.logReport_keeps ..)
    | with_reducible apply Keeps.trans ?_ (State.noteHeld_keeps ..)
    | with_reducible apply Keeps.trans ?_ (State.assignSlot_keeps ..)
    | with_reducible refine Keeps.ite ?_ ?_
    | dsimp only
    | split
    | fail_if_no_progress (with_reducible refine Keeps.mk ?_ rfl rfl rfl rfl rfl rfl)

theorem State.serveQueue_keeps (s : State) (l : List PReport) : Keeps s (State.serveQueue s l) := by
  induction l generalizing s with
  | nil =>
    unfold State.serveQueue
    repeat' first
      | with_reducible exact Keeps.refl _
  | cons r t ih =>
    unfold State.serveQueue
    repeat' first
      | with_reducible exact Keeps.refl _
      | with_reducible apply Keeps.trans ?_ (ih _)
      | with_reducible apply Keeps.trans ?_ (State.setSlot_keeps ..)
      | with_reducible apply Keeps.trans ?_ (State.noteHeld_keeps ..)
      | with_reducible apply Keeps.trans ?_ (State.assignSlot_keeps ..)
      | dsimp only
      | split
      | fail_if_no_progress (with_reducible refine Keeps.mk ?_ rfl rfl rfl rfl rfl rfl)

theorem State.emptySlot_keeps (s : State) (k : Nat) : Keeps s (State.emptySlot s k) := by
  unfold State.emptySlot
  repeat' first
    | with_reducible exact Keeps.refl _
    | with_reducible apply Keeps.trans ?_ (State.setSlot_keeps ..)
    | with_reducible apply Keeps.trans ?_ (State.serveQueue_keeps ..)
    | dsimp only
    | fail_if_no_progress (with_reducible refine Keeps.mk ?_ rfl rfl rfl rfl rfl rfl)

theorem State.repairDone_keeps (s : State) (k src : Nat) : Keeps s (State.repairDone s k src) := by
  unfold State.repairDone
  repeat' first
    | with_reducible exact Keeps.refl _
    | with_reducible apply Keeps.trans ?_ (State.setBit_keeps ..)
    | with_reducible apply Keeps.trans ?_ (State.logE_keeps ..)
    | with_reducible apply Keeps.trans ?_ (State.releaseHeld_keeps ..)
    | with_reducible apply Keeps.trans ?_ (State.emptySlot_keeps ..)

end Sys2Proof.Machine
end

