-- ==== Sys2Proof/Laws/KeepsRows.lean ====
section
/-! SUPPORT. What the operations of Machine/Rows.lean keep. -/
namespace Sys2Proof.Machine

theorem State.rfmBank_keeps (s : State) (st ch b : Nat) : Keeps s (State.rfmBank s st ch b) := by
  unfold State.rfmBank
  repeat' first
    | with_reducible exact Keeps.refl _
    | with_reducible apply Keeps.trans ?_ (State.trace_keeps ..)
    | with_reducible apply Keeps.trans ?_ (State.modBank_keeps ..)

theorem State.rfmOne_keeps (s : State) (st ch b : Nat) : Keeps s (State.rfmOne s st ch b) := by
  unfold State.rfmOne
  repeat' first
    | with_reducible exact Keeps.refl _
    | with_reducible apply Keeps.trans ?_ (State.bump_keeps ..)
    | with_reducible apply Keeps.trans ?_ (State.rfmBank_keeps ..)

theorem State.activate_keeps (s : State) (st ch b row : Nat) : Keeps s (State.activate s st ch b row) := by
  unfold State.activate
  repeat' first
    | with_reducible exact Keeps.refl _
    | with_reducible apply Keeps.trans ?_ (State.setBank_keeps ..)
    | with_reducible apply Keeps.trans ?_ (State.rfmOne_keeps ..)
    | with_reducible refine Keeps.ite ?_ ?_

theorem State.ordRows_keeps (s : State) (a n : Nat) : Keeps s (State.ordRows s a n) := by
  unfold State.ordRows
  repeat' first
    | with_reducible exact Keeps.refl _
    | with_reducible apply Keeps.trans ?_ (State.modBank_keeps ..)
    | with_reducible apply Keeps.trans ?_ (State.activate_keeps ..)
    | with_reducible refine Keeps.fold _ _ ?_ (fun _ _ => ?_)
    | with_reducible refine Keeps.ite ?_ ?_
    | dsimp only
    | split

end Sys2Proof.Machine
end

