-- ==== Sys2Proof/Laws/KeepsMem.lean ====
section
/-! SUPPORT. What the operations of Machine/Mem.lean keep. -/
namespace Sys2Proof.Machine

theorem State.setAcks_keeps (s : State) (k n : Nat) : Keeps s (State.setAcks s k n) := by
  unfold State.setAcks
  repeat' first
    | with_reducible exact Keeps.refl _
    | dsimp only
    | fail_if_no_progress (with_reducible refine Keeps.mk ?_ rfl rfl rfl rfl rfl rfl)

theorem State.sendAck_keeps (s : State) (a : Nat) (i : Issuer) : Keeps s (State.sendAck s a i) := by
  unfold State.sendAck
  repeat' first
    | with_reducible exact Keeps.refl _
    | with_reducible apply Keeps.trans ?_ (State.send_keeps ..)
    | with_reducible apply Keeps.trans ?_ (State.setAcks_keeps ..)
    | split

theorem State.setBucket_keeps (s : State) (h p : Nat) (b : Bucket) : Keeps s (State.setBucket s h p b) := by
  unfold State.setBucket
  repeat' first
    | with_reducible exact Keeps.refl _
    | dsimp only
    | fail_if_no_progress (with_reducible refine Keeps.mk ?_ rfl rfl rfl rfl rfl rfl)

theorem State.charge_keeps (s : State) (p a n : Nat) : Keeps s (State.charge s p a n) := by
  unfold State.charge
  repeat' first
    | with_reducible exact Keeps.refl _
    | with_reducible apply Keeps.trans ?_ (State.setBucket_keeps ..)
    | with_reducible refine Keeps.ite ?_ ?_

theorem State.chargeFor_keeps (s : State) (i : Issuer) (pairs : List Nat) : Keeps s (State.chargeFor s i pairs) := by
  unfold State.chargeFor
  repeat' first
    | with_reducible exact Keeps.refl _
    | with_reducible apply Keeps.trans ?_ (State.charge_keeps ..)
    | with_reducible refine Keeps.fold _ _ ?_ (fun _ _ => ?_)
    | dsimp only
    | split

theorem State.addOne_keeps (s : State) (t : EType) (a : Nat) (x : Nat) (bad : Bool) : Keeps s (State.addOne s t a x bad).1 := by
  unfold State.addOne
  repeat' first
    | with_reducible exact Keeps.refl _
    | with_reducible apply Keeps.trans ?_ (State.writeBytes_keeps ..)
    | with_reducible apply Keeps.trans ?_ (State.writePoison_keeps ..)
    | with_reducible apply Keeps.trans ?_ (State.readUnit_keeps ..)
    | with_reducible refine Keeps.itePair ?_ ?_

theorem State.settleLines_keeps (s : State) (a n : Nat) (scatter : Bool) : Keeps s (State.settleLines s a n scatter) := by
  unfold State.settleLines
  repeat' first
    | with_reducible exact Keeps.refl _
    | with_reducible apply Keeps.trans ?_ (State.draw_keeps ..)
    | with_reducible apply Keeps.trans ?_ (State.writeBytes_keeps ..)
    | with_reducible apply Keeps.trans ?_ (State.writePoison_keeps ..)
    | with_reducible refine Keeps.fold _ _ ?_ (fun _ _ => ?_)
    | dsimp only
    | fail_if_no_progress (with_reducible refine Keeps.mk ?_ rfl rfl rfl rfl rfl rfl)

theorem State.setSats_keeps (s : State) (d n : Nat) : Keeps s (State.setSats s d n) := by
  unfold State.setSats
  repeat' first
    | with_reducible exact Keeps.refl _
    | dsimp only
    | fail_if_no_progress (with_reducible refine Keeps.mk ?_ rfl rfl rfl rfl rfl rfl)

theorem State.addRun_keeps (s : State) (i : Issuer) (a : Nat) (et : BitVec 5) (data : List Byte) (bad : Bool) : Keeps s (State.addRun s i a et data bad) := by
  unfold State.addRun
  repeat' first
    | with_reducible exact Keeps.refl _
    | with_reducible apply Keeps.trans ?_ (State.modTask_keeps ..)
    | with_reducible apply Keeps.trans ?_ (State.reportBad_keeps ..)
    | with_reducible apply Keeps.trans ?_ (State.addOne_keeps ..)
    | with_reducible apply Keeps.trans ?_ (State.settleLines_keeps ..)
    | with_reducible apply Keeps.trans ?_ (State.setSats_keeps ..)
    | with_reducible refine Keeps.foldPair _ _ ?_ (fun _ _ => ?_)
    | dsimp only
    | split

theorem State.serveReq_keeps (s : State) (q : MemReq) : Keeps s (State.serveReq s q) := by
  unfold State.serveReq
  repeat' first
    | with_reducible exact Keeps.refl _
    | with_reducible apply Keeps.trans ?_ (State.writeBytes_keeps ..)
    | with_reducible apply Keeps.trans ?_ (State.writePoison_keeps ..)
    | with_reducible apply Keeps.trans ?_ (State.readRun_keeps ..)
    | with_reducible apply Keeps.trans ?_ (State.reportBads_keeps ..)
    | with_reducible apply Keeps.trans ?_ (State.ordRows_keeps ..)
    | with_reducible apply Keeps.trans ?_ (State.sendAck_keeps ..)
    | with_reducible apply Keeps.trans ?_ (State.addRun_keeps ..)
    | with_reducible refine Keeps.fold _ _ ?_ (fun _ _ => ?_)
    | with_reducible refine Keeps.ite ?_ ?_
    | dsimp only
    | split
    | fail_if_no_progress (with_reducible refine Keeps.mk ?_ rfl rfl rfl rfl rfl rfl)

theorem State.serveStalled_keeps (s : State) : Keeps s (State.serveStalled s) := by
  unfold State.serveStalled
  repeat' first
    | with_reducible exact Keeps.refl _
    | with_reducible apply Keeps.trans ?_ (State.serveReq_keeps ..)
    | with_reducible refine Keeps.fold _ _ ?_ (fun _ _ => ?_)
    | dsimp only
    | fail_if_no_progress (with_reducible refine Keeps.mk ?_ rfl rfl rfl rfl rfl rfl)

theorem State.beforeWhole_keeps (s : State) (ks : List Nat) : Keeps s (State.beforeWhole s ks) := by
  unfold State.beforeWhole
  repeat' first
    | with_reducible exact Keeps.refl _
    | with_reducible apply Keeps.trans ?_ (State.sendAck_keeps ..)
    | with_reducible apply Keeps.trans ?_ (State.serveReq_keeps ..)
    | with_reducible refine Keeps.fold _ _ ?_ (fun _ _ => ?_)
    | with_reducible refine Keeps.ite ?_ ?_
    | dsimp only
    | fail_if_no_progress (with_reducible refine Keeps.mk ?_ rfl rfl rfl rfl rfl rfl)

theorem State.pushOrd_keeps (s : State) (st ch : Nat) (q : MemReq) : Keeps s (State.pushOrd s st ch q) := by
  unfold State.pushOrd
  repeat' first
    | with_reducible exact Keeps.refl _
    | with_reducible apply Keeps.trans ?_ (State.modChan_keeps ..)

theorem State.atStack_keeps (s : State) (st : Nat) (q : MemReq) : Keeps s (State.atStack s st q) := by
  unfold State.atStack
  repeat' first
    | with_reducible exact Keeps.refl _
    | with_reducible apply Keeps.trans ?_ (State.serveReq_keeps ..)
    | with_reducible apply Keeps.trans ?_ (State.pushOrd_keeps ..)
    | with_reducible refine Keeps.ite ?_ ?_
    | split

theorem State.atHome_keeps (s : State) (q : MemReq) : Keeps s (State.atHome s q) := by
  unfold State.atHome
  repeat' first
    | with_reducible exact Keeps.refl _
    | with_reducible apply Keeps.trans ?_ (State.repairDone_keeps ..)
    | with_reducible apply Keeps.trans ?_ (State.serveReq_keeps ..)
    | with_reducible apply Keeps.trans ?_ (State.serveStalled_keeps ..)
    | with_reducible apply Keeps.trans ?_ (State.beforeWhole_keeps ..)
    | with_reducible apply Keeps.trans ?_ (State.atStack_keeps ..)
    | with_reducible refine Keeps.fold _ _ ?_ (fun _ _ => ?_)
    | with_reducible refine Keeps.ite ?_ ?_
    | dsimp only
    | split
    | fail_if_no_progress (with_reducible refine Keeps.mk ?_ rfl rfl rfl rfl rfl rfl)

theorem State.request_keeps (s : State) (q : MemReq) : Keeps s (State.request s q) := by
  unfold State.request
  repeat' first
    | with_reducible exact Keeps.refl _
    | with_reducible apply Keeps.trans ?_ (State.bump_keeps ..)
    | with_reducible apply Keeps.trans ?_ (State.noAnswerTask_keeps ..)
    | with_reducible apply Keeps.trans ?_ (State.atHome_keeps ..)
    | with_reducible apply Keeps.trans ?_ (State.setBucket_keeps ..)
    | with_reducible refine Keeps.ite ?_ ?_
    | dsimp only
    | split

theorem State.readBack_keeps (s : State) (i : Issuer) : Keeps s (State.readBack s i) := by
  unfold State.readBack
  repeat' first
    | with_reducible exact Keeps.refl _
    | with_reducible apply Keeps.trans ?_ (State.modTask_keeps ..)
    | with_reducible refine Keeps.ite ?_ ?_
    | dsimp only
    | split
    | fail_if_no_progress (with_reducible refine Keeps.mk ?_ rfl rfl rfl rfl rfl rfl)

theorem State.waitClocks_keeps (s : State) (b : Bucket) : Keeps s (State.waitClocks s b).1 := by
  unfold State.waitClocks
  repeat' first
    | with_reducible exact Keeps.refl _
    | with_reducible apply Keeps.trans ?_ (State.draw_keeps ..)
    | with_reducible refine Keeps.itePair ?_ ?_

theorem State.refill_keeps (s : State) (h p : Nat) : Keeps s (State.refill s h p) := by
  unfold State.refill
  repeat' first
    | with_reducible exact Keeps.refl _
    | with_reducible apply Keeps.trans ?_ (State.setBucket_keeps ..)
    | with_reducible apply Keeps.trans ?_ (State.atHome_keeps ..)
    | with_reducible apply Keeps.trans ?_ (State.waitClocks_keeps ..)
    | with_reducible refine Keeps.fold _ _ ?_ (fun _ _ => ?_)
    | with_reducible refine Keeps.ite ?_ ?_

theorem State.regulator_keeps (s : State) (v : Word) : Keeps s (State.regulator s v) := by
  unfold State.regulator
  repeat' first
    | with_reducible exact Keeps.refl _
    | with_reducible apply Keeps.trans ?_ (State.atHome_keeps ..)
    | with_reducible apply Keeps.trans ?_ (State.setBucket_keeps ..)
    | with_reducible refine Keeps.fold _ _ ?_ (fun _ _ => ?_)
    | with_reducible refine Keeps.ite ?_ ?_

theorem State.clearWait_keeps (s : State) (late : Nat) : Keeps s (State.clearWait s late) := by
  unfold State.clearWait
  repeat' first
    | with_reducible exact Keeps.refl _
    | with_reducible apply Keeps.trans ?_ (State.setBucket_keeps ..)
    | with_reducible refine Keeps.ite ?_ ?_

theorem State.stallOver_keeps (s : State) (i : Issuer) : Keeps s (State.stallOver s i) := by
  unfold State.stallOver
  repeat' first
    | with_reducible exact Keeps.refl _
    | with_reducible apply Keeps.trans ?_ (State.writePoison_keeps ..)
    | with_reducible apply Keeps.trans ?_ (State.modTask_keeps ..)
    | with_reducible apply Keeps.trans ?_ (State.reportBad_keeps ..)
    | with_reducible apply Keeps.trans ?_ (State.sendAck_keeps ..)
    | with_reducible refine Keeps.fold _ _ ?_ (fun _ _ => ?_)
    | with_reducible refine Keeps.ite ?_ ?_
    | dsimp only
    | split
    | fail_if_no_progress (with_reducible refine Keeps.mk ?_ rfl rfl rfl rfl rfl rfl)

end Sys2Proof.Machine
end

