-- ==== Sys2Proof/Laws/KeepsFlags.lean ====
section
/-! SUPPORT. What the operations of Machine/Flags.lean keep. -/
namespace Sys2Proof.Machine

theorem State.stackInternal_keeps (s : State) (st : Nat) : Keeps s (State.stackInternal s st) := by
  unfold State.stackInternal
  repeat' first
    | with_reducible exact Keeps.refl _
    | with_reducible apply Keeps.trans ?_ (State.draw_keeps ..)
    | with_reducible apply Keeps.trans ?_ (State.logE_keeps ..)

theorem State.bpuMalformed_keeps (s : State) (st ch : Nat) (bs : List Nat) : Keeps s (State.bpuMalformed s st ch bs) := by
  unfold State.bpuMalformed
  repeat' first
    | with_reducible exact Keeps.refl _
    | with_reducible apply Keeps.trans ?_ (State.bump_keeps ..)
    | with_reducible apply Keeps.trans ?_ (State.modBank_keeps ..)
    | with_reducible apply Keeps.trans ?_ (State.stackInternal_keeps ..)
    | with_reducible refine Keeps.fold _ _ ?_ (fun _ _ => ?_)
    | with_reducible refine Keeps.ite ?_ ?_

theorem State.onBanks_keeps (s : State) (st ch : Nat) (bs : List Nat) (f : Bank → Bank) : Keeps s (State.onBanks s st ch bs f) := by
  unfold State.onBanks
  repeat' first
    | with_reducible exact Keeps.refl _
    | with_reducible apply Keeps.trans ?_ (State.modBank_keeps ..)
    | with_reducible refine Keeps.fold _ _ ?_ (fun _ _ => ?_)

theorem State.bpuConflict_keeps (s : State) (st ch : Nat) (bs : List Nat) : Keeps s (State.bpuConflict s st ch bs) := by
  unfold State.bpuConflict
  repeat' first
    | with_reducible exact Keeps.refl _
    | with_reducible apply Keeps.trans ?_ (State.bump_keeps ..)
    | with_reducible apply Keeps.trans ?_ (State.stackInternal_keeps ..)
    | with_reducible apply Keeps.trans ?_ (State.onBanks_keeps ..)
    | with_reducible refine Keeps.ite ?_ ?_

end Sys2Proof.Machine
end

