-- ==== Sys2Proof/Laws/KeepsBanks.lean ====
section
/-! SUPPORT. What the operations of Machine/Banks.lean keep. -/
namespace Sys2Proof.Machine

theorem State.bpuRead_keeps (s : State) (st ch b row col : Nat) : Keeps s (State.bpuRead s st ch b row col).1 := by
  unfold State.bpuRead
  split
  · exact (((State.draw_keeps s).trans (State.draw_keeps _)).trans (State.draw_keeps _)).trans (State.draw_keeps _)
  · have h := State.loadUnit_keeps s true (stackAddr st ch b row col)
    revert h
    generalize State.loadUnit s true (stackAddr st ch b row col) = p
    obtain ⟨u, d⟩ := p
    intro h
    dsimp only at h ⊢
    split
    · exact h
    · exact h.trans (State.modBank_keeps ..)
    · exact (h.trans (State.bump_keeps ..)).trans (State.modBank_keeps ..)

theorem State.bpuReads_keeps (s : State) (st ch b row : Nat) (cols : List Nat) : Keeps s (State.bpuReads s st ch b row cols).1 := by
  unfold State.bpuReads
  repeat' first
    | with_reducible exact Keeps.refl _
    | with_reducible apply Keeps.trans ?_ (State.bpuRead_keeps ..)
    | with_reducible refine Keeps.foldPair _ _ ?_ (fun _ _ => ?_)

theorem State.bpuStep_keeps (s : State) (st ch b row : Nat) (esc : Bool) (x : Step) : Keeps s (State.bpuStep s st ch b row esc x).1 := by
  unfold State.bpuStep
  repeat' first
    | with_reducible exact Keeps.refl _
    | with_reducible apply Keeps.trans ?_ (State.bpuRead_keeps ..)
    | with_reducible refine Keeps.itePair ?_ ?_

theorem State.unlessBusy_keeps (s : State) (st ch : Nat) (hit : Bool) (f : State → List Nat → State) (hf : ∀ (a0 : State) (a1 : List Nat), Keeps a0 (f a0 a1)) : Keeps s (State.unlessBusy s st ch hit f) := by
  unfold State.unlessBusy
  repeat' first
    | with_reducible exact Keeps.refl _
    | with_reducible apply Keeps.trans ?_ (hf _ _)
    | with_reducible apply Keeps.trans ?_ (State.bpuConflict_keeps ..)
    | with_reducible refine Keeps.ite ?_ ?_

theorem State.bsetCmd_keeps (s : State) (st ch : Nat) (w : BitVec 26) : Keeps s (State.bsetCmd s st ch w) := by
  unfold State.bsetCmd
  repeat' first
    | with_reducible exact Keeps.refl _
    | with_reducible apply Keeps.trans ?_ (State.modChan_keeps ..)

theorem State.pcfgCmd_keeps (s : State) (st ch : Nat) (w : BitVec 26) : Keeps s (State.pcfgCmd s st ch w) := by
  unfold State.pcfgCmd
  repeat' first
    | with_reducible exact Keeps.refl _
    | with_reducible apply Keeps.trans ?_ (State.modChan_keeps ..)
    | with_reducible apply Keeps.trans ?_ (State.bpuMalformed_keeps ..)
    | with_reducible apply Keeps.trans ?_ (State.bpuConflict_keeps ..)
    | with_reducible refine Keeps.ite ?_ ?_
    | split

theorem State.bankMpass_keeps (s : State) (st ch b : Nat) (c : PassCfg) (p : PassWord) (row : Nat) : Keeps s (State.bankMpass s st ch b c p row) := by
  unfold State.bankMpass
  repeat' first
    | with_reducible exact Keeps.refl _
    | with_reducible apply Keeps.trans ?_ (State.modBank_keeps ..)
    | with_reducible apply Keeps.trans ?_ (State.bpuStep_keeps ..)
    | with_reducible refine Keeps.foldPair _ _ ?_ (fun _ _ => ?_)
    | with_reducible refine Keeps.ite ?_ ?_
    | fail_if_no_progress (with_reducible refine Keeps.mk ?_ rfl rfl rfl rfl rfl rfl)

theorem State.runPass_keeps (s : State) (st ch : Nat) (c : PassCfg) (p : PassWord) (w : BitVec 26) (bs : List Nat) : Keeps s (State.runPass s st ch c p w bs) := by
  unfold State.runPass
  repeat' first
    | with_reducible exact Keeps.refl _
    | with_reducible apply Keeps.trans ?_ (State.bump_keeps ..)
    | with_reducible apply Keeps.trans ?_ (State.modChan_keeps ..)
    | with_reducible apply Keeps.trans ?_ (State.bankMpass_keeps ..)
    | with_reducible refine Keeps.fold _ _ ?_ (fun _ _ => ?_)
    | split

theorem State.openPass_keeps (s : State) (st ch : Nat) (c : PassCfg) (p : PassWord) (w : BitVec 26) : Keeps s (State.openPass s st ch c p w) := by
  unfold State.openPass
  repeat' first
    | with_reducible exact Keeps.refl _
    | with_reducible apply Keeps.trans ?_ (State.bpuMalformed_keeps ..)
    | with_reducible apply Keeps.trans ?_ (State.runPass_keeps ..)
    | with_reducible refine Keeps.ite ?_ ?_

theorem State.mpassCmd_keeps (s : State) (st ch : Nat) (w : BitVec 26) : Keeps s (State.mpassCmd s st ch w) := by
  unfold State.mpassCmd
  repeat' first
    | with_reducible exact Keeps.refl _
    | with_reducible apply Keeps.trans ?_ (State.bpuMalformed_keeps ..)
    | with_reducible apply Keeps.trans ?_ (State.bpuConflict_keeps ..)
    | with_reducible apply Keeps.trans ?_ (State.openPass_keeps ..)
    | with_reducible refine Keeps.ite ?_ ?_
    | dsimp only
    | split

theorem State.passEndCmd_keeps (s : State) (st ch : Nat) : Keeps s (State.passEndCmd s st ch) := by
  unfold State.passEndCmd
  repeat' first
    | with_reducible exact Keeps.refl _
    | with_reducible apply Keeps.trans ?_ (State.modChan_keeps ..)
    | with_reducible apply Keeps.trans ?_ (State.onBanks_keeps ..)

theorem State.bankLoad_keeps (s : State) (st ch b row : Nat) (cols : List Nat) (r slot : Nat) : Keeps s (State.bankLoad s st ch b row cols r slot) := by
  unfold State.bankLoad
  repeat' first
    | with_reducible exact Keeps.refl _
    | with_reducible apply Keeps.trans ?_ (State.modBank_keeps ..)
    | with_reducible apply Keeps.trans ?_ (State.bpuReads_keeps ..)

theorem State.onOpenRows_keeps (s : State) (st ch : Nat) (f : State → Nat → Nat → State) (bs : List Nat) (hf : ∀ (a0 : State) (a1 : Nat) (a2 : Nat), Keeps a0 (f a0 a1 a2)) : Keeps s (State.onOpenRows s st ch f bs) := by
  unfold State.onOpenRows
  repeat' first
    | with_reducible exact Keeps.refl _
    | with_reducible apply Keeps.trans ?_ (hf _ _ _)
    | with_reducible apply Keeps.trans ?_ (State.bpuMalformed_keeps ..)
    | with_reducible refine Keeps.fold _ _ ?_ (fun _ _ => ?_)
    | split

theorem State.lpassCmd_keeps (s : State) (st ch : Nat) (w : BitVec 26) : Keeps s (State.lpassCmd s st ch w) := by
  unfold State.lpassCmd
  repeat' first
    | with_reducible exact Keeps.refl _
    | with_reducible apply Keeps.trans ?_ (State.bpuMalformed_keeps ..)
    | with_reducible apply Keeps.trans ?_ (State.unlessBusy_keeps _ _ _ _ _ (fun _ _ => ?_))
    | with_reducible apply Keeps.trans ?_ (State.bankLoad_keeps ..)
    | with_reducible apply Keeps.trans ?_ (State.onOpenRows_keeps _ _ _ _ _ (fun _ _ _ => ?_))
    | with_reducible refine Keeps.ite ?_ ?_

theorem State.bankSpill_keeps (s : State) (st ch b row c0 r : Nat) : Keeps s (State.bankSpill s st ch b row c0 r) := by
  unfold State.bankSpill
  repeat' first
    | with_reducible exact Keeps.refl _
    | with_reducible apply Keeps.trans ?_ (State.storeUnit_keeps ..)
    | with_reducible apply Keeps.trans ?_ (State.storePoison_keeps ..)
    | with_reducible refine Keeps.fold _ _ ?_ (fun _ _ => ?_)
    | with_reducible refine Keeps.ite ?_ ?_

theorem State.spassCmd_keeps (s : State) (st ch : Nat) (w : BitVec 26) : Keeps s (State.spassCmd s st ch w) := by
  unfold State.spassCmd
  repeat' first
    | with_reducible exact Keeps.refl _
    | with_reducible apply Keeps.trans ?_ (State.bpuMalformed_keeps ..)
    | with_reducible apply Keeps.trans ?_ (State.onOpenRows_keeps _ _ _ _ _ (fun _ _ _ => ?_))
    | with_reducible apply Keeps.trans ?_ (State.bankSpill_keeps ..)
    | with_reducible refine Keeps.ite ?_ ?_

theorem State.fpassCmd_keeps (s : State) (st ch : Nat) (w : BitVec 26) : Keeps s (State.fpassCmd s st ch w) := by
  unfold State.fpassCmd
  repeat' first
    | with_reducible exact Keeps.refl _
    | with_reducible apply Keeps.trans ?_ (State.bpuMalformed_keeps ..)
    | with_reducible apply Keeps.trans ?_ (State.unlessBusy_keeps _ _ _ _ _ (fun _ _ => ?_))
    | with_reducible apply Keeps.trans ?_ (State.bankLoad_keeps ..)
    | with_reducible apply Keeps.trans ?_ (State.onOpenRows_keeps _ _ _ _ _ (fun _ _ _ => ?_))
    | with_reducible refine Keeps.ite ?_ ?_

theorem State.ldrCmd_keeps (s : State) (st ch : Nat) (w : BitVec 26) (pins : BitVec 1024) : Keeps s (State.ldrCmd s st ch w pins) := by
  unfold State.ldrCmd
  repeat' first
    | with_reducible exact Keeps.refl _
    | with_reducible apply Keeps.trans ?_ (State.onBanks_keeps ..)
    | with_reducible apply Keeps.trans ?_ (State.unlessBusy_keeps _ _ _ _ _ (fun _ _ => ?_))

theorem State.rdrCmd_keeps (s : State) (st ch : Nat) (w : BitVec 26) : Keeps s (State.rdrCmd s st ch w) := by
  unfold State.rdrCmd
  repeat' first
    | with_reducible exact Keeps.refl _
    | with_reducible apply Keeps.trans ?_ (State.modChan_keeps ..)

theorem State.aclrCmd_keeps (s : State) (st ch : Nat) (w : BitVec 26) : Keeps s (State.aclrCmd s st ch w) := by
  unfold State.aclrCmd
  repeat' first
    | with_reducible exact Keeps.refl _
    | with_reducible apply Keeps.trans ?_ (State.onBanks_keeps ..)
    | with_reducible apply Keeps.trans ?_ (State.unlessBusy_keeps _ _ _ _ _ (fun _ _ => ?_))

theorem State.statCmd_keeps (s : State) (st ch : Nat) (w : BitVec 26) : Keeps s (State.statCmd s st ch w) := by
  unfold State.statCmd
  repeat' first
    | with_reducible exact Keeps.refl _
    | with_reducible apply Keeps.trans ?_ (State.modChan_keeps ..)

theorem State.haltCmd_keeps (s : State) (st ch : Nat) : Keeps s (State.haltCmd s st ch) := by
  unfold State.haltCmd
  repeat' first
    | with_reducible exact Keeps.refl _
    | with_reducible apply Keeps.trans ?_ (State.modChan_keeps ..)
    | with_reducible apply Keeps.trans ?_ (State.eachBank_keeps ..)
    | with_reducible refine Keeps.ite ?_ ?_

end Sys2Proof.Machine
end

