-- ==== Sys2Proof/Laws/KeepsEntries.lean ====
section
/-! SUPPORT. What the operations of Machine/Entries.lean keep. -/
namespace Sys2Proof.Machine

theorem State.rangeWords_keeps (s : State) (rg : List Word) (off n : Nat) : Keeps s (State.rangeWords s rg off n).1 := by
  unfold State.rangeWords
  repeat' first
    | with_reducible exact Keeps.refl _
    | with_reducible apply Keeps.trans ?_ (State.readRun_keeps ..)

theorem State.setValid_keeps (s : State) (x h : Nat) (v : Bool) : Keeps s (State.setValid s x h v) := by
  unfold State.setValid
  repeat' first
    | with_reducible exact Keeps.refl _
    | dsimp only
    | fail_if_no_progress (with_reducible refine Keeps.mk ?_ rfl rfl rfl rfl rfl rfl)

theorem State.entry_keeps (s : State) (x h : Nat) : Keeps s (State.entry s x h).1 := by
  unfold State.entry
  repeat' first
    | with_reducible exact Keeps.refl _
    | with_reducible apply Keeps.trans ?_ (State.bump_keeps ..)
    | with_reducible apply Keeps.trans ?_ (State.reportBads_keeps ..)
    | with_reducible apply Keeps.trans ?_ (State.rangeWords_keeps ..)
    | with_reducible refine Keeps.itePair ?_ ?_
    | dsimp only
    | split

theorem State.creationCheck_keeps (s : State) (f x h : Nat) (e : List Word) : Keeps s (State.creationCheck s f x h e).1 := by
  unfold State.creationCheck
  repeat' first
    | with_reducible exact Keeps.refl _
    | with_reducible apply Keeps.trans ?_ (State.entry_keeps ..)
    | with_reducible refine Keeps.itePair ?_ ?_
    | dsimp only
    | split

end Sys2Proof.Machine
end

