-- ==== Sys2Proof/Laws/KeepsOperands.lean ====
section
/-! SUPPORT. What the operations of Machine/Operands.lean keep. -/
namespace Sys2Proof.Machine

theorem State.noAnswerOf_keeps (s : State) (i : Issuer) (island : Nat) : Keeps s (State.noAnswerOf s i island) := by
  unfold State.noAnswerOf
  repeat' first
    | with_reducible exact Keeps.refl _
    | with_reducible apply Keeps.trans ?_ (State.bump_keeps ..)
    | with_reducible apply Keeps.trans ?_ (State.noAnswerTask_keeps ..)
    | split

theorem State.noPeer_keeps (s : State) (i : Issuer) (f dev : Nat) : Keeps s (State.noPeer s i f dev) := by
  unfold State.noPeer
  repeat' first
    | with_reducible exact Keeps.refl _
    | with_reducible apply Keeps.trans ?_ (State.modTask_keeps ..)
    | with_reducible apply Keeps.trans ?_ (State.noAnswerOf_keeps ..)
    | split

theorem State.pickLink_keeps (s : State) (ls : List Nat) : Keeps s (State.pickLink s ls).1 := by
  unfold State.pickLink
  repeat' first
    | with_reducible exact Keeps.refl _
    | with_reducible apply Keeps.trans ?_ (State.draw_keeps ..)

theorem State.sendPeer_keeps (s : State) (l : Nat) (r : Remote) : Keeps s (State.sendPeer s l r) := by
  unfold State.sendPeer
  repeat' first
    | with_reducible exact Keeps.refl _
    | with_reducible apply Keeps.trans ?_ (State.sendFlit_keeps ..)
    | dsimp only
    | fail_if_no_progress (with_reducible refine Keeps.mk ?_ rfl rfl rfl rfl rfl rfl)

theorem State.owe_keeps (s : State) (i : Issuer) : Keeps s (State.owe s i) := by
  unfold State.owe
  repeat' first
    | with_reducible exact Keeps.refl _
    | with_reducible apply Keeps.trans ?_ (State.setAcks_keeps ..)
    | split

theorem State.readPeer_keeps (s : State) (i : Issuer) (dev o : Nat) : Keeps s (State.readPeer s i dev o) := by
  unfold State.readPeer
  repeat' first
    | with_reducible exact Keeps.refl _
    | with_reducible apply Keeps.trans ?_ (State.pickLink_keeps ..)
    | with_reducible apply Keeps.trans ?_ (State.sendPeer_keeps ..)
    | with_reducible apply Keeps.trans ?_ (State.owe_keeps ..)
    | with_reducible refine Keeps.ite ?_ ?_
    | dsimp only
    | split

theorem State.fetchUnit_keeps (s : State) (i : Issuer) (f : Nat) (audit : Bool) (u : Nat) : Keeps s (State.fetchUnit s i f audit u).1 := by
  unfold State.fetchUnit
  repeat' first
    | with_reducible exact Keeps.refl _
    | with_reducible apply Keeps.trans ?_ (State.readUnit_keeps ..)
    | with_reducible apply Keeps.trans ?_ (State.modTask_keeps ..)
    | with_reducible apply Keeps.trans ?_ (State.reportBad_keeps ..)
    | with_reducible apply Keeps.trans ?_ (State.meetRepair_keeps ..)
    | with_reducible apply Keeps.trans ?_ (State.noAnswerOf_keeps ..)
    | with_reducible apply Keeps.trans ?_ (State.noPeer_keeps ..)
    | with_reducible apply Keeps.trans ?_ (State.readPeer_keeps ..)
    | with_reducible refine Keeps.ite ?_ ?_
    | with_reducible refine Keeps.itePair ?_ ?_
    | dsimp only
    | split
    | fail_if_no_progress (with_reducible refine Keeps.mk ?_ rfl rfl rfl rfl rfl rfl)

theorem State.fetchBytes_keeps (s : State) (i : Issuer) (f : Nat) (audit : Bool) (as : List Nat) (m : Snap) : Keeps s (State.fetchBytes s i f audit as m).1 := by
  unfold State.fetchBytes
  repeat' first
    | with_reducible exact Keeps.refl _
    | with_reducible apply Keeps.trans ?_ (State.chargeFor_keeps ..)
    | with_reducible apply Keeps.trans ?_ (State.fetchUnit_keeps ..)
    | with_reducible refine Keeps.foldPair _ _ ?_ (fun _ _ => ?_)
    | with_reducible refine Keeps.ite ?_ ?_
    | dsimp only
    | split

theorem State.fetchViews_keeps (s : State) (i : Issuer) (f : Nat) (audit : Bool) (o : Opnd) (vs : List (List Nat)) (m : Snap) : Keeps s (State.fetchViews s i f audit o vs m).1 := by
  unfold State.fetchViews
  repeat' first
    | with_reducible exact Keeps.refl _
    | with_reducible apply Keeps.trans ?_ (State.fetchBytes_keeps ..)
    | with_reducible refine Keeps.itePair ?_ ?_

theorem State.badRange_keeps (s : State) (t f : Nat) : Keeps s (State.badRange s t f) := by
  unfold State.badRange
  repeat' first
    | with_reducible exact Keeps.refl _
    | with_reducible apply Keeps.trans ?_ (State.noAnswerTask_keeps ..)

theorem State.openOpnd_keeps (s : State) (t : Nat) (k : Task) (pos : Nat) (count : Bool) : Keeps s (State.openOpnd s t k pos count).1 := by
  unfold State.openOpnd
  repeat' first
    | with_reducible exact Keeps.refl _
    | with_reducible apply Keeps.trans ?_ (State.modTask_keeps ..)
    | with_reducible apply Keeps.trans ?_ (State.fetchBytes_keeps ..)
    | with_reducible apply Keeps.trans ?_ (State.badRange_keeps ..)
    | with_reducible refine Keeps.ite ?_ ?_
    | with_reducible refine Keeps.itePair ?_ ?_
    | dsimp only
    | split

theorem State.sampleCount_keeps (s : State) (t f : Nat) (ie : List Word) : Keeps s (State.sampleCount s t f ie).1 := by
  unfold State.sampleCount
  repeat' first
    | with_reducible exact Keeps.refl _
    | with_reducible apply Keeps.trans ?_ (State.fetchBytes_keeps ..)
    | with_reducible apply Keeps.trans ?_ (State.badRange_keeps ..)
    | dsimp only
    | split

theorem State.sendWrite_keeps (s : State) (i : Issuer) (l dev : Nat) (ws : List ByteW) (bad : List Nat) : Keeps s (State.sendWrite s i l dev ws bad) := by
  unfold State.sendWrite
  repeat' first
    | with_reducible exact Keeps.refl _
    | with_reducible apply Keeps.trans ?_ (State.sendPeer_keeps ..)
    | with_reducible apply Keeps.trans ?_ (State.owe_keeps ..)

theorem State.toPeer_keeps (s : State) (i : Issuer) (f dev : Nat) (ws : List ByteW) (bad : List Nat) : Keeps s (State.toPeer s i f dev ws bad) := by
  unfold State.toPeer
  repeat' first
    | with_reducible exact Keeps.refl _
    | with_reducible apply Keeps.trans ?_ (State.noPeer_keeps ..)
    | with_reducible apply Keeps.trans ?_ (State.pickLink_keeps ..)
    | with_reducible apply Keeps.trans ?_ (State.sendWrite_keeps ..)
    | with_reducible refine Keeps.ite ?_ ?_

theorem State.mergeOwn_keeps (s : State) (t u : Nat) (ws : List ByteW) : Keeps s (State.mergeOwn s t u ws) := by
  unfold State.mergeOwn
  repeat' first
    | with_reducible exact Keeps.refl _
    | with_reducible apply Keeps.trans ?_ (State.loadUnit_keeps ..)
    | with_reducible apply Keeps.trans ?_ (State.storeUnit_keeps ..)
    | with_reducible apply Keeps.trans ?_ (State.mergeMeadow_keeps ..)
    | with_reducible apply Keeps.trans ?_ (State.putTask_keeps ..)
    | with_reducible refine Keeps.ite ?_ ?_
    | dsimp only
    | split

theorem State.writeFor_keeps (s : State) (i : Issuer) (ws : List ByteW) : Keeps s (State.writeFor s i ws) := by
  unfold State.writeFor
  repeat' first
    | with_reducible exact Keeps.refl _
    | with_reducible apply Keeps.trans ?_ (State.writeBytes_keeps ..)
    | with_reducible apply Keeps.trans ?_ (State.mergeOwn_keeps ..)
    | with_reducible refine Keeps.fold _ _ ?_ (fun _ _ => ?_)
    | dsimp only
    | split

theorem State.meetWrites_keeps (s : State) (i : Issuer) (ws : List ByteW) (bad : List Nat) : Keeps s (State.meetWrites s i ws bad).1 := by
  unfold State.meetWrites
  repeat' first
    | with_reducible exact Keeps.refl _
    | with_reducible apply Keeps.trans ?_ (State.meetRepair_keeps ..)
    | with_reducible refine Keeps.foldPair _ _ ?_ (fun _ _ => ?_)
    | with_reducible refine Keeps.itePair ?_ ?_
    | dsimp only
    | split

theorem State.landOut_keeps (s : State) (i : Issuer) (f : Nat) (o : Out) : Keeps s (State.landOut s i f o) := by
  unfold State.landOut
  repeat' first
    | with_reducible exact Keeps.refl _
    | with_reducible apply Keeps.trans ?_ (State.writePoison_keeps ..)
    | with_reducible apply Keeps.trans ?_ (State.repairDone_keeps ..)
    | with_reducible apply Keeps.trans ?_ (State.sendAck_keeps ..)
    | with_reducible apply Keeps.trans ?_ (State.chargeFor_keeps ..)
    | with_reducible apply Keeps.trans ?_ (State.serveStalled_keeps ..)
    | with_reducible apply Keeps.trans ?_ (State.noAnswerOf_keeps ..)
    | with_reducible apply Keeps.trans ?_ (State.toPeer_keeps ..)
    | with_reducible apply Keeps.trans ?_ (State.writeFor_keeps ..)
    | with_reducible apply Keeps.trans ?_ (State.meetWrites_keeps ..)
    | with_reducible refine Keeps.fold _ _ ?_ (fun _ _ => ?_)
    | with_reducible refine Keeps.ite ?_ ?_
    | dsimp only
    | split

theorem State.addCnt_keeps (s : State) (t : Nat) (n : OutCnt) : Keeps s (State.addCnt s t n) := by
  unfold State.addCnt
  repeat' first
    | with_reducible exact Keeps.refl _
    | with_reducible apply Keeps.trans ?_ (State.modTask_keeps ..)

theorem State.addAt_keeps (s : State) (t f : Nat) (ty : EType) (a code : Nat) (bad : Bool) : Keeps s (State.addAt s t f ty a code bad) := by
  unfold State.addAt
  repeat' first
    | with_reducible exact Keeps.refl _
    | with_reducible apply Keeps.trans ?_ (State.noAnswerTask_keeps ..)
    | with_reducible apply Keeps.trans ?_ (State.meetRepair_keeps ..)
    | with_reducible apply Keeps.trans ?_ (State.chargeFor_keeps ..)
    | with_reducible apply Keeps.trans ?_ (State.addRun_keeps ..)
    | with_reducible apply Keeps.trans ?_ (State.toPeer_keeps ..)
    | with_reducible refine Keeps.ite ?_ ?_
    | dsimp only
    | split

theorem State.scatterAdd_keeps (s : State) (t : Nat) (o : Opnd) (mode : RMode) (seed : Nat) (v : List Nat) (xs : List OutVal) : Keeps s (State.scatterAdd s t o mode seed v xs) := by
  unfold State.scatterAdd
  repeat' first
    | with_reducible exact Keeps.refl _
    | with_reducible apply Keeps.trans ?_ (State.sendAck_keeps ..)
    | with_reducible apply Keeps.trans ?_ (State.addCnt_keeps ..)
    | with_reducible apply Keeps.trans ?_ (State.addAt_keeps ..)
    | with_reducible refine Keeps.fold _ _ ?_ (fun _ _ => ?_)
    | with_reducible refine Keeps.ite ?_ ?_
    | dsimp only
    | split

end Sys2Proof.Machine
end

