-- ==== Sys2Proof/Laws/KeepsCopies.lean ====
section
/-! SUPPORT. What the operations of Machine/Copies.lean keep. -/
namespace Sys2Proof.Machine

theorem State.setCfg_keeps (s : State) (f : Nat) (r : CfgReg) (i : Nat) (v : Word) : Keeps s (State.setCfg s f r i v) := by
  unfold State.setCfg
  repeat' first
    | with_reducible exact Keeps.refl _
    | with_reducible apply Keeps.trans ?_ (State.setReg_keeps ..)
    | with_reducible refine Keeps.ite ?_ ?_
    | dsimp only
    | split
    | fail_if_no_progress (with_reducible refine Keeps.mk ?_ rfl rfl rfl rfl rfl rfl)

theorem State.writeCfg_keeps (s : State) (r : CfgReg) (i : Nat) (v : Word) : Keeps s (State.writeCfg s r i v) := by
  unfold State.writeCfg
  repeat' first
    | with_reducible exact Keeps.refl _
    | with_reducible apply Keeps.trans ?_ (State.send_keeps ..)
    | with_reducible apply Keeps.trans ?_ (State.setCfg_keeps ..)
    | with_reducible refine Keeps.fold _ _ ?_ (fun _ _ => ?_)

theorem State.forceCfg_keeps (s : State) (r : CfgReg) (i : Nat) (g : Word → Word) : Keeps s (State.forceCfg s r i g) := by
  unfold State.forceCfg
  repeat' first
    | with_reducible exact Keeps.refl _
    | with_reducible apply Keeps.trans ?_ (State.setCfg_keeps ..)
    | with_reducible refine Keeps.fold _ _ ?_ (fun _ _ => ?_)

end Sys2Proof.Machine
end

