-- ==== Sys2Proof/Laws/KeepsChecks.lean ====
section
/-! SUPPORT. What the operations of Machine/Checks.lean keep. -/
namespace Sys2Proof.Machine

theorem State.fetchEntry_keeps (x h : Nat) (p : State × EntryList) : Keeps p.1 (State.fetchEntry x h p).1 := by
  unfold State.fetchEntry
  with_reducible refine Keeps.itePair (Keeps.refl _) ?_
  exact State.entry_keeps ..

theorem State.readEntries_keeps (s : State) (x : Nat) (w : List Word) (dv : Nat) : Keeps s (State.readEntries s x w dv).1 := by
  unfold State.readEntries
  dsimp only
  repeat' first
    | with_reducible exact Keeps.refl _
    | with_reducible exact State.fetchEntry_keeps ..
    | with_reducible refine Keeps.foldPair _ _ ?_ (fun _ _ => ?_)

end Sys2Proof.Machine
end

