-- ==== Sys2Proof/Laws/KeepsKvRec.lean ====
section
/-! SUPPORT. What the operations of Machine/KvRec.lean keep. -/
namespace Sys2Proof.Machine

theorem State.recWriteBack_keeps (s : State) (f x : Nat) (r : List Word) : Keeps s (State.recWriteBack s f x r) := by
  unfold State.recWriteBack
  repeat' first
    | with_reducible exact Keeps.refl _
    | with_reducible apply Keeps.trans ?_ (State.bump_keeps ..)
    | with_reducible apply Keeps.trans ?_ (State.writeBytes_keeps ..)
    | split

theorem State.recPut_keeps (s : State) (f x : Nat) (r : List Word) : Keeps s (State.recPut s f x r) := by
  unfold State.recPut
  repeat' first
    | with_reducible exact Keeps.refl _
    | with_reducible apply Keeps.trans ?_ (State.recWriteBack_keeps ..)
    | with_reducible refine Keeps.ite ?_ ?_
    | dsimp only
    | split
    | fail_if_no_progress (with_reducible refine Keeps.mk ?_ rfl rfl rfl rfl rfl rfl)

theorem State.recGet_keeps (s : State) (i : Issuer) (f x : Nat) : Keeps s (State.recGet s i f x).1 := by
  unfold State.recGet
  repeat' first
    | with_reducible exact Keeps.refl _
    | with_reducible apply Keeps.trans ?_ (State.readRun_keeps ..)
    | with_reducible apply Keeps.trans ?_ (State.reportBads_keeps ..)
    | with_reducible apply Keeps.trans ?_ (State.noAnswerOf_keeps ..)
    | with_reducible apply Keeps.trans ?_ (State.recPut_keeps ..)
    | with_reducible refine Keeps.ite ?_ ?_
    | with_reducible refine Keeps.itePair ?_ ?_
    | dsimp only
    | split

theorem State.recDrop_keeps (s : State) (f x : Nat) (r : List Word) : Keeps s (State.recDrop s f x r) := by
  unfold State.recDrop
  repeat' first
    | with_reducible exact Keeps.refl _
    | with_reducible apply Keeps.trans ?_ (State.recWriteBack_keeps ..)
    | dsimp only
    | fail_if_no_progress (with_reducible refine Keeps.mk ?_ rfl rfl rfl rfl rfl rfl)

theorem State.consume_keeps (s : State) (t : Nat) : Keeps s (State.consume s t) := by
  unfold State.consume
  repeat' first
    | with_reducible exact Keeps.refl _
    | with_reducible apply Keeps.trans ?_ (State.modTask_keeps ..)

theorem State.setPool_keeps (s : State) (f p : Nat) (v : Pool) : Keeps s (State.setPool s f p v) := by
  unfold State.setPool
  repeat' first
    | with_reducible exact Keeps.refl _
    | dsimp only
    | fail_if_no_progress (with_reducible refine Keeps.mk ?_ rfl rfl rfl rfl rfl rfl)

theorem State.takeFrame_keeps (s : State) (i : Issuer) (f p : Nat) : Keeps s (State.takeFrame s i f p).1 := by
  unfold State.takeFrame
  repeat' first
    | with_reducible exact Keeps.refl _
    | with_reducible apply Keeps.trans ?_ (State.bump_keeps ..)
    | with_reducible apply Keeps.trans ?_ (State.readRun_keeps ..)
    | with_reducible apply Keeps.trans ?_ (State.reportBads_keeps ..)
    | with_reducible apply Keeps.trans ?_ (State.charge_keeps ..)
    | with_reducible apply Keeps.trans ?_ (State.noAnswerOf_keeps ..)
    | with_reducible apply Keeps.trans ?_ (State.setPool_keeps ..)
    | with_reducible refine Keeps.itePair ?_ ?_
    | dsimp only
    | split

theorem State.returnFrame_keeps (s : State) (i : Issuer) (f p n : Nat) : Keeps s (State.returnFrame s i f p n) := by
  unfold State.returnFrame
  repeat' first
    | with_reducible exact Keeps.refl _
    | with_reducible apply Keeps.trans ?_ (State.writeBytes_keeps ..)
    | with_reducible apply Keeps.trans ?_ (State.charge_keeps ..)
    | with_reducible apply Keeps.trans ?_ (State.noAnswerOf_keeps ..)
    | with_reducible apply Keeps.trans ?_ (State.setPool_keeps ..)
    | with_reducible refine Keeps.ite ?_ ?_
    | dsimp only
    | split

theorem State.setLab_keeps (s : State) (f w : Nat) (l : List LabGroup) : Keeps s (State.setLab s f w l) := by
  unfold State.setLab
  repeat' first
    | with_reducible exact Keeps.refl _
    | dsimp only
    | fail_if_no_progress (with_reducible refine Keeps.mk ?_ rfl rfl rfl rfl rfl rfl)

theorem State.labDrop_keeps (s : State) (f x : Nat) : Keeps s (State.labDrop s f x) := by
  unfold State.labDrop
  repeat' first
    | with_reducible exact Keeps.refl _
    | with_reducible apply Keeps.trans ?_ (State.setLab_keeps ..)
    | with_reducible refine Keeps.fold _ _ ?_ (fun _ _ => ?_)

theorem State.pteGroup_keeps (s : State) (iss : Issuer) (f x : Nat) (r : List Word) (g : Nat) : Keeps s (State.pteGroup s iss f x r g).1 := by
  unfold State.pteGroup
  repeat' first
    | with_reducible exact Keeps.refl _
    | with_reducible apply Keeps.trans ?_ (State.bump_keeps ..)
    | with_reducible apply Keeps.trans ?_ (State.readRun_keeps ..)
    | with_reducible apply Keeps.trans ?_ (State.reportBads_keeps ..)
    | with_reducible apply Keeps.trans ?_ (State.charge_keeps ..)
    | with_reducible apply Keeps.trans ?_ (State.noAnswerOf_keeps ..)
    | with_reducible apply Keeps.trans ?_ (State.setLab_keeps ..)
    | with_reducible refine Keeps.ite ?_ ?_
    | dsimp only
    | split

theorem State.pteGet_keeps (s : State) (iss : Issuer) (f x : Nat) (r : List Word) (i : Nat) : Keeps s (State.pteGet s iss f x r i).1 := by
  unfold State.pteGet
  repeat' first
    | with_reducible exact Keeps.refl _
    | with_reducible apply Keeps.trans ?_ (State.pteGroup_keeps ..)

theorem State.ptePut_keeps (s : State) (iss : Issuer) (f x : Nat) (r : List Word) (i : Nat) (e : Word) : Keeps s (State.ptePut s iss f x r i e) := by
  unfold State.ptePut
  repeat' first
    | with_reducible exact Keeps.refl _
    | with_reducible apply Keeps.trans ?_ (State.writeBytes_keeps ..)
    | with_reducible apply Keeps.trans ?_ (State.charge_keeps ..)
    | with_reducible apply Keeps.trans ?_ (State.noAnswerOf_keeps ..)
    | with_reducible apply Keeps.trans ?_ (State.setLab_keeps ..)
    | dsimp only
    | split

theorem State.mirrorOut_keeps (s : State) (p f : Nat) (m : MirrorMsg) : Keeps s (State.mirrorOut s p f m) := by
  unfold State.mirrorOut
  repeat' first
    | with_reducible exact Keeps.refl _
    | with_reducible apply Keeps.trans ?_ (State.sendFlit_keeps ..)
    | with_reducible refine Keeps.ite ?_ ?_
    | dsimp only
    | fail_if_no_progress (with_reducible refine Keeps.mk ?_ rfl rfl rfl rfl rfl rfl)

theorem State.peekBytes_keeps (s : State) (as : List Nat) : Keeps s (State.peekBytes s as).1 := by
  unfold State.peekBytes
  repeat' first
    | with_reducible exact Keeps.refl _
    | with_reducible apply Keeps.trans ?_ (State.bump_keeps ..)
    | with_reducible apply Keeps.trans ?_ (State.readUnit_keeps ..)
    | with_reducible refine Keeps.foldPair _ _ ?_ (fun _ _ => ?_)
    | dsimp only
    | split

theorem State.rowAddrs_keeps (s : State) (f x : Nat) (r : List Word) (layer q : Nat) : Keeps s (State.rowAddrs s f x r layer q).1 := by
  unfold State.rowAddrs
  repeat' first
    | with_reducible exact Keeps.refl _
    | with_reducible apply Keeps.trans ?_ (State.bump_keeps ..)
    | with_reducible apply Keeps.trans ?_ (State.pteGet_keeps ..)
    | with_reducible refine Keeps.itePair ?_ ?_
    | split

theorem State.mirrorRows_keeps (s : State) (f x : Nat) (r : List Word) (old new : Nat) : Keeps s (State.mirrorRows s f x r old new) := by
  unfold State.mirrorRows
  repeat' first
    | with_reducible exact Keeps.refl _
    | with_reducible apply Keeps.trans ?_ (State.mirrorOut_keeps ..)
    | with_reducible apply Keeps.trans ?_ (State.peekBytes_keeps ..)
    | with_reducible apply Keeps.trans ?_ (State.rowAddrs_keeps ..)
    | with_reducible refine Keeps.fold _ _ ?_ (fun _ _ => ?_)
    | with_reducible refine Keeps.foldPair _ _ ?_ (fun _ _ => ?_)
    | with_reducible refine Keeps.ite ?_ ?_

theorem State.sealPages_keeps (s : State) (f x : Nat) (r : List Word) (old new : Nat) : Keeps s (State.sealPages s f x r old new) := by
  unfold State.sealPages
  repeat' first
    | with_reducible exact Keeps.refl _
    | with_reducible apply Keeps.trans ?_ (State.pteGet_keeps ..)
    | with_reducible apply Keeps.trans ?_ (State.ptePut_keeps ..)
    | with_reducible refine Keeps.fold _ _ ?_ (fun _ _ => ?_)
    | with_reducible refine Keeps.ite ?_ ?_

theorem State.releaseLens_keeps (s : State) (x c : Nat) : Keeps s (State.releaseLens s x c) := by
  unfold State.releaseLens
  repeat' first
    | with_reducible exact Keeps.refl _
    | with_reducible apply Keeps.trans ?_ (State.sendOnce_keeps ..)
    | with_reducible apply Keeps.trans ?_ (State.modTask_keeps ..)
    | with_reducible refine Keeps.fold _ _ ?_ (fun _ _ => ?_)
    | dsimp only
    | fail_if_no_progress (with_reducible refine Keeps.mk ?_ rfl rfl rfl rfl rfl rfl)

theorem State.setCommitted_keeps (s : State) (f x : Nat) (r : List Word) (c : Nat) : Keeps s (State.setCommitted s f x r c) := by
  unfold State.setCommitted
  repeat' first
    | with_reducible exact Keeps.refl _
    | with_reducible apply Keeps.trans ?_ (State.recPut_keeps ..)
    | with_reducible apply Keeps.trans ?_ (State.mirrorRows_keeps ..)
    | with_reducible apply Keeps.trans ?_ (State.sealPages_keeps ..)
    | with_reducible apply Keeps.trans ?_ (State.releaseLens_keeps ..)
    | with_reducible refine Keeps.ite ?_ ?_

theorem State.clamp_keeps (s : State) (f : Nat) : Keeps s (State.clamp s f) := by
  unfold State.clamp
  repeat' first
    | with_reducible exact Keeps.refl _
    | with_reducible apply Keeps.trans ?_ (State.bump_keeps ..)

theorem State.advanceTo_keeps (s : State) (f x c : Nat) : Keeps s (State.advanceTo s f x c) := by
  unfold State.advanceTo
  repeat' first
    | with_reducible exact Keeps.refl _
    | with_reducible apply Keeps.trans ?_ (State.recGet_keeps ..)
    | with_reducible apply Keeps.trans ?_ (State.setCommitted_keeps ..)
    | with_reducible apply Keeps.trans ?_ (State.clamp_keeps ..)
    | with_reducible refine Keeps.ite ?_ ?_

theorem State.dropHolds_keeps (s : State) (t : Nat) : Keeps s (State.dropHolds s t) := by
  unfold State.dropHolds
  repeat' first
    | with_reducible exact Keeps.refl _
    | dsimp only
    | fail_if_no_progress (with_reducible refine Keeps.mk ?_ rfl rfl rfl rfl rfl rfl)

theorem State.kvLeave_keeps (s : State) (t : Nat) (k : Task) : Keeps s (State.kvLeave s t k) := by
  unfold State.kvLeave
  repeat' first
    | with_reducible exact Keeps.refl _
    | with_reducible apply Keeps.trans ?_ (State.modTask_keeps ..)
    | with_reducible apply Keeps.trans ?_ (State.recPut_keeps ..)
    | with_reducible apply Keeps.trans ?_ (State.recGet_keeps ..)
    | with_reducible apply Keeps.trans ?_ (State.returnFrame_keeps ..)
    | with_reducible apply Keeps.trans ?_ (State.dropHolds_keeps ..)
    | with_reducible refine Keeps.ite ?_ ?_
    | dsimp only
    | split

theorem State.kvFinish_keeps (s : State) (k : Task) : Keeps s (State.kvFinish s k) := by
  unfold State.kvFinish
  repeat' first
    | with_reducible exact Keeps.refl _
    | with_reducible apply Keeps.trans ?_ (State.recPut_keeps ..)
    | with_reducible apply Keeps.trans ?_ (State.recGet_keeps ..)
    | with_reducible apply Keeps.trans ?_ (State.setCommitted_keeps ..)
    | with_reducible apply Keeps.trans ?_ (State.clamp_keeps ..)
    | with_reducible refine Keeps.ite ?_ ?_
    | dsimp only
    | split

theorem State.setKvEng_keeps (s : State) (j : Nat) (v : KvEng) : Keeps s (State.setKvEng s j v) := by
  unfold State.setKvEng
  repeat' first
    | with_reducible exact Keeps.refl _
    | dsimp only
    | fail_if_no_progress (with_reducible refine Keeps.mk ?_ rfl rfl rfl rfl rfl rfl)

theorem State.kvEngLeave_keeps (s : State) (t : Nat) : Keeps s (State.kvEngLeave s t) := by
  unfold State.kvEngLeave
  repeat' first
    | with_reducible exact Keeps.refl _
    | with_reducible apply Keeps.trans ?_ (State.setKvEng_keeps ..)
    | with_reducible refine Keeps.fold _ _ ?_ (fun _ _ => ?_)
    | with_reducible refine Keeps.ite ?_ ?_

end Sys2Proof.Machine
end

