-- ==== Sys2Proof/Laws/KeepsBankQueue.lean ====
section
/-! SUPPORT. What the operations of Machine/BankQueue.lean keep. -/
namespace Sys2Proof.Machine

theorem State.spillSet_keeps (s : State) (st ch : Nat) : Keeps s (State.spillSet s st ch) := by
  unfold State.spillSet
  repeat' first
    | with_reducible exact Keeps.refl _
    | with_reducible apply Keeps.trans ?_ (State.bankSpill_keeps ..)
    | with_reducible refine Keeps.fold _ _ ?_ (fun _ _ => ?_)

theorem State.fillSet_keeps (s : State) (st ch : Nat) : Keeps s (State.fillSet s st ch) := by
  unfold State.fillSet
  repeat' first
    | with_reducible exact Keeps.refl _
    | with_reducible apply Keeps.trans ?_ (State.bankLoad_keeps ..)
    | with_reducible refine Keeps.fold _ _ ?_ (fun _ _ => ?_)

theorem State.startBank_keeps (s : State) (st ch t : Nat) : Keeps s (State.startBank s st ch t) := by
  unfold State.startBank
  repeat' first
    | with_reducible exact Keeps.refl _
    | with_reducible apply Keeps.trans ?_ (State.trace_keeps ..)
    | with_reducible apply Keeps.trans ?_ (State.modChan_keeps ..)
    | dsimp only
    | split

theorem State.resumeBank_keeps (s : State) (st ch : Nat) (p : Spilled) : Keeps s (State.resumeBank s st ch p) := by
  unfold State.resumeBank
  repeat' first
    | with_reducible exact Keeps.refl _
    | with_reducible apply Keeps.trans ?_ (State.modChan_keeps ..)
    | with_reducible apply Keeps.trans ?_ (State.fillSet_keeps ..)

theorem State.chanNext_keeps (s : State) (st ch : Nat) : Keeps s (State.chanNext s st ch) := by
  unfold State.chanNext
  repeat' first
    | with_reducible exact Keeps.refl _
    | with_reducible apply Keeps.trans ?_ (State.startBank_keeps ..)
    | with_reducible apply Keeps.trans ?_ (State.resumeBank_keeps ..)
    | with_reducible refine Keeps.ite ?_ ?_
    | split

theorem State.leaveBank_keeps (s : State) (st ch t : Nat) : Keeps s (State.leaveBank s st ch t) := by
  unfold State.leaveBank
  repeat' first
    | with_reducible exact Keeps.refl _
    | with_reducible apply Keeps.trans ?_ (State.setChan_keeps ..)
    | with_reducible apply Keeps.trans ?_ (State.modChan_keeps ..)
    | with_reducible apply Keeps.trans ?_ (State.chanNext_keeps ..)
    | with_reducible refine Keeps.ite ?_ ?_

theorem State.dropBank_keeps (s : State) (t : Nat) : Keeps s (State.dropBank s t) := by
  unfold State.dropBank
  repeat' first
    | with_reducible exact Keeps.refl _
    | with_reducible apply Keeps.trans ?_ (State.haltCmd_keeps ..)
    | with_reducible apply Keeps.trans ?_ (State.leaveBank_keeps ..)
    | with_reducible refine Keeps.fold _ _ ?_ (fun _ _ => ?_)
    | with_reducible refine Keeps.ite ?_ ?_

end Sys2Proof.Machine
end

