-- ==== Sys2Proof/Laws/KeepsAtomLines.lean ====
section
/-! SUPPORT. What the operations of Machine/AtomLines.lean keep. -/
namespace Sys2Proof.Machine

theorem State.setAtoms_keeps (s : State) (l : List AtomLine) : Keeps s (State.setAtoms s l) := by
  unfold State.setAtoms
  repeat' first
    | with_reducible exact Keeps.refl _
    | dsimp only
    | fail_if_no_progress (with_reducible refine Keeps.mk ?_ rfl rfl rfl rfl rfl rfl)

theorem State.writeLine_keeps (s : State) (t f : Nat) (l : AtomLine) : Keeps s (State.writeLine s t f l) := by
  unfold State.writeLine
  repeat' first
    | with_reducible exact Keeps.refl _
    | with_reducible apply Keeps.trans ?_ (State.landOut_keeps ..)

theorem State.dropAtom_keeps (s : State) (l : AtomLine) : Keeps s (State.dropAtom s l) := by
  unfold State.dropAtom
  repeat' first
    | with_reducible exact Keeps.refl _
    | with_reducible apply Keeps.trans ?_ (State.setAtoms_keeps ..)

theorem State.putLine_keeps (s : State) (l : AtomLine) : Keeps s (State.putLine s l) := by
  unfold State.putLine
  repeat' first
    | with_reducible exact Keeps.refl _
    | with_reducible apply Keeps.trans ?_ (State.setAtoms_keeps ..)

theorem State.makeRoom_keeps (s : State) (t f buf : Nat) : Keeps s (State.makeRoom s t f buf) := by
  unfold State.makeRoom
  repeat' first
    | with_reducible exact Keeps.refl _
    | with_reducible apply Keeps.trans ?_ (State.writeLine_keeps ..)
    | with_reducible apply Keeps.trans ?_ (State.dropAtom_keeps ..)
    | with_reducible refine Keeps.ite ?_ ?_
    | split

theorem State.fetchLine_keeps (s : State) (t f buf base : Nat) : Keeps s (State.fetchLine s t f buf base).1 := by
  unfold State.fetchLine
  repeat' first
    | with_reducible exact Keeps.refl _
    | with_reducible apply Keeps.trans ?_ (State.bump_keeps ..)
    | with_reducible apply Keeps.trans ?_ (State.fetchUnit_keeps ..)
    | with_reducible apply Keeps.trans ?_ (State.setAtoms_keeps ..)
    | with_reducible apply Keeps.trans ?_ (State.putLine_keeps ..)
    | with_reducible apply Keeps.trans ?_ (State.makeRoom_keeps ..)
    | with_reducible refine Keeps.foldPair _ _ ?_ (fun _ _ => ?_)
    | with_reducible refine Keeps.itePair ?_ ?_
    | dsimp only
    | split

theorem State.lineElt_keeps (s : State) (t f : Nat) (l : AtomLine) (o n : Nat) : Keeps s (State.lineElt s t f l o n).1 := by
  unfold State.lineElt
  repeat' first
    | with_reducible exact Keeps.refl _
    | with_reducible apply Keeps.trans ?_ (State.fetchUnit_keeps ..)
    | with_reducible apply Keeps.trans ?_ (State.putLine_keeps ..)
    | with_reducible refine Keeps.itePair ?_ ?_
    | dsimp only
    | split

theorem State.atomsBack_keeps (s : State) (t f : Nat) : Keeps s (State.atomsBack s t f) := by
  unfold State.atomsBack
  repeat' first
    | with_reducible exact Keeps.refl _
    | with_reducible apply Keeps.trans ?_ (State.writeLine_keeps ..)
    | with_reducible apply Keeps.trans ?_ (State.dropAtom_keeps ..)
    | with_reducible apply Keeps.trans ?_ (State.putLine_keeps ..)
    | with_reducible refine Keeps.fold _ _ ?_ (fun _ _ => ?_)
    | with_reducible refine Keeps.ite ?_ ?_

end Sys2Proof.Machine
end

