-- ==== Sys2Proof/Laws/KeepsGraph.lean ====
section
/-! SUPPORT. What the operations of Machine/Graph.lean keep. -/
namespace Sys2Proof.Machine

theorem State.modField_keeps (s : State) (f : Nat) (g : Field → Field) : Keeps s (State.modField s f g) := by
  unfold State.modField
  repeat' first
    | with_reducible exact Keeps.refl _
    | dsimp only
    | fail_if_no_progress (with_reducible refine Keeps.mk ?_ rfl rfl rfl rfl rfl rfl)

theorem State.makeRunnable_keeps (s : State) (x : Nat) : Keeps s (State.makeRunnable s x) := by
  unfold State.makeRunnable
  repeat' first
    | with_reducible exact Keeps.refl _
    | with_reducible apply Keeps.trans ?_ (State.setCtx_keeps ..)
    | with_reducible apply Keeps.trans ?_ (State.modField_keeps ..)
    | with_reducible refine Keeps.ite ?_ ?_
    | dsimp only
    | split

theorem State.glintChanged_keeps (s : State) (f slot : Nat) : Keeps s (State.glintChanged s f slot) := by
  unfold State.glintChanged
  repeat' first
    | with_reducible exact Keeps.refl _
    | with_reducible apply Keeps.trans ?_ (State.sendOnce_keeps ..)
    | with_reducible apply Keeps.trans ?_ (State.makeRunnable_keeps ..)
    | with_reducible refine Keeps.fold _ _ ?_ (fun _ _ => ?_)
    | with_reducible refine Keeps.ite ?_ ?_

theorem State.setGlint_keeps (s : State) (f k : Nat) (g : Glint) : Keeps s (State.setGlint s f k g) := by
  unfold State.setGlint
  repeat' first
    | with_reducible exact Keeps.refl _
    | with_reducible apply Keeps.trans ?_ (State.glintChanged_keeps ..)
    | dsimp only
    | fail_if_no_progress (with_reducible refine Keeps.mk ?_ rfl rfl rfl rfl rfl rfl)

theorem State.signal_keeps (s : State) (f slot epoch : Nat) (failed : Bool) : Keeps s (State.signal s f slot epoch failed) := by
  unfold State.signal
  repeat' first
    | with_reducible exact Keeps.refl _
    | with_reducible apply Keeps.trans ?_ (State.bump_keeps ..)
    | with_reducible apply Keeps.trans ?_ (State.setGlint_keeps ..)
    | with_reducible refine Keeps.ite ?_ ?_

theorem State.rearm_keeps (s : State) (f slot epoch : Nat) : Keeps s (State.rearm s f slot epoch).1 := by
  unfold State.rearm
  repeat' first
    | with_reducible exact Keeps.refl _
    | with_reducible apply Keeps.trans ?_ (State.setGlint_keeps ..)
    | with_reducible refine Keeps.itePair ?_ ?_

theorem State.sendSignals_keeps (s : State) (k : Task) (failed : Bool) : Keeps s (State.sendSignals s k failed) := by
  unfold State.sendSignals
  repeat' first
    | with_reducible exact Keeps.refl _
    | with_reducible apply Keeps.trans ?_ (State.send_keeps ..)
    | with_reducible refine Keeps.fold _ _ ?_ (fun _ _ => ?_)
    | with_reducible refine Keeps.ite ?_ ?_

theorem State.writeRecord_keeps (s : State) (t : Nat) (k : Task) (status detail : Nat) : Keeps s (State.writeRecord s t k status detail).1 := by
  unfold State.writeRecord
  repeat' first
    | with_reducible exact Keeps.refl _
    | with_reducible apply Keeps.trans ?_ (State.bump_keeps ..)
    | with_reducible apply Keeps.trans ?_ (State.landOut_keeps ..)
    | with_reducible refine Keeps.itePair ?_ ?_
    | dsimp only
    | split

theorem State.settle_keeps (s : State) (f : Nat) : Keeps s (State.settle s f) := by
  unfold State.settle
  repeat' first
    | with_reducible exact Keeps.refl _
    | with_reducible apply Keeps.trans ?_ (State.setCtx_keeps ..)
    | with_reducible apply Keeps.trans ?_ (State.modField_keeps ..)
    | with_reducible refine Keeps.fold _ _ ?_ (fun _ _ => ?_)
    | with_reducible refine Keeps.ite ?_ ?_
    | dsimp only
    | split

theorem State.leaveTask_keeps (s : State) (t : Nat) : Keeps s (State.leaveTask s t) := by
  unfold State.leaveTask
  repeat' first
    | with_reducible exact Keeps.refl _
    | with_reducible apply Keeps.trans ?_ (State.dropTask_keeps ..)
    | with_reducible apply Keeps.trans ?_ (State.settle_keeps ..)
    | split

theorem State.checkTorn_keeps (s : State) (x : Nat) : Keeps s (State.checkTorn s x) := by
  unfold State.checkTorn
  repeat' first
    | with_reducible exact Keeps.refl _
    | with_reducible apply Keeps.trans ?_ (State.sendOnce_keeps ..)
    | with_reducible refine Keeps.ite ?_ ?_
    | split

theorem State.closeTask_keeps (s : State) (t : Nat) (k : Task) (failed : Bool) : Keeps s (State.closeTask s t k failed) := by
  unfold State.closeTask
  repeat' first
    | with_reducible exact Keeps.refl _
    | with_reducible apply Keeps.trans ?_ (State.sendSignals_keeps ..)
    | with_reducible apply Keeps.trans ?_ (State.leaveTask_keeps ..)
    | with_reducible apply Keeps.trans ?_ (State.checkTorn_keeps ..)

theorem State.afterRecord_keeps (s : State) (t : Nat) (k : Task) (sent failed : Bool) (dead : Option (BitVec 8 × BitVec 32)) : Keeps s (State.afterRecord s t k sent failed dead) := by
  unfold State.afterRecord
  repeat' first
    | with_reducible exact Keeps.refl _
    | with_reducible apply Keeps.trans ?_ (State.putTask_keeps ..)
    | with_reducible apply Keeps.trans ?_ (State.settle_keeps ..)
    | with_reducible apply Keeps.trans ?_ (State.closeTask_keeps ..)
    | with_reducible refine Keeps.ite ?_ ?_

theorem State.traceTask_keeps (s : State) (kind : Nat) (k : Task) (status detail : Nat) : Keeps s (State.traceTask s kind k status detail) := by
  unfold State.traceTask
  repeat' first
    | with_reducible exact Keeps.refl _
    | with_reducible apply Keeps.trans ?_ (State.trace_keeps ..)

theorem State.endCore_keeps (s : State) (t status detail : Nat) : Keeps s (State.endCore s t status detail) := by
  unfold State.endCore
  repeat' first
    | with_reducible exact Keeps.refl _
    | with_reducible apply Keeps.trans ?_ (State.bump_keeps ..)
    | with_reducible apply Keeps.trans ?_ (State.draw_keeps ..)
    | with_reducible apply Keeps.trans ?_ (State.kvLeave_keeps ..)
    | with_reducible apply Keeps.trans ?_ (State.writeRecord_keeps ..)
    | with_reducible apply Keeps.trans ?_ (State.afterRecord_keeps ..)
    | with_reducible apply Keeps.trans ?_ (State.traceTask_keeps ..)
    | with_reducible refine Keeps.itePair ?_ ?_
    | dsimp only
    | split

theorem State.killTask_keeps (s : State) (t : Nat) (counts : Bool) : Keeps s (State.killTask s t counts) := by
  unfold State.killTask
  repeat' first
    | with_reducible exact Keeps.refl _
    | with_reducible apply Keeps.trans ?_ (State.bump_keeps ..)
    | with_reducible apply Keeps.trans ?_ (State.send_keeps ..)
    | with_reducible apply Keeps.trans ?_ (State.putTask_keeps ..)
    | with_reducible apply Keeps.trans ?_ (State.traceTask_keeps ..)
    | with_reducible refine Keeps.ite ?_ ?_
    | dsimp only
    | split

theorem State.tearTask_keeps (s : State) (t : Nat) (k : Task) : Keeps s (State.tearTask s t k) := by
  unfold State.tearTask
  repeat' first
    | with_reducible exact Keeps.refl _
    | with_reducible apply Keeps.trans ?_ (State.endCore_keeps ..)
    | with_reducible apply Keeps.trans ?_ (State.killTask_keeps ..)
    | with_reducible refine Keeps.ite ?_ ?_
    | split

theorem State.tearRun_keeps (s : State) (x : Nat) : Keeps s (State.tearRun s x) := by
  unfold State.tearRun
  repeat' first
    | with_reducible exact Keeps.refl _
    | with_reducible apply Keeps.trans ?_ (State.checkTorn_keeps ..)
    | with_reducible apply Keeps.trans ?_ (State.tearTask_keeps ..)
    | with_reducible refine Keeps.fold _ _ ?_ (fun _ _ => ?_)

theorem State.recordFault_keeps (s : State) (f x status ring : Nat) : Keeps s (State.recordFault s f x status ring) := by
  unfold State.recordFault
  repeat' first
    | with_reducible exact Keeps.refl _
    | with_reducible apply Keeps.trans ?_ (State.setReg_keeps ..)
    | with_reducible refine Keeps.ite ?_ ?_

theorem State.teardown_keeps (s : State) (x status ring : Nat) : Keeps s (State.teardown s x status ring) := by
  unfold State.teardown
  repeat' first
    | with_reducible exact Keeps.refl _
    | with_reducible apply Keeps.trans ?_ (State.setCtx_keeps ..)
    | with_reducible apply Keeps.trans ?_ (State.tearRun_keeps ..)
    | with_reducible apply Keeps.trans ?_ (State.recordFault_keeps ..)
    | with_reducible refine Keeps.ite ?_ ?_
    | dsimp only
    | split

theorem State.tearWaiting_keeps (s : State) (x : Nat) : Keeps s (State.tearWaiting s x) := by
  unfold State.tearWaiting
  repeat' first
    | with_reducible exact Keeps.refl _
    | with_reducible apply Keeps.trans ?_ (State.setCtx_keeps ..)
    | with_reducible apply Keeps.trans ?_ (State.teardown_keeps ..)
    | split

theorem State.endTask_keeps (s : State) (t status detail : Nat) : Keeps s (State.endTask s t status detail) := by
  unfold State.endTask
  repeat' first
    | with_reducible exact Keeps.refl _
    | with_reducible apply Keeps.trans ?_ (State.endCore_keeps ..)
    | with_reducible apply Keeps.trans ?_ (State.teardown_keeps ..)
    | with_reducible refine Keeps.ite ?_ ?_
    | dsimp only
    | split

theorem State.whenReady_keeps (s : State) (t : Nat) : Keeps s (State.whenReady s t) := by
  unfold State.whenReady
  repeat' first
    | with_reducible exact Keeps.refl _
    | with_reducible apply Keeps.trans ?_ (State.send_keeps ..)
    | with_reducible apply Keeps.trans ?_ (State.putTask_keeps ..)
    | with_reducible apply Keeps.trans ?_ (State.settle_keeps ..)
    | with_reducible refine Keeps.ite ?_ ?_
    | dsimp only
    | split

theorem State.evaluate_keeps (s : State) (t : Nat) : Keeps s (State.evaluate s t) := by
  unfold State.evaluate
  repeat' first
    | with_reducible exact Keeps.refl _
    | with_reducible apply Keeps.trans ?_ (State.putTask_keeps ..)
    | with_reducible apply Keeps.trans ?_ (State.endTask_keeps ..)
    | with_reducible apply Keeps.trans ?_ (State.whenReady_keeps ..)
    | with_reducible refine Keeps.ite ?_ ?_
    | dsimp only
    | split

theorem State.tryRelease_keeps (s : State) (t : Nat) : Keeps s (State.tryRelease s t) := by
  unfold State.tryRelease
  repeat' first
    | with_reducible exact Keeps.refl _
    | with_reducible apply Keeps.trans ?_ (State.putTask_keeps ..)
    | with_reducible apply Keeps.trans ?_ (State.makeRunnable_keeps ..)
    | with_reducible apply Keeps.trans ?_ (State.whenReady_keeps ..)
    | with_reducible refine Keeps.ite ?_ ?_
    | dsimp only
    | split

theorem State.holdTask_keeps (s : State) (t : Nat) : Keeps s (State.holdTask s t) := by
  unfold State.holdTask
  repeat' first
    | with_reducible exact Keeps.refl _
    | with_reducible apply Keeps.trans ?_ (State.bump_keeps ..)
    | with_reducible apply Keeps.trans ?_ (State.modTask_keeps ..)
    | with_reducible apply Keeps.trans ?_ (State.dropHolds_keeps ..)
    | with_reducible apply Keeps.trans ?_ (State.settle_keeps ..)
    | with_reducible apply Keeps.trans ?_ (State.traceTask_keeps ..)
    | with_reducible apply Keeps.trans ?_ (State.tryRelease_keeps ..)
    | dsimp only
    | split

theorem State.writeEntry_keeps (s : State) (x h : Nat) (e : List Word) : Keeps s (State.writeEntry s x h e) := by
  unfold State.writeEntry
  repeat' first
    | with_reducible exact Keeps.refl _
    | with_reducible apply Keeps.trans ?_ (State.bump_keeps ..)
    | with_reducible apply Keeps.trans ?_ (State.writeBytes_keeps ..)
    | with_reducible apply Keeps.trans ?_ (State.setValid_keeps ..)
    | dsimp only
    | split

theorem State.staleCopies_keeps (s : State) (x h : Nat) : Keeps s (State.staleCopies s x h) := by
  unfold State.staleCopies
  repeat' first
    | with_reducible exact Keeps.refl _
    | dsimp only
    | fail_if_no_progress (with_reducible refine Keeps.mk ?_ rfl rfl rfl rfl rfl rfl)

theorem State.writeScalar_keeps (s : State) (k : Task) : Keeps s (State.writeScalar s k) := by
  unfold State.writeScalar
  repeat' first
    | with_reducible exact Keeps.refl _
    | with_reducible apply Keeps.trans ?_ (State.setReg_keeps ..)
    | with_reducible refine Keeps.ite ?_ ?_
    | split

theorem State.commitEffects_keeps (s : State) (t : Nat) (k : Task) : Keeps s (State.commitEffects s t k) := by
  unfold State.commitEffects
  repeat' first
    | with_reducible exact Keeps.refl _
    | with_reducible apply Keeps.trans ?_ (State.send_keeps ..)
    | with_reducible apply Keeps.trans ?_ (State.setValid_keeps ..)
    | with_reducible apply Keeps.trans ?_ (State.kvLeave_keeps ..)
    | with_reducible apply Keeps.trans ?_ (State.kvFinish_keeps ..)
    | with_reducible apply Keeps.trans ?_ (State.writeEntry_keeps ..)
    | with_reducible apply Keeps.trans ?_ (State.staleCopies_keeps ..)
    | with_reducible apply Keeps.trans ?_ (State.writeScalar_keeps ..)
    | dsimp only
    | split

theorem State.commitTask_keeps (s : State) (t : Nat) : Keeps s (State.commitTask s t) := by
  unfold State.commitTask
  repeat' first
    | with_reducible exact Keeps.refl _
    | with_reducible apply Keeps.trans ?_ (State.bump_keeps ..)
    | with_reducible apply Keeps.trans ?_ (State.writeRecord_keeps ..)
    | with_reducible apply Keeps.trans ?_ (State.afterRecord_keeps ..)
    | with_reducible apply Keeps.trans ?_ (State.traceTask_keeps ..)
    | with_reducible apply Keeps.trans ?_ (State.commitEffects_keeps ..)
    | dsimp only
    | split

theorem State.allDone_keeps (s : State) (t : Nat) : Keeps s (State.allDone s t) := by
  unfold State.allDone
  repeat' first
    | with_reducible exact Keeps.refl _
    | with_reducible apply Keeps.trans ?_ (State.putTask_keeps ..)
    | with_reducible apply Keeps.trans ?_ (State.endTask_keeps ..)
    | with_reducible apply Keeps.trans ?_ (State.holdTask_keeps ..)
    | with_reducible apply Keeps.trans ?_ (State.commitTask_keeps ..)
    | with_reducible refine Keeps.ite ?_ ?_
    | split

theorem State.unitReport_keeps (s : State) (t : Nat) (r : UnitRep) : Keeps s (State.unitReport s t r) := by
  unfold State.unitReport
  repeat' first
    | with_reducible exact Keeps.refl _
    | with_reducible apply Keeps.trans ?_ (State.putTask_keeps ..)
    | with_reducible apply Keeps.trans ?_ (State.kvEngLeave_keeps ..)
    | with_reducible apply Keeps.trans ?_ (State.atomsBack_keeps ..)
    | with_reducible apply Keeps.trans ?_ (State.allDone_keeps ..)
    | with_reducible refine Keeps.ite ?_ ?_
    | dsimp only
    | split

theorem State.injectOverrun_keeps (s : State) (unit island t : Nat) : Keeps s (State.injectOverrun s unit island t) := by
  unfold State.injectOverrun
  repeat' first
    | with_reducible exact Keeps.refl _
    | with_reducible apply Keeps.trans ?_ (State.draw_keeps ..)
    | with_reducible apply Keeps.trans ?_ (State.logE_keeps ..)
    | with_reducible apply Keeps.trans ?_ (State.injFired_keeps ..)
    | with_reducible apply Keeps.trans ?_ (State.modTask_keeps ..)
    | with_reducible refine Keeps.ite ?_ ?_
    | dsimp only
    | split

theorem State.injectCluster_keeps (s : State) (t : Nat) : Keeps s (State.injectCluster s t) := by
  unfold State.injectCluster
  repeat' first
    | with_reducible exact Keeps.refl _
    | with_reducible apply Keeps.trans ?_ (State.injectOverrun_keeps ..)
    | split

theorem State.sendDone_keeps (s : State) (t : Nat) : Keeps s (State.sendDone s t) := by
  unfold State.sendDone
  repeat' first
    | with_reducible exact Keeps.refl _
    | with_reducible apply Keeps.trans ?_ (State.sendOnce_keeps ..)
    | with_reducible apply Keeps.trans ?_ (State.injectCluster_keeps ..)
    | dsimp only
    | split

theorem State.runOp_keeps (s : State) (t op : Nat) (f : State → Task → State) (hf : ∀ (a0 : State) (a1 : Task), Keeps a0 (f a0 a1)) : Keeps s (State.runOp s t op f) := by
  unfold State.runOp
  repeat' first
    | with_reducible exact Keeps.refl _
    | with_reducible apply Keeps.trans ?_ (hf _ _)
    | with_reducible apply Keeps.trans ?_ (State.awaitBoundary_keeps _ _ (fun _ => ?_))
    | with_reducible apply Keeps.trans ?_ (State.putTask_keeps ..)
    | with_reducible refine Keeps.ite ?_ ?_
    | split

theorem State.runUnit_keeps (s : State) (t op : Nat) (f : State → Task → State) (hf : ∀ (a0 : State) (a1 : Task), Keeps a0 (f a0 a1)) : Keeps s (State.runUnit s t op f) := by
  unfold State.runUnit
  repeat' first
    | with_reducible exact Keeps.refl _
    | with_reducible apply Keeps.trans ?_ (hf _ _)
    | with_reducible apply Keeps.trans ?_ (State.sendDone_keeps ..)
    | with_reducible apply Keeps.trans ?_ (State.runOp_keeps _ _ _ _ (fun _ _ => ?_))

theorem State.reevaluate_keeps (s : State) (f pool gf slot : Nat) : Keeps s (State.reevaluate s f pool gf slot) := by
  unfold State.reevaluate
  repeat' first
    | with_reducible exact Keeps.refl _
    | with_reducible apply Keeps.trans ?_ (State.evaluate_keeps ..)
    | with_reducible refine Keeps.fold _ _ ?_ (fun _ _ => ?_)

theorem State.rearmFor_keeps (s : State) (f slot epoch t : Nat) : Keeps s (State.rearmFor s f slot epoch t) := by
  unfold State.rearmFor
  repeat' first
    | with_reducible exact Keeps.refl _
    | with_reducible apply Keeps.trans ?_ (State.send_keeps ..)
    | with_reducible apply Keeps.trans ?_ (State.rearm_keeps ..)

theorem State.garmAnswered_keeps (s : State) (t : Nat) (applied : Bool) : Keeps s (State.garmAnswered s t applied) := by
  unfold State.garmAnswered
  repeat' first
    | with_reducible exact Keeps.refl _
    | with_reducible apply Keeps.trans ?_ (State.unitReport_keeps ..)

theorem State.released_keeps (s : State) (t slot : Nat) : Keeps s (State.released s t slot) := by
  unfold State.released
  repeat' first
    | with_reducible exact Keeps.refl _
    | with_reducible apply Keeps.trans ?_ (State.putTask_keeps ..)
    | with_reducible apply Keeps.trans ?_ (State.traceTask_keeps ..)
    | with_reducible apply Keeps.trans ?_ (State.tryRelease_keeps ..)
    | dsimp only
    | split

theorem State.discard_keeps (s : State) (t : Nat) (k : Task) : Keeps s (State.discard s t k) := by
  unfold State.discard
  repeat' first
    | with_reducible exact Keeps.refl _
    | with_reducible apply Keeps.trans ?_ (State.kvEngLeave_keeps ..)
    | with_reducible apply Keeps.trans ?_ (State.dropBank_keeps ..)
    | with_reducible apply Keeps.trans ?_ (State.setAtoms_keeps ..)
    | with_reducible refine Keeps.fold _ _ ?_ (fun _ _ => ?_)
    | dsimp only
    | split
    | fail_if_no_progress (with_reducible refine Keeps.mk ?_ rfl rfl rfl rfl rfl rfl)

theorem State.killDone_keeps (s : State) (t : Nat) : Keeps s (State.killDone s t) := by
  unfold State.killDone
  repeat' first
    | with_reducible exact Keeps.refl _
    | with_reducible apply Keeps.trans ?_ (State.putTask_keeps ..)
    | with_reducible apply Keeps.trans ?_ (State.modTask_keeps ..)
    | with_reducible apply Keeps.trans ?_ (State.kvLeave_keeps ..)
    | with_reducible apply Keeps.trans ?_ (State.endCore_keeps ..)
    | with_reducible apply Keeps.trans ?_ (State.whenReady_keeps ..)
    | with_reducible apply Keeps.trans ?_ (State.discard_keeps ..)
    | with_reducible refine Keeps.ite ?_ ?_
    | dsimp only
    | split

theorem State.killAcked_keeps (s : State) (t : Nat) : Keeps s (State.killAcked s t) := by
  unfold State.killAcked
  repeat' first
    | with_reducible exact Keeps.refl _
    | with_reducible apply Keeps.trans ?_ (State.putTask_keeps ..)
    | with_reducible apply Keeps.trans ?_ (State.whenReady_keeps ..)
    | with_reducible refine Keeps.ite ?_ ?_
    | split

theorem State.readyShards_keeps (s : State) (t : Nat) : Keeps s (State.readyShards s t) := by
  unfold State.readyShards
  repeat' first
    | with_reducible exact Keeps.refl _
    | with_reducible apply Keeps.trans ?_ (State.putTask_keeps ..)
    | dsimp only
    | split
    | fail_if_no_progress (with_reducible refine Keeps.mk ?_ rfl rfl rfl rfl rfl rfl)

theorem State.shardAcked_keeps (s : State) (t tag : Nat) : Keeps s (State.shardAcked s t tag) := by
  unfold State.shardAcked
  repeat' first
    | with_reducible exact Keeps.refl _
    | with_reducible apply Keeps.trans ?_ (State.modTask_keeps ..)
    | with_reducible apply Keeps.trans ?_ (State.readyShards_keeps ..)

theorem State.acked_keeps (s : State) (t : Nat) : Keeps s (State.acked s t) := by
  unfold State.acked
  repeat' first
    | with_reducible exact Keeps.refl _
    | with_reducible apply Keeps.trans ?_ (State.sendOnce_keeps ..)
    | with_reducible apply Keeps.trans ?_ (State.closeTask_keeps ..)
    | with_reducible apply Keeps.trans ?_ (State.allDone_keeps ..)
    | with_reducible apply Keeps.trans ?_ (State.readyShards_keeps ..)
    | dsimp only
    | split

theorem State.writeAcked_keeps (s : State) (i : Issuer) : Keeps s (State.writeAcked s i) := by
  unfold State.writeAcked
  repeat' first
    | with_reducible exact Keeps.refl _
    | with_reducible apply Keeps.trans ?_ (State.setAcks_keeps ..)
    | with_reducible apply Keeps.trans ?_ (State.setSats_keeps ..)
    | with_reducible apply Keeps.trans ?_ (State.acked_keeps ..)
    | with_reducible refine Keeps.ite ?_ ?_
    | dsimp only
    | split
    | fail_if_no_progress (with_reducible refine Keeps.mk ?_ rfl rfl rfl rfl rfl rfl)

theorem State.overrunIsland_keeps (s : State) (t : Nat) (k : Task) : Keeps s (State.overrunIsland s t k).1 := by
  unfold State.overrunIsland
  repeat' first
    | with_reducible exact Keeps.refl _
    | with_reducible apply Keeps.trans ?_ (State.draw_keeps ..)
    | with_reducible refine Keeps.itePair ?_ ?_

theorem State.overrun_keeps (s : State) (t : Nat) : Keeps s (State.overrun s t) := by
  unfold State.overrun
  repeat' first
    | with_reducible exact Keeps.refl _
    | with_reducible apply Keeps.trans ?_ (State.draw_keeps ..)
    | with_reducible apply Keeps.trans ?_ (State.logE_keeps ..)
    | with_reducible apply Keeps.trans ?_ (State.endTask_keeps ..)
    | with_reducible apply Keeps.trans ?_ (State.discard_keeps ..)
    | with_reducible apply Keeps.trans ?_ (State.overrunIsland_keeps ..)
    | with_reducible refine Keeps.ite ?_ ?_
    | dsimp only
    | split

theorem State.tornDown_keeps (s : State) (x : Nat) : Keeps s (State.tornDown s x) := by
  unfold State.tornDown
  repeat' first
    | with_reducible exact Keeps.refl _
    | with_reducible apply Keeps.trans ?_ (State.bump_keeps ..)
    | with_reducible apply Keeps.trans ?_ (State.setCtx_keeps ..)
    | with_reducible apply Keeps.trans ?_ (State.setGlint_keeps ..)
    | with_reducible refine Keeps.fold _ _ ?_ (fun _ _ => ?_)
    | with_reducible refine Keeps.ite ?_ ?_
    | dsimp only
    | split

end Sys2Proof.Machine
end

