-- ==== Sys2Proof/Laws/KeepsSched.lean ====
section
/-! SUPPORT. What the operations of Machine/Sched.lean keep. -/
namespace Sys2Proof.Machine

theorem State.ctxFinish_keeps (s : State) (f : Nat) : Keeps s (State.ctxFinish s f) := by
  unfold State.ctxFinish
  repeat' first
    | with_reducible exact Keeps.refl _
    | with_reducible apply Keeps.trans ?_ (State.setFld_keeps ..)
    | with_reducible apply Keeps.trans ?_ (State.setBit_keeps ..)
    | with_reducible apply Keeps.trans ?_ (State.setCtx_keeps ..)
    | with_reducible apply Keeps.trans ?_ (State.modField_keeps ..)
    | with_reducible apply Keeps.trans ?_ (State.setGlint_keeps ..)
    | with_reducible refine Keeps.fold _ _ ?_ (fun _ _ => ?_)
    | with_reducible refine Keeps.ite ?_ ?_
    | dsimp only
    | split
    | fail_if_no_progress (with_reducible refine Keeps.mk ?_ rfl rfl rfl rfl rfl rfl)

theorem State.ctxStart_keeps (s : State) (f : Nat) (v : Word) : Keeps s (State.ctxStart s f v) := by
  unfold State.ctxStart
  repeat' first
    | with_reducible exact Keeps.refl _
    | with_reducible apply Keeps.trans ?_ (State.setBit_keeps ..)
    | with_reducible apply Keeps.trans ?_ (State.modField_keeps ..)
    | with_reducible apply Keeps.trans ?_ (State.ctxFinish_keeps ..)
    | with_reducible refine Keeps.ite ?_ ?_

theorem State.ring_keeps (s : State) (f : Nat) (v : Word) : Keeps s (State.ring s f v) := by
  unfold State.ring
  repeat' first
    | with_reducible exact Keeps.refl _
    | with_reducible apply Keeps.trans ?_ (State.setBit_keeps ..)
    | with_reducible apply Keeps.trans ?_ (State.setCtx_keeps ..)
    | with_reducible apply Keeps.trans ?_ (State.makeRunnable_keeps ..)
    | with_reducible apply Keeps.trans ?_ (State.settle_keeps ..)
    | with_reducible refine Keeps.ite ?_ ?_
    | dsimp only
    | split

theorem State.tdNext_keeps (s : State) (f : Nat) : Keeps s (State.tdNext s f) := by
  unfold State.tdNext
  repeat' first
    | with_reducible exact Keeps.refl _
    | with_reducible apply Keeps.trans ?_ (State.setBit_keeps ..)
    | with_reducible apply Keeps.trans ?_ (State.modField_keeps ..)
    | split

theorem State.tdSubmit_keeps (s : State) (f : Nat) (q : TdReq) : Keeps s (State.tdSubmit s f q) := by
  unfold State.tdSubmit
  repeat' first
    | with_reducible exact Keeps.refl _
    | with_reducible apply Keeps.trans ?_ (State.setBit_keeps ..)
    | with_reducible apply Keeps.trans ?_ (State.modField_keeps ..)
    | split

theorem State.tdWrite_keeps (s : State) (f : Nat) (v : Word) : Keeps s (State.tdWrite s f v) := by
  unfold State.tdWrite
  repeat' first
    | with_reducible exact Keeps.refl _
    | with_reducible apply Keeps.trans ?_ (State.setBit_keeps ..)
    | with_reducible apply Keeps.trans ?_ (State.tdSubmit_keeps ..)
    | with_reducible refine Keeps.ite ?_ ?_

theorem State.tdFinish_keeps (s : State) (f : Nat) : Keeps s (State.tdFinish s f) := by
  unfold State.tdFinish
  repeat' first
    | with_reducible exact Keeps.refl _
    | with_reducible apply Keeps.trans ?_ (State.setFld_keeps ..)
    | with_reducible apply Keeps.trans ?_ (State.setBit_keeps ..)
    | with_reducible apply Keeps.trans ?_ (State.bump_keeps ..)
    | with_reducible apply Keeps.trans ?_ (State.modTask_keeps ..)
    | with_reducible apply Keeps.trans ?_ (State.setValid_keeps ..)
    | with_reducible apply Keeps.trans ?_ (State.creationCheck_keeps ..)
    | with_reducible apply Keeps.trans ?_ (State.writeEntry_keeps ..)
    | with_reducible apply Keeps.trans ?_ (State.staleCopies_keeps ..)
    | with_reducible apply Keeps.trans ?_ (State.sendDone_keeps ..)
    | with_reducible apply Keeps.trans ?_ (State.tdNext_keeps ..)
    | with_reducible refine Keeps.ite ?_ ?_
    | dsimp only
    | split

theorem State.fetchOne_keeps (s : State) (f x : Nat) : Keeps s (State.fetchOne s f x).1 := by
  unfold State.fetchOne
  repeat' first
    | with_reducible exact Keeps.refl _
    | with_reducible apply Keeps.trans ?_ (State.bump_keeps ..)
    | with_reducible apply Keeps.trans ?_ (State.report_keeps ..)
    | with_reducible apply Keeps.trans ?_ (State.readRun_keeps ..)
    | with_reducible apply Keeps.trans ?_ (State.setCtx_keeps ..)
    | with_reducible apply Keeps.trans ?_ (State.putTask_keeps ..)
    | with_reducible apply Keeps.trans ?_ (State.readEntries_keeps ..)
    | with_reducible apply Keeps.trans ?_ (State.endTask_keeps ..)
    | with_reducible apply Keeps.trans ?_ (State.evaluate_keeps ..)
    | with_reducible refine Keeps.fold _ _ ?_ (fun _ _ => ?_)
    | with_reducible refine Keeps.itePair ?_ ?_
    | dsimp only
    | split
    | fail_if_no_progress (with_reducible refine Keeps.mk ?_ rfl rfl rfl rfl rfl rfl)

theorem State.fetchTurn_keeps (s : State) (f x : Nat) (n : Nat) : Keeps s (State.fetchTurn s f x n) := by
  induction n generalizing s with
  | zero =>
    unfold State.fetchTurn
    repeat' first
      | with_reducible exact Keeps.refl _
  | succ n ih =>
    unfold State.fetchTurn
    repeat' first
      | with_reducible exact Keeps.refl _
      | with_reducible apply Keeps.trans ?_ (ih _)
      | split
      | refine Keeps.trans ?_ (Keeps.pair (p := State.fetchOne _ _ _) (by assumption) (State.fetchOne_keeps ..))

theorem State.fetchField_keeps (s : State) (f : Nat) : Keeps s (State.fetchField s f) := by
  unfold State.fetchField
  repeat' first
    | with_reducible exact Keeps.refl _
    | with_reducible apply Keeps.trans ?_ (State.modField_keeps ..)
    | with_reducible apply Keeps.trans ?_ (State.settle_keeps ..)
    | with_reducible apply Keeps.trans ?_ (State.fetchTurn_keeps ..)
    | dsimp only
    | split

theorem State.selectAudit_keeps (s : State) (t : Nat) (banks : Bool) : Keeps s (State.selectAudit s t banks) := by
  unfold State.selectAudit
  repeat' first
    | with_reducible exact Keeps.refl _
    | with_reducible apply Keeps.trans ?_ (State.setFld_keeps ..)
    | with_reducible apply Keeps.trans ?_ (State.putTask_keeps ..)
    | with_reducible refine Keeps.ite ?_ ?_
    | dsimp only
    | split

theorem State.sampleCounts_keeps (s : State) (t : Nat) : Keeps s (State.sampleCounts s t).1 := by
  unfold State.sampleCounts
  repeat' first
    | with_reducible exact Keeps.refl _
    | with_reducible apply Keeps.trans ?_ (State.modTask_keeps ..)
    | with_reducible refine Keeps.foldPair _ _ ?_ (fun _ _ => ?_)
    | with_reducible refine Keeps.itePair ?_ ?_
    | dsimp only
    | split
    | refine Keeps.trans ?_ (Keeps.pair (p := State.sampleCount _ _ _ _) (by assumption) (State.sampleCount_keeps ..))

theorem State.sample_keeps (s : State) (t : Nat) : Keeps s (State.sample s t).1 := by
  unfold State.sample
  repeat' first
    | with_reducible exact Keeps.refl _
    | with_reducible apply Keeps.trans ?_ (State.putTask_keeps ..)
    | with_reducible apply Keeps.trans ?_ (State.readEntries_keeps ..)
    | dsimp only
    | split

theorem State.countDispatch_keeps (s : State) (t : Nat) (route : Nat) : Keeps s (State.countDispatch s t route) := by
  unfold State.countDispatch
  repeat' first
    | with_reducible exact Keeps.refl _
    | with_reducible apply Keeps.trans ?_ (State.bump_keeps ..)
    | with_reducible apply Keeps.trans ?_ (State.traceTask_keeps ..)
    | with_reducible refine Keeps.ite ?_ ?_
    | dsimp only
    | split

theorem State.unsealed_keeps (s : State) (t : Nat) (k : Task) : Keeps s (State.unsealed s t k).1 := by
  unfold State.unsealed
  repeat' first
    | with_reducible exact Keeps.refl _
    | with_reducible apply Keeps.trans ?_ (State.recGet_keeps ..)
    | with_reducible refine Keeps.itePair ?_ ?_

theorem State.dispatchTask_keeps (s : State) (t : Nat) : Keeps s (State.dispatchTask s t) := by
  unfold State.dispatchTask
  repeat' first
    | with_reducible exact Keeps.refl _
    | with_reducible apply Keeps.trans ?_ (State.putTask_keeps ..)
    | with_reducible apply Keeps.trans ?_ (State.consume_keeps ..)
    | with_reducible apply Keeps.trans ?_ (State.endTask_keeps ..)
    | with_reducible apply Keeps.trans ?_ (State.holdTask_keeps ..)
    | with_reducible apply Keeps.trans ?_ (State.allDone_keeps ..)
    | with_reducible apply Keeps.trans ?_ (State.selectAudit_keeps ..)
    | with_reducible apply Keeps.trans ?_ (State.sampleCounts_keeps ..)
    | with_reducible apply Keeps.trans ?_ (State.countDispatch_keeps ..)
    | with_reducible apply Keeps.trans ?_ (State.unsealed_keeps ..)
    | with_reducible refine Keeps.ite ?_ ?_
    | dsimp only
    | split
    | refine Keeps.trans ?_ (Keeps.pair (p := State.sample _ _) (by assumption) (State.sample_keeps ..))

theorem State.dispatchAt_keeps (s : State) (c e : Nat) : Keeps s (State.dispatchAt s c e) := by
  unfold State.dispatchAt
  repeat' first
    | with_reducible exact Keeps.refl _
    | with_reducible apply Keeps.trans ?_ (State.settle_keeps ..)
    | with_reducible apply Keeps.trans ?_ (State.killTask_keeps ..)
    | with_reducible apply Keeps.trans ?_ (State.dispatchTask_keeps ..)
    | with_reducible refine Keeps.ite ?_ ?_
    | dsimp only
    | split

theorem State.issueBanks_keeps (s : State) (t : Nat) : Keeps s (State.issueBanks s t) := by
  unfold State.issueBanks
  repeat' first
    | with_reducible exact Keeps.refl _
    | with_reducible apply Keeps.trans ?_ (State.send_keeps ..)
    | with_reducible apply Keeps.trans ?_ (State.putTask_keeps ..)
    | with_reducible apply Keeps.trans ?_ (State.badRange_keeps ..)
    | with_reducible apply Keeps.trans ?_ (State.allDone_keeps ..)
    | with_reducible apply Keeps.trans ?_ (State.selectAudit_keeps ..)
    | with_reducible apply Keeps.trans ?_ (State.countDispatch_keeps ..)
    | with_reducible refine Keeps.fold _ _ ?_ (fun _ _ => ?_)
    | with_reducible refine Keeps.ite ?_ ?_
    | dsimp only
    | split

theorem State.poolDispatch_keeps (s : State) (f : Nat) : Keeps s (State.poolDispatch s f) := by
  unfold State.poolDispatch
  repeat' first
    | with_reducible exact Keeps.refl _
    | with_reducible apply Keeps.trans ?_ (State.send_keeps ..)
    | with_reducible apply Keeps.trans ?_ (State.putTask_keeps ..)
    | with_reducible apply Keeps.trans ?_ (State.consume_keeps ..)
    | with_reducible apply Keeps.trans ?_ (State.settle_keeps ..)
    | with_reducible apply Keeps.trans ?_ (State.endTask_keeps ..)
    | with_reducible apply Keeps.trans ?_ (State.holdTask_keeps ..)
    | with_reducible apply Keeps.trans ?_ (State.sampleCounts_keeps ..)
    | with_reducible apply Keeps.trans ?_ (State.countDispatch_keeps ..)
    | with_reducible apply Keeps.trans ?_ (State.issueBanks_keeps ..)
    | with_reducible refine Keeps.ite ?_ ?_
    | dsimp only
    | split
    | refine Keeps.trans ?_ (Keeps.pair (p := State.sample _ _) (by assumption) (State.sample_keeps ..))

theorem State.headerRead_keeps (s : State) (t : Nat) : Keeps s (State.headerRead s t) := by
  unfold State.headerRead
  repeat' first
    | with_reducible exact Keeps.refl _
    | with_reducible apply Keeps.trans ?_ (State.modTask_keeps ..)
    | with_reducible apply Keeps.trans ?_ (State.readEntries_keeps ..)
    | with_reducible apply Keeps.trans ?_ (State.consume_keeps ..)
    | with_reducible apply Keeps.trans ?_ (State.endTask_keeps ..)
    | with_reducible apply Keeps.trans ?_ (State.holdTask_keeps ..)
    | with_reducible apply Keeps.trans ?_ (State.allDone_keeps ..)
    | with_reducible refine Keeps.ite ?_ ?_
    | dsimp only
    | split
    | refine Keeps.trans ?_ (Keeps.pair (p := State.sampleCount _ _ _ _) (by assumption) (State.sampleCount_keeps ..))

theorem State.handedOff_keeps (s : State) (t : Nat) : Keeps s (State.handedOff s t) := by
  unfold State.handedOff
  repeat' first
    | with_reducible exact Keeps.refl _
    | with_reducible apply Keeps.trans ?_ (State.putTask_keeps ..)
    | with_reducible refine Keeps.ite ?_ ?_
    | split

theorem State.garmSend_keeps (s : State) (t : Nat) (k : Task) : Keeps s (State.garmSend s t k) := by
  unfold State.garmSend
  repeat' first
    | with_reducible exact Keeps.refl _
    | with_reducible apply Keeps.trans ?_ (State.send_keeps ..)

theorem State.tcreateRun_keeps (s : State) (t : Nat) (k : Task) : Keeps s (State.tcreateRun s t k) := by
  unfold State.tcreateRun
  repeat' first
    | with_reducible exact Keeps.refl _
    | with_reducible apply Keeps.trans ?_ (State.fetchBytes_keeps ..)
    | with_reducible apply Keeps.trans ?_ (State.badRange_keeps ..)
    | with_reducible apply Keeps.trans ?_ (State.sendDone_keeps ..)
    | with_reducible apply Keeps.trans ?_ (State.tdSubmit_keeps ..)
    | with_reducible refine Keeps.ite ?_ ?_
    | dsimp only
    | split

theorem State.exportOp_keeps (s : State) (f slot epoch op : Nat) : Keeps s (State.exportOp s f slot epoch op) := by
  unfold State.exportOp
  repeat' first
    | with_reducible exact Keeps.refl _
    | with_reducible apply Keeps.trans ?_ (State.bump_keeps ..)
    | with_reducible apply Keeps.trans ?_ (State.signal_keeps ..)
    | with_reducible apply Keeps.trans ?_ (State.rearm_keeps ..)
    | with_reducible refine Keeps.ite ?_ ?_
    | dsimp only
    | split

end Sys2Proof.Machine
end

