-- ==== Sys2Proof/Laws/KeepsSwap.lean ====
section
/-! SUPPORT. What the operations of Machine/Swap.lean keep. -/
namespace Sys2Proof.Machine

theorem State.imageWrite_keeps (s : State) (f x i : Nat) (w : List Word) : Keeps s (State.imageWrite s f x i w) := by
  unfold State.imageWrite
  repeat' first
    | with_reducible exact Keeps.refl _
    | with_reducible apply Keeps.trans ?_ (State.bump_keeps ..)
    | with_reducible apply Keeps.trans ?_ (State.writeBytes_keeps ..)
    | split

theorem State.draws_keeps (s : State) (n : Nat) : Keeps s (State.draws s n).1 := by
  unfold State.draws
  repeat' first
    | with_reducible exact Keeps.refl _
    | with_reducible apply Keeps.trans ?_ (State.draw_keeps ..)
    | with_reducible refine Keeps.foldPair _ _ ?_ (fun _ _ => ?_)

theorem State.writeImage_keeps (s : State) (f x : Nat) : Keeps s (State.writeImage s f x) := by
  unfold State.writeImage
  repeat' first
    | with_reducible exact Keeps.refl _
    | with_reducible apply Keeps.trans ?_ (State.modTask_keeps ..)
    | with_reducible apply Keeps.trans ?_ (State.imageWrite_keeps ..)
    | with_reducible apply Keeps.trans ?_ (State.draws_keeps ..)
    | with_reducible refine Keeps.foldPair _ _ ?_ (fun _ _ => ?_)

theorem State.readImage_keeps (s : State) (f x : Nat) : Keeps s (State.readImage s f x).1 := by
  unfold State.readImage
  repeat' first
    | with_reducible exact Keeps.refl _
    | with_reducible apply Keeps.trans ?_ (State.bump_keeps ..)
    | with_reducible apply Keeps.trans ?_ (State.readRun_keeps ..)
    | with_reducible refine Keeps.foldPair _ _ ?_ (fun _ _ => ?_)
    | dsimp only
    | split

theorem State.leaveResidency_keeps (s : State) (x : Nat) : Keeps s (State.leaveResidency s x) := by
  unfold State.leaveResidency
  repeat' first
    | with_reducible exact Keeps.refl _
    | with_reducible apply Keeps.trans ?_ (State.modCtx_keeps ..)
    | dsimp only
    | fail_if_no_progress (with_reducible refine Keeps.mk ?_ rfl rfl rfl rfl rfl rfl)

theorem State.startOut_keeps (s : State) (f x : Nat) (next : Option Nat) : Keeps s (State.startOut s f x next) := by
  unfold State.startOut
  repeat' first
    | with_reducible exact Keeps.refl _
    | with_reducible apply Keeps.trans ?_ (State.setBit_keeps ..)
    | with_reducible apply Keeps.trans ?_ (State.send_keeps ..)
    | with_reducible apply Keeps.trans ?_ (State.modField_keeps ..)
    | with_reducible apply Keeps.trans ?_ (State.leaveResidency_keeps ..)

theorem State.startIn_keeps (s : State) (f x : Nat) : Keeps s (State.startIn s f x) := by
  unfold State.startIn
  repeat' first
    | with_reducible exact Keeps.refl _
    | with_reducible apply Keeps.trans ?_ (State.setBit_keeps ..)
    | with_reducible apply Keeps.trans ?_ (State.send_keeps ..)
    | with_reducible apply Keeps.trans ?_ (State.modCtx_keeps ..)
    | with_reducible apply Keeps.trans ?_ (State.modField_keeps ..)

theorem State.swapIdle_keeps (s : State) (f : Nat) : Keeps s (State.swapIdle s f) := by
  unfold State.swapIdle
  repeat' first
    | with_reducible exact Keeps.refl _
    | with_reducible apply Keeps.trans ?_ (State.setBit_keeps ..)
    | with_reducible apply Keeps.trans ?_ (State.modField_keeps ..)
    | with_reducible apply Keeps.trans ?_ (State.startOut_keeps ..)
    | split

theorem State.swapSel_keeps (s : State) (f : Nat) : Keeps s (State.swapSel s f) := by
  unfold State.swapSel
  repeat' first
    | with_reducible exact Keeps.refl _
    | with_reducible apply Keeps.trans ?_ (State.setBit_keeps ..)
    | with_reducible apply Keeps.trans ?_ (State.settle_keeps ..)
    | with_reducible apply Keeps.trans ?_ (State.startOut_keeps ..)
    | with_reducible apply Keeps.trans ?_ (State.startIn_keeps ..)
    | with_reducible refine Keeps.ite ?_ ?_
    | dsimp only
    | split

theorem State.swapOutEnd_keeps (s : State) (f : Nat) : Keeps s (State.swapOutEnd s f) := by
  unfold State.swapOutEnd
  repeat' first
    | with_reducible exact Keeps.refl _
    | with_reducible apply Keeps.trans ?_ (State.setFld_keeps ..)
    | with_reducible apply Keeps.trans ?_ (State.setBit_keeps ..)
    | with_reducible apply Keeps.trans ?_ (State.bump_keeps ..)
    | with_reducible apply Keeps.trans ?_ (State.trace_keeps ..)
    | with_reducible apply Keeps.trans ?_ (State.modCtx_keeps ..)
    | with_reducible apply Keeps.trans ?_ (State.makeRunnable_keeps ..)
    | with_reducible apply Keeps.trans ?_ (State.settle_keeps ..)
    | with_reducible apply Keeps.trans ?_ (State.tearWaiting_keeps ..)
    | with_reducible apply Keeps.trans ?_ (State.writeImage_keeps ..)
    | with_reducible apply Keeps.trans ?_ (State.startIn_keeps ..)
    | with_reducible apply Keeps.trans ?_ (State.swapIdle_keeps ..)
    | with_reducible refine Keeps.ite ?_ ?_
    | dsimp only
    | split

theorem State.replaceTasks_keeps (s : State) (f x : Nat) (l : List (Nat × List Word)) : Keeps s (State.replaceTasks s f x l) := by
  induction l generalizing s with
  | nil =>
    unfold State.replaceTasks
    repeat' first
      | with_reducible exact Keeps.refl _
  | cons r t ih =>
    unfold State.replaceTasks
    repeat' first
      | with_reducible exact Keeps.refl _
      | with_reducible apply Keeps.trans ?_ (ih _)
      | with_reducible apply Keeps.trans ?_ (State.modTask_keeps ..)
      | with_reducible apply Keeps.trans ?_ (State.evaluate_keeps ..)
      | with_reducible apply Keeps.trans ?_ (State.tryRelease_keeps ..)
      | with_reducible refine Keeps.ite ?_ ?_
      | split

theorem State.swapInEnd_keeps (s : State) (f : Nat) : Keeps s (State.swapInEnd s f) := by
  unfold State.swapInEnd
  repeat' first
    | with_reducible exact Keeps.refl _
    | with_reducible apply Keeps.trans ?_ (State.setFld_keeps ..)
    | with_reducible apply Keeps.trans ?_ (State.bump_keeps ..)
    | with_reducible apply Keeps.trans ?_ (State.send_keeps ..)
    | with_reducible apply Keeps.trans ?_ (State.trace_keeps ..)
    | with_reducible apply Keeps.trans ?_ (State.report_keeps ..)
    | with_reducible apply Keeps.trans ?_ (State.modCtx_keeps ..)
    | with_reducible apply Keeps.trans ?_ (State.makeRunnable_keeps ..)
    | with_reducible apply Keeps.trans ?_ (State.settle_keeps ..)
    | with_reducible apply Keeps.trans ?_ (State.tearWaiting_keeps ..)
    | with_reducible apply Keeps.trans ?_ (State.readImage_keeps ..)
    | with_reducible apply Keeps.trans ?_ (State.swapIdle_keeps ..)
    | with_reducible apply Keeps.trans ?_ (State.replaceTasks_keeps ..)
    | with_reducible refine Keeps.fold _ _ ?_ (fun _ _ => ?_)
    | with_reducible refine Keeps.ite ?_ ?_
    | with_reducible refine Keeps.itePair ?_ ?_
    | dsimp only
    | split

theorem State.resRefused_keeps (s : State) (f : Nat) : Keeps s (State.resRefused s f) := by
  unfold State.resRefused
  repeat' first
    | with_reducible exact Keeps.refl _
    | with_reducible apply Keeps.trans ?_ (State.setBit_keeps ..)

theorem State.pinOp_keeps (s : State) (f x : Nat) : Keeps s (State.pinOp s f x) := by
  unfold State.pinOp
  repeat' first
    | with_reducible exact Keeps.refl _
    | with_reducible apply Keeps.trans ?_ (State.setCtx_keeps ..)
    | with_reducible apply Keeps.trans ?_ (State.resRefused_keeps ..)
    | with_reducible refine Keeps.ite ?_ ?_
    | split

theorem State.unpinOp_keeps (s : State) (f x : Nat) : Keeps s (State.unpinOp s f x) := by
  unfold State.unpinOp
  repeat' first
    | with_reducible exact Keeps.refl _
    | with_reducible apply Keeps.trans ?_ (State.setCtx_keeps ..)
    | with_reducible apply Keeps.trans ?_ (State.resRefused_keeps ..)
    | split

theorem State.evictOp_keeps (s : State) (f x : Nat) : Keeps s (State.evictOp s f x) := by
  unfold State.evictOp
  repeat' first
    | with_reducible exact Keeps.refl _
    | with_reducible apply Keeps.trans ?_ (State.modField_keeps ..)
    | with_reducible apply Keeps.trans ?_ (State.settle_keeps ..)
    | with_reducible apply Keeps.trans ?_ (State.leaveResidency_keeps ..)
    | with_reducible apply Keeps.trans ?_ (State.startOut_keeps ..)
    | with_reducible apply Keeps.trans ?_ (State.resRefused_keeps ..)
    | with_reducible refine Keeps.ite ?_ ?_
    | dsimp only
    | split

theorem State.admitOp_keeps (s : State) (f x : Nat) : Keeps s (State.admitOp s f x) := by
  unfold State.admitOp
  repeat' first
    | with_reducible exact Keeps.refl _
    | with_reducible apply Keeps.trans ?_ (State.makeRunnable_keeps ..)
    | with_reducible apply Keeps.trans ?_ (State.startIn_keeps ..)
    | with_reducible apply Keeps.trans ?_ (State.resRefused_keeps ..)
    | with_reducible refine Keeps.ite ?_ ?_
    | split

theorem State.tearOp_keeps (s : State) (f x : Nat) : Keeps s (State.tearOp s f x) := by
  unfold State.tearOp
  repeat' first
    | with_reducible exact Keeps.refl _
    | with_reducible apply Keeps.trans ?_ (State.teardown_keeps ..)
    | with_reducible apply Keeps.trans ?_ (State.resRefused_keeps ..)
    | with_reducible refine Keeps.ite ?_ ?_
    | split

theorem State.resCtl_keeps (s : State) (f : Nat) (v : Word) : Keeps s (State.resCtl s f v) := by
  unfold State.resCtl
  repeat' first
    | with_reducible exact Keeps.refl _
    | with_reducible apply Keeps.trans ?_ (State.pinOp_keeps ..)
    | with_reducible apply Keeps.trans ?_ (State.unpinOp_keeps ..)
    | with_reducible apply Keeps.trans ?_ (State.evictOp_keeps ..)
    | with_reducible apply Keeps.trans ?_ (State.admitOp_keeps ..)
    | with_reducible apply Keeps.trans ?_ (State.tearOp_keeps ..)
    | dsimp only
    | split

end Sys2Proof.Machine
end

