-- ==== Sys2Proof/Laws/KeepsVector.lean ====
section
/-! SUPPORT. What the operations of Machine/Vector.lean keep. -/
namespace Sys2Proof.Machine

theorem State.setEngine_keeps (s : State) (n : Nat) (e : Engine) : Keeps s (State.setEngine s n e) := by
  unfold State.setEngine
  repeat' first
    | with_reducible exact Keeps.refl _
    | dsimp only
    | fail_if_no_progress (with_reducible refine Keeps.mk ?_ rfl rfl rfl rfl rfl rfl)

theorem State.vecOp_keeps (s : State) (c e op : Nat) (w : BitVec 24) : Keeps s (State.vecOp s c e op w) := by
  unfold State.vecOp
  repeat' first
    | with_reducible exact Keeps.refl _
    | with_reducible apply Keeps.trans ?_ (State.bump_keeps ..)
    | with_reducible apply Keeps.trans ?_ (State.setEngine_keeps ..)

theorem State.setRed_keeps (s : State) (c : Nat) (u : RedUnit) : Keeps s (State.setRed s c u) := by
  unfold State.setRed
  repeat' first
    | with_reducible exact Keeps.refl _
    | dsimp only
    | fail_if_no_progress (with_reducible refine Keeps.mk ?_ rfl rfl rfl rfl rfl rfl)

theorem State.redOp_keeps (s : State) (c red k : Nat) : Keeps s (State.redOp s c red k) := by
  unfold State.redOp
  repeat' first
    | with_reducible exact Keeps.refl _
    | with_reducible apply Keeps.trans ?_ (State.setRed_keeps ..)

theorem State.sampleCmd_keeps (s : State) (c : Nat) (companion : Bool) : Keeps s (State.sampleCmd s c companion) := by
  unfold State.sampleCmd
  repeat' first
    | with_reducible exact Keeps.refl _
    | with_reducible apply Keeps.trans ?_ (State.setRed_keeps ..)

theorem State.openMany_keeps (s : State) (t : Nat) (k : Task) (ps : List Nat) (count : Bool) : Keeps s (State.openMany s t k ps count).1 := by
  unfold State.openMany
  repeat' first
    | with_reducible exact Keeps.refl _
    | with_reducible refine Keeps.foldPair _ _ ?_ (fun _ _ => ?_)
    | with_reducible refine Keeps.itePair ?_ ?_
    | dsimp only
    | split
    | refine Keeps.trans ?_ (Keeps.pair (p := State.openOpnd _ _ _ _ _) (by assumption) (State.openOpnd_keeps ..))

theorem State.runStrip_keeps (s : State) (t : Nat) (k : Task) (l : List (Nat × Opnd)) (v : List Nat) (vl lin : Nat) : Keeps s (State.runStrip s t k l v vl lin).1 := by
  unfold State.runStrip
  repeat' first
    | with_reducible exact Keeps.refl _
    | with_reducible apply Keeps.trans ?_ (State.fetchViews_keeps ..)
    | with_reducible refine Keeps.foldPair _ _ ?_ (fun _ _ => ?_)
    | dsimp only
    | split

theorem State.storeRow_keeps (s : State) (t : Nat) (k : Task) (l : List (Nat × Opnd)) (u : RedUnit) (row : List Nat) : Keeps s (State.storeRow s t k l u row) := by
  unfold State.storeRow
  repeat' first
    | with_reducible exact Keeps.refl _
    | with_reducible apply Keeps.trans ?_ (State.modTask_keeps ..)
    | with_reducible apply Keeps.trans ?_ (State.landOut_keeps ..)
    | with_reducible apply Keeps.trans ?_ (State.addCnt_keeps ..)
    | with_reducible refine Keeps.ite ?_ ?_
    | dsimp only
    | split

theorem State.vopStrip_keeps (s : State) (t : Nat) (k : Task) (l : List (Nat × Opnd)) (shape : List Nat) (n : Nat) : Keeps s (State.vopStrip s t k l shape n) := by
  unfold State.vopStrip
  repeat' first
    | with_reducible exact Keeps.refl _
    | with_reducible apply Keeps.trans ?_ (State.bump_keeps ..)
    | with_reducible apply Keeps.trans ?_ (State.modTask_keeps ..)
    | with_reducible apply Keeps.trans ?_ (State.landOut_keeps ..)
    | with_reducible apply Keeps.trans ?_ (State.addCnt_keeps ..)
    | with_reducible apply Keeps.trans ?_ (State.setEngine_keeps ..)
    | with_reducible apply Keeps.trans ?_ (State.setRed_keeps ..)
    | with_reducible apply Keeps.trans ?_ (State.runStrip_keeps ..)
    | with_reducible apply Keeps.trans ?_ (State.storeRow_keeps ..)
    | with_reducible refine Keeps.ite ?_ ?_
    | dsimp only
    | split

theorem State.vopRun_keeps (s : State) (t : Nat) (k : Task) (m : Nat) : Keeps s (State.vopRun s t k m) := by
  unfold State.vopRun
  repeat' first
    | with_reducible exact Keeps.refl _
    | with_reducible apply Keeps.trans ?_ (State.modTask_keeps ..)
    | with_reducible apply Keeps.trans ?_ (State.sendDone_keeps ..)
    | with_reducible apply Keeps.trans ?_ (State.openMany_keeps ..)
    | with_reducible apply Keeps.trans ?_ (State.vopStrip_keeps ..)
    | with_reducible refine Keeps.fold _ _ ?_ (fun _ _ => ?_)
    | with_reducible refine Keeps.ite ?_ ?_

theorem State.vecRound_keeps (s : State) (c a : Nat) : Keeps s (State.vecRound s c a) := by
  unfold State.vecRound
  repeat' first
    | with_reducible exact Keeps.refl _
    | with_reducible apply Keeps.trans ?_ (State.putTask_keeps ..)
    | with_reducible apply Keeps.trans ?_ (State.openMany_keeps ..)
    | with_reducible apply Keeps.trans ?_ (State.vopRun_keeps ..)
    | with_reducible refine Keeps.ite ?_ ?_
    | dsimp only
    | split

theorem State.fetchAll_keeps (s : State) (i : Issuer) (f : Nat) (o : Opnd) (vs : List (List Nat)) : Keeps s (State.fetchAll s i f o vs).1 := by
  unfold State.fetchAll
  repeat' first
    | with_reducible exact Keeps.refl _
    | with_reducible apply Keeps.trans ?_ (State.fetchBytes_keeps ..)
    | with_reducible apply Keeps.trans ?_ (State.fetchViews_keeps ..)
    | with_reducible refine Keeps.itePair ?_ ?_

theorem State.copyRow_keeps (s : State) (t : Nat) (k : Task) (a d : Opnd) (v : List Nat) (n : Nat) : Keeps s (State.copyRow s t k a d v n) := by
  unfold State.copyRow
  repeat' first
    | with_reducible exact Keeps.refl _
    | with_reducible apply Keeps.trans ?_ (State.landOut_keeps ..)
    | with_reducible apply Keeps.trans ?_ (State.scatterAdd_keeps ..)
    | with_reducible apply Keeps.trans ?_ (State.fetchAll_keeps ..)
    | with_reducible refine Keeps.fold _ _ ?_ (fun _ _ => ?_)
    | with_reducible refine Keeps.ite ?_ ?_

theorem State.copyRun_keeps (s : State) (t : Nat) (k : Task) : Keeps s (State.copyRun s t k) := by
  unfold State.copyRun
  repeat' first
    | with_reducible exact Keeps.refl _
    | with_reducible apply Keeps.trans ?_ (State.modTask_keeps ..)
    | with_reducible apply Keeps.trans ?_ (State.openMany_keeps ..)
    | with_reducible apply Keeps.trans ?_ (State.copyRow_keeps ..)
    | with_reducible refine Keeps.fold _ _ ?_ (fun _ _ => ?_)
    | with_reducible refine Keeps.ite ?_ ?_
    | dsimp only
    | split

end Sys2Proof.Machine
end

