-- ==== Sys2Proof/Laws/KeepsAtom.lean ====
section
/-! SUPPORT. What the operations of Machine/Atom.lean keep. -/
namespace Sys2Proof.Machine

theorem State.atomInLine_keeps (s : State) (t f : Nat) (w : List Word) (ty : EType) (buf a x y : Nat) (bad : Bool) : Keeps s (State.atomInLine s t f w ty buf a x y bad).1 := by
  unfold State.atomInLine
  repeat' first
    | with_reducible exact Keeps.refl _
    | with_reducible apply Keeps.trans ?_ (State.draw_keeps ..)
    | with_reducible apply Keeps.trans ?_ (State.consume_keeps ..)
    | with_reducible apply Keeps.trans ?_ (State.putLine_keeps ..)
    | with_reducible apply Keeps.trans ?_ (State.fetchLine_keeps ..)
    | with_reducible apply Keeps.trans ?_ (State.lineElt_keeps ..)
    | with_reducible refine Keeps.itePair ?_ ?_

theorem State.atomAtHome_keeps (s : State) (t f : Nat) (w : List Word) (ty : EType) (a x y : Nat) (bad : Bool) : Keeps s (State.atomAtHome s t f w ty a x y bad).1 := by
  unfold State.atomAtHome
  repeat' first
    | with_reducible exact Keeps.refl _
    | with_reducible apply Keeps.trans ?_ (State.writeBytes_keeps ..)
    | with_reducible apply Keeps.trans ?_ (State.writePoison_keeps ..)
    | with_reducible apply Keeps.trans ?_ (State.noAnswerTask_keeps ..)
    | with_reducible apply Keeps.trans ?_ (State.settleLines_keeps ..)
    | with_reducible apply Keeps.trans ?_ (State.fetchUnit_keeps ..)
    | with_reducible apply Keeps.trans ?_ (State.toPeer_keeps ..)
    | with_reducible refine Keeps.itePair ?_ ?_
    | dsimp only
    | split

theorem State.atomStep_keeps (s : State) (t : Nat) (k : Task) (d a : Opnd) (b c : Option Opnd) (ma mb : Snap) (v : List Nat) : Keeps s (State.atomStep s t k d a b c ma mb v) := by
  unfold State.atomStep
  repeat' first
    | with_reducible exact Keeps.refl _
    | with_reducible apply Keeps.trans ?_ (State.landOut_keeps ..)
    | with_reducible apply Keeps.trans ?_ (State.addCnt_keeps ..)
    | with_reducible apply Keeps.trans ?_ (State.atomInLine_keeps ..)
    | with_reducible apply Keeps.trans ?_ (State.atomAtHome_keeps ..)
    | dsimp only
    | split

theorem State.atomRun_keeps (s : State) (t : Nat) (k : Task) : Keeps s (State.atomRun s t k) := by
  unfold State.atomRun
  repeat' first
    | with_reducible exact Keeps.refl _
    | with_reducible apply Keeps.trans ?_ (State.sendAck_keeps ..)
    | with_reducible apply Keeps.trans ?_ (State.fetchViews_keeps ..)
    | with_reducible apply Keeps.trans ?_ (State.openMany_keeps ..)
    | with_reducible apply Keeps.trans ?_ (State.atomStep_keeps ..)
    | with_reducible refine Keeps.fold _ _ ?_ (fun _ _ => ?_)
    | with_reducible refine Keeps.ite ?_ ?_
    | dsimp only
    | split

end Sys2Proof.Machine
end

