-- ==== Sys2Proof/Laws/KeepsTensor.lean ====
section
/-! SUPPORT. What the operations of Machine/Tensor.lean keep. -/
namespace Sys2Proof.Machine

theorem State.twinRefused_keeps (s : State) (c cause : Nat) : Keeps s (State.twinRefused s c cause) := by
  unfold State.twinRefused
  repeat' first
    | with_reducible exact Keeps.refl _
    | with_reducible apply Keeps.trans ?_ (State.setFld_keeps ..)
    | with_reducible apply Keeps.trans ?_ (State.setBit_keeps ..)

theorem State.twinBits_keeps (s : State) (c : Nat) (form dissolve : Bool) : Keeps s (State.twinBits s c form dissolve) := by
  unfold State.twinBits
  repeat' first
    | with_reducible exact Keeps.refl _
    | with_reducible apply Keeps.trans ?_ (State.orReg_keeps ..)

theorem State.twinFormOp_keeps (s : State) (c : Nat) (both sameAc : Bool) : Keeps s (State.twinFormOp s c both sameAc) := by
  unfold State.twinFormOp
  repeat' first
    | with_reducible exact Keeps.refl _
    | with_reducible apply Keeps.trans ?_ (State.setFld_keeps ..)
    | with_reducible apply Keeps.trans ?_ (State.twinRefused_keeps ..)
    | with_reducible apply Keeps.trans ?_ (State.twinBits_keeps ..)
    | with_reducible refine Keeps.ite ?_ ?_

theorem State.twinDissolveOp_keeps (s : State) (c : Nat) (both sameAc : Bool) : Keeps s (State.twinDissolveOp s c both sameAc) := by
  unfold State.twinDissolveOp
  repeat' first
    | with_reducible exact Keeps.refl _
    | with_reducible apply Keeps.trans ?_ (State.setFld_keeps ..)
    | with_reducible apply Keeps.trans ?_ (State.twinRefused_keeps ..)
    | with_reducible apply Keeps.trans ?_ (State.twinBits_keeps ..)
    | with_reducible refine Keeps.ite ?_ ?_

theorem State.twinSwitched_keeps (s : State) (c : Nat) : Keeps s (State.twinSwitched s c) := by
  unfold State.twinSwitched
  repeat' first
    | with_reducible exact Keeps.refl _
    | with_reducible apply Keeps.trans ?_ (State.setFld_keeps ..)
    | with_reducible apply Keeps.trans ?_ (State.settle_keeps ..)
    | with_reducible refine Keeps.ite ?_ ?_

theorem State.twinLocked_keeps (s : State) (c : Nat) : Keeps s (State.twinLocked s c) := by
  unfold State.twinLocked
  repeat' first
    | with_reducible exact Keeps.refl _
    | with_reducible apply Keeps.trans ?_ (State.setFld_keeps ..)
    | with_reducible apply Keeps.trans ?_ (State.settle_keeps ..)
    | with_reducible refine Keeps.ite ?_ ?_

theorem State.auditCfg_keeps (s : State) (f : Nat) (v : Word) : Keeps s (State.auditCfg s f v) := by
  unfold State.auditCfg
  repeat' first
    | with_reducible exact Keeps.refl _
    | with_reducible apply Keeps.trans ?_ (State.setFld_keeps ..)

theorem State.openProd_keeps (s : State) (t : Nat) (k : Task) (count : Bool) : Keeps s (State.openProd s t k count).1 := by
  unfold State.openProd
  repeat' first
    | with_reducible exact Keeps.refl _
    | with_reducible apply Keeps.trans ?_ (State.modTask_keeps ..)
    | with_reducible apply Keeps.trans ?_ (State.openMany_keeps ..)
    | with_reducible refine Keeps.itePair ?_ ?_
    | dsimp only
    | split

theorem State.fetchProd_keeps (s : State) (t f : Nat) (p : Prod) (b r0 rn c0 cn lo n : Nat) (m : Snap) : Keeps s (State.fetchProd s t f p b r0 rn c0 cn lo n m).1 := by
  unfold State.fetchProd
  repeat' first
    | with_reducible exact Keeps.refl _
    | with_reducible apply Keeps.trans ?_ (State.fetchViews_keeps ..)

theorem State.setArrays_keeps (s : State) (c : Nat) (a : Arrays) : Keeps s (State.setArrays s c a) := by
  unfold State.setArrays
  repeat' first
    | with_reducible exact Keeps.refl _
    | fail_if_no_progress (with_reducible refine Keeps.mk ?_ rfl rfl rfl rfl rfl rfl)

theorem State.kUnit_keeps (s : State) (c t : Nat) (k : Task) (p : Prod) : Keeps s (State.kUnit s c t k p) := by
  unfold State.kUnit
  repeat' first
    | with_reducible exact Keeps.refl _
    | with_reducible apply Keeps.trans ?_ (State.bump_keeps ..)
    | with_reducible apply Keeps.trans ?_ (State.addCnt_keeps ..)
    | with_reducible apply Keeps.trans ?_ (State.fetchProd_keeps ..)
    | with_reducible apply Keeps.trans ?_ (State.setArrays_keeps ..)
    | with_reducible refine Keeps.ite ?_ ?_

theorem State.storeOut_keeps (s : State) (t : Nat) (k : Task) (d : Opnd) (v : List Nat) (xs : List OutVal) : Keeps s (State.storeOut s t k d v xs) := by
  unfold State.storeOut
  repeat' first
    | with_reducible exact Keeps.refl _
    | with_reducible apply Keeps.trans ?_ (State.landOut_keeps ..)
    | with_reducible apply Keeps.trans ?_ (State.addCnt_keeps ..)
    | with_reducible apply Keeps.trans ?_ (State.scatterAdd_keeps ..)
    | with_reducible refine Keeps.ite ?_ ?_

theorem State.drainTile_keeps (s : State) (t : Nat) (k : Task) (p : Prod) (n : Nat) (m : SMap ALane) : Keeps s (State.drainTile s t k p n m) := by
  unfold State.drainTile
  repeat' first
    | with_reducible exact Keeps.refl _
    | with_reducible apply Keeps.trans ?_ (State.storeOut_keeps ..)
    | with_reducible refine Keeps.fold _ _ ?_ (fun _ _ => ?_)

theorem State.buffersUsed_keeps (s : State) (k : Task) : Keeps s (State.buffersUsed s k) := by
  unfold State.buffersUsed
  repeat' first
    | with_reducible exact Keeps.refl _
    | with_reducible refine Keeps.fold _ _ ?_ (fun _ _ => ?_)
    | dsimp only
    | fail_if_no_progress (with_reducible refine Keeps.mk ?_ rfl rfl rfl rfl rfl rfl)

theorem State.streams_keeps (s : State) (k : Task) : Keeps s (State.streams s k) := by
  unfold State.streams
  repeat' first
    | with_reducible exact Keeps.refl _
    | with_reducible apply Keeps.trans ?_ (State.buffersUsed_keeps ..)
    | with_reducible refine Keeps.ite ?_ ?_

theorem State.auditSource_keeps (s : State) (t : Nat) (k : Task) (p : Prod) (b r0 rn : Nat) : Keeps s (State.auditSource s t k p b r0 rn).1 := by
  unfold State.auditSource
  repeat' first
    | with_reducible exact Keeps.refl _
    | with_reducible apply Keeps.trans ?_ (State.fetchViews_keeps ..)
    | with_reducible refine Keeps.itePair ?_ ?_
    | dsimp only
    | split
    | refine Keeps.trans ?_ (Keeps.pair (p := State.openOpnd _ _ _ _ _) (by assumption) (State.openOpnd_keeps ..))

theorem State.auditClose_keeps (s : State) (t : Nat) (k : Task) (p : Prod) (banks : Bool) (per : Nat) (mb : Snap) (b r0 c0 rn cn : Nat) (acts : List AuditAct) (prim : Nat → Nat → FV) : Keeps s (State.auditClose s t k p banks per mb b r0 c0 rn cn acts prim) := by
  unfold State.auditClose
  repeat' first
    | with_reducible exact Keeps.refl _
    | with_reducible apply Keeps.trans ?_ (State.bump_keeps ..)
    | with_reducible apply Keeps.trans ?_ (State.modTask_keeps ..)
    | with_reducible refine Keeps.ite ?_ ?_

theorem State.auditRun_keeps (s : State) (t : Nat) (p : Prod) (banks : Bool) (island per : Nat) (prim : Snap → Snap → Nat → Nat → Nat → FV) : Keeps s (State.auditRun s t p banks island per prim) := by
  unfold State.auditRun
  repeat' first
    | with_reducible exact Keeps.refl _
    | with_reducible apply Keeps.trans ?_ (State.fetchProd_keeps ..)
    | with_reducible apply Keeps.trans ?_ (State.auditSource_keeps ..)
    | with_reducible apply Keeps.trans ?_ (State.auditClose_keeps ..)
    | with_reducible refine Keeps.ite ?_ ?_
    | dsimp only
    | split

theorem State.auditArrays_keeps (s : State) (t : Nat) (k : Task) (p : Prod) : Keeps s (State.auditArrays s t k p) := by
  unfold State.auditArrays
  repeat' first
    | with_reducible exact Keeps.refl _
    | with_reducible apply Keeps.trans ?_ (State.auditRun_keeps ..)

theorem State.kUnitStart_keeps (s : State) (c ac : Nat) : Keeps s (State.kUnitStart s c ac) := by
  unfold State.kUnitStart
  repeat' first
    | with_reducible exact Keeps.refl _
    | with_reducible apply Keeps.trans ?_ (State.modTask_keeps ..)
    | with_reducible apply Keeps.trans ?_ (State.sendDone_keeps ..)
    | with_reducible apply Keeps.trans ?_ (State.openProd_keeps ..)
    | with_reducible apply Keeps.trans ?_ (State.setArrays_keeps ..)
    | with_reducible apply Keeps.trans ?_ (State.kUnit_keeps ..)
    | with_reducible apply Keeps.trans ?_ (State.streams_keeps ..)
    | with_reducible refine Keeps.ite ?_ ?_
    | dsimp only
    | split

theorem State.tileDone_keeps (s : State) (c : Nat) : Keeps s (State.tileDone s c) := by
  unfold State.tileDone
  repeat' first
    | with_reducible exact Keeps.refl _
    | with_reducible apply Keeps.trans ?_ (State.setArrays_keeps ..)
    | with_reducible refine Keeps.ite ?_ ?_
    | dsimp only
    | split
    | refine Keeps.trans ?_ (Keeps.pair (p := State.openProd _ _ _ _) (by assumption) (State.openProd_keeps ..))

theorem State.drainDone_keeps (s : State) (c : Nat) : Keeps s (State.drainDone s c) := by
  unfold State.drainDone
  repeat' first
    | with_reducible exact Keeps.refl _
    | with_reducible apply Keeps.trans ?_ (State.modTask_keeps ..)
    | with_reducible apply Keeps.trans ?_ (State.sendDone_keeps ..)
    | with_reducible apply Keeps.trans ?_ (State.setArrays_keeps ..)
    | with_reducible apply Keeps.trans ?_ (State.drainTile_keeps ..)
    | with_reducible refine Keeps.ite ?_ ?_
    | dsimp only
    | split
    | refine Keeps.trans ?_ (Keeps.pair (p := State.openProd _ _ _ _) (by assumption) (State.openProd_keeps ..))

theorem State.auditTileCmd_keeps (s : State) (t : Nat) : Keeps s (State.auditTileCmd s t) := by
  unfold State.auditTileCmd
  repeat' first
    | with_reducible exact Keeps.refl _
    | with_reducible apply Keeps.trans ?_ (State.sendDone_keeps ..)
    | with_reducible apply Keeps.trans ?_ (State.auditArrays_keeps ..)
    | with_reducible refine Keeps.ite ?_ ?_
    | split
    | refine Keeps.trans ?_ (Keeps.pair (p := State.openProd _ _ _ _) (by assumption) (State.openProd_keeps ..))

theorem State.wholeTile_keeps (s : State) (t : Nat) (k : Task) (p : Prod) (n : Nat) : Keeps s (State.wholeTile s t k p n) := by
  unfold State.wholeTile
  repeat' first
    | with_reducible exact Keeps.refl _
    | with_reducible apply Keeps.trans ?_ (State.bump_keeps ..)
    | with_reducible apply Keeps.trans ?_ (State.addCnt_keeps ..)
    | with_reducible apply Keeps.trans ?_ (State.fetchProd_keeps ..)
    | with_reducible apply Keeps.trans ?_ (State.drainTile_keeps ..)
    | with_reducible refine Keeps.foldPair _ _ ?_ (fun _ _ => ?_)
    | with_reducible refine Keeps.ite ?_ ?_

theorem State.productRun_keeps (s : State) (t : Nat) (k : Task) : Keeps s (State.productRun s t k) := by
  unfold State.productRun
  repeat' first
    | with_reducible exact Keeps.refl _
    | with_reducible apply Keeps.trans ?_ (State.streams_keeps ..)
    | with_reducible apply Keeps.trans ?_ (State.auditArrays_keeps ..)
    | with_reducible apply Keeps.trans ?_ (State.wholeTile_keeps ..)
    | with_reducible refine Keeps.fold _ _ ?_ (fun _ _ => ?_)
    | with_reducible refine Keeps.ite ?_ ?_
    | dsimp only
    | split
    | refine Keeps.trans ?_ (Keeps.pair (p := State.openProd _ _ _ _) (by assumption) (State.openProd_keeps ..))

end Sys2Proof.Machine
end

