-- ==== Sys2Proof/Laws/KeepsKvOps.lean ====
section
/-! SUPPORT. What the operations of Machine/KvOps.lean keep. -/
namespace Sys2Proof.Machine

theorem State.srecCtl_keeps (s : State) (x op : Nat) : Keeps s (State.srecCtl s x op) := by
  unfold State.srecCtl
  repeat' first
    | with_reducible exact Keeps.refl _
    | with_reducible apply Keeps.trans ?_ (State.setBit_keeps ..)
    | with_reducible apply Keeps.trans ?_ (State.send_keeps ..)
    | with_reducible refine Keeps.fold _ _ ?_ (fun _ _ => ?_)
    | with_reducible refine Keeps.ite ?_ ?_
    | dsimp only
    | split
    | fail_if_no_progress (with_reducible refine Keeps.mk ?_ rfl rfl rfl rfl rfl rfl)

theorem State.recOpen_keeps (s : State) (f x : Nat) (w : List Word) : Keeps s (State.recOpen s f x w).1 := by
  unfold State.recOpen
  repeat' first
    | with_reducible exact Keeps.refl _
    | with_reducible apply Keeps.trans ?_ (State.recPut_keeps ..)
    | with_reducible apply Keeps.trans ?_ (State.recGet_keeps ..)
    | with_reducible apply Keeps.trans ?_ (State.mirrorOut_keeps ..)
    | with_reducible refine Keeps.itePair ?_ ?_
    | dsimp only
    | fail_if_no_progress (with_reducible refine Keeps.mk ?_ rfl rfl rfl rfl rfl rfl)

theorem State.dropPage_keeps (s : State) (iss : Issuer) (f x : Nat) (r : List Word) (i : Nat) : Keeps s (State.dropPage s iss f x r i).1 := by
  unfold State.dropPage
  repeat' first
    | with_reducible exact Keeps.refl _
    | with_reducible apply Keeps.trans ?_ (State.returnFrame_keeps ..)
    | with_reducible apply Keeps.trans ?_ (State.pteGet_keeps ..)
    | with_reducible apply Keeps.trans ?_ (State.ptePut_keeps ..)
    | with_reducible refine Keeps.itePair ?_ ?_

theorem State.dropPages_keeps (s : State) (iss : Issuer) (f x : Nat) (r : List Word) (lo hi : Nat) : Keeps s (State.dropPages s iss f x r lo hi).1 := by
  unfold State.dropPages
  repeat' first
    | with_reducible exact Keeps.refl _
    | with_reducible apply Keeps.trans ?_ (State.dropPage_keeps ..)
    | with_reducible refine Keeps.foldPair _ _ ?_ (fun _ _ => ?_)

theorem State.recClose_keeps (s : State) (f x : Nat) : Keeps s (State.recClose s f x).1 := by
  unfold State.recClose
  repeat' first
    | with_reducible exact Keeps.refl _
    | with_reducible apply Keeps.trans ?_ (State.recGet_keeps ..)
    | with_reducible apply Keeps.trans ?_ (State.recDrop_keeps ..)
    | with_reducible apply Keeps.trans ?_ (State.labDrop_keeps ..)
    | with_reducible apply Keeps.trans ?_ (State.mirrorOut_keeps ..)
    | with_reducible apply Keeps.trans ?_ (State.dropPages_keeps ..)
    | with_reducible refine Keeps.itePair ?_ ?_
    | dsimp only
    | fail_if_no_progress (with_reducible refine Keeps.mk ?_ rfl rfl rfl rfl rfl rfl)

theorem State.kvForwarded_keeps (s : State) (f : Nat) (q : Fwd) : Keeps s (State.kvForwarded s f q) := by
  unfold State.kvForwarded
  repeat' first
    | with_reducible exact Keeps.refl _
    | with_reducible apply Keeps.trans ?_ (State.send_keeps ..)
    | with_reducible apply Keeps.trans ?_ (State.recOpen_keeps ..)
    | with_reducible apply Keeps.trans ?_ (State.recClose_keeps ..)
    | with_reducible refine Keeps.ite ?_ ?_
    | dsimp only
    | split

theorem State.kvResult_keeps (s : State) (r : BitVec 3) : Keeps s (State.kvResult s r) := by
  unfold State.kvResult
  repeat' first
    | with_reducible exact Keeps.refl _
    | with_reducible apply Keeps.trans ?_ (State.setFld_keeps ..)
    | dsimp only
    | split
    | fail_if_no_progress (with_reducible refine Keeps.mk ?_ rfl rfl rfl rfl rfl rfl)

theorem State.setFmt_keeps (s : State) (p : Nat) (v : Word) : Keeps s (State.setFmt s p v) := by
  unfold State.setFmt
  repeat' first
    | with_reducible exact Keeps.refl _
    | with_reducible apply Keeps.trans ?_ (State.setBit_keeps ..)
    | with_reducible apply Keeps.trans ?_ (State.writeCfg_keeps ..)
    | with_reducible apply Keeps.trans ?_ (State.mirrorOut_keeps ..)
    | with_reducible refine Keeps.ite ?_ ?_

theorem State.poolWrite_keeps (s : State) (f : Nat) (list : Bool) (v : Word) : Keeps s (State.poolWrite s f list v) := by
  unfold State.poolWrite
  repeat' first
    | with_reducible exact Keeps.refl _
    | with_reducible apply Keeps.trans ?_ (State.setBit_keeps ..)
    | with_reducible apply Keeps.trans ?_ (State.setPool_keeps ..)
    | with_reducible refine Keeps.ite ?_ ?_

theorem State.poolFree_keeps (s : State) (f : Nat) (v : Word) : Keeps s (State.poolFree s f v) := by
  unfold State.poolFree
  repeat' first
    | with_reducible exact Keeps.refl _
    | with_reducible apply Keeps.trans ?_ (State.setPool_keeps ..)

theorem State.kvFail_keeps (s : State) (t st : Nat) : Keeps s (State.kvFail s t st) := by
  unfold State.kvFail
  repeat' first
    | with_reducible exact Keeps.refl _
    | with_reducible apply Keeps.trans ?_ (State.modTask_keeps ..)

theorem State.kvOpen_keeps (s : State) (t : Nat) (k : Task) (x : Nat) : Keeps s (State.kvOpen s t k x).1 := by
  unfold State.kvOpen
  repeat' first
    | with_reducible exact Keeps.refl _
    | with_reducible apply Keeps.trans ?_ (State.recGet_keeps ..)
    | with_reducible apply Keeps.trans ?_ (State.consume_keeps ..)
    | with_reducible apply Keeps.trans ?_ (State.kvFail_keeps ..)
    | with_reducible refine Keeps.itePair ?_ ?_

theorem State.pteList_keeps (s : State) (t f x : Nat) (r : List Word) (lo n : Nat) : Keeps s (State.pteList s t f x r lo n).1 := by
  unfold State.pteList
  repeat' first
    | with_reducible exact Keeps.refl _
    | with_reducible apply Keeps.trans ?_ (State.consume_keeps ..)
    | with_reducible apply Keeps.trans ?_ (State.pteGet_keeps ..)
    | with_reducible refine Keeps.foldPair _ _ ?_ (fun _ _ => ?_)
    | with_reducible refine Keeps.itePair ?_ ?_

theorem State.kvEngTake_keeps (s : State) (t j : Nat) : Keeps s (State.kvEngTake s t j).1 := by
  unfold State.kvEngTake
  repeat' first
    | with_reducible exact Keeps.refl _
    | with_reducible apply Keeps.trans ?_ (State.setKvEng_keeps ..)
    | with_reducible refine Keeps.itePair ?_ ?_

theorem State.onKvEng_keeps (s : State) (t op : Nat) (mig : Bool) (f : State → Task → State) (hf : ∀ (a0 : State) (a1 : Task), Keeps a0 (f a0 a1)) : Keeps s (State.onKvEng s t op mig f) := by
  unfold State.onKvEng
  repeat' first
    | with_reducible exact Keeps.refl _
    | with_reducible apply Keeps.trans ?_ (hf _ _)
    | with_reducible apply Keeps.trans ?_ (State.runUnit_keeps _ _ _ _ (fun _ _ => ?_))
    | with_reducible refine Keeps.ite ?_ ?_
    | split
    | refine Keeps.trans ?_ (Keeps.pair (p := State.kvEngTake _ _ _) (by assumption) (State.kvEngTake_keeps ..))

theorem State.runPieces_keeps {α : Type} (s : State) (t : Nat) (ps : List α) (most : Nat) (f : State → α → State) (hf : ∀ (a0 : State) (a1 : α), Keeps a0 (f a0 a1)) : Keeps s (State.runPieces s t ps most f) := by
  unfold State.runPieces
  repeat' first
    | with_reducible exact Keeps.refl _
    | with_reducible apply Keeps.trans ?_ (hf _ _)
    | with_reducible apply Keeps.trans ?_ (State.modTask_keeps ..)
    | with_reducible refine Keeps.fold _ _ ?_ (fun _ _ => ?_)
    | with_reducible refine Keeps.ite ?_ ?_
    | dsimp only
    | split

theorem State.fetchRow_keeps (s : State) (t f : Nat) (o : Opnd) (lo n i l : Nat) : Keeps s (State.fetchRow s t f o lo n i l).1 := by
  unfold State.fetchRow
  repeat' first
    | with_reducible exact Keeps.refl _
    | with_reducible apply Keeps.trans ?_ (State.fetchViews_keeps ..)

theorem State.appendEntry_keeps (s : State) (t f x i : Nat) (r : List Word) : Keeps s (State.appendEntry s t f x i r).1 := by
  unfold State.appendEntry
  repeat' first
    | with_reducible exact Keeps.refl _
    | with_reducible apply Keeps.trans ?_ (State.bump_keeps ..)
    | with_reducible apply Keeps.trans ?_ (State.recPut_keeps ..)
    | with_reducible apply Keeps.trans ?_ (State.recGet_keeps ..)
    | with_reducible apply Keeps.trans ?_ (State.consume_keeps ..)
    | with_reducible apply Keeps.trans ?_ (State.pteGet_keeps ..)
    | with_reducible apply Keeps.trans ?_ (State.ptePut_keeps ..)
    | with_reducible apply Keeps.trans ?_ (State.kvFail_keeps ..)
    | with_reducible refine Keeps.itePair ?_ ?_
    | dsimp only
    | split
    | refine Keeps.trans ?_ (Keeps.pair (p := State.takeFrame _ _ _ _) (by assumption) (State.takeFrame_keeps ..))

theorem State.appendPiece_keeps (s : State) (t : Nat) (k : Task) (r : List Word) (ops : List (Nat × Opnd)) (p : RowPiece) : Keeps s (State.appendPiece s t k r ops p) := by
  unfold State.appendPiece
  repeat' first
    | with_reducible exact Keeps.refl _
    | with_reducible apply Keeps.trans ?_ (State.badRange_keeps ..)
    | with_reducible apply Keeps.trans ?_ (State.landOut_keeps ..)
    | with_reducible apply Keeps.trans ?_ (State.fetchRow_keeps ..)
    | with_reducible refine Keeps.ite ?_ ?_
    | dsimp only
    | split
    | refine Keeps.trans ?_ (Keeps.pair (p := State.appendEntry _ _ _ _ _ _) (by assumption) (State.appendEntry_keeps ..))

theorem State.kappendStart_keeps (s : State) (t : Nat) (k : Task) (r : List Word) : Keeps s (State.kappendStart s t k r) := by
  unfold State.kappendStart
  repeat' first
    | with_reducible exact Keeps.refl _
    | with_reducible apply Keeps.trans ?_ (State.modTask_keeps ..)
    | with_reducible apply Keeps.trans ?_ (State.recPut_keeps ..)
    | with_reducible apply Keeps.trans ?_ (State.kvFail_keeps ..)
    | with_reducible apply Keeps.trans ?_ (State.pteList_keeps ..)
    | with_reducible refine Keeps.ite ?_ ?_

theorem State.kappendRun_keeps (s : State) (t : Nat) (k : Task) (most : Nat) : Keeps s (State.kappendRun s t k most) := by
  unfold State.kappendRun
  repeat' first
    | with_reducible exact Keeps.refl _
    | with_reducible apply Keeps.trans ?_ (State.openMany_keeps ..)
    | with_reducible apply Keeps.trans ?_ (State.kvOpen_keeps ..)
    | with_reducible apply Keeps.trans ?_ (State.runPieces_keeps _ _ _ _ _ (fun _ _ => ?_))
    | with_reducible apply Keeps.trans ?_ (State.appendPiece_keeps ..)
    | with_reducible apply Keeps.trans ?_ (State.kappendStart_keeps ..)
    | with_reducible refine Keeps.ite ?_ ?_
    | dsimp only
    | split
    | refine Keeps.trans ?_ (Keeps.pair (p := State.kvOpen _ _ _ _) (by assumption) (State.kvOpen_keeps ..))

theorem State.kadvanceRun_keeps (s : State) (t : Nat) (k : Task) : Keeps s (State.kadvanceRun s t k) := by
  unfold State.kadvanceRun
  repeat' first
    | with_reducible exact Keeps.refl _
    | with_reducible apply Keeps.trans ?_ (State.kvFail_keeps ..)
    | with_reducible refine Keeps.ite ?_ ?_
    | split
    | refine Keeps.trans ?_ (Keeps.pair (p := State.kvOpen _ _ _ _) (by assumption) (State.kvOpen_keeps ..))

theorem State.kfreeRun_keeps (s : State) (t : Nat) (k : Task) : Keeps s (State.kfreeRun s t k) := by
  unfold State.kfreeRun
  repeat' first
    | with_reducible exact Keeps.refl _
    | with_reducible apply Keeps.trans ?_ (State.setCommitted_keeps ..)
    | with_reducible apply Keeps.trans ?_ (State.dropPages_keeps ..)
    | with_reducible apply Keeps.trans ?_ (State.kvFail_keeps ..)
    | with_reducible apply Keeps.trans ?_ (State.pteList_keeps ..)
    | with_reducible refine Keeps.ite ?_ ?_
    | dsimp only
    | split
    | refine Keeps.trans ?_ (Keeps.pair (p := State.kvOpen _ _ _ _) (by assumption) (State.kvOpen_keeps ..))

theorem State.register_keeps (s : State) (t f x : Nat) (r : List Word) {out : State} (h : (State.register s t f x r) = some out) : Keeps s out := by
  unfold State.register at h
  split at h
  all_goals first
    | contradiction
    | (injection h with h; subst h
       repeat' first
         | with_reducible exact Keeps.refl _
         | with_reducible apply Keeps.trans ?_ (State.modTask_keeps ..)
         | with_reducible apply Keeps.trans ?_ (State.recPut_keeps ..))

theorem State.readRow_keeps (s : State) (t f p : Nat) (e : Word) (k : KvFmt) (layer : Nat) (isVal : Bool) (j lo n : Nat) (m : Snap) : Keeps s (State.readRow s t f p e k layer isVal j lo n m).1 := by
  unfold State.readRow
  repeat' first
    | with_reducible exact Keeps.refl _
    | with_reducible apply Keeps.trans ?_ (State.fetchBytes_keeps ..)
    | with_reducible apply Keeps.trans ?_ (State.badRange_keeps ..)
    | dsimp only
    | split

theorem State.freeRow_keeps (s : State) (k : KvFmt) (n : Nat) : Keeps s (State.freeRow s k n).1 := by
  unfold State.freeRow
  repeat' first
    | with_reducible exact Keeps.refl _
    | with_reducible apply Keeps.trans ?_ (State.draw_keeps ..)
    | with_reducible refine Keeps.foldPair _ _ ?_ (fun _ _ => ?_)

theorem State.storeRow3_keeps (s : State) (t f : Nat) (o : Opnd) (i l lo : Nat) (xs : List Raw) : Keeps s (State.storeRow3 s t f o i l lo xs) := by
  unfold State.storeRow3
  repeat' first
    | with_reducible exact Keeps.refl _
    | with_reducible apply Keeps.trans ?_ (State.landOut_keeps ..)

theorem State.kreadPiece_keeps (s : State) (t : Nat) (k : Task) (r : List Word) (ops : List (Nat × Opnd)) (es : List (Nat × Word)) (p : RowPiece) : Keeps s (State.kreadPiece s t k r ops es p) := by
  unfold State.kreadPiece
  repeat' first
    | with_reducible exact Keeps.refl _
    | with_reducible apply Keeps.trans ?_ (State.readRow_keeps ..)
    | with_reducible apply Keeps.trans ?_ (State.freeRow_keeps ..)
    | with_reducible apply Keeps.trans ?_ (State.storeRow3_keeps ..)
    | with_reducible refine Keeps.ite ?_ ?_
    | dsimp only
    | split

theorem State.kreadRun_keeps (s : State) (t : Nat) (k : Task) (r : List Word) (most : Nat) : Keeps s (State.kreadRun s t k r most) := by
  unfold State.kreadRun
  repeat' first
    | with_reducible exact Keeps.refl _
    | with_reducible apply Keeps.trans ?_ (State.modTask_keeps ..)
    | with_reducible apply Keeps.trans ?_ (State.openMany_keeps ..)
    | with_reducible apply Keeps.trans ?_ (State.kvFail_keeps ..)
    | with_reducible apply Keeps.trans ?_ (State.pteList_keeps ..)
    | with_reducible apply Keeps.trans ?_ (State.runPieces_keeps _ _ _ _ _ (fun _ _ => ?_))
    | with_reducible apply Keeps.trans ?_ (State.kreadPiece_keeps ..)
    | with_reducible refine Keeps.ite ?_ ?_

theorem State.joined_keeps (s : State) (t : Nat) (k : Task) (f : State → List Word → State)
    (hf : ∀ (a0 : State) (a1 : List Word), Keeps a0 (f a0 a1)) {out : State} (h : (State.joined s t k f) = some out) : Keeps s out := by
  unfold State.joined at h
  split at h
  · rename_i u e
    injection h with h
    subst h
    exact Keeps.pair e (State.kvOpen_keeps ..)
  · rename_i u r e
    refine (Keeps.pair e (State.kvOpen_keeps ..)).trans ?_
    split at h
    · injection h with h
      subst h
      exact hf _ _
    · simp only [Option.map_eq_some_iff] at h
      obtain ⟨v, hv, rfl⟩ := h
      exact (State.register_keeps _ _ _ _ _ hv).trans (hf _ _)

theorem State.asReader_keeps (s : State) (t : Nat) (f : State → Task → List Word → State)
    (hf : ∀ (a0 : State) (a1 : Task) (a2 : List Word), Keeps a0 (f a0 a1 a2)) : Keeps s (State.asReader s t f) := by
  unfold State.asReader
  split
  · exact Keeps.refl _
  · split
    · rename_i h
      exact ((State.modTask_keeps ..).trans (State.joined_keeps _ _ _ _ (fun _ _ => hf _ _ _) h)).trans (State.sendDone_keeps ..)
    · exact Keeps.refl _

theorem State.kreadCmd_keeps (s : State) (t : Nat) : Keeps s (State.kreadCmd s t) := by
  unfold State.kreadCmd
  repeat' first
    | with_reducible exact Keeps.refl _
    | with_reducible apply Keeps.trans ?_ (State.kreadRun_keeps ..)
    | with_reducible apply Keeps.trans ?_ (State.asReader_keeps _ _ _ (fun _ _ _ => ?_))
    | with_reducible refine Keeps.ite ?_ ?_
    | split
    | refine Keeps.trans ?_ (Keeps.pair (p := State.kvEngTake _ _ _) (by assumption) (State.kvEngTake_keeps ..))

theorem State.bucketIdx_keeps (s : State) (t f : Nat) (v : Int) : Keeps s (State.bucketIdx s t f v).1 := by
  unfold State.bucketIdx
  repeat' first
    | with_reducible exact Keeps.refl _
    | with_reducible apply Keeps.trans ?_ (State.recGet_keeps ..)
    | with_reducible apply Keeps.trans ?_ (State.consume_keeps ..)
    | with_reducible refine Keeps.itePair ?_ ?_

theorem State.kbucketRun_keeps (s : State) (t : Nat) (k : Task) : Keeps s (State.kbucketRun s t k) := by
  unfold State.kbucketRun
  repeat' first
    | with_reducible exact Keeps.refl _
    | with_reducible apply Keeps.trans ?_ (State.modTask_keeps ..)
    | with_reducible apply Keeps.trans ?_ (State.fetchBytes_keeps ..)
    | with_reducible apply Keeps.trans ?_ (State.badRange_keeps ..)
    | with_reducible apply Keeps.trans ?_ (State.landOut_keeps ..)
    | with_reducible apply Keeps.trans ?_ (State.consume_keeps ..)
    | with_reducible refine Keeps.foldPair _ _ ?_ (fun _ _ => ?_)
    | with_reducible refine Keeps.ite ?_ ?_
    | dsimp only
    | split
    | refine Keeps.trans ?_ (Keeps.pair (p := State.sampleCount _ _ _ _) (by assumption) (State.sampleCount_keeps ..))
    | refine Keeps.trans ?_ (Keeps.pair (p := State.bucketIdx _ _ _ _) (by assumption) (State.bucketIdx_keeps ..))

theorem State.copyPiece_keeps (s : State) (t f p : Nat) (e d : Word) (o n : Nat) : Keeps s (State.copyPiece s t f p e d o n) := by
  unfold State.copyPiece
  repeat' first
    | with_reducible exact Keeps.refl _
    | with_reducible apply Keeps.trans ?_ (State.noAnswerTask_keeps ..)
    | with_reducible apply Keeps.trans ?_ (State.chargeFor_keeps ..)
    | with_reducible apply Keeps.trans ?_ (State.badRange_keeps ..)
    | with_reducible apply Keeps.trans ?_ (State.landOut_keeps ..)
    | with_reducible apply Keeps.trans ?_ (State.peekBytes_keeps ..)
    | with_reducible refine Keeps.fold _ _ ?_ (fun _ _ => ?_)
    | with_reducible refine Keeps.ite ?_ ?_
    | dsimp only
    | split

theorem State.moveFrame_keeps (s : State) (t f p : Nat) : Keeps s (State.moveFrame s t f p).1 := by
  unfold State.moveFrame
  repeat' first
    | with_reducible exact Keeps.refl _
    | with_reducible apply Keeps.trans ?_ (State.bump_keeps ..)
    | with_reducible apply Keeps.trans ?_ (State.modTask_keeps ..)
    | with_reducible apply Keeps.trans ?_ (State.consume_keeps ..)
    | with_reducible apply Keeps.trans ?_ (State.kvFail_keeps ..)
    | with_reducible refine Keeps.itePair ?_ ?_
    | dsimp only
    | split
    | refine Keeps.trans ?_ (Keeps.pair (p := State.takeFrame _ _ _ _) (by assumption) (State.takeFrame_keeps ..))

theorem State.movePiece_keeps (s : State) (t : Nat) (k : Task) (r : List Word) (i c : Nat) : Keeps s (State.movePiece s t k r i c) := by
  unfold State.movePiece
  repeat' first
    | with_reducible exact Keeps.refl _
    | with_reducible apply Keeps.trans ?_ (State.bump_keeps ..)
    | with_reducible apply Keeps.trans ?_ (State.modTask_keeps ..)
    | with_reducible apply Keeps.trans ?_ (State.consume_keeps ..)
    | with_reducible apply Keeps.trans ?_ (State.returnFrame_keeps ..)
    | with_reducible apply Keeps.trans ?_ (State.pteGet_keeps ..)
    | with_reducible apply Keeps.trans ?_ (State.ptePut_keeps ..)
    | with_reducible apply Keeps.trans ?_ (State.copyPiece_keeps ..)
    | with_reducible refine Keeps.ite ?_ ?_
    | dsimp only
    | split
    | refine Keeps.trans ?_ (Keeps.pair (p := State.moveFrame _ _ _ _) (by assumption) (State.moveFrame_keeps ..))

theorem State.kmigrateRun_keeps (s : State) (t : Nat) (k : Task) (most : Nat) : Keeps s (State.kmigrateRun s t k most) := by
  unfold State.kmigrateRun
  repeat' first
    | with_reducible exact Keeps.refl _
    | with_reducible apply Keeps.trans ?_ (State.modTask_keeps ..)
    | with_reducible apply Keeps.trans ?_ (State.recPut_keeps ..)
    | with_reducible apply Keeps.trans ?_ (State.kvFail_keeps ..)
    | with_reducible apply Keeps.trans ?_ (State.runPieces_keeps _ _ _ _ _ (fun _ _ => ?_))
    | with_reducible apply Keeps.trans ?_ (State.movePiece_keeps ..)
    | with_reducible refine Keeps.ite ?_ ?_
    | dsimp only
    | split
    | refine Keeps.trans ?_ (Keeps.pair (p := State.kvOpen _ _ _ _) (by assumption) (State.kvOpen_keeps ..))

theorem State.kvPart_keeps (s : State) (t : Nat) (k : Task) (most : Nat) : Keeps s (State.kvPart s t k most) := by
  unfold State.kvPart
  split
  · exact State.kappendRun_keeps ..
  · cases h : s.joined t k (fun s r => s.kreadRun t k r most) with
    | none => exact Keeps.refl _
    | some v => exact State.joined_keeps _ _ _ _ (fun _ _ => State.kreadRun_keeps ..) h
  · exact State.kmigrateRun_keeps ..
  · exact Keeps.refl _

theorem State.kvYield_keeps (s : State) (j : Nat) : Keeps s (State.kvYield s j) := by
  unfold State.kvYield
  repeat' first
    | with_reducible exact Keeps.refl _
    | with_reducible apply Keeps.trans ?_ (State.draw_keeps ..)
    | with_reducible apply Keeps.trans ?_ (State.modTask_keeps ..)
    | with_reducible apply Keeps.trans ?_ (State.setKvEng_keeps ..)
    | with_reducible apply Keeps.trans ?_ (State.sendDone_keeps ..)
    | with_reducible apply Keeps.trans ?_ (State.kvPart_keeps ..)
    | with_reducible refine Keeps.ite ?_ ?_
    | dsimp only
    | split

theorem State.latentRows_keeps (s : State) (t : Nat) (k : Task) (r : List Word) (es : List (Nat × Word)) (n : Nat) : Keeps s (State.latentRows s t k r es n).1 := by
  unfold State.latentRows
  repeat' first
    | with_reducible exact Keeps.refl _
    | with_reducible apply Keeps.trans ?_ (State.modTask_keeps ..)
    | with_reducible apply Keeps.trans ?_ (State.readRow_keeps ..)
    | with_reducible refine Keeps.foldPair _ _ ?_ (fun _ _ => ?_)
    | with_reducible refine Keeps.itePair ?_ ?_

theorem State.expandProd_keeps (s : State) (t : Nat) (k : Task) (p : Prod) (rows : List (List Raw)) : Keeps s (State.expandProd s t k p rows) := by
  unfold State.expandProd
  repeat' first
    | with_reducible exact Keeps.refl _
    | with_reducible apply Keeps.trans ?_ (State.bump_keeps ..)
    | with_reducible apply Keeps.trans ?_ (State.fetchViews_keeps ..)
    | with_reducible apply Keeps.trans ?_ (State.storeOut_keeps ..)
    | with_reducible apply Keeps.trans ?_ (State.auditSource_keeps ..)
    | with_reducible apply Keeps.trans ?_ (State.auditClose_keeps ..)
    | with_reducible refine Keeps.fold _ _ ?_ (fun _ _ => ?_)
    | with_reducible refine Keeps.ite ?_ ?_
    | dsimp only
    | split

theorem State.kexpandRun_keeps (s : State) (t : Nat) (k : Task) (r : List Word) : Keeps s (State.kexpandRun s t k r) := by
  unfold State.kexpandRun
  repeat' first
    | with_reducible exact Keeps.refl _
    | with_reducible apply Keeps.trans ?_ (State.modTask_keeps ..)
    | with_reducible apply Keeps.trans ?_ (State.openMany_keeps ..)
    | with_reducible apply Keeps.trans ?_ (State.buffersUsed_keeps ..)
    | with_reducible apply Keeps.trans ?_ (State.kvFail_keeps ..)
    | with_reducible apply Keeps.trans ?_ (State.pteList_keeps ..)
    | with_reducible apply Keeps.trans ?_ (State.latentRows_keeps ..)
    | with_reducible apply Keeps.trans ?_ (State.expandProd_keeps ..)
    | with_reducible refine Keeps.ite ?_ ?_
    | dsimp only
    | split

theorem State.kexpandCmd_keeps (s : State) (t : Nat) : Keeps s (State.kexpandCmd s t) := by
  unfold State.kexpandCmd
  repeat' first
    | with_reducible exact Keeps.refl _
    | with_reducible apply Keeps.trans ?_ (State.asReader_keeps _ _ _ (fun _ _ _ => ?_))
    | with_reducible apply Keeps.trans ?_ (State.kexpandRun_keeps ..)
    | with_reducible refine Keeps.ite ?_ ?_
    | split

theorem State.answerLen_keeps (s : State) (t : Nat) (k : Task) (x : Nat) (r : List Word) : Keeps s (State.answerLen s t k x r) := by
  unfold State.answerLen
  repeat' first
    | with_reducible exact Keeps.refl _
    | with_reducible apply Keeps.trans ?_ (State.bump_keeps ..)
    | with_reducible apply Keeps.trans ?_ (State.send_keeps ..)
    | with_reducible apply Keeps.trans ?_ (State.modTask_keeps ..)
    | with_reducible refine Keeps.ite ?_ ?_
    | dsimp only
    | split
    | fail_if_no_progress (with_reducible refine Keeps.mk ?_ rfl rfl rfl rfl rfl rfl)

theorem State.lenQuery_keeps (s : State) (t : Nat) : Keeps s (State.lenQuery s t) := by
  unfold State.lenQuery
  repeat' first
    | with_reducible exact Keeps.refl _
    | with_reducible apply Keeps.trans ?_ (State.send_keeps ..)
    | with_reducible apply Keeps.trans ?_ (State.endTask_keeps ..)
    | with_reducible apply Keeps.trans ?_ (State.holdTask_keeps ..)
    | with_reducible apply Keeps.trans ?_ (State.answerLen_keeps ..)
    | with_reducible refine Keeps.ite ?_ ?_
    | dsimp only
    | split
    | refine Keeps.trans ?_ (Keeps.pair (p := State.kvOpen _ _ _ _) (by assumption) (State.kvOpen_keeps ..))
    | refine Keeps.trans ?_ (State.register_keeps _ _ _ _ _ (by assumption))

theorem State.lenAnswer_keeps (s : State) (t : Nat) : Keeps s (State.lenAnswer s t) := by
  unfold State.lenAnswer
  repeat' first
    | with_reducible exact Keeps.refl _
    | with_reducible apply Keeps.trans ?_ (State.putTask_keeps ..)
    | with_reducible refine Keeps.ite ?_ ?_
    | split

theorem State.lenExpired_keeps (s : State) (t : Nat) : Keeps s (State.lenExpired s t) := by
  unfold State.lenExpired
  repeat' first
    | with_reducible exact Keeps.refl _
    | with_reducible apply Keeps.trans ?_ (State.endTask_keeps ..)
    | with_reducible refine Keeps.ite ?_ ?_
    | split

end Sys2Proof.Machine
end

