-- ==== Sys2Proof/Laws/KeepsAttention.lean ====
section
/-! SUPPORT. What the operations of Machine/Attention.lean keep. -/
namespace Sys2Proof.Machine

theorem State.headRows_keeps (s : State) (t f : Nat) (o : Opnd) (n heads j : Nat) (m : Snap) : Keeps s (State.headRows s t f o n heads j m).1 := by
  unfold State.headRows
  repeat' first
    | with_reducible exact Keeps.refl _
    | with_reducible apply Keeps.trans ?_ (State.fetchViews_keeps ..)

theorem State.opKeys_keeps (s : State) (t f : Nat) (b c : Opnd) (a : AttShape) (dv : Nat) (p0 : Int) (base lo n : Nat) (dead : Bool) : Keeps s (State.opKeys s t f b c a dv p0 base lo n dead).1 := by
  unfold State.opKeys
  repeat' first
    | with_reducible exact Keeps.refl _
    | with_reducible apply Keeps.trans ?_ (State.headRows_keeps ..)
    | with_reducible refine Keeps.foldPair _ _ ?_ (fun _ _ => ?_)

theorem State.pageKeys_keeps (s : State) (t f p : Nat) (e : Word) (fm : KvFmt) (layer i p0 : Nat) (a : AttShape) (latent : Bool) : Keeps s (State.pageKeys s t f p e fm layer i p0 a latent).1 := by
  unfold State.pageKeys
  repeat' first
    | with_reducible exact Keeps.refl _
    | with_reducible apply Keeps.trans ?_ (State.readRow_keeps ..)
    | with_reducible refine Keeps.foldPair _ _ ?_ (fun _ _ => ?_)
    | with_reducible refine Keeps.itePair ?_ ?_

theorem State.openTable_keeps (s : State) (t : Nat) (k : Task) (pos : Nat) (is : List Nat) (m : Nat) : Keeps s (State.openTable s t k pos is m).1 := by
  unfold State.openTable
  repeat' first
    | with_reducible exact Keeps.refl _
    | with_reducible apply Keeps.trans ?_ (State.fetchViews_keeps ..)
    | with_reducible refine Keeps.itePair ?_ ?_
    | dsimp only
    | split
    | refine Keeps.trans ?_ (Keeps.pair (p := State.openOpnd _ _ _ _ _) (by assumption) (State.openOpnd_keeps ..))

theorem State.attWrite_keeps (s : State) (t : Nat) (k : Task) (d : Opnd) (stats : Option Opnd) (n : Nat) (rows : List AttRow) : Keeps s (State.attWrite s t k d stats n rows) := by
  unfold State.attWrite
  repeat' first
    | with_reducible exact Keeps.refl _
    | with_reducible apply Keeps.trans ?_ (State.bump_keeps ..)
    | with_reducible apply Keeps.trans ?_ (State.landOut_keeps ..)
    | with_reducible apply Keeps.trans ?_ (State.addCnt_keeps ..)
    | with_reducible apply Keeps.trans ?_ (State.storeOut_keeps ..)
    | with_reducible refine Keeps.fold _ _ ?_ (fun _ _ => ?_)
    | dsimp only
    | split

theorem State.queryRows_keeps (s : State) (t f : Nat) (o : Opnd) (d heads n : Nat) : Keeps s (State.queryRows s t f o d heads n).1 := by
  unfold State.queryRows
  repeat' first
    | with_reducible exact Keeps.refl _
    | with_reducible apply Keeps.trans ?_ (State.headRows_keeps ..)
    | with_reducible refine Keeps.foldPair _ _ ?_ (fun _ _ => ?_)

theorem State.selected_keeps (s : State) (t : Nat) (k : Task) (np : Nat) : Keeps s (State.selected s t k np).1 := by
  unfold State.selected
  repeat' first
    | with_reducible exact Keeps.refl _
    | with_reducible apply Keeps.trans ?_ (State.bump_keeps ..)
    | with_reducible apply Keeps.trans ?_ (State.modTask_keeps ..)
    | with_reducible apply Keeps.trans ?_ (State.fetchBytes_keeps ..)
    | with_reducible apply Keeps.trans ?_ (State.badRange_keeps ..)
    | dsimp only
    | split

theorem State.addSat_keeps (s : State) (t n : Nat) : Keeps s (State.addSat s t n) := by
  unfold State.addSat
  repeat' first
    | with_reducible exact Keeps.refl _
    | with_reducible apply Keeps.trans ?_ (State.addCnt_keeps ..)

theorem State.attRun_keeps (s : State) (t : Nat) (k : Task) (fm : KvFmt) (p : Nat) (pages : List (Nat × Word)) (fill p0 : Nat) (qpos kpos : Int) : Keeps s (State.attRun s t k fm p pages fill p0 qpos kpos) := by
  unfold State.attRun
  repeat' first
    | with_reducible exact Keeps.refl _
    | with_reducible apply Keeps.trans ?_ (State.bump_keeps ..)
    | with_reducible apply Keeps.trans ?_ (State.openMany_keeps ..)
    | with_reducible apply Keeps.trans ?_ (State.opKeys_keeps ..)
    | with_reducible apply Keeps.trans ?_ (State.pageKeys_keeps ..)
    | with_reducible apply Keeps.trans ?_ (State.openTable_keeps ..)
    | with_reducible apply Keeps.trans ?_ (State.attWrite_keeps ..)
    | with_reducible apply Keeps.trans ?_ (State.queryRows_keeps ..)
    | with_reducible apply Keeps.trans ?_ (State.addSat_keeps ..)
    | with_reducible refine Keeps.foldPair _ _ ?_ (fun _ _ => ?_)
    | with_reducible refine Keeps.ite ?_ ?_
    | with_reducible refine Keeps.itePair ?_ ?_
    | dsimp only
    | split
    | refine Keeps.trans ?_ (Keeps.pair (p := State.openOpnd _ _ _ _ _) (by assumption) (State.openOpnd_keeps ..))
    | fail_if_no_progress (with_reducible refine Keeps.mk ?_ rfl rfl rfl rfl rfl rfl)

theorem State.attPaged_keeps (s : State) (t : Nat) (k : Task) : Keeps s (State.attPaged s t k) := by
  unfold State.attPaged
  repeat' first
    | with_reducible exact Keeps.refl _
    | with_reducible apply Keeps.trans ?_ (State.modTask_keeps ..)
    | with_reducible apply Keeps.trans ?_ (State.buffersUsed_keeps ..)
    | with_reducible apply Keeps.trans ?_ (State.kvFail_keeps ..)
    | with_reducible apply Keeps.trans ?_ (State.pteList_keeps ..)
    | with_reducible apply Keeps.trans ?_ (State.selected_keeps ..)
    | with_reducible apply Keeps.trans ?_ (State.attRun_keeps ..)
    | with_reducible refine Keeps.foldPair _ _ ?_ (fun _ _ => ?_)
    | with_reducible refine Keeps.ite ?_ ?_
    | with_reducible refine Keeps.itePair ?_ ?_
    | dsimp only
    | split
    | refine Keeps.trans ?_ (Keeps.pair (p := State.kvOpen _ _ _ _) (by assumption) (State.kvOpen_keeps ..))

theorem State.attDense_keeps (s : State) (t : Nat) (k : Task) : Keeps s (State.attDense s t k) := by
  unfold State.attDense
  repeat' first
    | with_reducible exact Keeps.refl _
    | with_reducible apply Keeps.trans ?_ (State.draw_keeps ..)
    | with_reducible apply Keeps.trans ?_ (State.streams_keeps ..)
    | with_reducible apply Keeps.trans ?_ (State.attRun_keeps ..)
    | with_reducible refine Keeps.ite ?_ ?_
    | with_reducible refine Keeps.itePair ?_ ?_

theorem State.lsumRun_keeps (s : State) (t : Nat) (k : Task) (r : List Word) : Keeps s (State.lsumRun s t k r) := by
  unfold State.lsumRun
  repeat' first
    | with_reducible exact Keeps.refl _
    | with_reducible apply Keeps.trans ?_ (State.modTask_keeps ..)
    | with_reducible apply Keeps.trans ?_ (State.landOut_keeps ..)
    | with_reducible apply Keeps.trans ?_ (State.buffersUsed_keeps ..)
    | with_reducible apply Keeps.trans ?_ (State.kvFail_keeps ..)
    | with_reducible apply Keeps.trans ?_ (State.pteList_keeps ..)
    | with_reducible apply Keeps.trans ?_ (State.readRow_keeps ..)
    | with_reducible apply Keeps.trans ?_ (State.addSat_keeps ..)
    | with_reducible refine Keeps.foldPair _ _ ?_ (fun _ _ => ?_)
    | with_reducible refine Keeps.ite ?_ ?_
    | dsimp only
    | split
    | refine Keeps.trans ?_ (Keeps.pair (p := State.openOpnd _ _ _ _ _) (by assumption) (State.openOpnd_keeps ..))

theorem State.lsumCmd_keeps (s : State) (t : Nat) : Keeps s (State.lsumCmd s t) := by
  unfold State.lsumCmd
  repeat' first
    | with_reducible exact Keeps.refl _
    | with_reducible apply Keeps.trans ?_ (State.asReader_keeps _ _ _ (fun _ _ _ => ?_))
    | with_reducible apply Keeps.trans ?_ (State.lsumRun_keeps ..)
    | with_reducible refine Keeps.ite ?_ ?_
    | split

theorem State.sendRow_keeps (s : State) (t : Nat) (k : Task) (j : Nat) (o : Out) : Keeps s (State.sendRow s t k j o).1 := by
  unfold State.sendRow
  repeat' first
    | with_reducible exact Keeps.refl _
    | with_reducible apply Keeps.trans ?_ (State.modTask_keeps ..)
    | with_reducible apply Keeps.trans ?_ (State.sendWrite_keeps ..)
    | with_reducible apply Keeps.trans ?_ (State.landOut_keeps ..)
    | with_reducible refine Keeps.itePair ?_ ?_
    | fail_if_no_progress (with_reducible refine Keeps.mk ?_ rfl rfl rfl rfl rfl rfl)

theorem State.sendShard_keeps (s : State) (t : Nat) (k : Task) (src dst : Opnd) (n heads len base base2 : Nat) : Keeps s (State.sendShard s t k src dst n heads len base base2).1 := by
  unfold State.sendShard
  repeat' first
    | with_reducible exact Keeps.refl _
    | with_reducible apply Keeps.trans ?_ (State.headRows_keeps ..)
    | with_reducible apply Keeps.trans ?_ (State.sendRow_keeps ..)
    | with_reducible refine Keeps.foldPair _ _ ?_ (fun _ _ => ?_)

theorem State.ringRound_keeps (s : State) (t : Nat) (k : Task) : Keeps s (State.ringRound s t k) := by
  unfold State.ringRound
  repeat' first
    | with_reducible exact Keeps.refl _
    | with_reducible apply Keeps.trans ?_ (State.bump_keeps ..)
    | with_reducible apply Keeps.trans ?_ (State.modTask_keeps ..)
    | with_reducible apply Keeps.trans ?_ (State.openMany_keeps ..)
    | with_reducible apply Keeps.trans ?_ (State.setArrays_keeps ..)
    | with_reducible apply Keeps.trans ?_ (State.opKeys_keeps ..)
    | with_reducible apply Keeps.trans ?_ (State.openTable_keeps ..)
    | with_reducible apply Keeps.trans ?_ (State.queryRows_keeps ..)
    | with_reducible apply Keeps.trans ?_ (State.addSat_keeps ..)
    | with_reducible apply Keeps.trans ?_ (State.sendShard_keeps ..)
    | with_reducible refine Keeps.foldPair _ _ ?_ (fun _ _ => ?_)
    | with_reducible refine Keeps.ite ?_ ?_
    | dsimp only
    | split
    | fail_if_no_progress (with_reducible refine Keeps.mk ?_ rfl rfl rfl rfl rfl rfl)

theorem State.ringEnd_keeps (s : State) (t : Nat) (k : Task) : Keeps s (State.ringEnd s t k) := by
  unfold State.ringEnd
  repeat' first
    | with_reducible exact Keeps.refl _
    | with_reducible apply Keeps.trans ?_ (State.openOpnd_keeps ..)
    | with_reducible apply Keeps.trans ?_ (State.openMany_keeps ..)
    | with_reducible apply Keeps.trans ?_ (State.attWrite_keeps ..)
    | with_reducible refine Keeps.itePair ?_ ?_
    | dsimp only
    | split

theorem State.ringGo_keeps (s : State) (t : Nat) (n : Nat) : Keeps s (State.ringGo s t n) := by
  induction n generalizing s with
  | zero =>
    unfold State.ringGo
    repeat' first
      | with_reducible exact Keeps.refl _
  | succ n ih =>
    unfold State.ringGo
    repeat' first
      | with_reducible exact Keeps.refl _
      | with_reducible apply Keeps.trans ?_ (ih _)
      | with_reducible apply Keeps.trans ?_ (State.sendDone_keeps ..)
      | with_reducible apply Keeps.trans ?_ (State.ringRound_keeps ..)
      | with_reducible apply Keeps.trans ?_ (State.ringEnd_keeps ..)
      | with_reducible refine Keeps.ite ?_ ?_
      | split

theorem State.aringCmd_keeps (s : State) (t : Nat) : Keeps s (State.aringCmd s t) := by
  unfold State.aringCmd
  repeat' first
    | with_reducible exact Keeps.refl _
    | with_reducible apply Keeps.trans ?_ (State.modTask_keeps ..)
    | with_reducible apply Keeps.trans ?_ (State.sendDone_keeps ..)
    | with_reducible apply Keeps.trans ?_ (State.streams_keeps ..)
    | with_reducible apply Keeps.trans ?_ (State.ringGo_keeps ..)
    | with_reducible refine Keeps.ite ?_ ?_
    | dsimp only
    | split

theorem State.creditIn_keeps (s : State) (t : Nat) (half : Bool) : Keeps s (State.creditIn s t half) := by
  unfold State.creditIn
  repeat' first
    | with_reducible exact Keeps.refl _
    | with_reducible apply Keeps.trans ?_ (State.awaitBoundary_keeps _ _ (fun _ => ?_))
    | with_reducible apply Keeps.trans ?_ (State.modTask_keeps ..)
    | with_reducible apply Keeps.trans ?_ (State.ringGo_keeps ..)

theorem State.readyIn_keeps (s : State) (t : Nat) : Keeps s (State.readyIn s t) := by
  unfold State.readyIn
  repeat' first
    | with_reducible exact Keeps.refl _
    | with_reducible apply Keeps.trans ?_ (State.awaitBoundary_keeps _ _ (fun _ => ?_))
    | with_reducible apply Keeps.trans ?_ (State.modTask_keeps ..)
    | with_reducible apply Keeps.trans ?_ (State.ringGo_keeps ..)

end Sys2Proof.Machine
end

