-- ==== Sys2Proof/Laws/KeepsIntegrity.lean ====
section
/-! SUPPORT. What the operations of Machine/Integrity.lean keep. -/
namespace Sys2Proof.Machine

theorem State.releaseReport_keeps (s : State) (r : PReport) : Keeps s (State.releaseReport s r) := by
  unfold State.releaseReport
  repeat' first
    | with_reducible exact Keeps.refl _
    | with_reducible apply Keeps.trans ?_ (State.modCtx_keeps ..)
    | with_reducible apply Keeps.trans ?_ (State.tryRelease_keeps ..)
    | with_reducible refine Keeps.fold _ _ ?_ (fun _ _ => ?_)
    | split

theorem State.reportIn_keeps (s : State) (r : PReport) : Keeps s (State.reportIn s r) := by
  unfold State.reportIn
  repeat' first
    | with_reducible exact Keeps.refl _
    | with_reducible apply Keeps.trans ?_ (State.logReport_keeps ..)
    | with_reducible apply Keeps.trans ?_ (State.takeReport_keeps ..)
    | with_reducible apply Keeps.trans ?_ (State.releaseReport_keeps ..)
    | with_reducible refine Keeps.ite ?_ ?_
    | dsimp only
    | fail_if_no_progress (with_reducible refine Keeps.mk ?_ rfl rfl rfl rfl rfl rfl)

theorem State.setPstate_keeps (s : State) (p : Nat) (v : BitVec 3) : Keeps s (State.setPstate s p v) := by
  unfold State.setPstate
  repeat' first
    | with_reducible exact Keeps.refl _
    | with_reducible apply Keeps.trans ?_ (State.forceCfg_keeps ..)

theorem State.endDegraded_keeps (s : State) (t k : Nat) : Keeps s (State.endDegraded s t k) := by
  unfold State.endDegraded
  repeat' first
    | with_reducible exact Keeps.refl _
    | with_reducible apply Keeps.trans ?_ (State.putTask_keeps ..)
    | with_reducible apply Keeps.trans ?_ (State.modTask_keeps ..)
    | with_reducible apply Keeps.trans ?_ (State.endTask_keeps ..)
    | dsimp only
    | split

theorem State.degradeAt_keeps (s : State) (a k island parts : Nat) (held : List Held) (detail : Nat) : Keeps s (State.degradeAt s a k island parts held detail) := by
  unfold State.degradeAt
  repeat' first
    | with_reducible exact Keeps.refl _
    | with_reducible apply Keeps.trans ?_ (State.setBit_keeps ..)
    | with_reducible apply Keeps.trans ?_ (State.logE_keeps ..)
    | with_reducible apply Keeps.trans ?_ (State.writePoison_keeps ..)
    | with_reducible apply Keeps.trans ?_ (State.setPstate_keeps ..)
    | with_reducible apply Keeps.trans ?_ (State.endDegraded_keeps ..)
    | with_reducible refine Keeps.fold _ _ ?_ (fun _ _ => ?_)
    | with_reducible refine Keeps.ite ?_ ?_
    | split

theorem State.degrade_keeps (s : State) (k detail : Nat) : Keeps s (State.degrade s k detail) := by
  unfold State.degrade
  repeat' first
    | with_reducible exact Keeps.refl _
    | with_reducible apply Keeps.trans ?_ (State.emptySlot_keeps ..)
    | with_reducible apply Keeps.trans ?_ (State.serveStalled_keeps ..)
    | with_reducible apply Keeps.trans ?_ (State.degradeAt_keeps ..)

theorem State.boundOver_keeps (s : State) (k : Nat) : Keeps s (State.boundOver s k) := by
  unfold State.boundOver
  repeat' first
    | with_reducible exact Keeps.refl _
    | with_reducible apply Keeps.trans ?_ (State.degrade_keeps ..)
    | with_reducible refine Keeps.ite ?_ ?_

theorem State.holdAbandon_keeps (s : State) (k : Nat) : Keeps s (State.holdAbandon s k) := by
  unfold State.holdAbandon
  repeat' first
    | with_reducible exact Keeps.refl _
    | with_reducible apply Keeps.trans ?_ (State.degrade_keeps ..)
    | with_reducible refine Keeps.ite ?_ ?_

theorem State.holdRelease_keeps (s : State) (k : Nat) : Keeps s (State.holdRelease s k) := by
  unfold State.holdRelease
  repeat' first
    | with_reducible exact Keeps.refl _
    | with_reducible apply Keeps.trans ?_ (State.releaseHeld_keeps ..)
    | with_reducible apply Keeps.trans ?_ (State.emptySlot_keeps ..)
    | with_reducible apply Keeps.trans ?_ (State.serveStalled_keeps ..)
    | with_reducible refine Keeps.ite ?_ ?_

theorem State.remapFull_keeps (s : State) (a island k : Nat) : Keeps s (State.remapFull s a island k) := by
  unfold State.remapFull
  repeat' first
    | with_reducible exact Keeps.refl _
    | with_reducible apply Keeps.trans ?_ (State.setBit_keeps ..)
    | with_reducible apply Keeps.trans ?_ (State.logE_keeps ..)

theorem State.hardFaultSlot_keeps (s : State) (k : Nat) : Keeps s (State.hardFaultSlot s k) := by
  unfold State.hardFaultSlot
  repeat' first
    | with_reducible exact Keeps.refl _
    | with_reducible apply Keeps.trans ?_ (State.setSlot_keeps ..)
    | with_reducible apply Keeps.trans ?_ (State.releaseHeld_keeps ..)
    | with_reducible apply Keeps.trans ?_ (State.emptySlot_keeps ..)
    | with_reducible apply Keeps.trans ?_ (State.serveStalled_keeps ..)
    | with_reducible apply Keeps.trans ?_ (State.degrade_keeps ..)
    | with_reducible apply Keeps.trans ?_ (State.remapFull_keeps ..)
    | with_reducible refine Keeps.ite ?_ ?_
    | dsimp only
    | split

theorem State.hardFaultScrub_keeps (s : State) (a : Nat) : Keeps s (State.hardFaultScrub s a) := by
  unfold State.hardFaultScrub
  repeat' first
    | with_reducible exact Keeps.refl _
    | with_reducible apply Keeps.trans ?_ (State.setSlot_keeps ..)
    | with_reducible apply Keeps.trans ?_ (State.degradeAt_keeps ..)
    | with_reducible apply Keeps.trans ?_ (State.remapFull_keeps ..)
    | with_reducible refine Keeps.ite ?_ ?_
    | dsimp only
    | split

theorem State.copyUnit_keeps (s : State) (v : Slot) (u : Nat) : Keeps s (State.copyUnit s v u) := by
  unfold State.copyUnit
  repeat' first
    | with_reducible exact Keeps.refl _
    | with_reducible apply Keeps.trans ?_ (State.loadUnit_keeps ..)
    | with_reducible apply Keeps.trans ?_ (State.storeUnit_keeps ..)
    | with_reducible apply Keeps.trans ?_ (State.storePoison_keeps ..)
    | with_reducible refine Keeps.ite ?_ ?_

theorem State.remapDone_keeps (s : State) (k : Nat) : Keeps s (State.remapDone s k) := by
  unfold State.remapDone
  repeat' first
    | with_reducible exact Keeps.refl _
    | with_reducible apply Keeps.trans ?_ (State.setReg_keeps ..)
    | with_reducible apply Keeps.trans ?_ (State.setBit_keeps ..)
    | with_reducible apply Keeps.trans ?_ (State.logE_keeps ..)
    | with_reducible apply Keeps.trans ?_ (State.releaseHeld_keeps ..)
    | with_reducible apply Keeps.trans ?_ (State.emptySlot_keeps ..)
    | with_reducible apply Keeps.trans ?_ (State.repairDone_keeps ..)
    | with_reducible apply Keeps.trans ?_ (State.serveStalled_keeps ..)
    | with_reducible apply Keeps.trans ?_ (State.copyUnit_keeps ..)
    | with_reducible refine Keeps.fold _ _ ?_ (fun _ _ => ?_)
    | with_reducible refine Keeps.ite ?_ ?_

theorem State.restore_keeps (s : State) (k : Nat) (data : List Byte) : Keeps s (State.restore s k data) := by
  unfold State.restore
  repeat' first
    | with_reducible exact Keeps.refl _
    | with_reducible apply Keeps.trans ?_ (State.storeUnit_keeps ..)
    | with_reducible apply Keeps.trans ?_ (State.setSlot_keeps ..)
    | with_reducible refine Keeps.fold _ _ ?_ (fun _ _ => ?_)

theorem State.sourceAnswer_keeps (s : State) (k : Nat) (clean : Bool) (data : List Byte) : Keeps s (State.sourceAnswer s k clean data) := by
  unfold State.sourceAnswer
  repeat' first
    | with_reducible exact Keeps.refl _
    | with_reducible apply Keeps.trans ?_ (State.trySource_keeps ..)
    | with_reducible apply Keeps.trans ?_ (State.restore_keeps ..)
    | with_reducible refine Keeps.ite ?_ ?_

theorem State.reloadGo_keeps (s : State) (k : Nat) : Keeps s (State.reloadGo s k) := by
  unfold State.reloadGo
  repeat' first
    | with_reducible exact Keeps.refl _
    | with_reducible apply Keeps.trans ?_ (State.restore_keeps ..)
    | with_reducible refine Keeps.ite ?_ ?_

theorem State.verify_keeps (s : State) (k : Nat) : Keeps s (State.verify s k) := by
  unfold State.verify
  repeat' first
    | with_reducible exact Keeps.refl _
    | with_reducible apply Keeps.trans ?_ (State.loadUnit_keeps ..)
    | with_reducible apply Keeps.trans ?_ (State.repairDone_keeps ..)
    | with_reducible apply Keeps.trans ?_ (State.serveStalled_keeps ..)
    | with_reducible apply Keeps.trans ?_ (State.hardFaultSlot_keeps ..)
    | with_reducible refine Keeps.foldPair _ _ ?_ (fun _ _ => ?_)
    | with_reducible refine Keeps.ite ?_ ?_

theorem State.scrubCorrected_keeps (s : State) (h a u : Nat) (rep : Bool) (d : Decoded) : Keeps s (State.scrubCorrected s h a u rep d) := by
  unfold State.scrubCorrected
  repeat' first
    | with_reducible exact Keeps.refl _
    | with_reducible apply Keeps.trans ?_ (State.logE_keeps ..)
    | with_reducible apply Keeps.trans ?_ (State.injFired_keeps ..)
    | with_reducible apply Keeps.trans ?_ (State.storeUnit_keeps ..)
    | with_reducible apply Keeps.trans ?_ (State.hardFaultScrub_keeps ..)
    | with_reducible refine Keeps.ite ?_ ?_
    | dsimp only
    | fail_if_no_progress (with_reducible refine Keeps.mk ?_ rfl rfl rfl rfl rfl rfl)

theorem State.scrubBad_keeps (s : State) (u : Nat) (d : Decoded) : Keeps s (State.scrubBad s u d) := by
  unfold State.scrubBad
  repeat' first
    | with_reducible exact Keeps.refl _
    | with_reducible apply Keeps.trans ?_ (State.logE_keeps ..)
    | with_reducible apply Keeps.trans ?_ (State.storePoison_keeps ..)
    | with_reducible apply Keeps.trans ?_ (State.assignSlot_keeps ..)
    | dsimp only
    | split

theorem State.scrubUnit_keeps (s : State) (h a u : Nat) (rep : Bool) : Keeps s (State.scrubUnit s h a u rep) := by
  unfold State.scrubUnit
  repeat' first
    | with_reducible exact Keeps.refl _
    | with_reducible apply Keeps.trans ?_ (State.loadUnit_keeps ..)
    | with_reducible apply Keeps.trans ?_ (State.scrubCorrected_keeps ..)
    | with_reducible apply Keeps.trans ?_ (State.scrubBad_keeps ..)
    | dsimp only
    | split

theorem State.scrubPair_keeps (s : State) (h a : Nat) (us : List Nat) : Keeps s (State.scrubPair s h a us) := by
  unfold State.scrubPair
  repeat' first
    | with_reducible exact Keeps.refl _
    | with_reducible apply Keeps.trans ?_ (State.scrubUnit_keeps ..)
    | with_reducible refine Keeps.fold _ _ ?_ (fun _ _ => ?_)
    | with_reducible refine Keeps.ite ?_ ?_

theorem State.heathScrub_keeps (s : State) (d : Nat) : Keeps s (State.heathScrub s d) := by
  unfold State.heathScrub
  repeat' first
    | with_reducible exact Keeps.refl _
    | with_reducible apply Keeps.trans ?_ (State.scrubPair_keeps ..)
    | with_reducible refine Keeps.ite ?_ ?_
    | dsimp only
    | fail_if_no_progress (with_reducible refine Keeps.mk ?_ rfl rfl rfl rfl rfl rfl)

theorem State.meadowScrub_keeps (s : State) (c : Nat) : Keeps s (State.meadowScrub s c) := by
  unfold State.meadowScrub
  repeat' first
    | with_reducible exact Keeps.refl _
    | with_reducible apply Keeps.trans ?_ (State.scrubPair_keeps ..)
    | with_reducible refine Keeps.ite ?_ ?_
    | dsimp only
    | fail_if_no_progress (with_reducible refine Keeps.mk ?_ rfl rfl rfl rfl rfl rfl)

theorem State.rmapWrite_keeps (s : State) (v : Word) : Keeps s (State.rmapWrite s v) := by
  unfold State.rmapWrite
  repeat' first
    | with_reducible exact Keeps.refl _
    | with_reducible apply Keeps.trans ?_ (State.setBit_keeps ..)
    | with_reducible refine Keeps.ite ?_ ?_
    | dsimp only
    | fail_if_no_progress (with_reducible refine Keeps.mk ?_ rfl rfl rfl rfl rfl rfl)

theorem State.injWrite_keeps (s : State) (v : Word) : Keeps s (State.injWrite s v) := by
  unfold State.injWrite
  repeat' first
    | with_reducible exact Keeps.refl _
    | with_reducible apply Keeps.trans ?_ (State.setReg_keeps ..)
    | with_reducible apply Keeps.trans ?_ (State.setBit_keeps ..)
    | with_reducible refine Keeps.ite ?_ ?_

theorem State.dropTrace_keeps (s : State) : Keeps s (State.dropTrace s) := by
  unfold State.dropTrace
  repeat' first
    | with_reducible exact Keeps.refl _
    | dsimp only
    | fail_if_no_progress (with_reducible refine Keeps.mk ?_ rfl rfl rfl rfl rfl rfl)

theorem State.logCfgWrite_keeps (s : State) (v : Word) : Keeps s (State.logCfgWrite s v) := by
  unfold State.logCfgWrite
  repeat' first
    | with_reducible exact Keeps.refl _
    | with_reducible apply Keeps.trans ?_ (State.setFld_keeps ..)
    | with_reducible apply Keeps.trans ?_ (State.setBit_keeps ..)
    | with_reducible apply Keeps.trans ?_ (State.logLevel_keeps ..)
    | with_reducible apply Keeps.trans ?_ (State.stopTrace_keeps ..)
    | with_reducible apply Keeps.trans ?_ (State.dropTrace_keeps ..)
    | with_reducible refine Keeps.ite ?_ ?_

theorem State.traceRefuse_keeps (s : State) (reason : Nat) : Keeps s (State.traceRefuse s reason) := by
  unfold State.traceRefuse
  repeat' first
    | with_reducible exact Keeps.refl _
    | with_reducible apply Keeps.trans ?_ (State.setFld_keeps ..)
    | with_reducible apply Keeps.trans ?_ (State.setBit_keeps ..)

theorem State.traceStart_keeps (s : State) : Keeps s (State.traceStart s) := by
  unfold State.traceStart
  repeat' first
    | with_reducible exact Keeps.refl _
    | with_reducible apply Keeps.trans ?_ (State.setReg_keeps ..)
    | with_reducible apply Keeps.trans ?_ (State.setBit_keeps ..)
    | with_reducible apply Keeps.trans ?_ (State.traceRefuse_keeps ..)
    | with_reducible refine Keeps.ite ?_ ?_
    | dsimp only
    | fail_if_no_progress (with_reducible refine Keeps.mk ?_ rfl rfl rfl rfl rfl rfl)

theorem State.traceStop_keeps (s : State) : Keeps s (State.traceStop s) := by
  unfold State.traceStop
  repeat' first
    | with_reducible exact Keeps.refl _
    | with_reducible apply Keeps.trans ?_ (State.setBit_keeps ..)
    | with_reducible apply Keeps.trans ?_ (State.stopTrace_keeps ..)

theorem State.traceCfgWrite_keeps (s : State) (v : Word) : Keeps s (State.traceCfgWrite s v) := by
  unfold State.traceCfgWrite
  repeat' first
    | with_reducible exact Keeps.refl _
    | with_reducible apply Keeps.trans ?_ (State.setReg_keeps ..)
    | with_reducible apply Keeps.trans ?_ (State.traceRefuse_keeps ..)
    | with_reducible refine Keeps.ite ?_ ?_

theorem State.traceIn_keeps (s : State) (e : TraceEv) : Keeps s (State.traceIn s e) := by
  unfold State.traceIn
  repeat' first
    | with_reducible exact Keeps.refl _
    | with_reducible apply Keeps.trans ?_ (State.bump_keeps ..)
    | with_reducible apply Keeps.trans ?_ (State.writeTrace_keeps ..)
    | with_reducible refine Keeps.ite ?_ ?_
    | dsimp only
    | fail_if_no_progress (with_reducible refine Keeps.mk ?_ rfl rfl rfl rfl rfl rfl)

end Sys2Proof.Machine
end

