-- ==== Sys2Proof/Laws/KeepsBankCtl.lean ====
section
/-! SUPPORT. What the operations of Machine/BankCtl.lean keep. -/
namespace Sys2Proof.Machine

theorem State.autoPre_keeps (s : State) (st ch b : Nat) (w : Nat) : Keeps s (State.autoPre s st ch b w) := by
  unfold State.autoPre
  repeat' first
    | with_reducible exact Keeps.refl _
    | with_reducible apply Keeps.trans ?_ (State.modBank_keeps ..)
    | with_reducible refine Keeps.ite ?_ ?_

theorem State.pinGranule_keeps (s : State) (st ch b : Nat) (row : Option Nat) (col : Nat) :
    Keeps s (State.pinGranule s st ch b row col).1 := by
  unfold State.pinGranule
  split
  · split
    · have h := State.loadUnit_keeps s false (stackAddr st ch b ‹Nat› col)
      revert h
      generalize State.loadUnit s false (stackAddr st ch b ‹Nat› col) = p
      obtain ⟨u, d⟩ := p
      exact id
    · have h := State.bpuRead_keeps s st ch b ‹Nat› col
      revert h
      generalize State.bpuRead s st ch b ‹Nat› col = p
      obtain ⟨u, d⟩ := p
      exact id
  · have h := State.bpuRead_keeps s st ch b 0 64
    revert h
    generalize State.bpuRead s st ch b 0 64 = p
    obtain ⟨u, d⟩ := p
    exact id

theorem State.rdCmd_keeps (s : State) (st ch : Nat) (w : Nat) : Keeps s (State.rdCmd s st ch w) := by
  unfold State.rdCmd
  repeat' first
    | with_reducible exact Keeps.refl _
    | with_reducible apply Keeps.trans ?_ (State.modChan_keeps ..)
    | with_reducible apply Keeps.trans ?_ (State.autoPre_keeps ..)
    | with_reducible apply Keeps.trans ?_ (State.pinGranule_keeps ..)
    | with_reducible refine Keeps.foldPair _ _ ?_ (fun _ _ => ?_)

theorem State.wrCmd_keeps (s : State) (st ch : Nat) (w : Nat) (data : List Byte) : Keeps s (State.wrCmd s st ch w data) := by
  unfold State.wrCmd
  repeat' first
    | with_reducible exact Keeps.refl _
    | with_reducible apply Keeps.trans ?_ (State.storeUnit_keeps ..)
    | with_reducible apply Keeps.trans ?_ (State.autoPre_keeps ..)
    | with_reducible refine Keeps.fold _ _ ?_ (fun _ _ => ?_)
    | with_reducible refine Keeps.ite ?_ ?_
    | split

theorem State.scrbCmd_keeps (s : State) (st ch : Nat) (w : Nat) : Keeps s (State.scrbCmd s st ch w) := by
  unfold State.scrbCmd
  repeat' first
    | with_reducible exact Keeps.refl _
    | with_reducible apply Keeps.trans ?_ (State.scrubPair_keeps ..)
    | split

theorem State.wrpCmd_keeps (s : State) (st ch : Nat) (w : Nat) : Keeps s (State.wrpCmd s st ch w) := by
  unfold State.wrpCmd
  repeat' first
    | with_reducible exact Keeps.refl _
    | with_reducible apply Keeps.trans ?_ (State.storePoison_keeps ..)
    | with_reducible refine Keeps.fold _ _ ?_ (fun _ _ => ?_)

theorem State.rfmCmd_keeps (s : State) (st ch b : Nat) : Keeps s (State.rfmCmd s st ch b) := by
  unfold State.rfmCmd
  repeat' first
    | with_reducible exact Keeps.refl _
    | with_reducible apply Keeps.trans ?_ (State.rfmOne_keeps ..)
    | with_reducible refine Keeps.ite ?_ ?_

theorem State.srfmCmd_keeps (s : State) (st ch : Nat) : Keeps s (State.srfmCmd s st ch) := by
  unfold State.srfmCmd
  repeat' first
    | with_reducible exact Keeps.refl _
    | with_reducible apply Keeps.trans ?_ (State.bump_keeps ..)
    | with_reducible apply Keeps.trans ?_ (State.rfmBank_keeps ..)
    | with_reducible refine Keeps.fold _ _ ?_ (fun _ _ => ?_)
    | with_reducible refine Keeps.ite ?_ ?_

theorem State.preaCmd_keeps (s : State) (st ch : Nat) : Keeps s (State.preaCmd s st ch) := by
  unfold State.preaCmd
  repeat' first
    | with_reducible exact Keeps.refl _
    | with_reducible apply Keeps.trans ?_ (State.modBank_keeps ..)
    | with_reducible refine Keeps.fold _ _ ?_ (fun _ _ => ?_)

theorem State.sactCmd_keeps (s : State) (st ch row : Nat) : Keeps s (State.sactCmd s st ch row) := by
  unfold State.sactCmd
  repeat' first
    | with_reducible exact Keeps.refl _
    | with_reducible apply Keeps.trans ?_ (State.flushBank_keeps ..)
    | with_reducible apply Keeps.trans ?_ (State.activate_keeps ..)
    | with_reducible refine Keeps.fold _ _ ?_ (fun _ _ => ?_)

theorem State.spreCmd_keeps (s : State) (st ch : Nat) : Keeps s (State.spreCmd s st ch) := by
  unfold State.spreCmd
  repeat' first
    | with_reducible exact Keeps.refl _
    | with_reducible apply Keeps.trans ?_ (State.eachBank_keeps ..)

theorem State.showDebt_keeps (s : State) (st : Nat) : Keeps s (State.showDebt s st) := by
  unfold State.showDebt
  repeat' first
    | with_reducible exact Keeps.refl _
    | with_reducible apply Keeps.trans ?_ (State.setFld_keeps ..)

theorem State.refreshNow_keeps (s : State) (st ch : Nat) : Keeps s (State.refreshNow s st ch) := by
  unfold State.refreshNow
  repeat' first
    | with_reducible exact Keeps.refl _
    | with_reducible apply Keeps.trans ?_ (State.bump_keeps ..)
    | with_reducible apply Keeps.trans ?_ (State.trace_keeps ..)
    | with_reducible apply Keeps.trans ?_ (State.modChan_keeps ..)
    | with_reducible apply Keeps.trans ?_ (State.modBank_keeps ..)
    | with_reducible apply Keeps.trans ?_ (State.preaCmd_keeps ..)
    | with_reducible apply Keeps.trans ?_ (State.showDebt_keeps ..)
    | with_reducible refine Keeps.fold _ _ ?_ (fun _ _ => ?_)

theorem State.refCmd_keeps (s : State) (st ch : Nat) : Keeps s (State.refCmd s st ch) := by
  unfold State.refCmd
  repeat' first
    | with_reducible exact Keeps.refl _
    | with_reducible apply Keeps.trans ?_ (State.refreshNow_keeps ..)
    | with_reducible refine Keeps.ite ?_ ?_

theorem State.payDebt_keeps (s : State) (st ch : Nat) : Keeps s (State.payDebt s st ch) := by
  unfold State.payDebt
  repeat' first
    | with_reducible exact Keeps.refl _
    | with_reducible apply Keeps.trans ?_ (State.modChan_keeps ..)
    | with_reducible apply Keeps.trans ?_ (State.refreshNow_keeps ..)
    | with_reducible refine Keeps.fold _ _ ?_ (fun _ _ => ?_)

theorem State.debtOver_keeps (s : State) (st ch : Nat) : Keeps s (State.debtOver s st ch) := by
  unfold State.debtOver
  repeat' first
    | with_reducible exact Keeps.refl _
    | with_reducible apply Keeps.trans ?_ (State.setBit_keeps ..)
    | with_reducible apply Keeps.trans ?_ (State.modChan_keeps ..)
    | with_reducible apply Keeps.trans ?_ (State.stackInternal_keeps ..)

theorem State.refreshDue_keeps (s : State) (st ch : Nat) : Keeps s (State.refreshDue s st ch) := by
  unfold State.refreshDue
  repeat' first
    | with_reducible exact Keeps.refl _
    | with_reducible apply Keeps.trans ?_ (State.injFired_keeps ..)
    | with_reducible apply Keeps.trans ?_ (State.modChan_keeps ..)
    | with_reducible apply Keeps.trans ?_ (State.chanNext_keeps ..)
    | with_reducible apply Keeps.trans ?_ (State.showDebt_keeps ..)
    | with_reducible apply Keeps.trans ?_ (State.payDebt_keeps ..)
    | with_reducible apply Keeps.trans ?_ (State.debtOver_keeps ..)
    | with_reducible refine Keeps.ite ?_ ?_

theorem State.showScrub_keeps (s : State) (st : Nat) : Keeps s (State.showScrub s st) := by
  unfold State.showScrub
  repeat' first
    | with_reducible exact Keeps.refl _
    | with_reducible apply Keeps.trans ?_ (State.setReg_keeps ..)

theorem State.scrubNext_keeps (s : State) (st ch : Nat) : Keeps s (State.scrubNext s st ch) := by
  unfold State.scrubNext
  repeat' first
    | with_reducible exact Keeps.refl _
    | with_reducible apply Keeps.trans ?_ (State.modChan_keeps ..)
    | with_reducible apply Keeps.trans ?_ (State.scrubPair_keeps ..)
    | with_reducible apply Keeps.trans ?_ (State.showScrub_keeps ..)

theorem State.idleScrubs_keeps (s : State) (st ch : Nat) : Keeps s (State.idleScrubs s st ch) := by
  unfold State.idleScrubs
  repeat' first
    | with_reducible exact Keeps.refl _
    | with_reducible apply Keeps.trans ?_ (State.scrubNext_keeps ..)
    | with_reducible refine Keeps.fold _ _ ?_ (fun _ _ => ?_)
    | with_reducible refine Keeps.ite ?_ ?_

theorem State.scrubTick_keeps (s : State) (st ch : Nat) : Keeps s (State.scrubTick s st ch) := by
  unfold State.scrubTick
  repeat' first
    | with_reducible exact Keeps.refl _
    | with_reducible apply Keeps.trans ?_ (State.modChan_keeps ..)
    | with_reducible apply Keeps.trans ?_ (State.idleScrubs_keeps ..)
    | with_reducible refine Keeps.ite ?_ ?_

theorem State.arbCfg_keeps (s : State) (st : Nat) (v : Word) : Keeps s (State.arbCfg s st v) := by
  unfold State.arbCfg
  repeat' first
    | with_reducible exact Keeps.refl _
    | with_reducible apply Keeps.trans ?_ (State.setFld_keeps ..)

theorem State.ordinary_keeps (s : State) (st : Nat) (q : MemReq) : Keeps s (State.ordinary s st q) := by
  unfold State.ordinary
  repeat' first
    | with_reducible exact Keeps.refl _
    | with_reducible apply Keeps.trans ?_ (State.atHome_keeps ..)
    | with_reducible refine Keeps.ite ?_ ?_

theorem State.serveOrd_keeps (s : State) (st ch left n : Nat) (l : List OrdItem) :
    Keeps s (State.serveOrd s st ch left n l).1 := by
  induction l generalizing s left n with
  | nil => unfold State.serveOrd; exact Keeps.refl _
  | cons a l ih =>
    cases a with
    | req q =>
      unfold State.serveOrd
      split
      · exact ((State.modChan_keeps ..).trans (State.serveReq_keeps ..)).trans (ih _ _ _)
      · exact Keeps.refl _
    | scrub =>
      cases n with
      | zero => unfold State.serveOrd; exact ih _ _ _
      | succ n =>
        unfold State.serveOrd
        split
        · exact (State.scrubNext_keeps ..).trans (ih _ _ _)
        · exact Keeps.refl _

theorem State.boundaryRfm_keeps (s : State) (st ch : Nat) : Keeps s (State.boundaryRfm s st ch) := by
  unfold State.boundaryRfm
  repeat' first
    | with_reducible exact Keeps.refl _
    | with_reducible apply Keeps.trans ?_ (State.rfmOne_keeps ..)
    | with_reducible refine Keeps.fold _ _ ?_ (fun _ _ => ?_)
    | with_reducible refine Keeps.ite ?_ ?_

theorem State.boundaryOrd_keeps (s : State) (st ch : Nat) : Keeps s (State.boundaryOrd s st ch) := by
  unfold State.boundaryOrd
  repeat' first
    | with_reducible exact Keeps.refl _
    | with_reducible apply Keeps.trans ?_ (State.scrubNext_keeps ..)
    | with_reducible apply Keeps.trans ?_ (State.serveOrd_keeps ..)
    | with_reducible refine Keeps.fold _ _ ?_ (fun _ _ => ?_)
    | with_reducible refine Keeps.ite ?_ ?_

theorem State.boundarySwitch_keeps (s : State) (st ch : Nat) : Keeps s (State.boundarySwitch s st ch) := by
  unfold State.boundarySwitch
  repeat' first
    | with_reducible exact Keeps.refl _
    | with_reducible apply Keeps.trans ?_ (State.modChan_keeps ..)
    | with_reducible apply Keeps.trans ?_ (State.spillSet_keeps ..)
    | with_reducible apply Keeps.trans ?_ (State.chanNext_keeps ..)
    | with_reducible refine Keeps.ite ?_ ?_
    | dsimp only
    | split

theorem State.atBoundary_keeps (s : State) (st ch : Nat) : Keeps s (State.atBoundary s st ch) := by
  unfold State.atBoundary
  repeat' first
    | with_reducible exact Keeps.refl _
    | with_reducible apply Keeps.trans ?_ (State.payDebt_keeps ..)
    | with_reducible apply Keeps.trans ?_ (State.boundaryRfm_keeps ..)
    | with_reducible apply Keeps.trans ?_ (State.boundaryOrd_keeps ..)

theorem State.boundary_keeps (s : State) (st ch : Nat) : Keeps s (State.boundary s st ch) := by
  unfold State.boundary
  repeat' first
    | with_reducible exact Keeps.refl _
    | with_reducible apply Keeps.trans ?_ (State.spreCmd_keeps ..)
    | with_reducible apply Keeps.trans ?_ (State.showDebt_keeps ..)
    | with_reducible apply Keeps.trans ?_ (State.boundarySwitch_keeps ..)
    | with_reducible apply Keeps.trans ?_ (State.atBoundary_keeps ..)
    | with_reducible refine Keeps.ite ?_ ?_

theorem State.bankIssue_keeps (s : State) (st ch t : Nat) : Keeps s (State.bankIssue s st ch t) := by
  unfold State.bankIssue
  repeat' first
    | with_reducible exact Keeps.refl _
    | with_reducible apply Keeps.trans ?_ (State.modChan_keeps ..)
    | with_reducible apply Keeps.trans ?_ (State.chanNext_keeps ..)
    | with_reducible refine Keeps.ite ?_ ?_
    | split

end Sys2Proof.Machine
end

