-- ==== Sys2Proof/Laws/KeepsBankRun.lean ====
section
/-! SUPPORT. What the operations of Machine/BankRun.lean keep. -/
namespace Sys2Proof.Machine

theorem State.ldrReg_keeps (s : State) (st ch r : Nat) (v : BitVec 1024 × Bool) : Keeps s (State.ldrReg s st ch r v) := by
  unfold State.ldrReg
  repeat' first
    | with_reducible exact Keeps.refl _
    | with_reducible apply Keeps.trans ?_ (State.ldrCmd_keeps ..)

theorem State.loadActs_keeps (s : State) (st ch : Nat) (p : Prod) (ma : Snap) (x : Seq) (lo n : Nat) : Keeps s (State.loadActs s st ch p ma x lo n) := by
  unfold State.loadActs
  repeat' first
    | with_reducible exact Keeps.refl _
    | with_reducible apply Keeps.trans ?_ (State.ldrReg_keeps ..)
    | with_reducible refine Keeps.fold _ _ ?_ (fun _ _ => ?_)
    | with_reducible refine Keeps.ite ?_ ?_

theorem State.sideLoad_keeps (s : State) (st ch : Nat) (p : Prod) (x : Seq) (g r slot : Nat) : Keeps s (State.sideLoad s st ch p x g r slot) := by
  unfold State.sideLoad
  repeat' first
    | with_reducible exact Keeps.refl _
    | with_reducible apply Keeps.trans ?_ (State.modBank_keeps ..)
    | with_reducible apply Keeps.trans ?_ (State.bpuMalformed_keeps ..)
    | with_reducible apply Keeps.trans ?_ (State.bankLoad_keeps ..)
    | with_reducible refine Keeps.fold _ _ ?_ (fun _ _ => ?_)
    | with_reducible refine Keeps.ite ?_ ?_
    | split

theorem State.openRow_keeps (s : State) (st ch : Nat) (x : Seq) (d : Nat) : Keeps s (State.openRow s st ch x d) := by
  unfold State.openRow
  repeat' first
    | with_reducible exact Keeps.refl _
    | with_reducible apply Keeps.trans ?_ (State.sactCmd_keeps ..)
    | split

theorem State.sideVisits_keeps (s : State) (st ch : Nat) (p : Prod) (x : Seq) (q : Nat) : Keeps s (State.sideVisits s st ch p x q) := by
  unfold State.sideVisits
  repeat' first
    | with_reducible exact Keeps.refl _
    | with_reducible apply Keeps.trans ?_ (State.spreCmd_keeps ..)
    | with_reducible apply Keeps.trans ?_ (State.atBoundary_keeps ..)
    | with_reducible apply Keeps.trans ?_ (State.sideLoad_keeps ..)
    | with_reducible apply Keeps.trans ?_ (State.openRow_keeps ..)
    | with_reducible refine Keeps.fold _ _ ?_ (fun _ _ => ?_)

theorem State.weightVisit_keeps (s : State) (st ch : Nat) (p : Prod) (ma : Snap) (x : Seq) (q : Nat) : Keeps s (State.weightVisit s st ch p ma x q) := by
  unfold State.weightVisit
  repeat' first
    | with_reducible exact Keeps.refl _
    | with_reducible apply Keeps.trans ?_ (State.openPass_keeps ..)
    | with_reducible apply Keeps.trans ?_ (State.passEndCmd_keeps ..)
    | with_reducible apply Keeps.trans ?_ (State.spreCmd_keeps ..)
    | with_reducible apply Keeps.trans ?_ (State.atBoundary_keeps ..)
    | with_reducible apply Keeps.trans ?_ (State.loadActs_keeps ..)
    | with_reducible apply Keeps.trans ?_ (State.openRow_keeps ..)
    | with_reducible refine Keeps.fold _ _ ?_ (fun _ _ => ?_)
    | with_reducible refine Keeps.ite ?_ ?_

theorem State.readReg_keeps (s : State) (st ch b r : Nat) : Keeps s (State.readReg s st ch b r).1 := by
  unfold State.readReg
  repeat' first
    | with_reducible exact Keeps.refl _
    | with_reducible apply Keeps.trans ?_ (State.rdrCmd_keeps ..)

theorem State.readSums_keeps (s : State) (st ch : Nat) (x : Seq) : Keeps s (State.readSums s st ch x).1 := by
  unfold State.readSums
  repeat' first
    | with_reducible exact Keeps.refl _
    | with_reducible apply Keeps.trans ?_ (State.readReg_keeps ..)
    | with_reducible refine Keeps.foldPair _ _ ?_ (fun _ _ => ?_)

theorem State.runSeq_keeps (s : State) (st ch : Nat) (p : Prod) (ma : Snap) (x : Seq) : Keeps s (State.runSeq s st ch p ma x).1 := by
  unfold State.runSeq
  repeat' first
    | with_reducible exact Keeps.refl _
    | with_reducible apply Keeps.trans ?_ (State.modChan_keeps ..)
    | with_reducible apply Keeps.trans ?_ (State.aclrCmd_keeps ..)
    | with_reducible apply Keeps.trans ?_ (State.sideVisits_keeps ..)
    | with_reducible apply Keeps.trans ?_ (State.weightVisit_keeps ..)
    | with_reducible apply Keeps.trans ?_ (State.readSums_keeps ..)
    | with_reducible refine Keeps.fold _ _ ?_ (fun _ _ => ?_)

theorem State.statBank_keeps (s : State) (st ch t b : Nat) : Keeps s (State.statBank s st ch t b).1 := by
  unfold State.statBank
  repeat' first
    | with_reducible exact Keeps.refl _
    | with_reducible apply Keeps.trans ?_ (State.bump_keeps ..)
    | with_reducible apply Keeps.trans ?_ (State.statCmd_keeps ..)
    | with_reducible apply Keeps.trans ?_ (State.addCnt_keeps ..)

theorem State.locate_keeps (s : State) (st ch t : Nat) (p : Prod) (flagged : List Cell) : Keeps s (State.searchBad s st ch t p flagged) := by
  unfold State.searchBad
  repeat' first
    | with_reducible exact Keeps.refl _
    | with_reducible apply Keeps.trans ?_ (State.loadUnit_keeps ..)
    | with_reducible apply Keeps.trans ?_ (State.reportBad_keeps ..)
    | with_reducible refine Keeps.foldPair _ _ ?_ (fun _ _ => ?_)
    | with_reducible refine Keeps.ite ?_ ?_
    | with_reducible refine Keeps.itePair ?_ ?_
    | dsimp only
    | split

theorem State.chanWork_keeps (s : State) (st ch t : Nat) (p : Prod) (ma : Snap) : Keeps s (State.chanWork s st ch t p ma).1 := by
  unfold State.chanWork
  repeat' first
    | with_reducible exact Keeps.refl _
    | with_reducible apply Keeps.trans ?_ (State.onBanks_keeps ..)
    | with_reducible apply Keeps.trans ?_ (State.passEndCmd_keeps ..)
    | with_reducible apply Keeps.trans ?_ (State.consume_keeps ..)
    | with_reducible apply Keeps.trans ?_ (State.runSeq_keeps ..)
    | with_reducible apply Keeps.trans ?_ (State.statBank_keeps ..)
    | with_reducible apply Keeps.trans ?_ (State.locate_keeps ..)
    | with_reducible refine Keeps.foldPair _ _ ?_ (fun _ _ => ?_)
    | with_reducible refine Keeps.ite ?_ ?_

theorem State.writeSums_keeps (s : State) (t : Nat) (k : Task) (p : Prod) (l : List RowSum) (g r : Nat) : Keeps s (State.writeSums s t k p l g r) := by
  unfold State.writeSums
  repeat' first
    | with_reducible exact Keeps.refl _
    | with_reducible apply Keeps.trans ?_ (State.addCnt_keeps ..)
    | with_reducible apply Keeps.trans ?_ (State.storeOut_keeps ..)

theorem State.bankWork_keeps (s : State) (st t : Nat) (k : Task) : Keeps s (State.bankWork s st t k) := by
  unfold State.bankWork
  repeat' first
    | with_reducible exact Keeps.refl _
    | with_reducible apply Keeps.trans ?_ (State.fetchViews_keeps ..)
    | with_reducible apply Keeps.trans ?_ (State.auditRun_keeps ..)
    | with_reducible apply Keeps.trans ?_ (State.chanWork_keeps ..)
    | with_reducible apply Keeps.trans ?_ (State.writeSums_keeps ..)
    | with_reducible refine Keeps.fold _ _ ?_ (fun _ _ => ?_)
    | with_reducible refine Keeps.foldPair _ _ ?_ (fun _ _ => ?_)
    | with_reducible refine Keeps.ite ?_ ?_
    | dsimp only
    | split
    | refine Keeps.trans ?_ (Keeps.pair (p := State.openProd _ _ _ _) (by assumption) (State.openProd_keeps ..))
    | fail_if_no_progress (with_reducible refine Keeps.mk ?_ rfl rfl rfl rfl rfl rfl)

theorem State.bankComplete_keeps (s : State) (st t : Nat) : Keeps s (State.bankComplete s st t) := by
  unfold State.bankComplete
  repeat' first
    | with_reducible exact Keeps.refl _
    | with_reducible apply Keeps.trans ?_ (State.send_keeps ..)
    | with_reducible apply Keeps.trans ?_ (State.leaveBank_keeps ..)
    | with_reducible apply Keeps.trans ?_ (State.injectOverrun_keeps ..)
    | with_reducible apply Keeps.trans ?_ (State.bankWork_keeps ..)
    | with_reducible refine Keeps.fold _ _ ?_ (fun _ _ => ?_)
    | with_reducible refine Keeps.ite ?_ ?_
    | dsimp only
    | split
    | fail_if_no_progress (with_reducible refine Keeps.mk ?_ rfl rfl rfl rfl rfl rfl)

theorem State.matmulRun_keeps (s : State) (t op : Nat) : Keeps s (State.matmulRun s t op) := by
  unfold State.matmulRun
  repeat' first
    | with_reducible exact Keeps.refl _
    | with_reducible apply Keeps.trans ?_ (State.runUnit_keeps _ _ _ _ (fun _ _ => ?_))
    | with_reducible apply Keeps.trans ?_ (State.productRun_keeps ..)
    | with_reducible apply Keeps.trans ?_ (State.bankComplete_keeps ..)
    | with_reducible refine Keeps.fold _ _ ?_ (fun _ _ => ?_)
    | with_reducible refine Keeps.ite ?_ ?_
    | split

end Sys2Proof.Machine
end

