-- ==== Sys2Proof/Laws/KeepsServe.lean ====
section
/-! SUPPORT. What the operations of Machine/Serve.lean keep. -/
namespace Sys2Proof.Machine

theorem State.putTrk_keeps (s : State) (x : Nat) (e : Trk) (report : Bool) : Keeps s (State.putTrk s x e report) := by
  unfold State.putTrk
  repeat' first
    | with_reducible exact Keeps.refl _
    | with_reducible apply Keeps.trans ?_ (State.mirrorOut_keeps ..)
    | dsimp only
    | fail_if_no_progress (with_reducible refine Keeps.mk ?_ rfl rfl rfl rfl rfl rfl)

theorem State.unreserve_keeps (s : State) (f : Nat) : Keeps s (State.unreserve s f) := by
  unfold State.unreserve
  repeat' first
    | with_reducible exact Keeps.refl _
    | with_reducible apply Keeps.trans ?_ (State.setFld_keeps ..)

theorem State.writeOut_keeps (s : State) (f : Nat) (ws : List Word) : Keeps s (State.writeOut s f ws) := by
  unfold State.writeOut
  repeat' first
    | with_reducible exact Keeps.refl _
    | with_reducible apply Keeps.trans ?_ (State.bump_keeps ..)
    | with_reducible apply Keeps.trans ?_ (State.send_keeps ..)
    | with_reducible apply Keeps.trans ?_ (State.writeBytes_keeps ..)
    | with_reducible refine Keeps.ite ?_ ?_
    | dsimp only
    | split
    | fail_if_no_progress (with_reducible refine Keeps.mk ?_ rfl rfl rfl rfl rfl rfl)

theorem State.outAcked_keeps (s : State) (f : Nat) : Keeps s (State.outAcked s f) := by
  unfold State.outAcked
  repeat' first
    | with_reducible exact Keeps.refl _
    | with_reducible apply Keeps.trans ?_ (State.setFld_keeps ..)
    | with_reducible apply Keeps.trans ?_ (State.unreserve_keeps ..)
    | with_reducible refine Keeps.ite ?_ ?_
    | dsimp only
    | fail_if_no_progress (with_reducible refine Keeps.mk ?_ rfl rfl rfl rfl rfl rfl)

theorem State.record_keeps (s : State) (x : Nat) (e : Trk) (kind cookie debit : Nat) (toks : List (BitVec 32)) : Keeps s (State.record s x e kind cookie debit toks) := by
  unfold State.record
  repeat' first
    | with_reducible exact Keeps.refl _
    | with_reducible apply Keeps.trans ?_ (State.writeOut_keeps ..)
    | with_reducible refine Keeps.ite ?_ ?_
    | dsimp only
    | fail_if_no_progress (with_reducible refine Keeps.mk ?_ rfl rfl rfl rfl rfl rfl)

theorem State.outCfg_keeps (s : State) (f : Nat) (v : Word) : Keeps s (State.outCfg s f v) := by
  unfold State.outCfg
  repeat' first
    | with_reducible exact Keeps.refl _
    | with_reducible apply Keeps.trans ?_ (State.setReg_keeps ..)
    | with_reducible apply Keeps.trans ?_ (State.setBit_keeps ..)
    | with_reducible refine Keeps.ite ?_ ?_

theorem State.setCust_keeps (s : State) (u : Nat) (c : Cust) : Keeps s (State.setCust s u c) := by
  unfold State.setCust
  repeat' first
    | with_reducible exact Keeps.refl _
    | dsimp only
    | fail_if_no_progress (with_reducible refine Keeps.mk ?_ rfl rfl rfl rfl rfl rfl)

theorem State.setThrottle_keeps (s : State) (f u : Nat) (b : Bool) : Keeps s (State.setThrottle s f u b) := by
  unfold State.setThrottle
  repeat' first
    | with_reducible exact Keeps.refl _
    | dsimp only
    | fail_if_no_progress (with_reducible refine Keeps.mk ?_ rfl rfl rfl rfl rfl rfl)

theorem State.debit_keeps (s : State) (u n : Nat) : Keeps s (State.debit s u n) := by
  unfold State.debit
  repeat' first
    | with_reducible exact Keeps.refl _
    | with_reducible apply Keeps.trans ?_ (State.send_keeps ..)
    | with_reducible apply Keeps.trans ?_ (State.setCust_keeps ..)
    | with_reducible refine Keeps.fold _ _ ?_ (fun _ _ => ?_)
    | with_reducible refine Keeps.ite ?_ ?_

theorem State.creditNow_keeps (s : State) (u : Nat) (m : Int) : Keeps s (State.creditNow s u m) := by
  unfold State.creditNow
  repeat' first
    | with_reducible exact Keeps.refl _
    | with_reducible apply Keeps.trans ?_ (State.send_keeps ..)
    | with_reducible apply Keeps.trans ?_ (State.setCust_keeps ..)
    | with_reducible refine Keeps.fold _ _ ?_ (fun _ _ => ?_)
    | with_reducible refine Keeps.ite ?_ ?_

theorem State.custNow_keeps (s : State) (u : Nat) (v : Word) : Keeps s (State.custNow s u v) := by
  unfold State.custNow
  repeat' first
    | with_reducible exact Keeps.refl _
    | with_reducible apply Keeps.trans ?_ (State.setCust_keeps ..)

theorem State.atBudget_keeps (s : State) (q : Fwd) : Keeps s (State.atBudget s q) := by
  unfold State.atBudget
  repeat' first
    | with_reducible exact Keeps.refl _
    | with_reducible apply Keeps.trans ?_ (State.creditNow_keeps ..)
    | with_reducible apply Keeps.trans ?_ (State.custNow_keeps ..)
    | split

theorem State.srvNext_keeps (s : State) (l : List Fwd) : Keeps s (State.srvNext s l) := by
  induction l generalizing s with
  | nil =>
    unfold State.srvNext
    repeat' first
      | with_reducible exact Keeps.refl _
      | dsimp only
      | fail_if_no_progress (with_reducible refine Keeps.mk ?_ rfl rfl rfl rfl rfl rfl)
  | cons r t ih =>
    unfold State.srvNext
    repeat' first
      | with_reducible exact Keeps.refl _
      | with_reducible apply Keeps.trans ?_ (ih _)
      | with_reducible apply Keeps.trans ?_ (State.send_keeps ..)
      | with_reducible apply Keeps.trans ?_ (State.atBudget_keeps ..)
      | with_reducible refine Keeps.ite ?_ ?_
      | dsimp only
      | fail_if_no_progress (with_reducible refine Keeps.mk ?_ rfl rfl rfl rfl rfl rfl)

theorem State.srvEnqueue_keeps (s : State) (q : Fwd) : Keeps s (State.srvEnqueue s q) := by
  unfold State.srvEnqueue
  repeat' first
    | with_reducible exact Keeps.refl _
    | with_reducible apply Keeps.trans ?_ (State.srvNext_keeps ..)
    | with_reducible refine Keeps.ite ?_ ?_
    | dsimp only
    | fail_if_no_progress (with_reducible refine Keeps.mk ?_ rfl rfl rfl rfl rfl rfl)

theorem State.partState_keeps (s : State) (p : Nat) (v : BitVec 3) : Keeps s (State.partState s p v) := by
  unfold State.partState
  repeat' first
    | with_reducible exact Keeps.refl _
    | with_reducible apply Keeps.trans ?_ (State.setBit_keeps ..)
    | with_reducible apply Keeps.trans ?_ (State.writeCfg_keeps ..)
    | with_reducible apply Keeps.trans ?_ (State.mirrorOut_keeps ..)
    | with_reducible refine Keeps.ite ?_ ?_

theorem State.partCfg_keeps (s : State) (p : Nat) (v : Word) : Keeps s (State.partCfg s p v) := by
  unfold State.partCfg
  repeat' first
    | with_reducible exact Keeps.refl _
    | with_reducible apply Keeps.trans ?_ (State.writeCfg_keeps ..)
    | with_reducible apply Keeps.trans ?_ (State.mirrorOut_keeps ..)

theorem State.partStop_keeps (s : State) (p : Nat) (v : Word) : Keeps s (State.partStop s p v) := by
  unfold State.partStop
  repeat' first
    | with_reducible exact Keeps.refl _
    | with_reducible apply Keeps.trans ?_ (State.writeCfg_keeps ..)
    | with_reducible apply Keeps.trans ?_ (State.mirrorOut_keeps ..)

theorem State.applyCopy_keeps (s : State) (f : Nat) (r : CfgReg) (i : Nat) (v : Word) : Keeps s (State.applyCopy s f r i v) := by
  unfold State.applyCopy
  repeat' first
    | with_reducible exact Keeps.refl _
    | with_reducible apply Keeps.trans ?_ (State.setCfg_keeps ..)
    | with_reducible refine Keeps.ite ?_ ?_
    | split

theorem State.progBytes_keeps (s : State) (t f q off n : Nat) : Keeps s (State.progBytes s t f q off n).1 := by
  unfold State.progBytes
  repeat' first
    | with_reducible exact Keeps.refl _
    | with_reducible apply Keeps.trans ?_ (State.fetchBytes_keeps ..)
    | with_reducible apply Keeps.trans ?_ (State.badRange_keeps ..)
    | dsimp only
    | split

theorem State.progState_keeps (s : State) (t f q x : Nat) : Keeps s (State.progState s t f q x).1 := by
  unfold State.progState
  repeat' first
    | with_reducible exact Keeps.refl _
    | with_reducible apply Keeps.trans ?_ (State.progBytes_keeps ..)
    | with_reducible refine Keeps.itePair ?_ ?_

theorem State.allowed_keeps (s : State) (t f q v x : Nat) (tok : Int) : Keeps s (State.allowed s t f q v x tok).1 := by
  unfold State.allowed
  repeat' first
    | with_reducible exact Keeps.refl _
    | with_reducible apply Keeps.trans ?_ (State.progBytes_keeps ..)
    | with_reducible refine Keeps.itePair ?_ ?_
    | dsimp only
    | split
    | refine Keeps.trans ?_ (Keeps.pair (p := State.progState _ _ _ _ _) (by assumption) (State.progState_keeps ..))

theorem State.nextState_keeps (s : State) (t f q x : Nat) (tok : Nat) : Keeps s (State.nextState s t f q x tok).1 := by
  unfold State.nextState
  repeat' first
    | with_reducible exact Keeps.refl _
    | with_reducible refine Keeps.itePair ?_ ?_
    | dsimp only
    | split
    | refine Keeps.trans ?_ (Keeps.pair (p := State.progState _ _ _ _ _) (by assumption) (State.progState_keeps ..))

theorem State.streamCtl_keeps (s : State) (x op : Nat) : Keeps s (State.streamCtl s x op) := by
  unfold State.streamCtl
  repeat' first
    | with_reducible exact Keeps.refl _
    | with_reducible apply Keeps.trans ?_ (State.setBit_keeps ..)
    | with_reducible apply Keeps.trans ?_ (State.srvEnqueue_keeps ..)
    | with_reducible refine Keeps.ite ?_ ?_

theorem State.openEntry_keeps (s : State) (x : Nat) (w : List Word) : Keeps s (State.openEntry s x w).1 := by
  unfold State.openEntry
  repeat' first
    | with_reducible exact Keeps.refl _
    | with_reducible apply Keeps.trans ?_ (State.putTrk_keeps ..)
    | with_reducible refine Keeps.itePair ?_ ?_

theorem State.dropResv_keeps (s : State) (x : Nat) (e : Trk) : Keeps s (State.dropResv s x e) := by
  unfold State.dropResv
  repeat' first
    | with_reducible exact Keeps.refl _
    | with_reducible apply Keeps.trans ?_ (State.unreserve_keeps ..)
    | with_reducible refine Keeps.ite ?_ ?_

theorem State.streamReq_keeps (s : State) (x op : Nat) (w : List Word) : Keeps s (State.streamReq s x op w).1 := by
  unfold State.streamReq
  repeat' first
    | with_reducible exact Keeps.refl _
    | with_reducible apply Keeps.trans ?_ (State.putTrk_keeps ..)
    | with_reducible apply Keeps.trans ?_ (State.openEntry_keeps ..)
    | with_reducible apply Keeps.trans ?_ (State.dropResv_keeps ..)
    | with_reducible refine Keeps.ite ?_ ?_
    | with_reducible refine Keeps.itePair ?_ ?_
    | dsimp only
    | split

theorem State.srvForwarded_keeps (s : State) (f : Nat) (q : Fwd) : Keeps s (State.srvForwarded s f q) := by
  unfold State.srvForwarded
  repeat' first
    | with_reducible exact Keeps.refl _
    | with_reducible apply Keeps.trans ?_ (State.send_keeps ..)
    | with_reducible apply Keeps.trans ?_ (State.atBudget_keeps ..)
    | with_reducible apply Keeps.trans ?_ (State.streamReq_keeps ..)
    | split

theorem State.forwarded_keeps (s : State) (f : Nat) (q : Fwd) : Keeps s (State.forwarded s f q) := by
  unfold State.forwarded
  repeat' first
    | with_reducible exact Keeps.refl _
    | with_reducible apply Keeps.trans ?_ (State.kvForwarded_keeps ..)
    | with_reducible apply Keeps.trans ?_ (State.applyCopy_keeps ..)
    | with_reducible apply Keeps.trans ?_ (State.srvForwarded_keeps ..)
    | split

theorem State.srvResult_keeps (s : State) (r : BitVec 3) : Keeps s (State.srvResult s r) := by
  unfold State.srvResult
  repeat' first
    | with_reducible exact Keeps.refl _
    | with_reducible apply Keeps.trans ?_ (State.setFld_keeps ..)
    | with_reducible apply Keeps.trans ?_ (State.srvNext_keeps ..)
    | dsimp only
    | split
    | fail_if_no_progress (with_reducible refine Keeps.mk ?_ rfl rfl rfl rfl rfl rfl)

theorem State.srvFail_keeps (s : State) (t reason : Nat) : Keeps s (State.srvFail s t reason) := by
  unfold State.srvFail
  repeat' first
    | with_reducible exact Keeps.refl _
    | with_reducible apply Keeps.trans ?_ (State.modTask_keeps ..)

theorem State.onStream_keeps (s : State) (t op : Nat) (f : State → Task → Trk → State) (hf : ∀ (a0 : State) (a1 : Task) (a2 : Trk), Keeps a0 (f a0 a1 a2)) : Keeps s (State.onStream s t op f) := by
  unfold State.onStream
  repeat' first
    | with_reducible exact Keeps.refl _
    | with_reducible apply Keeps.trans ?_ (hf _ _ _)
    | with_reducible apply Keeps.trans ?_ (State.runUnit_keeps _ _ _ _ (fun _ _ => ?_))
    | with_reducible apply Keeps.trans ?_ (State.srvFail_keeps ..)
    | split

theorem State.beginStep_keeps (s : State) (t : Nat) (k : Task) (e : Trk) : Keeps s (State.beginStep s t k e) := by
  unfold State.beginStep
  repeat' first
    | with_reducible exact Keeps.refl _
    | with_reducible apply Keeps.trans ?_ (State.setFld_keeps ..)
    | with_reducible apply Keeps.trans ?_ (State.bump_keeps ..)
    | with_reducible apply Keeps.trans ?_ (State.putTrk_keeps ..)
    | with_reducible apply Keeps.trans ?_ (State.srvFail_keeps ..)
    | dsimp only
    | split

theorem State.emitTok_keeps (s : State) (t f v q : Nat) (stops : Word) (base maxLen : Nat) (a : EmitSt) (tok : Int) : Keeps s (State.emitTok s t f v q stops base maxLen a tok).1 := by
  unfold State.emitTok
  repeat' first
    | with_reducible exact Keeps.refl _
    | with_reducible apply Keeps.trans ?_ (State.nextState_keeps ..)
    | with_reducible refine Keeps.itePair ?_ ?_
    | dsimp only
    | split
    | refine Keeps.trans ?_ (Keeps.pair (p := State.allowed _ _ _ _ _ _ _) (by assumption) (State.allowed_keeps ..))

theorem State.readInts_keeps (s : State) (t : Nat) (k : Task) (pos : Nat) : Keeps s (State.readInts s t k pos).1 := by
  unfold State.readInts
  repeat' first
    | with_reducible exact Keeps.refl _
    | with_reducible apply Keeps.trans ?_ (State.fetchViews_keeps ..)
    | with_reducible refine Keeps.itePair ?_ ?_
    | dsimp only
    | split
    | refine Keeps.trans ?_ (Keeps.pair (p := State.openOpnd _ _ _ _ _) (by assumption) (State.openOpnd_keeps ..))

theorem State.emission_keeps (s : State) (t : Nat) (k : Task) (e : Trk) (verify : Bool) : Keeps s (State.emission s t k e verify) := by
  unfold State.emission
  repeat' first
    | with_reducible exact Keeps.refl _
    | with_reducible apply Keeps.trans ?_ (State.modTask_keeps ..)
    | with_reducible apply Keeps.trans ?_ (State.srvFail_keeps ..)
    | with_reducible apply Keeps.trans ?_ (State.emitTok_keeps ..)
    | with_reducible refine Keeps.foldPair _ _ ?_ (fun _ _ => ?_)
    | with_reducible refine Keeps.ite ?_ ?_
    | dsimp only
    | split
    | refine Keeps.trans ?_ (Keeps.pair (p := State.readInts _ _ _ _) (by assumption) (State.readInts_keeps ..))

theorem State.maskRow_keeps (s : State) (t f q v : Nat) (x : Option Nat) : Keeps s (State.maskRow s t f q v x).1 := by
  unfold State.maskRow
  repeat' first
    | with_reducible exact Keeps.refl _
    | with_reducible apply Keeps.trans ?_ (State.progBytes_keeps ..)
    | with_reducible refine Keeps.itePair ?_ ?_
    | dsimp only
    | split
    | refine Keeps.trans ?_ (Keeps.pair (p := State.progState _ _ _ _ _) (by assumption) (State.progState_keeps ..))

theorem State.maskStates_keeps (s : State) (t f q v : Nat) (x : Option Nat) (l : List Int) :
    Keeps s (State.maskStates s t f q v x l).1 := by
  induction l generalizing s x with
  | nil => cases x <;> (unfold State.maskStates; exact Keeps.refl _)
  | cons a l ih =>
    cases x with
    | none => unfold State.maskStates; exact ih s none
    | some x =>
      unfold State.maskStates
      split
      · rename_i u h
        exact (Keeps.pair h (State.allowed_keeps ..)).trans (ih u none)
      · rename_i u h
        refine (Keeps.pair h (State.allowed_keeps ..)).trans ?_
        exact (State.nextState_keeps ..).trans (ih _ _)

theorem State.smaskRun_keeps (s : State) (t : Nat) (k : Task) (e : Trk) : Keeps s (State.smaskRun s t k e) := by
  unfold State.smaskRun
  repeat' first
    | with_reducible exact Keeps.refl _
    | with_reducible apply Keeps.trans ?_ (State.modTask_keeps ..)
    | with_reducible apply Keeps.trans ?_ (State.landOut_keeps ..)
    | with_reducible apply Keeps.trans ?_ (State.maskRow_keeps ..)
    | with_reducible apply Keeps.trans ?_ (State.maskStates_keeps ..)
    | with_reducible refine Keeps.fold _ _ ?_ (fun _ _ => ?_)
    | with_reducible refine Keeps.ite ?_ ?_
    | dsimp only
    | split
    | refine Keeps.trans ?_ (Keeps.pair (p := State.openOpnd _ _ _ _ _) (by assumption) (State.openOpnd_keeps ..))
    | refine Keeps.trans ?_ (Keeps.pair (p := State.readInts _ _ _ _) (by assumption) (State.readInts_keeps ..))

theorem State.reportTrk_keeps (s : State) (r : Emission) : Keeps s (State.reportTrk s r) := by
  unfold State.reportTrk
  repeat' first
    | with_reducible exact Keeps.refl _
    | with_reducible apply Keeps.trans ?_ (State.bump_keeps ..)
    | with_reducible apply Keeps.trans ?_ (State.send_keeps ..)
    | with_reducible apply Keeps.trans ?_ (State.putTrk_keeps ..)
    | with_reducible apply Keeps.trans ?_ (State.record_keeps ..)
    | with_reducible refine Keeps.ite ?_ ?_

end Sys2Proof.Machine
end

