-- ==== Sys2Proof/Laws/KeepsLinkOps.lean ====
section
/-! SUPPORT. What the operations of Machine/LinkOps.lean keep. -/
namespace Sys2Proof.Machine

theorem State.setLinkState_keeps (s : State) (l v : Nat) : Keeps s (State.setLinkState s l v) := by
  unfold State.setLinkState
  repeat' first
    | with_reducible exact Keeps.refl _
    | with_reducible apply Keeps.trans ?_ (State.setFld_keeps ..)

theorem State.flitIn_keeps (s : State) (l n : Nat) : Keeps s (State.flitIn s l n) := by
  unfold State.flitIn
  repeat' first
    | with_reducible exact Keeps.refl _
    | with_reducible apply Keeps.trans ?_ (State.bump_keeps ..)
    | with_reducible apply Keeps.trans ?_ (State.bumpFree_keeps ..)
    | with_reducible apply Keeps.trans ?_ (State.draw_keeps ..)
    | with_reducible apply Keeps.trans ?_ (State.setLink_keeps ..)

theorem State.endRemote_keeps (s : State) (r : Remote) : Keeps s (State.endRemote s r) := by
  unfold State.endRemote
  repeat' first
    | with_reducible exact Keeps.refl _
    | with_reducible apply Keeps.trans ?_ (State.bump_keeps ..)
    | with_reducible apply Keeps.trans ?_ (State.noAnswerTask_keeps ..)
    | with_reducible apply Keeps.trans ?_ (State.writeAcked_keeps ..)
    | dsimp only
    | split
    | fail_if_no_progress (with_reducible refine Keeps.mk ?_ rfl rfl rfl rfl rfl rfl)

theorem State.endRings_keeps (s : State) (dev iod : Nat) : Keeps s (State.endRings s dev iod) := by
  unfold State.endRings
  repeat' first
    | with_reducible exact Keeps.refl _
    | with_reducible apply Keeps.trans ?_ (State.modTask_keeps ..)
    | with_reducible apply Keeps.trans ?_ (State.sendDone_keeps ..)
    | with_reducible refine Keeps.fold _ _ ?_ (fun _ _ => ?_)

theorem State.leaveUp_keeps (s : State) (l next : Nat) : Keeps s (State.leaveUp s l next) := by
  unfold State.leaveUp
  repeat' first
    | with_reducible exact Keeps.refl _
    | with_reducible apply Keeps.trans ?_ (State.setBit_keeps ..)
    | with_reducible apply Keeps.trans ?_ (State.setLinkState_keeps ..)
    | with_reducible apply Keeps.trans ?_ (State.endRemote_keeps ..)
    | with_reducible apply Keeps.trans ?_ (State.endRings_keeps ..)
    | with_reducible refine Keeps.fold _ _ ?_ (fun _ _ => ?_)
    | with_reducible refine Keeps.ite ?_ ?_
    | dsimp only
    | split
    | fail_if_no_progress (with_reducible refine Keeps.mk ?_ rfl rfl rfl rfl rfl rfl)

theorem State.portLost_keeps (s : State) (l : Nat) : Keeps s (State.portLost s l) := by
  unfold State.portLost
  repeat' first
    | with_reducible exact Keeps.refl _
    | with_reducible apply Keeps.trans ?_ (State.setBit_keeps ..)
    | with_reducible refine Keeps.ite ?_ ?_

theorem State.linkFail_keeps (s : State) (l : Nat) : Keeps s (State.linkFail s l) := by
  unfold State.linkFail
  repeat' first
    | with_reducible exact Keeps.refl _
    | with_reducible apply Keeps.trans ?_ (State.setFld_keeps ..)
    | with_reducible apply Keeps.trans ?_ (State.setBit_keeps ..)
    | with_reducible apply Keeps.trans ?_ (State.setLink_keeps ..)
    | with_reducible apply Keeps.trans ?_ (State.leaveUp_keeps ..)
    | with_reducible apply Keeps.trans ?_ (State.portLost_keeps ..)
    | with_reducible refine Keeps.ite ?_ ?_

theorem State.train_keeps (s : State) (l : Nat) : Keeps s (State.train s l) := by
  unfold State.train
  repeat' first
    | with_reducible exact Keeps.refl _
    | with_reducible apply Keeps.trans ?_ (State.setFld_keeps ..)
    | with_reducible apply Keeps.trans ?_ (State.setLink_keeps ..)
    | with_reducible apply Keeps.trans ?_ (State.leaveUp_keeps ..)
    | with_reducible apply Keeps.trans ?_ (State.portLost_keeps ..)
    | with_reducible refine Keeps.ite ?_ ?_

theorem State.idleExit_keeps (s : State) (l : Nat) : Keeps s (State.idleExit s l) := by
  unfold State.idleExit
  repeat' first
    | with_reducible exact Keeps.refl _
    | with_reducible apply Keeps.trans ?_ (State.train_keeps ..)
    | with_reducible refine Keeps.ite ?_ ?_

theorem State.retrainNow_keeps (s : State) (l : Nat) : Keeps s (State.retrainNow s l) := by
  unfold State.retrainNow
  repeat' first
    | with_reducible exact Keeps.refl _
    | with_reducible apply Keeps.trans ?_ (State.setFld_keeps ..)
    | with_reducible apply Keeps.trans ?_ (State.setBit_keeps ..)
    | with_reducible apply Keeps.trans ?_ (State.train_keeps ..)
    | with_reducible refine Keeps.ite ?_ ?_

theorem State.stepDone_keeps (s : State) (l : Nat) : Keeps s (State.stepDone s l) := by
  unfold State.stepDone
  repeat' first
    | with_reducible exact Keeps.refl _
    | with_reducible apply Keeps.trans ?_ (State.setFld_keeps ..)
    | with_reducible apply Keeps.trans ?_ (State.setLink_keeps ..)
    | with_reducible apply Keeps.trans ?_ (State.sendFlit_keeps ..)
    | with_reducible apply Keeps.trans ?_ (State.setLinkState_keeps ..)
    | with_reducible refine Keeps.ite ?_ ?_

theorem State.stepMissed_keeps (s : State) (l : Nat) : Keeps s (State.stepMissed s l) := by
  unfold State.stepMissed
  repeat' first
    | with_reducible exact Keeps.refl _
    | with_reducible apply Keeps.trans ?_ (State.linkFail_keeps ..)
    | with_reducible refine Keeps.ite ?_ ?_

theorem State.retrainTimer_keeps (s : State) (l : Nat) : Keeps s (State.retrainTimer s l) := by
  unfold State.retrainTimer
  repeat' first
    | with_reducible exact Keeps.refl _
    | with_reducible apply Keeps.trans ?_ (State.setFld_keeps ..)
    | with_reducible apply Keeps.trans ?_ (State.setLink_keeps ..)
    | with_reducible apply Keeps.trans ?_ (State.setLinkState_keeps ..)
    | with_reducible apply Keeps.trans ?_ (State.train_keeps ..)
    | with_reducible refine Keeps.ite ?_ ?_

theorem State.badFlit_keeps (s : State) (l : Nat) (seq : BitVec 10) : Keeps s (State.badFlit s l seq) := by
  unfold State.badFlit
  repeat' first
    | with_reducible exact Keeps.refl _
    | with_reducible apply Keeps.trans ?_ (State.bump_keeps ..)
    | with_reducible apply Keeps.trans ?_ (State.trace_keeps ..)
    | with_reducible apply Keeps.trans ?_ (State.setLink_keeps ..)
    | with_reducible apply Keeps.trans ?_ (State.linkFail_keeps ..)
    | with_reducible refine Keeps.ite ?_ ?_

theorem State.nakIn_keeps (s : State) (l : Nat) (seq : BitVec 10) : Keeps s (State.nakIn s l seq) := by
  unfold State.nakIn
  repeat' first
    | with_reducible exact Keeps.refl _
    | with_reducible apply Keeps.trans ?_ (State.setLink_keeps ..)
    | with_reducible apply Keeps.trans ?_ (State.linkFail_keeps ..)
    | with_reducible refine Keeps.ite ?_ ?_

theorem State.rxTimeout_keeps (s : State) (l : Nat) : Keeps s (State.rxTimeout s l) := by
  unfold State.rxTimeout
  repeat' first
    | with_reducible exact Keeps.refl _
    | with_reducible apply Keeps.trans ?_ (State.linkFail_keeps ..)
    | with_reducible refine Keeps.ite ?_ ?_

theorem State.identIn_keeps (s : State) (l dev index : Nat) (mirror : Bool) (digest : Word) : Keeps s (State.identIn s l dev index mirror digest) := by
  unfold State.identIn
  repeat' first
    | with_reducible exact Keeps.refl _
    | with_reducible apply Keeps.trans ?_ (State.setFld_keeps ..)
    | with_reducible apply Keeps.trans ?_ (State.setBit_keeps ..)
    | with_reducible apply Keeps.trans ?_ (State.setLink_keeps ..)
    | with_reducible apply Keeps.trans ?_ (State.setLinkState_keeps ..)
    | with_reducible apply Keeps.trans ?_ (State.flitIn_keeps ..)
    | with_reducible refine Keeps.ite ?_ ?_

theorem State.linkEnable_keeps (s : State) (l : Nat) (on : Bool) : Keeps s (State.linkEnable s l on) := by
  unfold State.linkEnable
  repeat' first
    | with_reducible exact Keeps.refl _
    | with_reducible apply Keeps.trans ?_ (State.setFld_keeps ..)
    | with_reducible apply Keeps.trans ?_ (State.setBit_keeps ..)
    | with_reducible apply Keeps.trans ?_ (State.setLink_keeps ..)
    | with_reducible apply Keeps.trans ?_ (State.leaveUp_keeps ..)
    | with_reducible apply Keeps.trans ?_ (State.portLost_keeps ..)
    | with_reducible refine Keeps.ite ?_ ?_

theorem State.linkInj_keeps (s : State) (l : Nat) (v : Word) : Keeps s (State.linkInj s l v) := by
  unfold State.linkInj
  repeat' first
    | with_reducible exact Keeps.refl _
    | with_reducible apply Keeps.trans ?_ (State.setReg_keeps ..)

theorem State.remoteIn_keeps (s : State) (l : Nat) (r : RemoteReq) : Keeps s (State.remoteIn s l r) := by
  unfold State.remoteIn
  repeat' first
    | with_reducible exact Keeps.refl _
    | with_reducible apply Keeps.trans ?_ (State.request_keeps ..)
    | with_reducible apply Keeps.trans ?_ (State.flitIn_keeps ..)
    | with_reducible refine Keeps.ite ?_ ?_
    | dsimp only
    | fail_if_no_progress (with_reducible refine Keeps.mk ?_ rfl rfl rfl rfl rfl rfl)

theorem State.coreLink_keeps (s : State) (ls : List Nat) (a : Nat) : Keeps s (State.coreLink s ls a).1 := by
  unfold State.coreLink
  repeat' first
    | with_reducible exact Keeps.refl _
    | with_reducible apply Keeps.trans ?_ (State.pickLink_keeps ..)
    | dsimp only
    | split

theorem State.coreSend_keeps (s : State) (r : Remote) : Keeps s (State.coreSend s r) := by
  unfold State.coreSend
  repeat' first
    | with_reducible exact Keeps.refl _
    | with_reducible apply Keeps.trans ?_ (State.sendPeer_keeps ..)
    | with_reducible apply Keeps.trans ?_ (State.coreLink_keeps ..)
    | with_reducible refine Keeps.ite ?_ ?_
    | dsimp only
    | fail_if_no_progress (with_reducible refine Keeps.mk ?_ rfl rfl rfl rfl rfl rfl)

theorem State.sendWaiting_keeps (s : State) : Keeps s (State.sendWaiting s) := by
  unfold State.sendWaiting
  repeat' first
    | with_reducible exact Keeps.refl _
    | with_reducible apply Keeps.trans ?_ (State.coreSend_keeps ..)
    | with_reducible refine Keeps.fold _ _ ?_ (fun _ _ => ?_)
    | dsimp only
    | fail_if_no_progress (with_reducible refine Keeps.mk ?_ rfl rfl rfl rfl rfl rfl)

theorem State.peerCounts_keeps (s : State) (t sat : Nat) (bad : Bool) : Keeps s (State.peerCounts s t sat bad) := by
  unfold State.peerCounts
  repeat' first
    | with_reducible exact Keeps.refl _
    | with_reducible apply Keeps.trans ?_ (State.modTask_keeps ..)
    | with_reducible apply Keeps.trans ?_ (State.consume_keeps ..)
    | with_reducible refine Keeps.ite ?_ ?_

theorem State.remoteBack_keeps (s : State) (l tag : Nat) (refused : Bool) (sat : Nat) (bad : Bool) : Keeps s (State.remoteBack s l tag refused sat bad) := by
  unfold State.remoteBack
  repeat' first
    | with_reducible exact Keeps.refl _
    | with_reducible apply Keeps.trans ?_ (State.setLink_keeps ..)
    | with_reducible apply Keeps.trans ?_ (State.shardAcked_keeps ..)
    | with_reducible apply Keeps.trans ?_ (State.writeAcked_keeps ..)
    | with_reducible apply Keeps.trans ?_ (State.flitIn_keeps ..)
    | with_reducible apply Keeps.trans ?_ (State.endRemote_keeps ..)
    | with_reducible apply Keeps.trans ?_ (State.sendWaiting_keeps ..)
    | with_reducible apply Keeps.trans ?_ (State.peerCounts_keeps ..)
    | with_reducible refine Keeps.ite ?_ ?_
    | dsimp only
    | split
    | fail_if_no_progress (with_reducible refine Keeps.mk ?_ rfl rfl rfl rfl rfl rfl)

end Sys2Proof.Machine
end

