-- ==== Sys2Proof/Laws/KeepsMirror.lean ====
section
/-! SUPPORT. What the operations of Machine/Mirror.lean keep. -/
namespace Sys2Proof.Machine

theorem State.setPair_keeps (s : State) (v : Nat) : Keeps s (State.setPair s v) := by
  unfold State.setPair
  repeat' first
    | with_reducible exact Keeps.refl _
    | with_reducible apply Keeps.trans ?_ (State.setFld_keeps ..)

theorem State.markMirrored_keeps (s : State) (b : Bool) : Keeps s (State.markMirrored s b) := by
  unfold State.markMirrored
  repeat' first
    | with_reducible exact Keeps.refl _
    | with_reducible apply Keeps.trans ?_ (State.forceCfg_keeps ..)
    | with_reducible refine Keeps.fold _ _ ?_ (fun _ _ => ?_)

theorem State.freeRecords_keeps (s : State) : Keeps s (State.freeRecords s) := by
  unfold State.freeRecords
  repeat' first
    | with_reducible exact Keeps.refl _
    | with_reducible apply Keeps.trans ?_ (State.writeOut_keeps ..)
    | with_reducible refine Keeps.fold _ _ ?_ (fun _ _ => ?_)
    | dsimp only
    | fail_if_no_progress (with_reducible refine Keeps.mk ?_ rfl rfl rfl rfl rfl rfl)

theorem State.unmirror_keeps (s : State) : Keeps s (State.unmirror s) := by
  unfold State.unmirror
  repeat' first
    | with_reducible exact Keeps.refl _
    | with_reducible apply Keeps.trans ?_ (State.markMirrored_keeps ..)
    | with_reducible apply Keeps.trans ?_ (State.freeRecords_keeps ..)

theorem State.rowEntry_keeps (s : State) (f x i : Nat) : Keeps s (State.rowEntry s f x i).1 := by
  unfold State.rowEntry
  repeat' first
    | with_reducible exact Keeps.refl _
    | with_reducible apply Keeps.trans ?_ (State.bump_keeps ..)
    | with_reducible apply Keeps.trans ?_ (State.recPut_keeps ..)
    | with_reducible apply Keeps.trans ?_ (State.recGet_keeps ..)
    | with_reducible apply Keeps.trans ?_ (State.pteGet_keeps ..)
    | with_reducible apply Keeps.trans ?_ (State.ptePut_keeps ..)
    | with_reducible refine Keeps.itePair ?_ ?_
    | dsimp only
    | split
    | refine Keeps.trans ?_ (Keeps.pair (p := State.takeFrame _ _ _ _) (by assumption) (State.takeFrame_keeps ..))

theorem State.rowsIn_keeps (s : State) (x pos count layer : Nat) (data : List Byte) (bad : List Nat) : Keeps s (State.rowsIn s x pos count layer data bad) := by
  unfold State.rowsIn
  repeat' first
    | with_reducible exact Keeps.refl _
    | with_reducible apply Keeps.trans ?_ (State.bump_keeps ..)
    | with_reducible apply Keeps.trans ?_ (State.landOut_keeps ..)
    | with_reducible apply Keeps.trans ?_ (State.recGet_keeps ..)
    | with_reducible apply Keeps.trans ?_ (State.setCommitted_keeps ..)
    | with_reducible refine Keeps.foldPair _ _ ?_ (fun _ _ => ?_)
    | with_reducible refine Keeps.ite ?_ ?_
    | dsimp only
    | split
    | refine Keeps.trans ?_ (Keeps.pair (p := State.rowEntry _ _ _ _) (by assumption) (State.rowEntry_keeps ..))
    | fail_if_no_progress (with_reducible refine Keeps.mk ?_ rfl rfl rfl rfl rfl rfl)

theorem State.ackReport_keeps (s : State) (m : MirrorMsg) : Keeps s (State.ackReport s m) := by
  unfold State.ackReport
  repeat' first
    | with_reducible exact Keeps.refl _
    | dsimp only
    | split
    | fail_if_no_progress (with_reducible refine Keeps.mk ?_ rfl rfl rfl rfl rfl rfl)

theorem State.applyMsg_keeps (s : State) (m : MirrorMsg) : Keeps s (State.applyMsg s m) := by
  unfold State.applyMsg
  repeat' first
    | with_reducible exact Keeps.refl _
    | with_reducible apply Keeps.trans ?_ (State.setReg_keeps ..)
    | with_reducible apply Keeps.trans ?_ (State.writeCfg_keeps ..)
    | with_reducible apply Keeps.trans ?_ (State.recOpen_keeps ..)
    | with_reducible apply Keeps.trans ?_ (State.recClose_keeps ..)
    | with_reducible apply Keeps.trans ?_ (State.setFmt_keeps ..)
    | with_reducible apply Keeps.trans ?_ (State.putTrk_keeps ..)
    | with_reducible apply Keeps.trans ?_ (State.rowsIn_keeps ..)
    | with_reducible apply Keeps.trans ?_ (State.ackReport_keeps ..)
    | with_reducible refine Keeps.fold _ _ ?_ (fun _ _ => ?_)
    | dsimp only
    | split
    | fail_if_no_progress (with_reducible refine Keeps.mk ?_ rfl rfl rfl rfl rfl rfl)

theorem State.mirrorIn_keeps (s : State) (port : Nat) (m : MirrorMsg) : Keeps s (State.mirrorIn s port m) := by
  unfold State.mirrorIn
  repeat' first
    | with_reducible exact Keeps.refl _
    | with_reducible apply Keeps.trans ?_ (State.setFld_keeps ..)
    | with_reducible apply Keeps.trans ?_ (State.flitIn_keeps ..)
    | with_reducible apply Keeps.trans ?_ (State.ackReport_keeps ..)
    | with_reducible apply Keeps.trans ?_ (State.applyMsg_keeps ..)
    | with_reducible refine Keeps.ite ?_ ?_
    | dsimp only
    | split
    | fail_if_no_progress (with_reducible refine Keeps.mk ?_ rfl rfl rfl rfl rfl rfl)

theorem State.mirrorAcked_keeps (s : State) (x : Nat) : Keeps s (State.mirrorAcked s x) := by
  unfold State.mirrorAcked
  repeat' first
    | with_reducible exact Keeps.refl _
    | with_reducible apply Keeps.trans ?_ (State.writeOut_keeps ..)
    | dsimp only
    | split
    | fail_if_no_progress (with_reducible refine Keeps.mk ?_ rfl rfl rfl rfl rfl rfl)

theorem State.takePart_keeps (s : State) (p : Nat) : Keeps s (State.takePart s p) := by
  unfold State.takePart
  repeat' first
    | with_reducible exact Keeps.refl _
    | with_reducible apply Keeps.trans ?_ (State.setPstate_keeps ..)
    | dsimp only
    | fail_if_no_progress (with_reducible refine Keeps.mk ?_ rfl rfl rfl rfl rfl rfl)

theorem State.takeover_keeps (s : State) : Keeps s (State.takeover s) := by
  unfold State.takeover
  repeat' first
    | with_reducible exact Keeps.refl _
    | with_reducible apply Keeps.trans ?_ (State.setPair_keeps ..)
    | with_reducible apply Keeps.trans ?_ (State.takePart_keeps ..)
    | with_reducible refine Keeps.fold _ _ ?_ (fun _ _ => ?_)
    | dsimp only
    | fail_if_no_progress (with_reducible refine Keeps.mk ?_ rfl rfl rfl rfl rfl rfl)

theorem State.partnerLost_keeps (s : State) : Keeps s (State.partnerLost s) := by
  unfold State.partnerLost
  repeat' first
    | with_reducible exact Keeps.refl _
    | with_reducible apply Keeps.trans ?_ (State.setBit_keeps ..)
    | with_reducible apply Keeps.trans ?_ (State.setPair_keeps ..)
    | with_reducible apply Keeps.trans ?_ (State.unmirror_keeps ..)
    | with_reducible apply Keeps.trans ?_ (State.applyMsg_keeps ..)
    | with_reducible apply Keeps.trans ?_ (State.takeover_keeps ..)
    | with_reducible refine Keeps.fold _ _ ?_ (fun _ _ => ?_)
    | with_reducible refine Keeps.ite ?_ ?_
    | dsimp only
    | fail_if_no_progress (with_reducible refine Keeps.mk ?_ rfl rfl rfl rfl rfl rfl)

theorem State.mirrorBroken_keeps (s : State) : Keeps s (State.mirrorBroken s) := by
  unfold State.mirrorBroken
  repeat' first
    | with_reducible exact Keeps.refl _
    | with_reducible apply Keeps.trans ?_ (State.setBit_keeps ..)
    | with_reducible apply Keeps.trans ?_ (State.setPair_keeps ..)
    | with_reducible apply Keeps.trans ?_ (State.unmirror_keeps ..)
    | dsimp only
    | fail_if_no_progress (with_reducible refine Keeps.mk ?_ rfl rfl rfl rfl rfl rfl)

theorem State.bothSilent_keeps (s : State) : Keeps s (State.bothSilent s) := by
  unfold State.bothSilent
  repeat' first
    | with_reducible exact Keeps.refl _
    | with_reducible apply Keeps.trans ?_ (State.partnerLost_keeps ..)
    | with_reducible apply Keeps.trans ?_ (State.mirrorBroken_keeps ..)
    | with_reducible refine Keeps.ite ?_ ?_

theorem State.sendBeats_keeps (s : State) : Keeps s (State.sendBeats s) := by
  unfold State.sendBeats
  repeat' first
    | with_reducible exact Keeps.refl _
    | with_reducible apply Keeps.trans ?_ (State.sendFlit_keeps ..)
    | with_reducible refine Keeps.fold _ _ ?_ (fun _ _ => ?_)
    | with_reducible refine Keeps.ite ?_ ?_
    | dsimp only
    | fail_if_no_progress (with_reducible refine Keeps.mk ?_ rfl rfl rfl rfl rfl rfl)

theorem State.beatMissed_keeps (s : State) (m : Nat) : Keeps s (State.beatMissed s m) := by
  unfold State.beatMissed
  repeat' first
    | with_reducible exact Keeps.refl _
    | with_reducible apply Keeps.trans ?_ (State.setFld_keeps ..)
    | with_reducible apply Keeps.trans ?_ (State.setBit_keeps ..)
    | with_reducible apply Keeps.trans ?_ (State.bothSilent_keeps ..)
    | with_reducible refine Keeps.ite ?_ ?_

theorem State.gp3Beat_keeps (s : State) : Keeps s (State.gp3Beat s) := by
  unfold State.gp3Beat
  repeat' first
    | with_reducible exact Keeps.refl _
    | with_reducible refine Keeps.ite ?_ ?_
    | dsimp only
    | fail_if_no_progress (with_reducible refine Keeps.mk ?_ rfl rfl rfl rfl rfl rfl)

theorem State.hbToggle_keeps (s : State) : Keeps s (State.hbToggle s) := by
  unfold State.hbToggle
  repeat' first
    | with_reducible exact Keeps.refl _
    | with_reducible apply Keeps.trans ?_ (State.setBit_keeps ..)
    | with_reducible apply Keeps.trans ?_ (State.bothSilent_keeps ..)
    | with_reducible refine Keeps.ite ?_ ?_
    | dsimp only
    | fail_if_no_progress (with_reducible refine Keeps.mk ?_ rfl rfl rfl rfl rfl rfl)

theorem State.hbMissed_keeps (s : State) : Keeps s (State.hbMissed s) := by
  unfold State.hbMissed
  repeat' first
    | with_reducible exact Keeps.refl _
    | with_reducible apply Keeps.trans ?_ (State.setBit_keeps ..)
    | with_reducible apply Keeps.trans ?_ (State.bothSilent_keeps ..)
    | with_reducible refine Keeps.ite ?_ ?_
    | dsimp only
    | fail_if_no_progress (with_reducible refine Keeps.mk ?_ rfl rfl rfl rfl rfl rfl)

theorem State.confirmNow_keeps (s : State) : Keeps s (State.confirmNow s) := by
  unfold State.confirmNow
  repeat' first
    | with_reducible exact Keeps.refl _
    | with_reducible apply Keeps.trans ?_ (State.setBit_keeps ..)
    | with_reducible apply Keeps.trans ?_ (State.takeover_keeps ..)
    | with_reducible refine Keeps.ite ?_ ?_

theorem State.sendCopy_keeps (s : State) (x : Nat) : Keeps s (State.sendCopy s x) := by
  unfold State.sendCopy
  repeat' first
    | with_reducible exact Keeps.refl _
    | with_reducible apply Keeps.trans ?_ (State.recGet_keeps ..)
    | with_reducible apply Keeps.trans ?_ (State.peekBytes_keeps ..)
    | with_reducible apply Keeps.trans ?_ (State.rowAddrs_keeps ..)
    | with_reducible refine Keeps.fold _ _ ?_ (fun _ _ => ?_)
    | with_reducible refine Keeps.foldPair _ _ ?_ (fun _ _ => ?_)
    | with_reducible refine Keeps.ite ?_ ?_
    | dsimp only
    | split
    | fail_if_no_progress (with_reducible refine Keeps.mk ?_ rfl rfl rfl rfl rfl rfl)

theorem State.nextCopy_keeps (s : State) : Keeps s (State.nextCopy s) := by
  unfold State.nextCopy
  repeat' first
    | with_reducible exact Keeps.refl _
    | with_reducible apply Keeps.trans ?_ (State.setFld_keeps ..)
    | with_reducible apply Keeps.trans ?_ (State.draw_keeps ..)
    | with_reducible apply Keeps.trans ?_ (State.setPair_keeps ..)
    | with_reducible apply Keeps.trans ?_ (State.sendCopy_keeps ..)
    | with_reducible refine Keeps.ite ?_ ?_
    | dsimp only
    | split
    | fail_if_no_progress (with_reducible refine Keeps.mk ?_ rfl rfl rfl rfl rfl rfl)

theorem State.startCopy_keeps (s : State) : Keeps s (State.startCopy s) := by
  unfold State.startCopy
  repeat' first
    | with_reducible exact Keeps.refl _
    | with_reducible apply Keeps.trans ?_ (State.setPair_keeps ..)
    | with_reducible apply Keeps.trans ?_ (State.markMirrored_keeps ..)
    | with_reducible apply Keeps.trans ?_ (State.nextCopy_keeps ..)
    | with_reducible refine Keeps.ite ?_ ?_

theorem State.beatIn_keeps (s : State) (m : Nat) : Keeps s (State.beatIn s m) := by
  unfold State.beatIn
  repeat' first
    | with_reducible exact Keeps.refl _
    | with_reducible apply Keeps.trans ?_ (State.setFld_keeps ..)
    | with_reducible apply Keeps.trans ?_ (State.setBit_keeps ..)
    | with_reducible apply Keeps.trans ?_ (State.flitIn_keeps ..)
    | with_reducible apply Keeps.trans ?_ (State.startCopy_keeps ..)
    | with_reducible refine Keeps.ite ?_ ?_

theorem State.formPair_keeps (s : State) : Keeps s (State.formPair s) := by
  unfold State.formPair
  repeat' first
    | with_reducible exact Keeps.refl _
    | with_reducible apply Keeps.trans ?_ (State.setBit_keeps ..)
    | with_reducible apply Keeps.trans ?_ (State.setPair_keeps ..)
    | with_reducible refine Keeps.ite ?_ ?_
    | dsimp only
    | split
    | fail_if_no_progress (with_reducible refine Keeps.mk ?_ rfl rfl rfl rfl rfl rfl)

theorem State.breakPair_keeps (s : State) : Keeps s (State.breakPair s) := by
  unfold State.breakPair
  repeat' first
    | with_reducible exact Keeps.refl _
    | with_reducible apply Keeps.trans ?_ (State.setBit_keeps ..)
    | with_reducible apply Keeps.trans ?_ (State.setPair_keeps ..)
    | with_reducible apply Keeps.trans ?_ (State.unmirror_keeps ..)
    | dsimp only
    | fail_if_no_progress (with_reducible refine Keeps.mk ?_ rfl rfl rfl rfl rfl rfl)

theorem State.copyDone_keeps (s : State) : Keeps s (State.copyDone s) := by
  unfold State.copyDone
  repeat' first
    | with_reducible exact Keeps.refl _
    | with_reducible apply Keeps.trans ?_ (State.applyMsg_keeps ..)
    | with_reducible apply Keeps.trans ?_ (State.nextCopy_keeps ..)
    | with_reducible refine Keeps.fold _ _ ?_ (fun _ _ => ?_)
    | with_reducible refine Keeps.ite ?_ ?_
    | dsimp only
    | split
    | fail_if_no_progress (with_reducible refine Keeps.mk ?_ rfl rfl rfl rfl rfl rfl)

end Sys2Proof.Machine
end

