-- ==== Sys2Proof/Laws/KeepsPower.lean ====
section
/-! SUPPORT. What the operations of Machine/Power.lean keep. -/
namespace Sys2Proof.Machine

theorem State.dropRegs_keeps (s : State) (lo n : Nat) : Keeps s (State.dropRegs s lo n) := by
  unfold State.dropRegs
  repeat' first
    | with_reducible exact Keeps.refl _
    | fail_if_no_progress (with_reducible refine Keeps.mk ?_ rfl rfl rfl rfl rfl rfl)

theorem State.loseCluster_keeps (s : State) (c : Nat) : Keeps s (State.loseCluster s c) := by
  unfold State.loseCluster
  exact Keeps.cut (((State.dropRegs_keeps ..).trans (State.dropRegs_keeps ..)).trans (State.setBit_keeps ..)) _ _ rfl rfl rfl rfl

theorem State.loseField_keeps (s : State) (f : Nat) : Keeps s (State.loseField s f) := by
  unfold State.loseField
  repeat' first
    | with_reducible exact Keeps.refl _
    | with_reducible apply Keeps.trans ?_ (State.dropRegs_keeps ..)
    | dsimp only
    | split
    | fail_if_no_progress (with_reducible refine Keeps.mk ?_ rfl rfl rfl rfl rfl rfl)

theorem State.loseStack_keeps (s : State) (st : Nat) : Keeps s (State.loseStack s st) := by
  unfold State.loseStack
  exact Keeps.cut (State.dropRegs_keeps ..) _ _ rfl rfl rfl rfl

theorem State.loseHeath_keeps (s : State) (h : Nat) : Keeps s (State.loseHeath s h) := by
  unfold State.loseHeath
  exact Keeps.cut (State.dropRegs_keeps ..) _ _ rfl rfl rfl rfl

theorem State.loseLinks_keeps (s : State) (d : Nat) : Keeps s (State.loseLinks s d) := by
  unfold State.loseLinks
  repeat' first
    | with_reducible exact Keeps.refl _
    | with_reducible apply Keeps.trans ?_ (State.dropRegs_keeps ..)
    | with_reducible refine Keeps.fold _ _ ?_ (fun _ _ => ?_)
    | with_reducible refine Keeps.ite ?_ ?_
    | dsimp only
    | fail_if_no_progress (with_reducible refine Keeps.mk ?_ rfl rfl rfl rfl rfl rfl)

theorem State.loseCc_keeps (s : State) : Keeps s (State.loseCc s) := by
  unfold State.loseCc
  repeat' first
    | with_reducible exact Keeps.refl _
    | with_reducible apply Keeps.trans ?_ (State.dropRegs_keeps ..)
    | dsimp only
    | fail_if_no_progress (with_reducible refine Keeps.mk ?_ rfl rfl rfl rfl rfl rfl)

theorem State.lose_keeps (s : State) (d : Nat) : Keeps s (State.lose s d) := by
  unfold State.lose
  repeat' first
    | with_reducible exact Keeps.refl _
    | with_reducible apply Keeps.trans ?_ (State.setReady_keeps ..)
    | with_reducible apply Keeps.trans ?_ (State.loseCluster_keeps ..)
    | with_reducible apply Keeps.trans ?_ (State.loseField_keeps ..)
    | with_reducible apply Keeps.trans ?_ (State.loseStack_keeps ..)
    | with_reducible apply Keeps.trans ?_ (State.loseHeath_keeps ..)
    | with_reducible apply Keeps.trans ?_ (State.loseLinks_keeps ..)
    | with_reducible apply Keeps.trans ?_ (State.loseCc_keeps ..)
    | with_reducible refine Keeps.ite ?_ ?_

theorem State.cutDomain_keeps (s : State) (d : Nat) : Keeps s (State.cutDomain s d) := by
  unfold State.cutDomain
  repeat' first
    | with_reducible exact Keeps.refl _
    | with_reducible apply Keeps.trans ?_ (State.setDom_keeps ..)
    | with_reducible apply Keeps.trans ?_ (State.lose_keeps ..)
    | with_reducible refine Keeps.ite ?_ ?_

theorem State.setSt_keeps (s : State) (k u : Nat) (v : StUnit) : Keeps s (State.setSt s k u v) := by
  unfold State.setSt
  repeat' first
    | with_reducible exact Keeps.refl _
    | dsimp only
    | fail_if_no_progress (with_reducible refine Keeps.mk ?_ rfl rfl rfl rfl rfl rfl)

theorem State.showTests_keeps (s : State) : Keeps s (State.showTests s) := by
  unfold State.showTests
  repeat' first
    | with_reducible exact Keeps.refl _
    | with_reducible apply Keeps.trans ?_ (State.setFld_keeps ..)

theorem State.abortTests_keeps (s : State) : Keeps s (State.abortTests s) := by
  unfold State.abortTests
  repeat' first
    | with_reducible exact Keeps.refl _
    | with_reducible apply Keeps.trans ?_ (State.setBit_keeps ..)
    | with_reducible apply Keeps.trans ?_ (State.setSt_keeps ..)
    | with_reducible apply Keeps.trans ?_ (State.showTests_keeps ..)
    | with_reducible refine Keeps.fold _ _ ?_ (fun _ _ => ?_)
    | dsimp only
    | fail_if_no_progress (with_reducible refine Keeps.mk ?_ rfl rfl rfl rfl rfl rfl)

theorem State.failClearing_keeps (s : State) : Keeps s (State.failClearing s) := by
  unfold State.failClearing
  repeat' first
    | with_reducible exact Keeps.refl _
    | with_reducible apply Keeps.trans ?_ (State.setFld_keeps ..)
    | with_reducible apply Keeps.trans ?_ (State.draw_keeps ..)
    | with_reducible refine Keeps.ite ?_ ?_

theorem State.refuseSwitch_keeps (s : State) : Keeps s (State.refuseSwitch s) := by
  unfold State.refuseSwitch
  repeat' first
    | with_reducible exact Keeps.refl _
    | with_reducible apply Keeps.trans ?_ (State.orReg_keeps ..)

theorem State.promote_keeps (s : State) (l : List Nat) : Keeps s (State.promote s l) := by
  induction l generalizing s with
  | nil =>
    unfold State.promote
    repeat' first
      | with_reducible exact Keeps.refl _
      | dsimp only
      | fail_if_no_progress (with_reducible refine Keeps.mk ?_ rfl rfl rfl rfl rfl rfl)
  | cons r t ih =>
    unfold State.promote
    repeat' first
      | with_reducible exact Keeps.refl _
      | with_reducible apply Keeps.trans ?_ (ih _)
      | with_reducible apply Keeps.trans ?_ (State.setDom_keeps ..)
      | with_reducible apply Keeps.trans ?_ (State.refuseSwitch_keeps ..)
      | with_reducible refine Keeps.ite ?_ ?_
      | dsimp only
      | split
      | fail_if_no_progress (with_reducible refine Keeps.mk ?_ rfl rfl rfl rfl rfl rfl)

theorem State.cutAll_keeps (s : State) (ds : List Nat) : Keeps s (State.cutAll s ds) := by
  unfold State.cutAll
  repeat' first
    | with_reducible exact Keeps.refl _
    | with_reducible apply Keeps.trans ?_ (State.cutDomain_keeps ..)
    | with_reducible apply Keeps.trans ?_ (State.promote_keeps ..)
    | with_reducible refine Keeps.fold _ _ ?_ (fun _ _ => ?_)
    | fail_if_no_progress (with_reducible refine Keeps.mk ?_ rfl rfl rfl rfl rfl rfl)

theorem State.powerTrip_keeps (s : State) : Keeps s (State.powerTrip s) := by
  unfold State.powerTrip
  repeat' first
    | with_reducible exact Keeps.refl _
    | with_reducible apply Keeps.trans ?_ (State.orReg_keeps ..)
    | with_reducible apply Keeps.trans ?_ (State.abortTests_keeps ..)
    | with_reducible apply Keeps.trans ?_ (State.failClearing_keeps ..)
    | with_reducible apply Keeps.trans ?_ (State.cutAll_keeps ..)

theorem State.shutdown_keeps (s : State) : Keeps s (State.shutdown s) := by
  unfold State.shutdown
  repeat' first
    | with_reducible exact Keeps.refl _
    | with_reducible apply Keeps.trans ?_ (State.abortTests_keeps ..)
    | with_reducible apply Keeps.trans ?_ (State.failClearing_keeps ..)
    | with_reducible apply Keeps.trans ?_ (State.cutAll_keeps ..)
    | dsimp only
    | fail_if_no_progress (with_reducible refine Keeps.mk ?_ rfl rfl rfl rfl rfl rfl)

theorem State.powerOn_keeps (s : State) : Keeps s (State.powerOn s) := by
  unfold State.powerOn
  have h := State.setFld_keeps
    { State.reset with se := s.se.lasting, free := s.free, pending := s.pending } .pltBootStat 0 38 32 s.se.floor
  have w : State.reset.mm.wf = true := by decide
  exact ⟨h.1, fun _ => h.2.1 w, h.2.2⟩

theorem State.dark_keeps (s : State) : Keeps s (State.dark s) := by
  unfold State.dark
  repeat' first
    | with_reducible exact Keeps.refl _
    | with_reducible apply Keeps.trans ?_ (State.powerOn_keeps ..)
    | dsimp only
    | fail_if_no_progress (with_reducible refine Keeps.mk ?_ rfl rfl rfl rfl rfl rfl)

theorem State.switchOn_keeps (s : State) (d : Nat) : Keeps s (State.switchOn s d) := by
  unfold State.switchOn
  repeat' first
    | with_reducible exact Keeps.refl _
    | with_reducible apply Keeps.trans ?_ (State.refuseSwitch_keeps ..)
    | with_reducible apply Keeps.trans ?_ (State.promote_keeps ..)
    | with_reducible refine Keeps.ite ?_ ?_
    | split

theorem State.keepCc_keeps (s : State) : Keeps s (State.keepCc s) := by
  unfold State.keepCc
  repeat' first
    | with_reducible exact Keeps.refl _
    | dsimp only
    | fail_if_no_progress (with_reducible refine Keeps.mk ?_ rfl rfl rfl rfl rfl rfl)

theorem State.flushFor_keeps (s : State) (d : Nat) : Keeps s (State.flushFor s d) := by
  unfold State.flushFor
  repeat' first
    | with_reducible exact Keeps.refl _
    | with_reducible apply Keeps.trans ?_ (State.flushHome_keeps ..)
    | with_reducible refine Keeps.ite ?_ ?_

theorem State.switchOff_keeps (s : State) (d : Nat) : Keeps s (State.switchOff s d) := by
  unfold State.switchOff
  repeat' first
    | with_reducible exact Keeps.refl _
    | with_reducible apply Keeps.trans ?_ (State.orReg_keeps ..)
    | with_reducible apply Keeps.trans ?_ (State.cutDomain_keeps ..)
    | with_reducible apply Keeps.trans ?_ (State.refuseSwitch_keeps ..)
    | with_reducible apply Keeps.trans ?_ (State.keepCc_keeps ..)
    | with_reducible apply Keeps.trans ?_ (State.flushFor_keeps ..)
    | with_reducible refine Keeps.ite ?_ ?_
    | dsimp only
    | split

theorem State.allOff_keeps (s : State) : Keeps s (State.allOff s) := by
  unfold State.allOff
  repeat' first
    | with_reducible exact Keeps.refl _
    | with_reducible apply Keeps.trans ?_ (State.orReg_keeps ..)
    | with_reducible apply Keeps.trans ?_ (State.flushHome_keeps ..)
    | with_reducible apply Keeps.trans ?_ (State.abortTests_keeps ..)
    | with_reducible apply Keeps.trans ?_ (State.cutAll_keeps ..)
    | with_reducible apply Keeps.trans ?_ (State.keepCc_keeps ..)
    | with_reducible refine Keeps.fold _ _ ?_ (fun _ _ => ?_)
    | with_reducible refine Keeps.ite ?_ ?_

theorem State.injected_keeps (s : State) (target : Nat) (v lo hi : Int) : Keeps s (State.injected s target v lo hi).1 := by
  unfold State.injected
  repeat' first
    | with_reducible exact Keeps.refl _
    | with_reducible apply Keeps.trans ?_ (State.orReg_keeps ..)
    | with_reducible refine Keeps.itePair ?_ ?_

theorem State.setBins_keeps (s : State) (l : List Nat) : Keeps s (State.setBins s l) := by
  unfold State.setBins
  repeat' first
    | with_reducible exact Keeps.refl _
    | with_reducible apply Keeps.trans ?_ (State.setFld_keeps ..)
    | dsimp only
    | fail_if_no_progress (with_reducible refine Keeps.mk ?_ rfl rfl rfl rfl rfl rfl)

theorem State.residency_keeps (s : State) (w : Nat) : Keeps s (State.residency s w) := by
  unfold State.residency
  repeat' first
    | with_reducible exact Keeps.refl _
    | with_reducible apply Keeps.trans ?_ (State.setBit_keeps ..)
    | with_reducible apply Keeps.trans ?_ (State.orReg_keeps ..)
    | with_reducible apply Keeps.trans ?_ (State.setBins_keeps ..)
    | with_reducible refine Keeps.ite ?_ ?_
    | split

theorem State.creditStep_keeps (s : State) (w : Nat) : Keeps s (State.creditStep s w) := by
  unfold State.creditStep
  repeat' first
    | with_reducible exact Keeps.refl _
    | with_reducible apply Keeps.trans ?_ (State.setFld_keeps ..)
    | with_reducible apply Keeps.trans ?_ (State.orReg_keeps ..)
    | with_reducible refine Keeps.ite ?_ ?_
    | dsimp only
    | fail_if_no_progress (with_reducible refine Keeps.mk ?_ rfl rfl rfl rfl rfl rfl)

theorem State.govStep_keeps (s : State) : Keeps s (State.govStep s) := by
  unfold State.govStep
  repeat' first
    | with_reducible exact Keeps.refl _
    | with_reducible apply Keeps.trans ?_ (State.trace_keeps ..)

theorem State.cutStep_keeps (s : State) : Keeps s (State.cutStep s) := by
  unfold State.cutStep
  repeat' first
    | with_reducible exact Keeps.refl _
    | with_reducible apply Keeps.trans ?_ (State.setFld_keeps ..)
    | with_reducible apply Keeps.trans ?_ (State.setBit_keeps ..)
    | with_reducible apply Keeps.trans ?_ (State.orReg_keeps ..)
    | with_reducible apply Keeps.trans ?_ (State.govStep_keeps ..)
    | with_reducible refine Keeps.ite ?_ ?_
    | dsimp only
    | fail_if_no_progress (with_reducible refine Keeps.mk ?_ rfl rfl rfl rfl rfl rfl)

theorem State.restoreStep_keeps (s : State) : Keeps s (State.restoreStep s) := by
  unfold State.restoreStep
  repeat' first
    | with_reducible exact Keeps.refl _
    | with_reducible apply Keeps.trans ?_ (State.setFld_keeps ..)
    | with_reducible apply Keeps.trans ?_ (State.setBit_keeps ..)
    | with_reducible apply Keeps.trans ?_ (State.govStep_keeps ..)
    | with_reducible refine Keeps.ite ?_ ?_

theorem State.govern_keeps (s : State) (w : Nat) : Keeps s (State.govern s w) := by
  unfold State.govern
  repeat' first
    | with_reducible exact Keeps.refl _
    | with_reducible apply Keeps.trans ?_ (State.setFld_keeps ..)
    | with_reducible apply Keeps.trans ?_ (State.cutStep_keeps ..)
    | with_reducible apply Keeps.trans ?_ (State.restoreStep_keeps ..)
    | with_reducible refine Keeps.ite ?_ ?_
    | dsimp only
    | fail_if_no_progress (with_reducible refine Keeps.mk ?_ rfl rfl rfl rfl rfl rfl)

theorem State.overTrip_keeps (s : State) (w : Nat) : Keeps s (State.overTrip s w) := by
  unfold State.overTrip
  repeat' first
    | with_reducible exact Keeps.refl _
    | with_reducible apply Keeps.trans ?_ (State.powerTrip_keeps ..)
    | with_reducible refine Keeps.ite ?_ ?_
    | dsimp only
    | split
    | fail_if_no_progress (with_reducible refine Keeps.mk ?_ rfl rfl rfl rfl rfl rfl)

theorem State.sampleWatts_keeps (s : State) (watts : Nat) : Keeps s (State.sampleWatts s watts) := by
  unfold State.sampleWatts
  repeat' first
    | with_reducible exact Keeps.refl _
    | with_reducible apply Keeps.trans ?_ (State.setFld_keeps ..)
    | with_reducible apply Keeps.trans ?_ (State.draw_keeps ..)
    | with_reducible apply Keeps.trans ?_ (State.injected_keeps ..)
    | with_reducible apply Keeps.trans ?_ (State.residency_keeps ..)
    | with_reducible apply Keeps.trans ?_ (State.creditStep_keeps ..)
    | with_reducible apply Keeps.trans ?_ (State.govern_keeps ..)
    | with_reducible apply Keeps.trans ?_ (State.overTrip_keeps ..)

theorem State.showGp3_keeps (s : State) : Keeps s (State.showGp3 s) := by
  unfold State.showGp3
  repeat' first
    | with_reducible exact Keeps.refl _
    | with_reducible refine Keeps.ite ?_ ?_
    | dsimp only
    | fail_if_no_progress (with_reducible refine Keeps.mk ?_ rfl rfl rfl rfl rfl rfl)

theorem State.doubling_keeps (s : State) (n : Nat) (t : Int) : Keeps s (State.doubling s n t) := by
  unfold State.doubling
  repeat' first
    | with_reducible exact Keeps.refl _
    | with_reducible apply Keeps.trans ?_ (State.setBit_keeps ..)
    | with_reducible apply Keeps.trans ?_ (State.orReg_keeps ..)
    | with_reducible refine Keeps.ite ?_ ?_

theorem State.fastRef_keeps (s : State) (n : Nat) : Keeps s (State.fastRef s n) := by
  unfold State.fastRef
  repeat' first
    | with_reducible exact Keeps.refl _
    | with_reducible apply Keeps.trans ?_ (State.setBit_keeps ..)
    | with_reducible apply Keeps.trans ?_ (State.draw_keeps ..)
    | with_reducible refine Keeps.ite ?_ ?_

theorem State.sense_keeps (s : State) (n : Nat) (temp : BitVec 12) : Keeps s (State.sense s n temp) := by
  unfold State.sense
  repeat' first
    | with_reducible exact Keeps.refl _
    | with_reducible apply Keeps.trans ?_ (State.setFld_keeps ..)
    | with_reducible apply Keeps.trans ?_ (State.setBit_keeps ..)
    | with_reducible apply Keeps.trans ?_ (State.orReg_keeps ..)
    | with_reducible apply Keeps.trans ?_ (State.powerTrip_keeps ..)
    | with_reducible apply Keeps.trans ?_ (State.injected_keeps ..)
    | with_reducible apply Keeps.trans ?_ (State.showGp3_keeps ..)
    | with_reducible apply Keeps.trans ?_ (State.doubling_keeps ..)
    | with_reducible apply Keeps.trans ?_ (State.fastRef_keeps ..)
    | with_reducible refine Keeps.ite ?_ ?_
    | dsimp only
    | split
    | fail_if_no_progress (with_reducible refine Keeps.mk ?_ rfl rfl rfl rfl rfl rfl)

theorem State.pwrInjWrite_keeps (s : State) (v : Word) : Keeps s (State.pwrInjWrite s v) := by
  unfold State.pwrInjWrite
  repeat' first
    | with_reducible exact Keeps.refl _
    | with_reducible apply Keeps.trans ?_ (State.setReg_keeps ..)

theorem State.samplePins_keeps (s : State) (p : BitVec 4) : Keeps s (State.samplePins s p) := by
  unfold State.samplePins
  repeat' first
    | with_reducible exact Keeps.refl _
    | with_reducible apply Keeps.trans ?_ (State.setFld_keeps ..)
    | with_reducible refine Keeps.ite ?_ ?_
    | dsimp only
    | fail_if_no_progress (with_reducible refine Keeps.mk ?_ rfl rfl rfl rfl rfl rfl)

end Sys2Proof.Machine
end

