-- ==== Sys2Proof/Laws/KeepsIntCtl.lean ====
section
/-! SUPPORT. What the operations of Machine/IntCtl.lean keep. -/
namespace Sys2Proof.Machine

theorem State.setTarget_keeps (s : State) (t : Nat) (v : Target) : Keeps s (State.setTarget s t v) := by
  unfold State.setTarget
  repeat' first
    | with_reducible exact Keeps.refl _
    | dsimp only
    | fail_if_no_progress (with_reducible refine Keeps.mk ?_ rfl rfl rfl rfl rfl rfl)

theorem State.levelIn_keeps (s : State) (n : Nat) : Keeps s (State.levelIn s n) := by
  unfold State.levelIn
  repeat' first
    | with_reducible exact Keeps.refl _
    | with_reducible refine Keeps.ite ?_ ?_
    | dsimp only
    | split
    | fail_if_no_progress (with_reducible refine Keeps.mk ?_ rfl rfl rfl rfl rfl rfl)

theorem State.answerCore_keeps (s : State) (w : Nat) : Keeps s (State.answerCore s w) := by
  unfold State.answerCore
  repeat' first
    | with_reducible exact Keeps.refl _
    | dsimp only
    | fail_if_no_progress (with_reducible refine Keeps.mk ?_ rfl rfl rfl rfl rfl rfl)

theorem State.claim_keeps (s : State) (t : Nat) : Keeps s (State.claim s t).1 := by
  unfold State.claim
  repeat' first
    | with_reducible exact Keeps.refl _
    | with_reducible apply Keeps.trans ?_ (State.setTarget_keeps ..)
    | dsimp only
    | split

theorem State.completeAt_keeps (s : State) (t n : Nat) : Keeps s (State.completeAt s t n) := by
  unfold State.completeAt
  repeat' first
    | with_reducible exact Keeps.refl _
    | with_reducible apply Keeps.trans ?_ (State.bump_keeps ..)
    | with_reducible apply Keeps.trans ?_ (State.setTarget_keeps ..)
    | with_reducible refine Keeps.ite ?_ ?_

theorem State.sampleAt_keeps (s : State) (t : Nat) : Keeps s (State.sampleAt s t) := by
  unfold State.sampleAt
  repeat' first
    | with_reducible exact Keeps.refl _
    | with_reducible apply Keeps.trans ?_ (State.setTarget_keeps ..)
    | with_reducible refine Keeps.ite ?_ ?_
    | dsimp only
    | fail_if_no_progress (with_reducible refine Keeps.mk ?_ rfl rfl rfl rfl rfl rfl)

theorem State.putSoft_keeps (s : State) (n : Nat) (w : Word) : Keeps s (State.putSoft s n w) := by
  unfold State.putSoft
  repeat' first
    | with_reducible exact Keeps.refl _
    | with_reducible apply Keeps.trans ?_ (State.setReg_keeps ..)
    | dsimp only
    | fail_if_no_progress (with_reducible refine Keeps.mk ?_ rfl rfl rfl rfl rfl rfl)

theorem State.timer_keeps (s : State) (h : Nat) : Keeps s (State.timer s h) := by
  unfold State.timer
  repeat' first
    | with_reducible exact Keeps.refl _
    | dsimp only
    | split
    | fail_if_no_progress (with_reducible refine Keeps.mk ?_ rfl rfl rfl rfl rfl rfl)

theorem State.wake_keeps (s : State) (n : Nat) : Keeps s (State.wake s n) := by
  unfold State.wake
  repeat' first
    | with_reducible exact Keeps.refl _
    | with_reducible apply Keeps.trans ?_ (State.switchOn_keeps ..)
    | with_reducible refine Keeps.ite ?_ ?_
    | dsimp only
    | split

theorem State.restoreReg_keeps (s : State) (p : Nat × Word) : Keeps s (State.restoreReg s p) := by
  unfold State.restoreReg
  repeat' first
    | with_reducible exact Keeps.refl _
    | fail_if_no_progress (with_reducible refine Keeps.mk ?_ rfl rfl rfl rfl rfl rfl)

theorem State.startCc_keeps (s : State) : Keeps s (State.startCc s) := by
  unfold State.startCc
  repeat' first
    | with_reducible exact Keeps.refl _
    | with_reducible apply Keeps.trans ?_ (State.setReg_keeps ..)
    | with_reducible apply Keeps.trans ?_ (State.timer_keeps ..)
    | with_reducible apply Keeps.trans ?_ (State.restoreReg_keeps ..)
    | with_reducible refine Keeps.fold _ _ ?_ (fun _ _ => ?_)
    | dsimp only
    | split
    | fail_if_no_progress (with_reducible refine Keeps.mk ?_ rfl rfl rfl rfl rfl rfl)

theorem State.resetCcNow_keeps (s : State) : Keeps s (State.resetCcNow s) := by
  unfold State.resetCcNow
  repeat' first
    | with_reducible exact Keeps.refl _
    | with_reducible apply Keeps.trans ?_ (State.setReady_keeps ..)
    | with_reducible apply Keeps.trans ?_ (State.loseCc_keeps ..)
    | with_reducible apply Keeps.trans ?_ (State.startCc_keeps ..)
    | with_reducible refine Keeps.ite ?_ ?_
    | dsimp only
    | fail_if_no_progress (with_reducible refine Keeps.mk ?_ rfl rfl rfl rfl rfl rfl)

end Sys2Proof.Machine
end

