-- ==== Sys2Proof/Laws/KeepsEther.lean ====
section
/-! SUPPORT. What the operations of Machine/Ether.lean keep. -/
namespace Sys2Proof.Machine

theorem State.setStopped_keeps (s : State) (p : Nat) (tx b : Bool) : Keeps s (State.setStopped s p tx b) := by
  unfold State.setStopped
  repeat' first
    | with_reducible exact Keeps.refl _
    | dsimp only
    | fail_if_no_progress (with_reducible refine Keeps.mk ?_ rfl rfl rfl rfl rfl rfl)

theorem State.prodWrite_keeps (s : State) (p : Nat) (tx : Bool) (v : Nat) : Keeps s (State.prodWrite s p tx v) := by
  unfold State.prodWrite
  repeat' first
    | with_reducible exact Keeps.refl _
    | with_reducible apply Keeps.trans ?_ (State.setFld_keeps ..)
    | with_reducible apply Keeps.trans ?_ (State.setStopped_keeps ..)
    | with_reducible refine Keeps.ite ?_ ?_

theorem State.macRead_keeps (s : State) (p : Fin 3) (a n : Nat) : Keeps s (State.macRead s p a n).1 := by
  unfold State.macRead
  repeat' first
    | with_reducible exact Keeps.refl _
    | with_reducible apply Keeps.trans ?_ (State.readRun_keeps ..)
    | with_reducible apply Keeps.trans ?_ (State.reportBads_keeps ..)
    | with_reducible refine Keeps.itePair ?_ ?_

theorem State.nextEntry_keeps (s : State) (p : Fin 3) (tx : Bool) : Keeps s (State.nextEntry s p tx).1 := by
  unfold State.nextEntry
  repeat' first
    | with_reducible exact Keeps.refl _
    | with_reducible apply Keeps.trans ?_ (State.setStopped_keeps ..)
    | with_reducible apply Keeps.trans ?_ (State.macRead_keeps ..)
    | with_reducible refine Keeps.itePair ?_ ?_

theorem State.returnEntry_keeps (s : State) (p : Fin 3) (tx : Bool) (w : Word) (len : Nat) (err : Bool) : Keeps s (State.returnEntry s p tx w len err) := by
  unfold State.returnEntry
  repeat' first
    | with_reducible exact Keeps.refl _
    | with_reducible apply Keeps.trans ?_ (State.setFld_keeps ..)
    | with_reducible apply Keeps.trans ?_ (State.writeBytes_keeps ..)

theorem State.receive_keeps (s : State) (p : Fin 3) (frame : List Byte) (bad : Bool) : Keeps s (State.receive s p frame bad) := by
  unfold State.receive
  repeat' first
    | with_reducible exact Keeps.refl _
    | with_reducible apply Keeps.trans ?_ (State.writeBytes_keeps ..)
    | with_reducible apply Keeps.trans ?_ (State.returnEntry_keeps ..)
    | with_reducible refine Keeps.ite ?_ ?_
    | dsimp only
    | split
    | refine Keeps.trans ?_ (Keeps.pair (p := State.nextEntry _ _ _) (by assumption) (State.nextEntry_keeps ..))

theorem State.transmit_keeps (s : State) (p : Fin 3) : Keeps s (State.transmit s p) := by
  unfold State.transmit
  repeat' first
    | with_reducible exact Keeps.refl _
    | with_reducible apply Keeps.trans ?_ (State.macRead_keeps ..)
    | with_reducible apply Keeps.trans ?_ (State.returnEntry_keeps ..)
    | with_reducible refine Keeps.ite ?_ ?_
    | dsimp only
    | split
    | refine Keeps.trans ?_ (Keeps.pair (p := State.nextEntry _ _ _) (by assumption) (State.nextEntry_keeps ..))
    | fail_if_no_progress (with_reducible refine Keeps.mk ?_ rfl rfl rfl rfl rfl rfl)

end Sys2Proof.Machine
end

