-- ==== Sys2Proof/Laws/KeepsBoot.lean ====
section
/-! SUPPORT. What the operations of Machine/Boot.lean keep. -/
namespace Sys2Proof.Machine

theorem State.setStage_keeps (s : State) (n : Nat) : Keeps s (State.setStage s n) := by
  unfold State.setStage
  repeat' first
    | with_reducible exact Keeps.refl _
    | with_reducible apply Keeps.trans ?_ (State.setFld_keeps ..)

theorem State.failOf_keeps (s : State) (slot cause : Nat) : Keeps s (State.failOf s slot cause) := by
  unfold State.failOf
  repeat' first
    | with_reducible exact Keeps.refl _
    | with_reducible apply Keeps.trans ?_ (State.setFld_keeps ..)
    | with_reducible refine Keeps.ite ?_ ?_

theorem State.extend_keeps (s : State) (i : Nat) (v : List Byte) : Keeps s (State.extend s i v) := by
  unfold State.extend
  repeat' first
    | with_reducible exact Keeps.refl _
    | dsimp only
    | fail_if_no_progress (with_reducible refine Keeps.mk ?_ rfl rfl rfl rfl rfl rfl)

theorem State.refuseQuote_keeps (s : State) : Keeps s (State.refuseQuote s) := by
  unfold State.refuseQuote
  repeat' first
    | with_reducible exact Keeps.refl _
    | with_reducible apply Keeps.trans ?_ (State.setBit_keeps ..)

theorem State.measExt_keeps (s : State) (i : Nat) : Keeps s (State.measExt s i) := by
  unfold State.measExt
  repeat' first
    | with_reducible exact Keeps.refl _
    | with_reducible apply Keeps.trans ?_ (State.extend_keeps ..)
    | with_reducible apply Keeps.trans ?_ (State.refuseQuote_keeps ..)
    | with_reducible refine Keeps.ite ?_ ?_

theorem State.clearBoot_keeps (s : State) : Keeps s (State.clearBoot s) := by
  unfold State.clearBoot
  repeat' first
    | with_reducible exact Keeps.refl _
    | with_reducible apply Keeps.trans ?_ (State.setReg_keeps ..)
    | dsimp only
    | fail_if_no_progress (with_reducible refine Keeps.mk ?_ rfl rfl rfl rfl rfl rfl)

theorem State.bootFail_keeps (s : State) (cause : Nat) : Keeps s (State.bootFail s cause) := by
  unfold State.bootFail
  repeat' first
    | with_reducible exact Keeps.refl _
    | with_reducible apply Keeps.trans ?_ (State.setFld_keeps ..)
    | with_reducible apply Keeps.trans ?_ (State.setBit_keeps ..)
    | with_reducible apply Keeps.trans ?_ (State.abortTests_keeps ..)
    | with_reducible apply Keeps.trans ?_ (State.cutAll_keeps ..)
    | with_reducible apply Keeps.trans ?_ (State.setStage_keeps ..)
    | with_reducible apply Keeps.trans ?_ (State.failOf_keeps ..)
    | with_reducible apply Keeps.trans ?_ (State.clearBoot_keeps ..)
    | with_reducible refine Keeps.ite ?_ ?_
    | dsimp only
    | fail_if_no_progress (with_reducible refine Keeps.mk ?_ rfl rfl rfl rfl rfl rfl)

theorem State.flashFails_keeps (s : State) : Keeps s (State.flashFails s).1 := by
  unfold State.flashFails
  repeat' first
    | with_reducible exact Keeps.refl _
    | with_reducible apply Keeps.trans ?_ (State.draw_keeps ..)

theorem State.chooseSlot_keeps (s : State) : Keeps s (State.chooseSlot s) := by
  unfold State.chooseSlot
  repeat' first
    | with_reducible exact Keeps.refl _
    | with_reducible apply Keeps.trans ?_ (State.setFld_keeps ..)
    | with_reducible apply Keeps.trans ?_ (State.failOf_keeps ..)
    | with_reducible refine Keeps.ite ?_ ?_
    | split

theorem State.romSlot_keeps (s : State) (a1 : Nat) : Keeps s (State.romSlot s a1) := by
  unfold State.romSlot
  with_reducible refine Keeps.ite (State.bootFail_keeps ..) ?_
  with_reducible refine Keeps.trans ?_ (State.setStage_keeps ..)
  with_reducible refine Keeps.trans ?_ (State.setFld_keeps ..)
  with_reducible refine Keeps.mk ?_ rfl rfl rfl rfl rfl rfl
  exact (((State.extend_keeps ..).trans (State.extend_keeps ..)).trans (State.extend_keeps ..)).trans (State.extend_keeps ..)

theorem State.rom_keeps (s : State) : Keeps s (State.rom s) := by
  unfold State.rom
  with_reducible refine Keeps.ite (Keeps.refl s) ?_
  refine (State.chooseSlot_keeps s).trans ?_
  have h := State.flashFails_keeps s.chooseSlot
  split
  · rename_i u e
    exact (Keeps.pair e h).trans (State.bootFail_keeps ..)
  · rename_i u e
    exact (Keeps.pair e h).trans (State.romSlot_keeps ..)

theorem State.loadRemaps_keeps (s : State) (r : Reg) (p base n : Nat) : Keeps s (State.loadRemaps s r p base n) := by
  unfold State.loadRemaps
  repeat' first
    | with_reducible exact Keeps.refl _
    | with_reducible apply Keeps.trans ?_ (State.setReg_keeps ..)
    | with_reducible refine Keeps.fold _ _ ?_ (fun _ _ => ?_)

theorem State.loadFuses_keeps (s : State) (st : Nat) : Keeps s (State.loadFuses s st) := by
  unfold State.loadFuses
  repeat' first
    | with_reducible exact Keeps.refl _
    | with_reducible apply Keeps.trans ?_ (State.setReg_keeps ..)
    | with_reducible refine Keeps.fold _ _ ?_ (fun _ _ => ?_)
    | with_reducible refine Keeps.ite ?_ ?_

theorem State.startTest_keeps (s : State) (k u : Nat) : Keeps s (State.startTest s k u) := by
  unfold State.startTest
  repeat' first
    | with_reducible exact Keeps.refl _
    | with_reducible apply Keeps.trans ?_ (State.setReady_keeps ..)
    | with_reducible apply Keeps.trans ?_ (State.setSt_keeps ..)
    | with_reducible apply Keeps.trans ?_ (State.showTests_keeps ..)
    | with_reducible apply Keeps.trans ?_ (State.flushFor_keeps ..)
    | split

theorem State.startTests_keeps (s : State) (l : List (Nat × Nat)) : Keeps s (State.startTests s l) := by
  induction l generalizing s with
  | nil =>
    unfold State.startTests
    repeat' first
      | with_reducible exact Keeps.refl _
  | cons r t ih =>
    unfold State.startTests
    repeat' first
      | with_reducible exact Keeps.refl _
      | with_reducible apply Keeps.trans ?_ (ih _)
      | with_reducible apply Keeps.trans ?_ (State.startTest_keeps ..)
      | with_reducible refine Keeps.ite ?_ ?_
      | dsimp only
      | split
      | fail_if_no_progress (with_reducible refine Keeps.mk ?_ rfl rfl rfl rfl rfl rfl)

theorem State.requestTest_keeps (s : State) (k u : Nat) : Keeps s (State.requestTest s k u) := by
  unfold State.requestTest
  repeat' first
    | with_reducible exact Keeps.refl _
    | with_reducible apply Keeps.trans ?_ (State.setFld_keeps ..)
    | with_reducible apply Keeps.trans ?_ (State.setBit_keeps ..)
    | with_reducible apply Keeps.trans ?_ (State.startTest_keeps ..)
    | with_reducible refine Keeps.ite ?_ ?_

theorem State.takeRemaps_keeps (s : State) (k u : Nat) (n : Nat) : Keeps s (State.takeRemaps s k u n) := by
  induction n generalizing s with
  | zero =>
    unfold State.takeRemaps
    repeat' first
      | with_reducible exact Keeps.refl _
  | succ n ih =>
    unfold State.takeRemaps
    repeat' first
      | with_reducible exact Keeps.refl _
      | with_reducible apply Keeps.trans ?_ (ih _)
      | with_reducible apply Keeps.trans ?_ (State.setReg_keeps ..)
      | with_reducible apply Keeps.trans ?_ (State.draw_keeps ..)
      | dsimp only
      | split

theorem State.leaveCluster_keeps (s : State) (c : Nat) : Keeps s (State.leaveCluster s c) := by
  unfold State.leaveCluster
  repeat' first
    | with_reducible exact Keeps.refl _
    | with_reducible apply Keeps.trans ?_ (State.setReg_keeps ..)
    | with_reducible apply Keeps.trans ?_ (State.loseCluster_keeps ..)
    | with_reducible refine Keeps.fold _ _ ?_ (fun _ _ => ?_)
    | dsimp only
    | fail_if_no_progress (with_reducible refine Keeps.mk ?_ rfl rfl rfl rfl rfl rfl)

theorem State.leaveStack_keeps (s : State) (st : Nat) : Keeps s (State.leaveStack s st) := by
  unfold State.leaveStack
  dsimp only
  refine Keeps.fold _ _ ?_ (fun _ _ => State.modChan_keeps ..)
  exact Keeps.cut (Keeps.refl s) _ _ rfl rfl rfl rfl

theorem State.leaveHeath_keeps (s : State) (h : Nat) : Keeps s (State.leaveHeath s h) := by
  unfold State.leaveHeath
  exact Keeps.cut (Keeps.refl s) _ _ rfl rfl rfl rfl

theorem State.leaveTest_keeps (s : State) (k u : Nat) : Keeps s (State.leaveTest s k u) := by
  unfold State.leaveTest
  repeat' first
    | with_reducible exact Keeps.refl _
    | with_reducible apply Keeps.trans ?_ (State.leaveCluster_keeps ..)
    | with_reducible apply Keeps.trans ?_ (State.leaveStack_keeps ..)
    | with_reducible apply Keeps.trans ?_ (State.leaveHeath_keeps ..)
    | with_reducible refine Keeps.ite ?_ ?_

theorem State.becomeReady_keeps (s : State) (d : Nat) : Keeps s (State.becomeReady s d) := by
  unfold State.becomeReady
  repeat' first
    | with_reducible exact Keeps.refl _
    | with_reducible apply Keeps.trans ?_ (State.setBit_keeps ..)
    | with_reducible apply Keeps.trans ?_ (State.setReady_keeps ..)
    | with_reducible refine Keeps.ite ?_ ?_

theorem State.endTest_keeps (s : State) (k u : Nat) (pass : Bool) (remaps : BitVec 8) : Keeps s (State.endTest s k u pass remaps) := by
  unfold State.endTest
  repeat' first
    | with_reducible exact Keeps.refl _
    | with_reducible apply Keeps.trans ?_ (State.setBit_keeps ..)
    | with_reducible apply Keeps.trans ?_ (State.setSt_keeps ..)
    | with_reducible apply Keeps.trans ?_ (State.showTests_keeps ..)
    | with_reducible apply Keeps.trans ?_ (State.startTests_keeps ..)
    | with_reducible apply Keeps.trans ?_ (State.takeRemaps_keeps ..)
    | with_reducible apply Keeps.trans ?_ (State.leaveTest_keeps ..)
    | with_reducible apply Keeps.trans ?_ (State.becomeReady_keeps ..)
    | with_reducible refine Keeps.ite ?_ ?_
    | dsimp only
    | split

theorem State.switchDone_keeps (s : State) (d : Nat) : Keeps s (State.switchDone s d) := by
  unfold State.switchDone
  repeat' first
    | with_reducible exact Keeps.refl _
    | with_reducible apply Keeps.trans ?_ (State.orReg_keeps ..)
    | with_reducible apply Keeps.trans ?_ (State.setDom_keeps ..)
    | with_reducible apply Keeps.trans ?_ (State.promote_keeps ..)
    | with_reducible apply Keeps.trans ?_ (State.startCc_keeps ..)
    | with_reducible apply Keeps.trans ?_ (State.startTests_keeps ..)
    | with_reducible refine Keeps.ite ?_ ?_
    | dsimp only
    | split

theorem State.initDone_keeps (s : State) (d : Nat) (trained : BitVec 8) : Keeps s (State.initDone s d trained) := by
  unfold State.initDone
  repeat' first
    | with_reducible exact Keeps.refl _
    | with_reducible apply Keeps.trans ?_ (State.setFld_keeps ..)
    | with_reducible apply Keeps.trans ?_ (State.setBit_keeps ..)
    | with_reducible apply Keeps.trans ?_ (State.linkEnable_keeps ..)
    | with_reducible apply Keeps.trans ?_ (State.loadRemaps_keeps ..)
    | with_reducible apply Keeps.trans ?_ (State.loadFuses_keeps ..)
    | with_reducible apply Keeps.trans ?_ (State.becomeReady_keeps ..)
    | with_reducible refine Keeps.fold _ _ ?_ (fun _ _ => ?_)
    | with_reducible refine Keeps.ite ?_ ?_

theorem State.fuseClusters_keeps (s : State) : Keeps s (State.fuseClusters s) := by
  unfold State.fuseClusters
  repeat' first
    | with_reducible exact Keeps.refl _
    | with_reducible apply Keeps.trans ?_ (State.setBit_keeps ..)
    | with_reducible apply Keeps.trans ?_ (State.setDom_keeps ..)
    | with_reducible refine Keeps.fold _ _ ?_ (fun _ _ => ?_)

theorem State.takeRecord_keeps (s : State) (r : List Byte) : Keeps s (State.takeRecord s r) := by
  refine Keeps.fuses (Keeps.refl s) rfl rfl rfl ⟨Nat.le_refl _, rfl, fun h => ?_⟩
  unfold State.takeRecord
  exact if_neg (by simpa using h)

theorem State.applyRecord_keeps (s : State) (r : List Byte) : Keeps s (State.applyRecord s r) := by
  unfold State.applyRecord
  repeat' first
    | with_reducible exact Keeps.refl _
    | with_reducible apply Keeps.trans ?_ (State.takeRecord_keeps ..)
    | with_reducible apply Keeps.trans ?_ (State.setReg_keeps ..)
    | with_reducible apply Keeps.trans ?_ (State.setFld_keeps ..)
    | with_reducible apply Keeps.trans ?_ (State.setBit_keeps ..)
    | with_reducible apply Keeps.trans ?_ (State.logCfgWrite_keeps ..)
    | with_reducible apply Keeps.trans ?_ (State.showGp3_keeps ..)
    | with_reducible apply Keeps.trans ?_ (State.fuseClusters_keeps ..)
    | with_reducible refine Keeps.fold _ _ ?_ (fun _ _ => ?_)
    | with_reducible refine Keeps.ite ?_ ?_

theorem State.putStq_keeps (s : State) (l : List (Nat × Nat)) : Keeps s { s with se := { s.se with stq := l } } :=
  Keeps.mk (Keeps.refl s) rfl rfl rfl rfl rfl rfl

theorem State.firmwareGo_keeps (s : State) (r : List Byte) : Keeps s (State.firmwareGo s r) := by
  unfold State.firmwareGo
  with_reducible refine Keeps.trans ?_ (State.promote_keeps ..)
  exact ((State.applyRecord_keeps ..).trans (State.setStage_keeps ..)).trans (State.putStq_keeps ..)

theorem State.firmwareRun_keeps (s : State) (r : List Byte) : Keeps s (State.firmwareRun s r) := by
  unfold State.firmwareRun
  split
  · exact (State.setFld_keeps ..).trans (State.bootFail_keeps ..)
  · exact (State.setFld_keeps ..).trans (State.firmwareGo_keeps ..)

theorem State.firmware_keeps (s : State) : Keeps s (State.firmware s) := by
  unfold State.firmware
  with_reducible refine Keeps.ite (Keeps.refl s) ?_
  have h := State.flashFails_keeps s
  split
  · rename_i u e
    exact (Keeps.pair e h).trans (State.bootFail_keeps ..)
  · rename_i u e
    exact (Keeps.pair e h).trans (State.firmwareRun_keeps ..)

theorem State.release_keeps (s : State) (a1 : Nat) (a2 : List Image) : Keeps s (State.release s a1 a2) := by
  unfold State.release
  repeat' first
    | with_reducible exact Keeps.refl _
    | with_reducible apply Keeps.trans ?_ (State.setBit_keeps ..)
    | with_reducible apply Keeps.trans ?_ (State.orReg_keeps ..)
    | with_reducible apply Keeps.trans ?_ (State.setDom_keeps ..)
    | with_reducible apply Keeps.trans ?_ (State.setReady_keeps ..)
    | with_reducible apply Keeps.trans ?_ (State.writeBytes_keeps ..)
    | with_reducible apply Keeps.trans ?_ (State.startCc_keeps ..)
    | with_reducible apply Keeps.trans ?_ (State.setStage_keeps ..)
    | with_reducible apply Keeps.trans ?_ (State.extend_keeps ..)
    | with_reducible refine Keeps.fold _ _ ?_ (fun _ _ => ?_)
    | dsimp only
    | fail_if_no_progress (with_reducible refine Keeps.mk ?_ rfl rfl rfl rfl rfl rfl)

theorem State.loaded_keeps (s : State) : Keeps s (State.loaded s) := by
  unfold State.loaded
  with_reducible refine Keeps.ite (Keeps.refl s) ?_
  have h := State.flashFails_keeps s
  split
  · rename_i u e
    exact (Keeps.pair e h).trans (State.bootFail_keeps ..)
  · rename_i u e
    exact (Keeps.pair e h).trans (Keeps.ite (State.bootFail_keeps ..) (State.release_keeps ..))

theorem State.flashStart_keeps (s : State) (op a : Nat) : Keeps s (State.flashStart s op a) := by
  unfold State.flashStart
  repeat' first
    | with_reducible exact Keeps.refl _
    | with_reducible apply Keeps.trans ?_ (State.setFld_keeps ..)
    | with_reducible apply Keeps.trans ?_ (State.setBit_keeps ..)
    | with_reducible apply Keeps.trans ?_ (State.readRun_keeps ..)
    | with_reducible refine Keeps.ite ?_ ?_
    | dsimp only
    | split
    | fail_if_no_progress (with_reducible refine Keeps.mk ?_ rfl rfl rfl rfl rfl rfl)

theorem State.flashDone_keeps (s : State) (pass : Bool) : Keeps s (State.flashDone s pass) := by
  unfold State.flashDone
  repeat' first
    | with_reducible exact Keeps.refl _
    | with_reducible apply Keeps.trans ?_ (State.setFld_keeps ..)
    | with_reducible apply Keeps.trans ?_ (State.setBit_keeps ..)
    | with_reducible refine Keeps.ite ?_ ?_
    | dsimp only
    | split
    | fail_if_no_progress (with_reducible refine Keeps.mk ?_ rfl rfl rfl rfl rfl rfl)

theorem State.blow_keeps (s : State) : Keeps s (State.blow s) := by
  unfold State.blow
  dsimp only
  split
  · rename_i h
    with_reducible refine Keeps.trans ?_ (State.setBit_keeps ..)
    with_reducible refine Keeps.trans ?_ (State.setBit_keeps ..)
    with_reducible refine Keeps.trans ?_ (State.setFld_keeps ..)
    exact Keeps.fuses (Keeps.refl s) rfl rfl rfl ⟨Nat.le_of_lt h, rfl, fun _ => rfl⟩
  · exact Keeps.refl s

theorem State.quoteStart_keeps (s : State) (op a : Nat) : Keeps s (State.quoteStart s op a) := by
  unfold State.quoteStart
  repeat' first
    | with_reducible exact Keeps.refl _
    | with_reducible apply Keeps.trans ?_ (State.setFld_keeps ..)
    | with_reducible apply Keeps.trans ?_ (State.refuseQuote_keeps ..)
    | with_reducible refine Keeps.ite ?_ ?_
    | dsimp only
    | split
    | fail_if_no_progress (with_reducible refine Keeps.mk ?_ rfl rfl rfl rfl rfl rfl)

theorem State.quoteEnd_keeps (s : State) : Keeps s (State.quoteEnd s) := by
  unfold State.quoteEnd
  repeat' first
    | with_reducible exact Keeps.refl _
    | with_reducible apply Keeps.trans ?_ (State.setFld_keeps ..)
    | with_reducible apply Keeps.trans ?_ (State.setBit_keeps ..)
    | with_reducible apply Keeps.trans ?_ (State.writeBytes_keeps ..)
    | dsimp only
    | split
    | fail_if_no_progress (with_reducible refine Keeps.mk ?_ rfl rfl rfl rfl rfl rfl)

theorem State.jtag_keeps (s : State) (ir : BitVec 8) (dr : Word) : Keeps s (State.jtag s ir dr) := by
  unfold State.jtag
  repeat' first
    | with_reducible exact Keeps.refl _
    | dsimp only
    | fail_if_no_progress (with_reducible refine Keeps.mk ?_ rfl rfl rfl rfl rfl rfl)

theorem State.bypassNow_keeps (s : State) : Keeps s (State.bypassNow s) := by
  unfold State.bypassNow
  repeat' first
    | with_reducible exact Keeps.refl _
    | with_reducible apply Keeps.trans ?_ (State.jtag_keeps ..)

theorem State.haltAll_keeps (s : State) : Keeps s (State.haltAll s) := by
  unfold State.haltAll
  repeat' first
    | with_reducible exact Keeps.refl _
    | with_reducible apply Keeps.trans ?_ (State.haltCmd_keeps ..)
    | with_reducible refine Keeps.fold _ _ ?_ (fun _ _ => ?_)

theorem State.clearStart_keeps (s : State) : Keeps s (State.clearStart s) := by
  unfold State.clearStart
  repeat' first
    | with_reducible exact Keeps.refl _
    | with_reducible apply Keeps.trans ?_ (State.setFld_keeps ..)
    | with_reducible apply Keeps.trans ?_ (State.setBit_keeps ..)
    | with_reducible apply Keeps.trans ?_ (State.abortTests_keeps ..)
    | with_reducible apply Keeps.trans ?_ (State.haltAll_keeps ..)
    | dsimp only
    | fail_if_no_progress (with_reducible refine Keeps.mk ?_ rfl rfl rfl rfl rfl rfl)

theorem State.zeroSecrets_keeps (s : State) : Keeps s (State.zeroSecrets s) := by
  unfold State.zeroSecrets
  repeat' first
    | with_reducible exact Keeps.refl _
    | with_reducible apply Keeps.trans ?_ (State.dropRegs_keeps ..)
    | with_reducible apply Keeps.trans ?_ (State.clearBoot_keeps ..)
    | dsimp only
    | fail_if_no_progress (with_reducible refine Keeps.mk ?_ rfl rfl rfl rfl rfl rfl)

theorem State.clearEnd_keeps (s : State) : Keeps s (State.clearEnd s) := by
  unfold State.clearEnd
  repeat' first
    | with_reducible exact Keeps.refl _
    | with_reducible apply Keeps.trans ?_ (State.setFld_keeps ..)
    | with_reducible apply Keeps.trans ?_ (State.cutAll_keeps ..)
    | with_reducible apply Keeps.trans ?_ (State.setStage_keeps ..)
    | with_reducible apply Keeps.trans ?_ (State.zeroSecrets_keeps ..)
    | with_reducible refine Keeps.ite ?_ ?_

end Sys2Proof.Machine
end

