-- ==== Sys2Proof/Laws/KeepsControl.lean ====
section
/-! SUPPORT. What the operations of Machine/Control.lean keep. -/
namespace Sys2Proof.Machine

theorem State.controlRead_keeps (s : State) (off late : Nat) : Keeps s (State.controlRead s off late).1 := by
  unfold State.controlRead
  repeat' first
    | with_reducible exact Keeps.refl _
    | with_reducible apply Keeps.trans ?_ (State.setReg_keeps ..)
    | with_reducible apply Keeps.trans ?_ (State.clearWait_keeps ..)
    | with_reducible apply Keeps.trans ?_ (State.claim_keeps ..)
    | with_reducible refine Keeps.ite ?_ ?_
    | with_reducible refine Keeps.itePair ?_ ?_
    | dsimp only
    | split

theorem State.putBounds_keeps (s : State) (f i : Nat) (v : Word) : Keeps s (State.putBounds s f i v) := by
  unfold State.putBounds
  repeat' first
    | with_reducible exact Keeps.refl _
    | with_reducible apply Keeps.trans ?_ (State.setReg_keeps ..)
    | with_reducible refine Keeps.fold _ _ ?_ (fun _ _ => ?_)

theorem State.clearBit_keeps (s : State) (r : Reg) (p n : Nat) (v : Word) : Keeps s (State.clearBit s r p n v) := by
  unfold State.clearBit
  repeat' first
    | with_reducible exact Keeps.refl _
    | with_reducible apply Keeps.trans ?_ (State.setBit_keeps ..)
    | with_reducible refine Keeps.ite ?_ ?_

theorem State.ethRing_keeps (s : State) (p : Nat) (tx : Bool) (v : Word) : Keeps s (State.ethRing s p tx v) := by
  unfold State.ethRing
  repeat' first
    | with_reducible exact Keeps.refl _
    | with_reducible apply Keeps.trans ?_ (State.setFld_keeps ..)
    | with_reducible apply Keeps.trans ?_ (State.prodWrite_keeps ..)

theorem State.plainWrite_keeps (s : State) (r : Reg) (p i : Nat) (v : Word) (hw : Nat) : Keeps s (State.plainWrite s r p i v hw) := by
  unfold State.plainWrite
  repeat' first
    | with_reducible exact Keeps.refl _
    | with_reducible apply Keeps.trans ?_ (State.setReg_keeps ..)

theorem State.writeCompute_keeps (s : State) (r : Reg) (p i : Nat) (v : Word) (hw : Nat) : Keeps s (State.writeCompute s r p i v hw) := by
  unfold State.writeCompute
  repeat' first
    | with_reducible exact Keeps.refl _
    | with_reducible apply Keeps.trans ?_ (State.setReg_keeps ..)
    | with_reducible apply Keeps.trans ?_ (State.mirrorOut_keeps ..)
    | with_reducible apply Keeps.trans ?_ (State.ctxStart_keeps ..)
    | with_reducible apply Keeps.trans ?_ (State.ring_keeps ..)
    | with_reducible apply Keeps.trans ?_ (State.tdWrite_keeps ..)
    | with_reducible apply Keeps.trans ?_ (State.exportOp_keeps ..)
    | with_reducible apply Keeps.trans ?_ (State.resCtl_keeps ..)
    | with_reducible apply Keeps.trans ?_ (State.twinFormOp_keeps ..)
    | with_reducible apply Keeps.trans ?_ (State.twinDissolveOp_keeps ..)
    | with_reducible apply Keeps.trans ?_ (State.auditCfg_keeps ..)
    | with_reducible apply Keeps.trans ?_ (State.arbCfg_keeps ..)
    | with_reducible apply Keeps.trans ?_ (State.plainWrite_keeps ..)
    | with_reducible refine Keeps.ite ?_ ?_
    | dsimp only
    | split

theorem State.writeServe_keeps (s : State) (r : Reg) (p i : Nat) (v : Word) (hw : Nat) : Keeps s (State.writeServe s r p i v hw) := by
  unfold State.writeServe
  repeat' first
    | with_reducible exact Keeps.refl _
    | with_reducible apply Keeps.trans ?_ (State.rangeStart_keeps ..)
    | with_reducible apply Keeps.trans ?_ (State.rangeNone_keeps ..)
    | with_reducible apply Keeps.trans ?_ (State.regulator_keeps ..)
    | with_reducible apply Keeps.trans ?_ (State.writeCfg_keeps ..)
    | with_reducible apply Keeps.trans ?_ (State.srecCtl_keeps ..)
    | with_reducible apply Keeps.trans ?_ (State.setFmt_keeps ..)
    | with_reducible apply Keeps.trans ?_ (State.poolWrite_keeps ..)
    | with_reducible apply Keeps.trans ?_ (State.poolFree_keeps ..)
    | with_reducible apply Keeps.trans ?_ (State.outCfg_keeps ..)
    | with_reducible apply Keeps.trans ?_ (State.srvEnqueue_keeps ..)
    | with_reducible apply Keeps.trans ?_ (State.partState_keeps ..)
    | with_reducible apply Keeps.trans ?_ (State.partCfg_keeps ..)
    | with_reducible apply Keeps.trans ?_ (State.partStop_keeps ..)
    | with_reducible apply Keeps.trans ?_ (State.streamCtl_keeps ..)
    | with_reducible apply Keeps.trans ?_ (State.putBounds_keeps ..)
    | with_reducible apply Keeps.trans ?_ (State.clearBit_keeps ..)
    | with_reducible apply Keeps.trans ?_ (State.plainWrite_keeps ..)
    | with_reducible refine Keeps.ite ?_ ?_
    | split

theorem State.writeLinks_keeps (s : State) (r : Reg) (p i : Nat) (v : Word) (hw : Nat) : Keeps s (State.writeLinks s r p i v hw) := by
  unfold State.writeLinks
  repeat' first
    | with_reducible exact Keeps.refl _
    | with_reducible apply Keeps.trans ?_ (State.setReg_keeps ..)
    | with_reducible apply Keeps.trans ?_ (State.setFld_keeps ..)
    | with_reducible apply Keeps.trans ?_ (State.logLevel_keeps ..)
    | with_reducible apply Keeps.trans ?_ (State.holdAbandon_keeps ..)
    | with_reducible apply Keeps.trans ?_ (State.holdRelease_keeps ..)
    | with_reducible apply Keeps.trans ?_ (State.reloadGo_keeps ..)
    | with_reducible apply Keeps.trans ?_ (State.rmapWrite_keeps ..)
    | with_reducible apply Keeps.trans ?_ (State.injWrite_keeps ..)
    | with_reducible apply Keeps.trans ?_ (State.logCfgWrite_keeps ..)
    | with_reducible apply Keeps.trans ?_ (State.traceStart_keeps ..)
    | with_reducible apply Keeps.trans ?_ (State.traceStop_keeps ..)
    | with_reducible apply Keeps.trans ?_ (State.traceCfgWrite_keeps ..)
    | with_reducible apply Keeps.trans ?_ (State.retrainNow_keeps ..)
    | with_reducible apply Keeps.trans ?_ (State.linkEnable_keeps ..)
    | with_reducible apply Keeps.trans ?_ (State.linkInj_keeps ..)
    | with_reducible apply Keeps.trans ?_ (State.confirmNow_keeps ..)
    | with_reducible apply Keeps.trans ?_ (State.formPair_keeps ..)
    | with_reducible apply Keeps.trans ?_ (State.breakPair_keeps ..)
    | with_reducible apply Keeps.trans ?_ (State.plainWrite_keeps ..)
    | with_reducible refine Keeps.ite ?_ ?_
    | dsimp only
    | split

theorem State.writePlatform_keeps (s : State) (r : Reg) (p i : Nat) (v : Word) (hw : Nat) : Keeps s (State.writePlatform s r p i v hw) := by
  unfold State.writePlatform
  repeat' first
    | with_reducible exact Keeps.refl _
    | with_reducible apply Keeps.trans ?_ (State.setReg_keeps ..)
    | with_reducible apply Keeps.trans ?_ (State.refuseSwitch_keeps ..)
    | with_reducible apply Keeps.trans ?_ (State.switchOn_keeps ..)
    | with_reducible apply Keeps.trans ?_ (State.switchOff_keeps ..)
    | with_reducible apply Keeps.trans ?_ (State.pwrInjWrite_keeps ..)
    | with_reducible apply Keeps.trans ?_ (State.completeAt_keeps ..)
    | with_reducible apply Keeps.trans ?_ (State.putSoft_keeps ..)
    | with_reducible apply Keeps.trans ?_ (State.timer_keeps ..)
    | with_reducible apply Keeps.trans ?_ (State.measExt_keeps ..)
    | with_reducible apply Keeps.trans ?_ (State.requestTest_keeps ..)
    | with_reducible apply Keeps.trans ?_ (State.flashStart_keeps ..)
    | with_reducible apply Keeps.trans ?_ (State.blow_keeps ..)
    | with_reducible apply Keeps.trans ?_ (State.quoteStart_keeps ..)
    | with_reducible apply Keeps.trans ?_ (State.ethRing_keeps ..)
    | with_reducible apply Keeps.trans ?_ (State.plainWrite_keeps ..)
    | with_reducible refine Keeps.fold _ _ ?_ (fun _ _ => ?_)
    | with_reducible refine Keeps.ite ?_ ?_
    | dsimp only
    | split

theorem State.controlWrite_keeps (s : State) (off : Nat) (v : Word) (hw : Nat) : Keeps s (State.controlWrite s off v hw) := by
  unfold State.controlWrite
  repeat' first
    | with_reducible exact Keeps.refl _
    | with_reducible apply Keeps.trans ?_ (State.writeCompute_keeps ..)
    | with_reducible apply Keeps.trans ?_ (State.writeServe_keeps ..)
    | with_reducible apply Keeps.trans ?_ (State.writeLinks_keeps ..)
    | with_reducible apply Keeps.trans ?_ (State.writePlatform_keeps ..)
    | split

theorem State.peerWrite_keeps (s : State) (dev off : Nat) (v : Word) : Keeps s (State.peerWrite s dev off v) := by
  unfold State.peerWrite
  repeat' first
    | with_reducible exact Keeps.refl _
    | with_reducible apply Keeps.trans ?_ (State.bump_keeps ..)
    | with_reducible apply Keeps.trans ?_ (State.exportOp_keeps ..)
    | with_reducible refine Keeps.ite ?_ ?_
    | split

theorem State.accessFault_keeps (s : State) (h a : Nat) : Keeps s (State.accessFault s h a) := by
  unfold State.accessFault
  repeat' first
    | with_reducible exact Keeps.refl _
    | dsimp only
    | fail_if_no_progress (with_reducible refine Keeps.mk ?_ rfl rfl rfl rfl rfl rfl)

theorem State.coreRemote_keeps (s : State) (h : Hart) (addr dev n : Nat) (rd : Bool) : Keeps s (State.coreRemote s h addr dev n rd) := by
  unfold State.coreRemote
  repeat' first
    | with_reducible exact Keeps.refl _
    | with_reducible apply Keeps.trans ?_ (State.bump_keeps ..)
    | with_reducible apply Keeps.trans ?_ (State.setAcks_keeps ..)
    | with_reducible apply Keeps.trans ?_ (State.coreSend_keeps ..)
    | with_reducible apply Keeps.trans ?_ (State.accessFault_keeps ..)
    | with_reducible refine Keeps.ite ?_ ?_

theorem State.load_keeps (s : State) (h : Hart) (addr n : Nat) : Keeps s (State.load s h addr n) := by
  unfold State.load
  repeat' first
    | with_reducible exact Keeps.refl _
    | with_reducible apply Keeps.trans ?_ (State.bump_keeps ..)
    | with_reducible apply Keeps.trans ?_ (State.request_keeps ..)
    | with_reducible apply Keeps.trans ?_ (State.answerCore_keeps ..)
    | with_reducible apply Keeps.trans ?_ (State.controlRead_keeps ..)
    | with_reducible apply Keeps.trans ?_ (State.accessFault_keeps ..)
    | with_reducible apply Keeps.trans ?_ (State.coreRemote_keeps ..)
    | dsimp only
    | split

theorem State.store_keeps (s : State) (h : Hart) (addr : Nat) (data : List Byte) : Keeps s (State.store s h addr data) := by
  unfold State.store
  repeat' first
    | with_reducible exact Keeps.refl _
    | with_reducible apply Keeps.trans ?_ (State.bump_keeps ..)
    | with_reducible apply Keeps.trans ?_ (State.writeBytes_keeps ..)
    | with_reducible apply Keeps.trans ?_ (State.setAcks_keeps ..)
    | with_reducible apply Keeps.trans ?_ (State.accessFault_keeps ..)
    | with_reducible apply Keeps.trans ?_ (State.coreRemote_keeps ..)
    | dsimp only
    | split
    | fail_if_no_progress (with_reducible refine Keeps.mk ?_ rfl rfl rfl rfl rfl rfl)

theorem State.takePost_keeps (s : State) (i : Issuer) (a : Nat) (data : List Byte) : Keeps s (State.takePost s i a data) := by
  unfold State.takePost
  repeat' first
    | with_reducible exact Keeps.refl _
    | dsimp only
    | split
    | fail_if_no_progress (with_reducible refine Keeps.mk ?_ rfl rfl rfl rfl rfl rfl)

theorem State.writeAt_keeps (s : State) (i : Issuer) (a : Nat) (data mask : List Byte) (poison : Bool) : Keeps s (State.writeAt s i a data mask poison) := by
  unfold State.writeAt
  repeat' first
    | with_reducible exact Keeps.refl _
    | with_reducible apply Keeps.trans ?_ (State.sendAck_keeps ..)
    | with_reducible apply Keeps.trans ?_ (State.request_keeps ..)
    | with_reducible apply Keeps.trans ?_ (State.controlWrite_keeps ..)
    | with_reducible apply Keeps.trans ?_ (State.takePost_keeps ..)
    | dsimp only
    | split

end Sys2Proof.Machine
end

