-- ==== Sys2Proof/Laws/KeepsMgmt.lean ====
section
/-! SUPPORT. What the operations of Machine/Mgmt.lean keep. -/
namespace Sys2Proof.Machine

theorem State.dropFrame_keeps (s : State) : Keeps s (State.dropFrame s) := by
  unfold State.dropFrame
  repeat' first
    | with_reducible exact Keeps.refl _
    | with_reducible apply Keeps.trans ?_ (State.bump_keeps ..)

theorem State.filterFrame_keeps (s : State) (m : MgmtFrame) : Keeps s (State.filterFrame s m) := by
  unfold State.filterFrame
  repeat' first
    | with_reducible exact Keeps.refl _
    | with_reducible apply Keeps.trans ?_ (State.dropFrame_keeps ..)
    | with_reducible refine Keeps.ite ?_ ?_
    | dsimp only
    | fail_if_no_progress (with_reducible refine Keeps.mk ?_ rfl rfl rfl rfl rfl rfl)

theorem State.reply_keeps (s : State) (l : List Byte) (c : MgmtCause) : Keeps s (State.reply s l c) := by
  unfold State.reply
  repeat' first
    | with_reducible exact Keeps.refl _
    | dsimp only
    | fail_if_no_progress (with_reducible refine Keeps.mk ?_ rfl rfl rfl rfl rfl rfl)

theorem State.readReply_keeps (s : State) (off : Nat) : Keeps s (State.readReply s off) := by
  unfold State.readReply
  repeat' first
    | with_reducible exact Keeps.refl _
    | with_reducible apply Keeps.trans ?_ (State.controlRead_keeps ..)
    | with_reducible apply Keeps.trans ?_ (State.reply_keeps ..)
    | with_reducible refine Keeps.ite ?_ ?_
    | dsimp only
    | split

theorem State.takeUnsigned_keeps (s : State) (op : BitVec 8) {out : State} (h : State.takeUnsigned s op = some out) : Keeps s out := by
  unfold State.takeUnsigned at h
  split at h
  · split at h
    · injection h with h
      subst h
      exact Keeps.mk (Keeps.refl s) rfl rfl rfl rfl rfl rfl
    · contradiction
  · contradiction

theorem State.accept_keeps (s : State) (m : MgmtFrame) : Keeps s (State.accept s m) := by
  unfold State.accept
  repeat' first
    | with_reducible exact Keeps.refl _
    | with_reducible apply Keeps.trans ?_ (State.setReg_keeps ..)

theorem State.signed_keeps (s : State) (op : BitVec 8) (m : MgmtFrame) (act : State → State) (hact : ∀ (a0 : State), Keeps a0 (act a0)) : Keeps s (State.signed s op m act) := by
  unfold State.signed
  repeat' first
    | with_reducible exact Keeps.refl _
    | with_reducible apply Keeps.trans ?_ (hact _)
    | with_reducible apply Keeps.trans ?_ (State.reply_keeps ..)
    | with_reducible apply Keeps.trans ?_ (State.accept_keeps ..)
    | with_reducible refine Keeps.ite ?_ ?_
    | dsimp only
    | split
    | fail_if_no_progress (with_reducible refine Keeps.mk ?_ rfl rfl rfl rfl rfl rfl)

theorem State.resetModule_keeps (s : State) : Keeps s (State.resetModule s) := by
  unfold State.resetModule
  repeat' first
    | with_reducible exact Keeps.refl _
    | with_reducible apply Keeps.trans ?_ (State.setReg_keeps ..)
    | with_reducible apply Keeps.trans ?_ (State.setFld_keeps ..)
    | with_reducible apply Keeps.trans ?_ (State.powerOn_keeps ..)
    | with_reducible refine Keeps.ite ?_ ?_
    | dsimp only
    | fail_if_no_progress (with_reducible refine Keeps.mk ?_ rfl rfl rfl rfl rfl rfl)

end Sys2Proof.Machine
end

