-- ==== Sys2Proof/Laws/Commands.lean ====
section
/-! SUPPORT. What every command's meaning keeps: the queue, the canonical form of memory, the fuses. One lemma for
each meaning, from the lemmas about the operations it calls. -/
namespace Sys2Proof.Machine

theorem execRegisterWrite_keeps (a0 a1 a2) (s t : State) (h : execRegisterWrite a0 a1 a2 s = .next t) : Keeps s t := by
  injection h with h; exact h ▸ State.controlWrite_keeps ..
theorem execReadClear_keeps (a0 a1) (s t : State) (h : execReadClear a0 a1 s = .next t) : Keeps s t := by
  unfold execReadClear at h; injection h with h; subst h
  repeat' first
    | with_reducible exact Keeps.refl _
    | with_reducible apply Keeps.trans ?_ (State.answerCore_keeps ..)
    | with_reducible apply Keeps.trans ?_ (State.controlRead_keeps ..)
theorem execCoreLoad_keeps (a0 a1 a2) (s t : State) (h : execCoreLoad a0 a1 a2 s = .next t) : Keeps s t := by
  injection h with h; exact h ▸ State.load_keeps ..
theorem execCoreStore_keeps (a0 a1 a2) (s t : State) (h : execCoreStore a0 a1 a2 s = .next t) : Keeps s t := by
  injection h with h; exact h ▸ State.store_keeps ..
theorem execFence_keeps (a0 a1 a2 a3 a4) (s t : State) (h : execFence a0 a1 a2 a3 a4 s = .next t) : Keeps s t := by
  unfold execFence at h; injection h with h; subst h
  repeat' first
    | with_reducible exact Keeps.refl _
    | with_reducible refine Keeps.fold _ _ ?_ (fun _ _ => ?_)
    | with_reducible refine Keeps.ite ?_ ?_
    | intro _
    | dsimp only
    | split
    | fail_if_no_progress (with_reducible refine Keeps.mk ?_ rfl rfl rfl rfl rfl rfl)
theorem execTwinForm_keeps (a0 a1 a2) (s t : State) (h : execTwinForm a0 a1 a2 s = .next t) : Keeps s t := by
  injection h with h; exact h ▸ State.twinFormOp_keeps ..
theorem execTwinDissolve_keeps (a0 a1 a2) (s t : State) (h : execTwinDissolve a0 a1 a2 s = .next t) : Keeps s t := by
  injection h with h; exact h ▸ State.twinDissolveOp_keeps ..
theorem execTwinClockSwitched_keeps (a0) (s t : State) (h : execTwinClockSwitched a0 s = .next t) : Keeps s t := by
  injection h with h; exact h ▸ State.twinSwitched_keeps ..
theorem execTwinRelock_keeps (a0) (s t : State) (h : execTwinRelock a0 s = .next t) : Keeps s t := by
  injection h with h; exact h ▸ State.twinLocked_keeps ..
theorem execAuditConfigWrite_keeps (a0 a1) (s t : State) (h : execAuditConfigWrite a0 a1 s = .next t) : Keeps s t := by
  injection h with h; exact h ▸ State.auditCfg_keeps ..
theorem execAuditTile_keeps (a0) (s t : State) (h : execAuditTile a0 s = .next t) : Keeps s t := by
  unfold execAuditTile at h; injection h with h; subst h
  repeat' first
    | with_reducible exact Keeps.refl _
    | with_reducible apply Keeps.trans ?_ (State.auditTileCmd_keeps ..)
    | with_reducible apply Keeps.trans ?_ (State.awaitBoundary_keeps _ _ (fun _ => ?_))
theorem execTileComplete_keeps (a0) (s t : State) (h : execTileComplete a0 s = .next t) : Keeps s t := by
  unfold execTileComplete at h; injection h with h; subst h
  repeat' first
    | with_reducible exact Keeps.refl _
    | with_reducible apply Keeps.trans ?_ (State.awaitBoundary_keeps _ _ (fun _ => ?_))
    | with_reducible apply Keeps.trans ?_ (State.tileDone_keeps ..)
theorem execDrainComplete_keeps (a0) (s t : State) (h : execDrainComplete a0 s = .next t) : Keeps s t := by
  unfold execDrainComplete at h; injection h with h; subst h
  repeat' first
    | with_reducible exact Keeps.refl _
    | with_reducible apply Keeps.trans ?_ (State.awaitBoundary_keeps _ _ (fun _ => ?_))
    | with_reducible apply Keeps.trans ?_ (State.drainDone_keeps ..)
theorem execKUnitStart_keeps (a0 a1) (s t : State) (h : execKUnitStart a0 a1 s = .next t) : Keeps s t := by
  unfold execKUnitStart at h; injection h with h; subst h
  repeat' first
    | with_reducible exact Keeps.refl _
    | with_reducible apply Keeps.trans ?_ (State.awaitBoundary_keeps _ _ (fun _ => ?_))
    | with_reducible apply Keeps.trans ?_ (State.kUnitStart_keeps ..)
theorem execVectorRound_keeps (a0 a1) (s t : State) (h : execVectorRound a0 a1 s = .next t) : Keeps s t := by
  unfold execVectorRound at h; injection h with h; subst h
  repeat' first
    | with_reducible exact Keeps.refl _
    | with_reducible apply Keeps.trans ?_ (State.awaitBoundary_keeps _ _ (fun _ => ?_))
    | with_reducible apply Keeps.trans ?_ (State.vecRound_keeps ..)
theorem execBset_keeps (a0 a1 a2) (s t : State) (h : execBset a0 a1 a2 s = .next t) : Keeps s t := by
  injection h with h; exact h ▸ State.bsetCmd_keeps ..
theorem execPcfg_keeps (a0 a1 a2) (s t : State) (h : execPcfg a0 a1 a2 s = .next t) : Keeps s t := by
  injection h with h; exact h ▸ State.pcfgCmd_keeps ..
theorem execMpass_keeps (a0 a1 a2) (s t : State) (h : execMpass a0 a1 a2 s = .next t) : Keeps s t := by
  injection h with h; exact h ▸ State.mpassCmd_keeps ..
theorem execPassEnd_keeps (a0 a1) (s t : State) (h : execPassEnd a0 a1 s = .next t) : Keeps s t := by
  injection h with h; exact h ▸ State.passEndCmd_keeps ..
theorem execLpass_keeps (a0 a1 a2) (s t : State) (h : execLpass a0 a1 a2 s = .next t) : Keeps s t := by
  injection h with h; exact h ▸ State.lpassCmd_keeps ..
theorem execSpass_keeps (a0 a1 a2) (s t : State) (h : execSpass a0 a1 a2 s = .next t) : Keeps s t := by
  injection h with h; exact h ▸ State.spassCmd_keeps ..
theorem execFpass_keeps (a0 a1 a2) (s t : State) (h : execFpass a0 a1 a2 s = .next t) : Keeps s t := by
  injection h with h; exact h ▸ State.fpassCmd_keeps ..
theorem execLdr_keeps (a0 a1 a2 a3) (s t : State) (h : execLdr a0 a1 a2 a3 s = .next t) : Keeps s t := by
  injection h with h; exact h ▸ State.ldrCmd_keeps ..
theorem execRdr_keeps (a0 a1 a2) (s t : State) (h : execRdr a0 a1 a2 s = .next t) : Keeps s t := by
  injection h with h; exact h ▸ State.rdrCmd_keeps ..
theorem execAclr_keeps (a0 a1 a2) (s t : State) (h : execAclr a0 a1 a2 s = .next t) : Keeps s t := by
  injection h with h; exact h ▸ State.aclrCmd_keeps ..
theorem execStat_keeps (a0 a1 a2) (s t : State) (h : execStat a0 a1 a2 s = .next t) : Keeps s t := by
  injection h with h; exact h ▸ State.statCmd_keeps ..
theorem execHalt_keeps (a0 a1 a2) (s t : State) (h : execHalt a0 a1 a2 s = .next t) : Keeps s t := by
  injection h with h; exact h ▸ State.haltCmd_keeps ..
theorem execBpuReservedOpcode_keeps (a0 a1 a2) (s t : State) (h : execBpuReservedOpcode a0 a1 a2 s = .next t) : Keeps s t := by
  injection h with h; exact h ▸ State.bpuMalformed_keeps ..
theorem execColumnNop_keeps (a0 a1) (s t : State) (h : execColumnNop a0 a1 s = .next t) : Keeps s t := by
  unfold execColumnNop at h; injection h with h; subst h
  repeat' first
    | with_reducible exact Keeps.refl _
theorem execRd_keeps (a0 a1 a2) (s t : State) (h : execRd a0 a1 a2 s = .next t) : Keeps s t := by
  injection h with h; exact h ▸ State.rdCmd_keeps ..
theorem execWr_keeps (a0 a1 a2 a3) (s t : State) (h : execWr a0 a1 a2 a3 s = .next t) : Keeps s t := by
  injection h with h; exact h ▸ State.wrCmd_keeps ..
theorem execScrb_keeps (a0 a1 a2) (s t : State) (h : execScrb a0 a1 a2 s = .next t) : Keeps s t := by
  injection h with h; exact h ▸ State.scrbCmd_keeps ..
theorem execWrp_keeps (a0 a1 a2) (s t : State) (h : execWrp a0 a1 a2 s = .next t) : Keeps s t := by
  injection h with h; exact h ▸ State.wrpCmd_keeps ..
theorem execColumnReservedOpcode_keeps (a0 a1 a2) (s t : State) (h : execColumnReservedOpcode a0 a1 a2 s = .next t) : Keeps s t := by
  injection h with h; exact h ▸ State.bpuMalformed_keeps ..
theorem execRowNop_keeps (a0 a1) (s t : State) (h : execRowNop a0 a1 s = .next t) : Keeps s t := by
  unfold execRowNop at h; injection h with h; subst h
  repeat' first
    | with_reducible exact Keeps.refl _
theorem execAct_keeps (a0 a1 a2) (s t : State) (h : execAct a0 a1 a2 s = .next t) : Keeps s t := by
  injection h with h; exact h ▸ State.activate_keeps ..
theorem execPre_keeps (a0 a1 a2) (s t : State) (h : execPre a0 a1 a2 s = .next t) : Keeps s t := by
  injection h with h; exact h ▸ State.modBank_keeps ..
theorem execPrea_keeps (a0 a1) (s t : State) (h : execPrea a0 a1 s = .next t) : Keeps s t := by
  injection h with h; exact h ▸ State.preaCmd_keeps ..
theorem execSact_keeps (a0 a1 a2) (s t : State) (h : execSact a0 a1 a2 s = .next t) : Keeps s t := by
  injection h with h; exact h ▸ State.sactCmd_keeps ..
theorem execSpre_keeps (a0 a1) (s t : State) (h : execSpre a0 a1 s = .next t) : Keeps s t := by
  injection h with h; exact h ▸ State.spreCmd_keeps ..
theorem execRef_keeps (a0 a1) (s t : State) (h : execRef a0 a1 s = .next t) : Keeps s t := by
  injection h with h; exact h ▸ State.refCmd_keeps ..
theorem execRfm_keeps (a0 a1 a2) (s t : State) (h : execRfm a0 a1 a2 s = .next t) : Keeps s t := by
  injection h with h; exact h ▸ State.rfmCmd_keeps ..
theorem execSrfm_keeps (a0 a1) (s t : State) (h : execSrfm a0 a1 s = .next t) : Keeps s t := by
  injection h with h; exact h ▸ State.srfmCmd_keeps ..
theorem execBankDescriptorIssue_keeps (a0 a1 a2) (s t : State) (h : execBankDescriptorIssue a0 a1 a2 s = .next t) : Keeps s t := by
  unfold execBankDescriptorIssue at h; injection h with h; subst h
  repeat' first
    | with_reducible exact Keeps.refl _
    | with_reducible apply Keeps.trans ?_ (State.arrive_keeps _ _ _ (fun _ => ?_))
    | with_reducible apply Keeps.trans ?_ (State.bankIssue_keeps ..)
theorem execPassBoundary_keeps (a0 a1) (s t : State) (h : execPassBoundary a0 a1 s = .next t) : Keeps s t := by
  injection h with h; exact h ▸ State.boundary_keeps ..
theorem execBankDescriptorComplete_keeps (a0 a1) (s t : State) (h : execBankDescriptorComplete a0 a1 s = .next t) : Keeps s t := by
  injection h with h; exact h ▸ State.bankComplete_keeps ..
theorem execRefreshDue_keeps (a0 a1) (s t : State) (h : execRefreshDue a0 a1 s = .next t) : Keeps s t := by
  injection h with h; exact h ▸ State.refreshDue_keeps ..
theorem execScrubTick_keeps (a0 a1) (s t : State) (h : execScrubTick a0 a1 s = .next t) : Keeps s t := by
  injection h with h; exact h ▸ State.scrubTick_keeps ..
theorem execArbConfigWrite_keeps (a0 a1) (s t : State) (h : execArbConfigWrite a0 a1 s = .next t) : Keeps s t := by
  injection h with h; exact h ▸ State.arbCfg_keeps ..
theorem execOrdinaryRequest_keeps (a0 a1 a2 a3 a4 a5) (s t : State) (h : execOrdinaryRequest a0 a1 a2 a3 a4 a5 s = .next t) : Keeps s t := by
  injection h with h; exact h ▸ State.ordinary_keeps ..
theorem execAdd_keeps (a0 a1 a2) (s t : State) (h : execAdd a0 a1 a2 s = .next t) : Keeps s t := by
  injection h with h; exact h ▸ State.vecOp_keeps ..
theorem execSub_keeps (a0 a1 a2) (s t : State) (h : execSub a0 a1 a2 s = .next t) : Keeps s t := by
  injection h with h; exact h ▸ State.vecOp_keeps ..
theorem execMul_keeps (a0 a1 a2) (s t : State) (h : execMul a0 a1 a2 s = .next t) : Keeps s t := by
  injection h with h; exact h ▸ State.vecOp_keeps ..
theorem execFma_keeps (a0 a1 a2) (s t : State) (h : execFma a0 a1 a2 s = .next t) : Keeps s t := by
  injection h with h; exact h ▸ State.vecOp_keeps ..
theorem execMin_keeps (a0 a1 a2) (s t : State) (h : execMin a0 a1 a2 s = .next t) : Keeps s t := by
  injection h with h; exact h ▸ State.vecOp_keeps ..
theorem execMax_keeps (a0 a1 a2) (s t : State) (h : execMax a0 a1 a2 s = .next t) : Keeps s t := by
  injection h with h; exact h ▸ State.vecOp_keeps ..
theorem execAbs_keeps (a0 a1 a2) (s t : State) (h : execAbs a0 a1 a2 s = .next t) : Keeps s t := by
  injection h with h; exact h ▸ State.vecOp_keeps ..
theorem execNeg_keeps (a0 a1 a2) (s t : State) (h : execNeg a0 a1 a2 s = .next t) : Keeps s t := by
  injection h with h; exact h ▸ State.vecOp_keeps ..
theorem execCmplt_keeps (a0 a1 a2) (s t : State) (h : execCmplt a0 a1 a2 s = .next t) : Keeps s t := by
  injection h with h; exact h ▸ State.vecOp_keeps ..
theorem execCmple_keeps (a0 a1 a2) (s t : State) (h : execCmple a0 a1 a2 s = .next t) : Keeps s t := by
  injection h with h; exact h ▸ State.vecOp_keeps ..
theorem execCmpeq_keeps (a0 a1 a2) (s t : State) (h : execCmpeq a0 a1 a2 s = .next t) : Keeps s t := by
  injection h with h; exact h ▸ State.vecOp_keeps ..
theorem execSel_keeps (a0 a1 a2) (s t : State) (h : execSel a0 a1 a2 s = .next t) : Keeps s t := by
  injection h with h; exact h ▸ State.vecOp_keeps ..
theorem execMov_keeps (a0 a1 a2) (s t : State) (h : execMov a0 a1 a2 s = .next t) : Keeps s t := by
  injection h with h; exact h ▸ State.vecOp_keeps ..
theorem execRcp_keeps (a0 a1 a2) (s t : State) (h : execRcp a0 a1 a2 s = .next t) : Keeps s t := by
  injection h with h; exact h ▸ State.vecOp_keeps ..
theorem execDiv_keeps (a0 a1 a2) (s t : State) (h : execDiv a0 a1 a2 s = .next t) : Keeps s t := by
  injection h with h; exact h ▸ State.vecOp_keeps ..
theorem execSqrt_keeps (a0 a1 a2) (s t : State) (h : execSqrt a0 a1 a2 s = .next t) : Keeps s t := by
  injection h with h; exact h ▸ State.vecOp_keeps ..
theorem execRsqrt_keeps (a0 a1 a2) (s t : State) (h : execRsqrt a0 a1 a2 s = .next t) : Keeps s t := by
  injection h with h; exact h ▸ State.vecOp_keeps ..
theorem execExp_keeps (a0 a1 a2) (s t : State) (h : execExp a0 a1 a2 s = .next t) : Keeps s t := by
  injection h with h; exact h ▸ State.vecOp_keeps ..
theorem execExp2_keeps (a0 a1 a2) (s t : State) (h : execExp2 a0 a1 a2 s = .next t) : Keeps s t := by
  injection h with h; exact h ▸ State.vecOp_keeps ..
theorem execLog_keeps (a0 a1 a2) (s t : State) (h : execLog a0 a1 a2 s = .next t) : Keeps s t := by
  injection h with h; exact h ▸ State.vecOp_keeps ..
theorem execTanh_keeps (a0 a1 a2) (s t : State) (h : execTanh a0 a1 a2 s = .next t) : Keeps s t := by
  injection h with h; exact h ▸ State.vecOp_keeps ..
theorem execSigm_keeps (a0 a1 a2) (s t : State) (h : execSigm a0 a1 a2 s = .next t) : Keeps s t := by
  injection h with h; exact h ▸ State.vecOp_keeps ..
theorem execSilu_keeps (a0 a1 a2) (s t : State) (h : execSilu a0 a1 a2 s = .next t) : Keeps s t := by
  injection h with h; exact h ▸ State.vecOp_keeps ..
theorem execGelut_keeps (a0 a1 a2) (s t : State) (h : execGelut a0 a1 a2 s = .next t) : Keeps s t := by
  injection h with h; exact h ▸ State.vecOp_keeps ..
theorem execSin_keeps (a0 a1 a2) (s t : State) (h : execSin a0 a1 a2 s = .next t) : Keeps s t := by
  injection h with h; exact h ▸ State.vecOp_keeps ..
theorem execCos_keeps (a0 a1 a2) (s t : State) (h : execCos a0 a1 a2 s = .next t) : Keeps s t := by
  injection h with h; exact h ▸ State.vecOp_keeps ..
theorem execIadd_keeps (a0 a1 a2) (s t : State) (h : execIadd a0 a1 a2 s = .next t) : Keeps s t := by
  injection h with h; exact h ▸ State.vecOp_keeps ..
theorem execImul_keeps (a0 a1 a2) (s t : State) (h : execImul a0 a1 a2 s = .next t) : Keeps s t := by
  injection h with h; exact h ▸ State.vecOp_keeps ..
theorem execImin_keeps (a0 a1 a2) (s t : State) (h : execImin a0 a1 a2 s = .next t) : Keeps s t := by
  injection h with h; exact h ▸ State.vecOp_keeps ..
theorem execImax_keeps (a0 a1 a2) (s t : State) (h : execImax a0 a1 a2 s = .next t) : Keeps s t := by
  injection h with h; exact h ▸ State.vecOp_keeps ..
theorem execCvti_keeps (a0 a1 a2) (s t : State) (h : execCvti a0 a1 a2 s = .next t) : Keeps s t := by
  injection h with h; exact h ▸ State.vecOp_keeps ..
theorem execCvtf_keeps (a0 a1 a2) (s t : State) (h : execCvtf a0 a1 a2 s = .next t) : Keeps s t := by
  injection h with h; exact h ▸ State.vecOp_keeps ..
theorem execIota_keeps (a0 a1 a2) (s t : State) (h : execIota a0 a1 a2 s = .next t) : Keeps s t := by
  injection h with h; exact h ▸ State.vecOp_keeps ..
theorem execRand_keeps (a0 a1 a2) (s t : State) (h : execRand a0 a1 a2 s = .next t) : Keeps s t := by
  injection h with h; exact h ▸ State.vecOp_keeps ..
theorem execBcast_keeps (a0 a1 a2) (s t : State) (h : execBcast a0 a1 a2 s = .next t) : Keeps s t := by
  injection h with h; exact h ▸ State.vecOp_keeps ..
theorem execRot_keeps (a0 a1 a2) (s t : State) (h : execRot a0 a1 a2 s = .next t) : Keeps s t := by
  injection h with h; exact h ▸ State.vecOp_keeps ..
theorem execShft_keeps (a0 a1 a2) (s t : State) (h : execShft a0 a1 a2 s = .next t) : Keeps s t := by
  injection h with h; exact h ▸ State.vecOp_keeps ..
theorem execRev_keeps (a0 a1 a2) (s t : State) (h : execRev a0 a1 a2 s = .next t) : Keeps s t := by
  injection h with h; exact h ▸ State.vecOp_keeps ..
theorem execZip_keeps (a0 a1 a2) (s t : State) (h : execZip a0 a1 a2 s = .next t) : Keeps s t := by
  injection h with h; exact h ▸ State.vecOp_keeps ..
theorem execUnzip_keeps (a0 a1 a2) (s t : State) (h : execUnzip a0 a1 a2 s = .next t) : Keeps s t := by
  injection h with h; exact h ▸ State.vecOp_keeps ..
theorem execXpose16_keeps (a0 a1 a2) (s t : State) (h : execXpose16 a0 a1 a2 s = .next t) : Keeps s t := by
  injection h with h; exact h ▸ State.vecOp_keeps ..
theorem execIdx_keeps (a0 a1 a2) (s t : State) (h : execIdx a0 a1 a2 s = .next t) : Keeps s t := by
  injection h with h; exact h ▸ State.vecOp_keeps ..
theorem execSum_keeps (a0) (s t : State) (h : execSum a0 s = .next t) : Keeps s t := by
  injection h with h; exact h ▸ State.redOp_keeps ..
theorem execReduceMax_keeps (a0) (s t : State) (h : execReduceMax a0 s = .next t) : Keeps s t := by
  injection h with h; exact h ▸ State.redOp_keeps ..
theorem execReduceMin_keeps (a0) (s t : State) (h : execReduceMin a0 s = .next t) : Keeps s t := by
  injection h with h; exact h ▸ State.redOp_keeps ..
theorem execArgmax_keeps (a0) (s t : State) (h : execArgmax a0 s = .next t) : Keeps s t := by
  injection h with h; exact h ▸ State.redOp_keeps ..
theorem execTopk_keeps (a0 a1) (s t : State) (h : execTopk a0 a1 s = .next t) : Keeps s t := by
  injection h with h; exact h ▸ State.redOp_keeps ..
theorem execSample_keeps (a0 a1) (s t : State) (h : execSample a0 a1 s = .next t) : Keeps s t := by
  injection h with h; exact h ▸ State.sampleCmd_keeps ..
theorem execTensorCreate_keeps (a0 a1) (s t : State) (h : execTensorCreate a0 a1 s = .next t) : Keeps s t := by
  injection h with h; exact h ▸ State.tdWrite_keeps ..
theorem execTensorDestroy_keeps (a0 a1) (s t : State) (h : execTensorDestroy a0 a1 s = .next t) : Keeps s t := by
  injection h with h; exact h ▸ State.tdWrite_keeps ..
theorem execTensorCreationComplete_keeps (a0) (s t : State) (h : execTensorCreationComplete a0 s = .next t) : Keeps s t := by
  injection h with h; exact h ▸ State.tdFinish_keeps ..
theorem execContextCreate_keeps (a0 a1) (s t : State) (h : execContextCreate a0 a1 s = .next t) : Keeps s t := by
  injection h with h; exact h ▸ State.ctxStart_keeps ..
theorem execContextDestroy_keeps (a0 a1) (s t : State) (h : execContextDestroy a0 a1 s = .next t) : Keeps s t := by
  injection h with h; exact h ▸ State.ctxStart_keeps ..
theorem execContextCheckComplete_keeps (a0) (s t : State) (h : execContextCheckComplete a0 s = .next t) : Keeps s t := by
  injection h with h; exact h ▸ State.ctxFinish_keeps ..
theorem execDoorbell_keeps (a0 a1) (s t : State) (h : execDoorbell a0 a1 s = .next t) : Keeps s t := by
  injection h with h; exact h ▸ State.ring_keeps ..
theorem execFetch_keeps (a0) (s t : State) (h : execFetch a0 s = .next t) : Keeps s t := by
  unfold execFetch at h; injection h with h; subst h
  repeat' first
    | with_reducible exact Keeps.refl _
    | with_reducible apply Keeps.trans ?_ (State.fetchField_keeps ..)
    | with_reducible refine Keeps.fold _ _ ?_ (fun _ _ => ?_)
    | with_reducible refine Keeps.ite ?_ ?_
theorem execGlintChange_keeps (a0 a1 a2 a3) (s t : State) (h : execGlintChange a0 a1 a2 a3 s = .next t) : Keeps s t := by
  unfold execGlintChange at h; injection h with h; subst h
  repeat' first
    | with_reducible exact Keeps.refl _
    | with_reducible apply Keeps.trans ?_ (State.arrive_keeps _ _ _ (fun _ => ?_))
    | with_reducible apply Keeps.trans ?_ (State.reevaluate_keeps ..)
theorem execGlintSignalArrival_keeps (a0 a1 a2 a3) (s t : State) (h : execGlintSignalArrival a0 a1 a2 a3 s = .next t) : Keeps s t := by
  unfold execGlintSignalArrival at h; injection h with h; subst h
  repeat' first
    | with_reducible exact Keeps.refl _
    | with_reducible apply Keeps.trans ?_ (State.arrive_keeps _ _ _ (fun _ => ?_))
    | with_reducible apply Keeps.trans ?_ (State.signal_keeps ..)
theorem execRearmRequest_keeps (a0 a1 a2 a3) (s t : State) (h : execRearmRequest a0 a1 a2 a3 s = .next t) : Keeps s t := by
  unfold execRearmRequest at h; injection h with h; subst h
  repeat' first
    | with_reducible exact Keeps.refl _
    | with_reducible apply Keeps.trans ?_ (State.arrive_keeps _ _ _ (fun _ => ?_))
    | with_reducible apply Keeps.trans ?_ (State.rearmFor_keeps ..)
theorem execGarmAnswer_keeps (a0 a1) (s t : State) (h : execGarmAnswer a0 a1 s = .next t) : Keeps s t := by
  unfold execGarmAnswer at h; injection h with h; subst h
  repeat' first
    | with_reducible exact Keeps.refl _
    | with_reducible apply Keeps.trans ?_ (State.arrive_keeps _ _ _ (fun _ => ?_))
    | with_reducible apply Keeps.trans ?_ (State.garmAnswered_keeps ..)
theorem execDispatch_keeps (a0 a1) (s t : State) (h : execDispatch a0 a1 s = .next t) : Keeps s t := by
  unfold execDispatch at h; injection h with h; subst h
  repeat' first
    | with_reducible exact Keeps.refl _
    | with_reducible apply Keeps.trans ?_ (State.awaitBoundary_keeps _ _ (fun _ => ?_))
    | with_reducible apply Keeps.trans ?_ (State.dispatchAt_keeps ..)
    | with_reducible refine Keeps.fold _ _ ?_ (fun _ _ => ?_)
    | with_reducible refine Keeps.ite ?_ ?_
theorem execKillComplete_keeps (a0) (s t : State) (h : execKillComplete a0 s = .next t) : Keeps s t := by
  unfold execKillComplete at h; injection h with h; subst h
  repeat' first
    | with_reducible exact Keeps.refl _
    | with_reducible apply Keeps.trans ?_ (State.arrive_keeps _ _ _ (fun _ => ?_))
    | with_reducible apply Keeps.trans ?_ (State.killDone_keeps ..)
theorem execKilledWritesAcked_keeps (a0) (s t : State) (h : execKilledWritesAcked a0 s = .next t) : Keeps s t := by
  unfold execKilledWritesAcked at h; injection h with h; subst h
  repeat' first
    | with_reducible exact Keeps.refl _
    | with_reducible apply Keeps.trans ?_ (State.arrive_keeps _ _ _ (fun _ => ?_))
    | with_reducible apply Keeps.trans ?_ (State.killAcked_keeps ..)
theorem execRoutePoolDispatch_keeps (a0) (s t : State) (h : execRoutePoolDispatch a0 s = .next t) : Keeps s t := by
  unfold execRoutePoolDispatch at h; injection h with h; subst h
  repeat' first
    | with_reducible exact Keeps.refl _
    | with_reducible apply Keeps.trans ?_ (State.awaitBoundary_keeps _ _ (fun _ => ?_))
    | with_reducible apply Keeps.trans ?_ (State.poolDispatch_keeps ..)
    | with_reducible refine Keeps.fold _ _ ?_ (fun _ _ => ?_)
    | with_reducible refine Keeps.ite ?_ ?_
theorem execHeaderArrival_keeps (a0) (s t : State) (h : execHeaderArrival a0 s = .next t) : Keeps s t := by
  unfold execHeaderArrival at h; injection h with h; subst h
  repeat' first
    | with_reducible exact Keeps.refl _
    | with_reducible apply Keeps.trans ?_ (State.arrive_keeps _ _ _ (fun _ => ?_))
    | with_reducible apply Keeps.trans ?_ (State.awaitBoundary_keeps _ _ (fun _ => ?_))
    | with_reducible apply Keeps.trans ?_ (State.headerRead_keeps ..)
theorem execRouteHandoff_keeps (a0) (s t : State) (h : execRouteHandoff a0 s = .next t) : Keeps s t := by
  unfold execRouteHandoff at h; injection h with h; subst h
  repeat' first
    | with_reducible exact Keeps.refl _
    | with_reducible apply Keeps.trans ?_ (State.arrive_keeps _ _ _ (fun _ => ?_))
    | with_reducible apply Keeps.trans ?_ (State.handedOff_keeps ..)
theorem execUnitDone_keeps (a0 a1 a2) (s t : State) (h : execUnitDone a0 a1 a2 s = .next t) : Keeps s t := by
  unfold execUnitDone at h; injection h with h; subst h
  repeat' first
    | with_reducible exact Keeps.refl _
    | with_reducible apply Keeps.trans ?_ (State.arrive_keeps _ _ _ (fun _ => ?_))
    | with_reducible apply Keeps.trans ?_ (State.unitReport_keeps ..)
theorem execDescriptorRelease_keeps (a0 a1) (s t : State) (h : execDescriptorRelease a0 a1 s = .next t) : Keeps s t := by
  unfold execDescriptorRelease at h; injection h with h; subst h
  repeat' first
    | with_reducible exact Keeps.refl _
    | with_reducible apply Keeps.trans ?_ (State.arrive_keeps _ _ _ (fun _ => ?_))
    | with_reducible apply Keeps.trans ?_ (State.released_keeps ..)
theorem execWriteAck_keeps (a0) (s t : State) (h : execWriteAck a0 s = .next t) : Keeps s t := by
  unfold execWriteAck at h; injection h with h; subst h
  repeat' first
    | with_reducible exact Keeps.refl _
    | with_reducible apply Keeps.trans ?_ (State.arrive_keeps _ _ _ (fun _ => ?_))
    | with_reducible apply Keeps.trans ?_ (State.writeAcked_keeps ..)
theorem execNop_keeps (a0) (s t : State) (h : execNop a0 s = .next t) : Keeps s t := by
  unfold execNop at h; injection h with h; subst h
  repeat' first
    | with_reducible exact Keeps.refl _
    | with_reducible apply Keeps.trans ?_ (State.runUnit_keeps _ _ _ _ (fun _ _ => ?_))
theorem execGarm_keeps (a0) (s t : State) (h : execGarm a0 s = .next t) : Keeps s t := by
  unfold execGarm at h; injection h with h; subst h
  repeat' first
    | with_reducible exact Keeps.refl _
    | with_reducible apply Keeps.trans ?_ (State.garmSend_keeps ..)
    | with_reducible apply Keeps.trans ?_ (State.runOp_keeps _ _ _ _ (fun _ _ => ?_))
theorem execTcreate_keeps (a0) (s t : State) (h : execTcreate a0 s = .next t) : Keeps s t := by
  unfold execTcreate at h; injection h with h; subst h
  repeat' first
    | with_reducible exact Keeps.refl _
    | with_reducible apply Keeps.trans ?_ (State.runOp_keeps _ _ _ _ (fun _ _ => ?_))
    | with_reducible apply Keeps.trans ?_ (State.tcreateRun_keeps ..)
theorem execTdestroy_keeps (a0) (s t : State) (h : execTdestroy a0 s = .next t) : Keeps s t := by
  unfold execTdestroy at h; injection h with h; subst h
  repeat' first
    | with_reducible exact Keeps.refl _
    | with_reducible apply Keeps.trans ?_ (State.runUnit_keeps _ _ _ _ (fun _ _ => ?_))
theorem execMatmul_keeps (a0) (s t : State) (h : execMatmul a0 s = .next t) : Keeps s t := by
  injection h with h; exact h ▸ State.matmulRun_keeps ..
theorem execMatmulG_keeps (a0) (s t : State) (h : execMatmulG a0 s = .next t) : Keeps s t := by
  injection h with h; exact h ▸ State.matmulRun_keeps ..
theorem execMatmulB_keeps (a0) (s t : State) (h : execMatmulB a0 s = .next t) : Keeps s t := by
  injection h with h; exact h ▸ State.matmulRun_keeps ..
theorem execVop_keeps (a0) (s t : State) (h : execVop a0 s = .next t) : Keeps s t := by
  unfold execVop at h; injection h with h; subst h
  repeat' first
    | with_reducible exact Keeps.refl _
    | with_reducible apply Keeps.trans ?_ (State.runOp_keeps _ _ _ _ (fun _ _ => ?_))
    | with_reducible apply Keeps.trans ?_ (State.vopRun_keeps ..)
theorem execCopy_keeps (a0) (s t : State) (h : execCopy a0 s = .next t) : Keeps s t := by
  unfold execCopy at h; injection h with h; subst h
  repeat' first
    | with_reducible exact Keeps.refl _
    | with_reducible apply Keeps.trans ?_ (State.copyRun_keeps ..)
    | with_reducible apply Keeps.trans ?_ (State.runUnit_keeps _ _ _ _ (fun _ _ => ?_))
theorem execAadd_keeps (a0) (s t : State) (h : execAadd a0 s = .next t) : Keeps s t := by
  unfold execAadd at h; injection h with h; subst h
  repeat' first
    | with_reducible exact Keeps.refl _
    | with_reducible apply Keeps.trans ?_ (State.atomRun_keeps ..)
    | with_reducible apply Keeps.trans ?_ (State.runUnit_keeps _ _ _ _ (fun _ _ => ?_))
theorem execAminmax_keeps (a0) (s t : State) (h : execAminmax a0 s = .next t) : Keeps s t := by
  unfold execAminmax at h; injection h with h; subst h
  repeat' first
    | with_reducible exact Keeps.refl _
    | with_reducible apply Keeps.trans ?_ (State.atomRun_keeps ..)
    | with_reducible apply Keeps.trans ?_ (State.runUnit_keeps _ _ _ _ (fun _ _ => ?_))
theorem execAswap_keeps (a0) (s t : State) (h : execAswap a0 s = .next t) : Keeps s t := by
  unfold execAswap at h; injection h with h; subst h
  repeat' first
    | with_reducible exact Keeps.refl _
    | with_reducible apply Keeps.trans ?_ (State.atomRun_keeps ..)
    | with_reducible apply Keeps.trans ?_ (State.runUnit_keeps _ _ _ _ (fun _ _ => ?_))
theorem execAcas_keeps (a0) (s t : State) (h : execAcas a0 s = .next t) : Keeps s t := by
  unfold execAcas at h; injection h with h; subst h
  repeat' first
    | with_reducible exact Keeps.refl _
    | with_reducible apply Keeps.trans ?_ (State.atomRun_keeps ..)
    | with_reducible apply Keeps.trans ?_ (State.runUnit_keeps _ _ _ _ (fun _ _ => ?_))
theorem execSwapSelect_keeps (a0) (s t : State) (h : execSwapSelect a0 s = .next t) : Keeps s t := by
  injection h with h; exact h ▸ State.swapSel_keeps ..
theorem execSwapOutDone_keeps (a0) (s t : State) (h : execSwapOutDone a0 s = .next t) : Keeps s t := by
  unfold execSwapOutDone at h; injection h with h; subst h
  repeat' first
    | with_reducible exact Keeps.refl _
    | with_reducible apply Keeps.trans ?_ (State.arrive_keeps _ _ _ (fun _ => ?_))
    | with_reducible apply Keeps.trans ?_ (State.swapOutEnd_keeps ..)
theorem execSwapInDone_keeps (a0) (s t : State) (h : execSwapInDone a0 s = .next t) : Keeps s t := by
  unfold execSwapInDone at h; injection h with h; subst h
  repeat' first
    | with_reducible exact Keeps.refl _
    | with_reducible apply Keeps.trans ?_ (State.arrive_keeps _ _ _ (fun _ => ?_))
    | with_reducible apply Keeps.trans ?_ (State.swapInEnd_keeps ..)
theorem execPin_keeps (a0 a1) (s t : State) (h : execPin a0 a1 s = .next t) : Keeps s t := by
  injection h with h; exact h ▸ State.pinOp_keeps ..
theorem execUnpin_keeps (a0 a1) (s t : State) (h : execUnpin a0 a1 s = .next t) : Keeps s t := by
  injection h with h; exact h ▸ State.unpinOp_keeps ..
theorem execEvict_keeps (a0 a1) (s t : State) (h : execEvict a0 a1 s = .next t) : Keeps s t := by
  injection h with h; exact h ▸ State.evictOp_keeps ..
theorem execAdmission_keeps (a0 a1) (s t : State) (h : execAdmission a0 a1 s = .next t) : Keeps s t := by
  injection h with h; exact h ▸ State.admitOp_keeps ..
theorem execTearDown_keeps (a0 a1) (s t : State) (h : execTearDown a0 a1 s = .next t) : Keeps s t := by
  injection h with h; exact h ▸ State.tearOp_keeps ..
theorem execTeardownComplete_keeps (a0) (s t : State) (h : execTeardownComplete a0 s = .next t) : Keeps s t := by
  unfold execTeardownComplete at h; injection h with h; subst h
  repeat' first
    | with_reducible exact Keeps.refl _
    | with_reducible apply Keeps.trans ?_ (State.arrive_keeps _ _ _ (fun _ => ?_))
    | with_reducible apply Keeps.trans ?_ (State.tornDown_keeps ..)
theorem execExportDone_keeps (a0 a1 a2) (s t : State) (h : execExportDone a0 a1 a2 s = .next t) : Keeps s t := by
  injection h with h; exact h ▸ State.exportOp_keeps ..
theorem execExportFailed_keeps (a0 a1 a2) (s t : State) (h : execExportFailed a0 a1 a2 s = .next t) : Keeps s t := by
  injection h with h; exact h ▸ State.exportOp_keeps ..
theorem execExportRearm_keeps (a0 a1 a2) (s t : State) (h : execExportRearm a0 a1 a2 s = .next t) : Keeps s t := by
  injection h with h; exact h ▸ State.exportOp_keeps ..
theorem execPeerControlWrite_keeps (a0 a1 a2) (s t : State) (h : execPeerControlWrite a0 a1 a2 s = .next t) : Keeps s t := by
  injection h with h; exact h ▸ State.peerWrite_keeps ..
theorem execHomeWrite_keeps (a0 a1 a2 a3 a4) (s t : State) (h : execHomeWrite a0 a1 a2 a3 a4 s = .next t) : Keeps s t := by
  injection h with h; exact h ▸ State.writeAt_keeps ..
theorem execHomeRead_keeps (a0 a1 a2) (s t : State) (h : execHomeRead a0 a1 a2 s = .next t) : Keeps s t := by
  injection h with h; exact h ▸ State.request_keeps ..
theorem execReadResponse_keeps (a0) (s t : State) (h : execReadResponse a0 s = .next t) : Keeps s t := by
  injection h with h; exact h ▸ State.readBack_keeps ..
theorem execMemoryAdd_keeps (a0 a1 a2 a3 a4) (s t : State) (h : execMemoryAdd a0 a1 a2 a3 a4 s = .next t) : Keeps s t := by
  injection h with h; exact h ▸ State.request_keeps ..
theorem execWcbFlush_keeps (a0 a1) (s t : State) (h : execWcbFlush a0 a1 s = .next t) : Keeps s t := by
  unfold execWcbFlush at h; injection h with h; subst h
  repeat' first
    | with_reducible exact Keeps.refl _
    | with_reducible apply Keeps.trans ?_ (State.flushBase_keeps ..)
    | with_reducible refine Keeps.fold _ _ ?_ (fun _ _ => ?_)
    | with_reducible refine Keeps.ite ?_ ?_
theorem execStreamRecordOpen_keeps (a0) (s t : State) (h : execStreamRecordOpen a0 s = .next t) : Keeps s t := by
  injection h with h; exact h ▸ State.srecCtl_keeps ..
theorem execStreamRecordClose_keeps (a0) (s t : State) (h : execStreamRecordClose a0 s = .next t) : Keeps s t := by
  injection h with h; exact h ▸ State.srecCtl_keeps ..
theorem execForwardedRequest_keeps (a0) (s t : State) (h : execForwardedRequest a0 s = .next t) : Keeps s t := by
  unfold execForwardedRequest at h; injection h with h; subst h
  repeat' first
    | with_reducible exact Keeps.refl _
    | with_reducible apply Keeps.trans ?_ (State.arrive_keeps _ _ _ (fun _ => ?_))
    | with_reducible apply Keeps.trans ?_ (State.forwarded_keeps ..)
theorem execKvFormatWrite_keeps (a0) (s t : State) (h : execKvFormatWrite a0 s = .next t) : Keeps s t := by
  injection h with h; exact h ▸ State.setFmt_keeps ..
theorem execPoolConfigWrite_keeps (a0 a1 a2) (s t : State) (h : execPoolConfigWrite a0 a1 a2 s = .next t) : Keeps s t := by
  injection h with h; exact h ▸ State.poolWrite_keeps ..
theorem execKappend_keeps (a0) (s t : State) (h : execKappend a0 s = .next t) : Keeps s t := by
  unfold execKappend at h; injection h with h; subst h
  repeat' first
    | with_reducible exact Keeps.refl _
    | with_reducible apply Keeps.trans ?_ (State.kappendRun_keeps ..)
    | with_reducible apply Keeps.trans ?_ (State.onKvEng_keeps _ _ _ _ _ (fun _ _ => ?_))
theorem execKadvance_keeps (a0) (s t : State) (h : execKadvance a0 s = .next t) : Keeps s t := by
  unfold execKadvance at h; injection h with h; subst h
  repeat' first
    | with_reducible exact Keeps.refl _
    | with_reducible apply Keeps.trans ?_ (State.kadvanceRun_keeps ..)
    | with_reducible apply Keeps.trans ?_ (State.onKvEng_keeps _ _ _ _ _ (fun _ _ => ?_))
theorem execKfree_keeps (a0) (s t : State) (h : execKfree a0 s = .next t) : Keeps s t := by
  unfold execKfree at h; injection h with h; subst h
  repeat' first
    | with_reducible exact Keeps.refl _
    | with_reducible apply Keeps.trans ?_ (State.kfreeRun_keeps ..)
    | with_reducible apply Keeps.trans ?_ (State.onKvEng_keeps _ _ _ _ _ (fun _ _ => ?_))
theorem execKread_keeps (a0) (s t : State) (h : execKread a0 s = .next t) : Keeps s t := by
  unfold execKread at h; injection h with h; subst h
  repeat' first
    | with_reducible exact Keeps.refl _
    | with_reducible apply Keeps.trans ?_ (State.awaitBoundary_keeps _ _ (fun _ => ?_))
    | with_reducible apply Keeps.trans ?_ (State.kreadCmd_keeps ..)
theorem execKbucket_keeps (a0) (s t : State) (h : execKbucket a0 s = .next t) : Keeps s t := by
  unfold execKbucket at h; injection h with h; subst h
  repeat' first
    | with_reducible exact Keeps.refl _
    | with_reducible apply Keeps.trans ?_ (State.kbucketRun_keeps ..)
    | with_reducible apply Keeps.trans ?_ (State.onKvEng_keeps _ _ _ _ _ (fun _ _ => ?_))
theorem execKmigrate_keeps (a0) (s t : State) (h : execKmigrate a0 s = .next t) : Keeps s t := by
  unfold execKmigrate at h; injection h with h; subst h
  repeat' first
    | with_reducible exact Keeps.refl _
    | with_reducible apply Keeps.trans ?_ (State.kmigrateRun_keeps ..)
    | with_reducible apply Keeps.trans ?_ (State.onKvEng_keeps _ _ _ _ _ (fun _ _ => ?_))
theorem execKexpand_keeps (a0) (s t : State) (h : execKexpand a0 s = .next t) : Keeps s t := by
  unfold execKexpand at h; injection h with h; subst h
  repeat' first
    | with_reducible exact Keeps.refl _
    | with_reducible apply Keeps.trans ?_ (State.awaitBoundary_keeps _ _ (fun _ => ?_))
    | with_reducible apply Keeps.trans ?_ (State.kexpandCmd_keeps ..)
theorem execKvEngineYield_keeps (a0 a1) (s t : State) (h : execKvEngineYield a0 a1 s = .next t) : Keeps s t := by
  unfold execKvEngineYield at h; injection h with h; subst h
  repeat' first
    | with_reducible exact Keeps.refl _
    | with_reducible apply Keeps.trans ?_ (State.awaitBoundary_keeps _ _ (fun _ => ?_))
    | with_reducible apply Keeps.trans ?_ (State.kvYield_keeps ..)
theorem execAdvance_keeps (a0 a1) (s t : State) (h : execAdvance a0 a1 s = .next t) : Keeps s t := by
  unfold execAdvance at h; injection h with h; subst h
  repeat' first
    | with_reducible exact Keeps.refl _
    | with_reducible apply Keeps.trans ?_ (State.advanceTo_keeps ..)
    | with_reducible apply Keeps.trans ?_ (State.arrive_keeps _ _ _ (fun _ => ?_))
theorem execLengthQuery_keeps (a0) (s t : State) (h : execLengthQuery a0 s = .next t) : Keeps s t := by
  unfold execLengthQuery at h; injection h with h; subst h
  repeat' first
    | with_reducible exact Keeps.refl _
    | with_reducible apply Keeps.trans ?_ (State.arrive_keeps _ _ _ (fun _ => ?_))
    | with_reducible apply Keeps.trans ?_ (State.lenQuery_keeps ..)
theorem execLengthAnswer_keeps (a0) (s t : State) (h : execLengthAnswer a0 s = .next t) : Keeps s t := by
  unfold execLengthAnswer at h; injection h with h; subst h
  repeat' first
    | with_reducible exact Keeps.refl _
    | with_reducible apply Keeps.trans ?_ (State.arrive_keeps _ _ _ (fun _ => ?_))
    | with_reducible apply Keeps.trans ?_ (State.lenAnswer_keeps ..)
theorem execLengthHoldExpiry_keeps (a0) (s t : State) (h : execLengthHoldExpiry a0 s = .next t) : Keeps s t := by
  injection h with h; exact h ▸ State.lenExpired_keeps ..
theorem execAstep_keeps (a0) (s t : State) (h : execAstep a0 s = .next t) : Keeps s t := by
  unfold execAstep at h; injection h with h; subst h
  repeat' first
    | with_reducible exact Keeps.refl _
    | with_reducible apply Keeps.trans ?_ (State.attPaged_keeps ..)
    | with_reducible apply Keeps.trans ?_ (State.runUnit_keeps _ _ _ _ (fun _ _ => ?_))
theorem execAlatent_keeps (a0) (s t : State) (h : execAlatent a0 s = .next t) : Keeps s t := by
  unfold execAlatent at h; injection h with h; subst h
  repeat' first
    | with_reducible exact Keeps.refl _
    | with_reducible apply Keeps.trans ?_ (State.attPaged_keeps ..)
    | with_reducible apply Keeps.trans ?_ (State.runUnit_keeps _ _ _ _ (fun _ _ => ?_))
theorem execAdense_keeps (a0) (s t : State) (h : execAdense a0 s = .next t) : Keeps s t := by
  unfold execAdense at h; injection h with h; subst h
  repeat' first
    | with_reducible exact Keeps.refl _
    | with_reducible apply Keeps.trans ?_ (State.attDense_keeps ..)
    | with_reducible apply Keeps.trans ?_ (State.runUnit_keeps _ _ _ _ (fun _ _ => ?_))
theorem execLscan_keeps (a0) (s t : State) (h : execLscan a0 s = .next t) : Keeps s t := by
  injection h with h; exact h ▸ State.matmulRun_keeps ..
theorem execLsum_keeps (a0) (s t : State) (h : execLsum a0 s = .next t) : Keeps s t := by
  unfold execLsum at h; injection h with h; subst h
  repeat' first
    | with_reducible exact Keeps.refl _
    | with_reducible apply Keeps.trans ?_ (State.awaitBoundary_keeps _ _ (fun _ => ?_))
    | with_reducible apply Keeps.trans ?_ (State.lsumCmd_keeps ..)
theorem execAring_keeps (a0) (s t : State) (h : execAring a0 s = .next t) : Keeps s t := by
  unfold execAring at h; injection h with h; subst h
  repeat' first
    | with_reducible exact Keeps.refl _
    | with_reducible apply Keeps.trans ?_ (State.aringCmd_keeps ..)
    | with_reducible apply Keeps.trans ?_ (State.awaitBoundary_keeps _ _ (fun _ => ?_))
theorem execRingCredit_keeps (a0 a1) (s t : State) (h : execRingCredit a0 a1 s = .next t) : Keeps s t := by
  injection h with h; exact h ▸ State.creditIn_keeps ..
theorem execRingReady_keeps (a0) (s t : State) (h : execRingReady a0 s = .next t) : Keeps s t := by
  injection h with h; exact h ▸ State.readyIn_keeps ..
theorem execStreamOpen_keeps (a0) (s t : State) (h : execStreamOpen a0 s = .next t) : Keeps s t := by
  injection h with h; exact h ▸ State.streamCtl_keeps ..
theorem execStreamClose_keeps (a0) (s t : State) (h : execStreamClose a0 s = .next t) : Keeps s t := by
  injection h with h; exact h ▸ State.streamCtl_keeps ..
theorem execCancel_keeps (a0) (s t : State) (h : execCancel a0 s = .next t) : Keeps s t := by
  injection h with h; exact h ▸ State.streamCtl_keeps ..
theorem execPause_keeps (a0) (s t : State) (h : execPause a0 s = .next t) : Keeps s t := by
  injection h with h; exact h ▸ State.streamCtl_keeps ..
theorem execResume_keeps (a0) (s t : State) (h : execResume a0 s = .next t) : Keeps s t := by
  injection h with h; exact h ▸ State.streamCtl_keeps ..
theorem execExpire_keeps (a0) (s t : State) (h : execExpire a0 s = .next t) : Keeps s t := by
  injection h with h; exact h ▸ State.streamCtl_keeps ..
theorem execAbort_keeps (a0) (s t : State) (h : execAbort a0 s = .next t) : Keeps s t := by
  injection h with h; exact h ▸ State.streamCtl_keeps ..
theorem execFinish_keeps (a0) (s t : State) (h : execFinish a0 s = .next t) : Keeps s t := by
  injection h with h; exact h ▸ State.streamCtl_keeps ..
theorem execConstrain_keeps (a0) (s t : State) (h : execConstrain a0 s = .next t) : Keeps s t := by
  injection h with h; exact h ▸ State.streamCtl_keeps ..
theorem execFail_keeps (a0) (s t : State) (h : execFail a0 s = .next t) : Keeps s t := by
  injection h with h; exact h ▸ State.streamCtl_keeps ..
theorem execSbegin_keeps (a0) (s t : State) (h : execSbegin a0 s = .next t) : Keeps s t := by
  unfold execSbegin at h; injection h with h; subst h
  repeat' first
    | with_reducible exact Keeps.refl _
    | with_reducible apply Keeps.trans ?_ (State.beginStep_keeps ..)
    | with_reducible apply Keeps.trans ?_ (State.bump_keeps ..)
    | with_reducible apply Keeps.trans ?_ (State.runUnit_keeps _ _ _ _ (fun _ _ => ?_))
    | with_reducible apply Keeps.trans ?_ (State.srvFail_keeps ..)
    | with_reducible refine Keeps.fold _ _ ?_ (fun _ _ => ?_)
    | with_reducible refine Keeps.ite ?_ ?_
    | intro _
    | dsimp only
    | split
theorem execSemit_keeps (a0) (s t : State) (h : execSemit a0 s = .next t) : Keeps s t := by
  unfold execSemit at h; injection h with h; subst h
  repeat' first
    | with_reducible exact Keeps.refl _
    | with_reducible apply Keeps.trans ?_ (State.emission_keeps ..)
    | with_reducible apply Keeps.trans ?_ (State.onStream_keeps _ _ _ _ (fun _ _ _ => ?_))
theorem execSverify_keeps (a0) (s t : State) (h : execSverify a0 s = .next t) : Keeps s t := by
  unfold execSverify at h; injection h with h; subst h
  repeat' first
    | with_reducible exact Keeps.refl _
    | with_reducible apply Keeps.trans ?_ (State.emission_keeps ..)
    | with_reducible apply Keeps.trans ?_ (State.onStream_keeps _ _ _ _ (fun _ _ _ => ?_))
theorem execSmask_keeps (a0) (s t : State) (h : execSmask a0 s = .next t) : Keeps s t := by
  unfold execSmask at h; injection h with h; subst h
  repeat' first
    | with_reducible exact Keeps.refl _
    | with_reducible apply Keeps.trans ?_ (State.onStream_keeps _ _ _ _ (fun _ _ _ => ?_))
    | with_reducible apply Keeps.trans ?_ (State.smaskRun_keeps ..)
theorem execReport_keeps (a0) (s t : State) (h : execReport a0 s = .next t) : Keeps s t := by
  unfold execReport at h; injection h with h; subst h
  repeat' first
    | with_reducible exact Keeps.refl _
    | with_reducible apply Keeps.trans ?_ (State.arrive_keeps _ _ _ (fun _ => ?_))
    | with_reducible apply Keeps.trans ?_ (State.report_keeps ..)
    | with_reducible apply Keeps.trans ?_ (State.reportTrk_keeps ..)
theorem execOutputRecordAck_keeps (a0) (s t : State) (h : execOutputRecordAck a0 s = .next t) : Keeps s t := by
  unfold execOutputRecordAck at h; injection h with h; subst h
  repeat' first
    | with_reducible exact Keeps.refl _
    | with_reducible apply Keeps.trans ?_ (State.arrive_keeps _ _ _ (fun _ => ?_))
    | with_reducible apply Keeps.trans ?_ (State.outAcked_keeps ..)
theorem execDebit_keeps (a0 a1) (s t : State) (h : execDebit a0 a1 s = .next t) : Keeps s t := by
  unfold execDebit at h; injection h with h; subst h
  repeat' first
    | with_reducible exact Keeps.refl _
    | with_reducible apply Keeps.trans ?_ (State.arrive_keeps _ _ _ (fun _ => ?_))
    | with_reducible apply Keeps.trans ?_ (State.debit_keeps ..)
theorem execThrottle_keeps (a0 a1) (s t : State) (h : execThrottle a0 a1 s = .next t) : Keeps s t := by
  unfold execThrottle at h; injection h with h; subst h
  repeat' first
    | with_reducible exact Keeps.refl _
    | with_reducible apply Keeps.trans ?_ (State.arrive_keeps _ _ _ (fun _ => ?_))
    | with_reducible apply Keeps.trans ?_ (State.setThrottle_keeps ..)
theorem execUnthrottle_keeps (a0 a1) (s t : State) (h : execUnthrottle a0 a1 s = .next t) : Keeps s t := by
  unfold execUnthrottle at h; injection h with h; subst h
  repeat' first
    | with_reducible exact Keeps.refl _
    | with_reducible apply Keeps.trans ?_ (State.arrive_keeps _ _ _ (fun _ => ?_))
    | with_reducible apply Keeps.trans ?_ (State.setThrottle_keeps ..)
theorem execCredit_keeps (a0 a1) (s t : State) (h : execCredit a0 a1 s = .next t) : Keeps s t := by
  injection h with h; exact h ▸ State.srvEnqueue_keeps ..
theorem execCustomerConfigWrite_keeps (a0 a1) (s t : State) (h : execCustomerConfigWrite a0 a1 s = .next t) : Keeps s t := by
  injection h with h; exact h ▸ State.srvEnqueue_keeps ..
theorem execPartitionStateWrite_keeps (a0 a1) (s t : State) (h : execPartitionStateWrite a0 a1 s = .next t) : Keeps s t := by
  injection h with h; exact h ▸ State.partState_keeps ..
theorem execOutputRingConfig_keeps (a0 a1) (s t : State) (h : execOutputRingConfig a0 a1 s = .next t) : Keeps s t := by
  injection h with h; exact h ▸ State.outCfg_keeps ..
theorem execRangeCreate_keeps (a0 a1) (s t : State) (h : execRangeCreate a0 a1 s = .next t) : Keeps s t := by
  injection h with h; exact h ▸ State.rangeStart_keeps ..
theorem execRangeDestroy_keeps (a0) (s t : State) (h : execRangeDestroy a0 s = .next t) : Keeps s t := by
  injection h with h; exact h ▸ State.rangeStart_keeps ..
theorem execRangeUpdateComplete_keeps (s t : State) (h : execRangeUpdateComplete s = .next t) : Keeps s t := by
  injection h with h; exact h ▸ State.rangeFinish_keeps ..
theorem execCreditRefill_keeps (a0 a1) (s t : State) (h : execCreditRefill a0 a1 s = .next t) : Keeps s t := by
  injection h with h; exact h ▸ State.refill_keeps ..
theorem execRegulatorConfigWrite_keeps (a0) (s t : State) (h : execRegulatorConfigWrite a0 s = .next t) : Keeps s t := by
  injection h with h; exact h ▸ State.regulator_keeps ..
theorem execHeathRefreshDue_keeps (a0) (s t : State) (h : execHeathRefreshDue a0 s = .next t) : Keeps s t := by
  unfold execHeathRefreshDue at h; injection h with h; subst h
  repeat' first
    | with_reducible exact Keeps.refl _
theorem execPoisonReport_keeps (a0) (s t : State) (h : execPoisonReport a0 s = .next t) : Keeps s t := by
  unfold execPoisonReport at h; injection h with h; subst h
  repeat' first
    | with_reducible exact Keeps.refl _
    | with_reducible apply Keeps.trans ?_ (State.arrive_keeps _ _ _ (fun _ => ?_))
    | with_reducible apply Keeps.trans ?_ (State.reportIn_keeps ..)
theorem execRepairSourceAnswer_keeps (a0 a1 a2) (s t : State) (h : execRepairSourceAnswer a0 a1 a2 s = .next t) : Keeps s t := by
  injection h with h; exact h ▸ State.sourceAnswer_keeps ..
theorem execRepairSourceTimeout_keeps (a0) (s t : State) (h : execRepairSourceTimeout a0 s = .next t) : Keeps s t := by
  injection h with h; exact h ▸ State.sourceAnswer_keeps ..
theorem execReload_keeps (a0) (s t : State) (h : execReload a0 s = .next t) : Keeps s t := by
  injection h with h; exact h ▸ State.reloadGo_keeps ..
theorem execRepairVerify_keeps (a0) (s t : State) (h : execRepairVerify a0 s = .next t) : Keeps s t := by
  injection h with h; exact h ▸ State.verify_keeps ..
theorem execRepairStallTimeout_keeps (a0) (s t : State) (h : execRepairStallTimeout a0 s = .next t) : Keeps s t := by
  injection h with h; exact h ▸ State.stallOver_keeps ..
theorem execRepairBoundExpiry_keeps (a0) (s t : State) (h : execRepairBoundExpiry a0 s = .next t) : Keeps s t := by
  injection h with h; exact h ▸ State.boundOver_keeps ..
theorem execHoldRelease_keeps (a0) (s t : State) (h : execHoldRelease a0 s = .next t) : Keeps s t := by
  injection h with h; exact h ▸ State.holdRelease_keeps ..
theorem execHoldAbandon_keeps (a0) (s t : State) (h : execHoldAbandon a0 s = .next t) : Keeps s t := by
  injection h with h; exact h ▸ State.holdAbandon_keeps ..
theorem execRemapCopyDone_keeps (a0) (s t : State) (h : execRemapCopyDone a0 s = .next t) : Keeps s t := by
  injection h with h; exact h ▸ State.remapDone_keeps ..
theorem execRepairMapWrite_keeps (a0) (s t : State) (h : execRepairMapWrite a0 s = .next t) : Keeps s t := by
  injection h with h; exact h ▸ State.rmapWrite_keeps ..
theorem execHeathScrubTick_keeps (a0) (s t : State) (h : execHeathScrubTick a0 s = .next t) : Keeps s t := by
  injection h with h; exact h ▸ State.heathScrub_keeps ..
theorem execMeadowScrubTick_keeps (a0) (s t : State) (h : execMeadowScrubTick a0 s = .next t) : Keeps s t := by
  injection h with h; exact h ▸ State.meadowScrub_keeps ..
theorem execInjectionArm_keeps (a0) (s t : State) (h : execInjectionArm a0 s = .next t) : Keeps s t := by
  injection h with h; exact h ▸ State.injWrite_keeps ..
theorem execLogFullWrite_keeps (a0) (s t : State) (h : execLogFullWrite a0 s = .next t) : Keeps s t := by
  injection h with h; exact h ▸ State.logCfgWrite_keeps ..
theorem execTraceStart_keeps (s t : State) (h : execTraceStart s = .next t) : Keeps s t := by
  injection h with h; exact h ▸ State.traceStart_keeps ..
theorem execTraceStop_keeps (s t : State) (h : execTraceStop s = .next t) : Keeps s t := by
  injection h with h; exact h ▸ State.traceStop_keeps ..
theorem execTraceConfigWrite_keeps (a0) (s t : State) (h : execTraceConfigWrite a0 s = .next t) : Keeps s t := by
  injection h with h; exact h ▸ State.traceCfgWrite_keeps ..
theorem execTraceEvent_keeps (a0) (s t : State) (h : execTraceEvent a0 s = .next t) : Keeps s t := by
  unfold execTraceEvent at h; injection h with h; subst h
  repeat' first
    | with_reducible exact Keeps.refl _
    | with_reducible apply Keeps.trans ?_ (State.arrive_keeps _ _ _ (fun _ => ?_))
    | with_reducible apply Keeps.trans ?_ (State.traceIn_keeps ..)
theorem execIdleExit_keeps (a0) (s t : State) (h : execIdleExit a0 s = .next t) : Keeps s t := by
  injection h with h; exact h ▸ State.idleExit_keeps ..
theorem execRetrain_keeps (a0) (s t : State) (h : execRetrain a0 s = .next t) : Keeps s t := by
  injection h with h; exact h ▸ State.retrainNow_keeps ..
theorem execTrainingStepDone_keeps (a0) (s t : State) (h : execTrainingStepDone a0 s = .next t) : Keeps s t := by
  injection h with h; exact h ▸ State.stepDone_keeps ..
theorem execTrainingTimeout_keeps (a0) (s t : State) (h : execTrainingTimeout a0 s = .next t) : Keeps s t := by
  injection h with h; exact h ▸ State.stepMissed_keeps ..
theorem execRetrainTimer_keeps (a0) (s t : State) (h : execRetrainTimer a0 s = .next t) : Keeps s t := by
  injection h with h; exact h ▸ State.retrainTimer_keeps ..
theorem execUncorrectableFlit_keeps (a0 a1) (s t : State) (h : execUncorrectableFlit a0 a1 s = .next t) : Keeps s t := by
  injection h with h; exact h ▸ State.badFlit_keeps ..
theorem execNak_keeps (a0 a1) (s t : State) (h : execNak a0 a1 s = .next t) : Keeps s t := by
  injection h with h; exact h ▸ State.nakIn_keeps ..
theorem execLinkRxTimeout_keeps (a0) (s t : State) (h : execLinkRxTimeout a0 s = .next t) : Keeps s t := by
  injection h with h; exact h ▸ State.rxTimeout_keeps ..
theorem execIdent_keeps (a0 a1 a2 a3 a4) (s t : State) (h : execIdent a0 a1 a2 a3 a4 s = .next t) : Keeps s t := by
  injection h with h; exact h ▸ State.identIn_keeps ..
theorem execRemoteRequest_keeps (a0 a1) (s t : State) (h : execRemoteRequest a0 a1 s = .next t) : Keeps s t := by
  injection h with h; exact h ▸ State.remoteIn_keeps ..
theorem execRemoteResponse_keeps (a0 a1 a2) (s t : State) (h : execRemoteResponse a0 a1 a2 s = .next t) : Keeps s t := by
  injection h with h; exact h ▸ State.remoteBack_keeps ..
theorem execHeartbeatSend_keeps (s t : State) (h : execHeartbeatSend s = .next t) : Keeps s t := by
  injection h with h; exact h ▸ State.sendBeats_keeps ..
theorem execHeartbeat_keeps (a0) (s t : State) (h : execHeartbeat a0 s = .next t) : Keeps s t := by
  injection h with h; exact h ▸ State.beatIn_keeps ..
theorem execHeartbeatMiss_keeps (a0) (s t : State) (h : execHeartbeatMiss a0 s = .next t) : Keeps s t := by
  injection h with h; exact h ▸ State.beatMissed_keeps ..
theorem execGp3Toggle_keeps (s t : State) (h : execGp3Toggle s = .next t) : Keeps s t := by
  injection h with h; exact h ▸ State.gp3Beat_keeps ..
theorem execHbInToggle_keeps (s t : State) (h : execHbInToggle s = .next t) : Keeps s t := by
  injection h with h; exact h ▸ State.hbToggle_keeps ..
theorem execHbInMiss_keeps (s t : State) (h : execHbInMiss s = .next t) : Keeps s t := by
  injection h with h; exact h ▸ State.hbMissed_keeps ..
theorem execMirrorMessage_keeps (a0 a1) (s t : State) (h : execMirrorMessage a0 a1 s = .next t) : Keeps s t := by
  injection h with h; exact h ▸ State.mirrorIn_keeps ..
theorem execMirrorAck_keeps (a0) (s t : State) (h : execMirrorAck a0 s = .next t) : Keeps s t := by
  injection h with h; exact h ▸ State.mirrorAcked_keeps ..
theorem execForm_keeps (s t : State) (h : execForm s = .next t) : Keeps s t := by
  injection h with h; exact h ▸ State.formPair_keeps ..
theorem execBreakPair_keeps (s t : State) (h : execBreakPair s = .next t) : Keeps s t := by
  injection h with h; exact h ▸ State.breakPair_keeps ..
theorem execConfirm_keeps (s t : State) (h : execConfirm s = .next t) : Keeps s t := by
  injection h with h; exact h ▸ State.confirmNow_keeps ..
theorem execCatchUpStreamDone_keeps (s t : State) (h : execCatchUpStreamDone s = .next t) : Keeps s t := by
  injection h with h; exact h ▸ State.copyDone_keeps ..
theorem execSourceLevelChange_keeps (a0) (s t : State) (h : execSourceLevelChange a0 s = .next t) : Keeps s t := by
  injection h with h; exact h ▸ State.levelIn_keeps ..
theorem execClaim_keeps (a0) (s t : State) (h : execClaim a0 s = .next t) : Keeps s t := by
  unfold execClaim at h; injection h with h; subst h
  repeat' first
    | with_reducible exact Keeps.refl _
    | with_reducible apply Keeps.trans ?_ (State.answerCore_keeps ..)
    | with_reducible apply Keeps.trans ?_ (State.claim_keeps ..)
theorem execComplete_keeps (a0 a1) (s t : State) (h : execComplete a0 a1 s = .next t) : Keeps s t := by
  injection h with h; exact h ▸ State.completeAt_keeps ..
theorem execCompletionSample_keeps (a0) (s t : State) (h : execCompletionSample a0 s = .next t) : Keeps s t := by
  injection h with h; exact h ▸ State.sampleAt_keeps ..
theorem execSoftwareSourceSet_keeps (a0 a1) (s t : State) (h : execSoftwareSourceSet a0 a1 s = .next t) : Keeps s t := by
  injection h with h; exact h ▸ State.putSoft_keeps ..
theorem execSoftwareSourceClear_keeps (a0 a1) (s t : State) (h : execSoftwareSourceClear a0 a1 s = .next t) : Keeps s t := by
  injection h with h; exact h ▸ State.putSoft_keeps ..
theorem execMachineTimerExpiry_keeps (a0) (s t : State) (h : execMachineTimerExpiry a0 s = .next t) : Keeps s t := by
  injection h with h; exact h ▸ State.timer_keeps ..
theorem execCcWake_keeps (a0) (s t : State) (h : execCcWake a0 s = .next t) : Keeps s t := by
  injection h with h; exact h ▸ State.wake_keeps ..
theorem execReceiveProd_keeps (a0 a1) (s t : State) (h : execReceiveProd a0 a1 s = .next t) : Keeps s t := by
  injection h with h; exact h ▸ State.prodWrite_keeps ..
theorem execTransmitProd_keeps (a0 a1) (s t : State) (h : execTransmitProd a0 a1 s = .next t) : Keeps s t := by
  injection h with h; exact h ▸ State.prodWrite_keeps ..
theorem execFrameReceive_keeps (a0 a1 a2) (s t : State) (h : execFrameReceive a0 a1 a2 s = .next t) : Keeps s t := by
  injection h with h; exact h ▸ State.receive_keeps ..
theorem execFrameTransmit_keeps (a0) (s t : State) (h : execFrameTransmit a0 s = .next t) : Keeps s t := by
  injection h with h; exact h ▸ State.transmit_keeps ..
theorem execEthStatRead_keeps (a0) (s t : State) (h : execEthStatRead a0 s = .next t) : Keeps s t := by
  unfold execEthStatRead at h; injection h with h; subst h
  repeat' first
    | with_reducible exact Keeps.refl _
    | with_reducible apply Keeps.trans ?_ (State.answerCore_keeps ..)
    | with_reducible apply Keeps.trans ?_ (State.setFld_keeps ..)
theorem execManagementFrame_keeps (a0) (s t : State) (h : execManagementFrame a0 s = .next t) : Keeps s t := by
  injection h with h; exact h ▸ State.filterFrame_keeps ..
theorem execManagementIdent_keeps (s t : State) (h : execManagementIdent s = .next t) : Keeps s t := by
  unfold execManagementIdent at h
  injection h with h
  subst h
  split
  · exact (State.takeUnsigned_keeps s _ (by assumption)).trans (State.reply_keeps ..)
  · exact Keeps.refl _

theorem execRead_keeps (a0) (s t : State) (h : execRead a0 s = .next t) : Keeps s t := by
  unfold execRead at h
  injection h with h
  subst h
  split
  · exact (State.takeUnsigned_keeps s _ (by assumption)).trans (State.readReply_keeps ..)
  · exact Keeps.refl _

theorem execDomain_keeps (a0 a1 a2) (s t : State) (h : execDomain a0 a1 a2 s = .next t) : Keeps s t := by
  unfold execDomain at h; injection h with h; subst h
  repeat' first
    | with_reducible exact Keeps.refl _
    | with_reducible apply Keeps.trans ?_ (State.signed_keeps _ _ _ _ (fun _ => ?_))
    | with_reducible apply Keeps.trans ?_ (State.switchOff_keeps ..)
    | with_reducible apply Keeps.trans ?_ (State.switchOn_keeps ..)
    | with_reducible refine Keeps.fold _ _ ?_ (fun _ _ => ?_)
    | with_reducible refine Keeps.ite ?_ ?_
theorem execResetCc_keeps (a0) (s t : State) (h : execResetCc a0 s = .next t) : Keeps s t := by
  unfold execResetCc at h; injection h with h; subst h
  repeat' first
    | with_reducible exact Keeps.refl _
    | with_reducible apply Keeps.trans ?_ (State.resetCcNow_keeps ..)
    | with_reducible apply Keeps.trans ?_ (State.signed_keeps _ _ _ _ (fun _ => ?_))
theorem execResetModule_keeps (a0) (s t : State) (h : execResetModule a0 s = .next t) : Keeps s t := by
  unfold execResetModule at h; injection h with h; subst h
  repeat' first
    | with_reducible exact Keeps.refl _
    | with_reducible apply Keeps.trans ?_ (State.resetModule_keeps ..)
    | with_reducible apply Keeps.trans ?_ (State.signed_keeps _ _ _ _ (fun _ => ?_))
theorem execPowerOff_keeps (a0) (s t : State) (h : execPowerOff a0 s = .next t) : Keeps s t := by
  unfold execPowerOff at h; injection h with h; subst h
  repeat' first
    | with_reducible exact Keeps.refl _
    | with_reducible apply Keeps.trans ?_ (State.allOff_keeps ..)
    | with_reducible apply Keeps.trans ?_ (State.signed_keeps _ _ _ _ (fun _ => ?_))
theorem execI3cIdent_keeps (s t : State) (h : execI3cIdent s = .next t) : Keeps s t := by
  injection h with h; exact h ▸ State.reply_keeps ..
theorem execI3cRead_keeps (a0) (s t : State) (h : execI3cRead a0 s = .next t) : Keeps s t := by
  injection h with h; exact h ▸ State.readReply_keeps ..
theorem execI3cPowerOff_keeps (s t : State) (h : execI3cPowerOff s = .next t) : Keeps s t := by
  unfold execI3cPowerOff at h; injection h with h; subst h
  repeat' first
    | with_reducible exact Keeps.refl _
    | with_reducible apply Keeps.trans ?_ (State.allOff_keeps ..)
    | with_reducible apply Keeps.trans ?_ (State.reply_keeps ..)
theorem execDomainOn_keeps (a0) (s t : State) (h : execDomainOn a0 s = .next t) : Keeps s t := by
  injection h with h; exact h ▸ State.switchOn_keeps ..
theorem execDomainOff_keeps (a0) (s t : State) (h : execDomainOff a0 s = .next t) : Keeps s t := by
  injection h with h; exact h ▸ State.switchOff_keeps ..
theorem execDomainSwitchDone_keeps (a0) (s t : State) (h : execDomainSwitchDone a0 s = .next t) : Keeps s t := by
  injection h with h; exact h ▸ State.switchDone_keeps ..
theorem execInitialisationDone_keeps (a0 a1) (s t : State) (h : execInitialisationDone a0 a1 s = .next t) : Keeps s t := by
  injection h with h; exact h ▸ State.initDone_keeps ..
theorem execGovernorSample_keeps (a0) (s t : State) (h : execGovernorSample a0 s = .next t) : Keeps s t := by
  injection h with h; exact h ▸ State.sampleWatts_keeps ..
theorem execGatingLevelArrival_keeps (a0) (s t : State) (h : execGatingLevelArrival a0 s = .next t) : Keeps s t := by
  unfold execGatingLevelArrival at h; injection h with h; subst h
  repeat' first
    | with_reducible exact Keeps.refl _
    | with_reducible refine Keeps.fold _ _ ?_ (fun _ _ => ?_)
    | with_reducible refine Keeps.ite ?_ ?_
    | intro _
    | dsimp only
    | split
    | fail_if_no_progress (with_reducible refine Keeps.mk ?_ rfl rfl rfl rfl rfl rfl)
theorem execResidencyBinRollover_keeps (s t : State) (h : execResidencyBinRollover s = .next t) : Keeps s t := by
  unfold execResidencyBinRollover at h; injection h with h; subst h
  repeat' first
    | with_reducible exact Keeps.refl _
    | with_reducible apply Keeps.trans ?_ (State.setBins_keeps ..)
    | with_reducible apply Keeps.trans ?_ (State.setBit_keeps ..)
    | with_reducible refine Keeps.fold _ _ ?_ (fun _ _ => ?_)
    | with_reducible refine Keeps.ite ?_ ?_
theorem execSensorSample_keeps (a0 a1) (s t : State) (h : execSensorSample a0 a1 s = .next t) : Keeps s t := by
  injection h with h; exact h ▸ State.sense_keeps ..
theorem execPowerApplied_keeps (s t : State) (h : execPowerApplied s = .next t) : Keeps s t := by
  unfold execPowerApplied at h; injection h with h; subst h
  repeat' first
    | with_reducible exact Keeps.refl _
    | with_reducible apply Keeps.trans ?_ (State.powerOn_keeps ..)
    | with_reducible refine Keeps.fold _ _ ?_ (fun _ _ => ?_)
    | with_reducible refine Keeps.ite ?_ ?_
theorem execUndervoltageWarning_keeps (s t : State) (h : execUndervoltageWarning s = .next t) : Keeps s t := by
  injection h with h; exact h ▸ State.orReg_keeps ..
theorem execUndervoltageShutdown_keeps (s t : State) (h : execUndervoltageShutdown s = .next t) : Keeps s t := by
  injection h with h; exact h ▸ State.shutdown_keeps ..
theorem execOvervoltageShutdown_keeps (s t : State) (h : execOvervoltageShutdown s = .next t) : Keeps s t := by
  injection h with h; exact h ▸ State.dark_keeps ..
theorem execConverterFault_keeps (s t : State) (h : execConverterFault s = .next t) : Keeps s t := by
  injection h with h; exact h ▸ State.orReg_keeps ..
theorem execSenseOpen_keeps (s t : State) (h : execSenseOpen s = .next t) : Keeps s t := by
  injection h with h; exact h ▸ State.shutdown_keeps ..
theorem execPowerInjectionArm_keeps (a0) (s t : State) (h : execPowerInjectionArm a0 s = .next t) : Keeps s t := by
  injection h with h; exact h ▸ State.pwrInjWrite_keeps ..
theorem execSlotIdSample_keeps (a0) (s t : State) (h : execSlotIdSample a0 s = .next t) : Keeps s t := by
  injection h with h; exact h ▸ State.samplePins_keeps ..
theorem execBootRom_keeps (s t : State) (h : execBootRom s = .next t) : Keeps s t := by
  injection h with h; exact h ▸ State.rom_keeps ..
theorem execPlatformFirmwareStart_keeps (s t : State) (h : execPlatformFirmwareStart s = .next t) : Keeps s t := by
  injection h with h; exact h ▸ State.firmware_keeps ..
theorem execImagesLoaded_keeps (s t : State) (h : execImagesLoaded s = .next t) : Keeps s t := by
  injection h with h; exact h ▸ State.loaded_keeps ..
theorem execFlashErase_keeps (a0) (s t : State) (h : execFlashErase a0 s = .next t) : Keeps s t := by
  injection h with h; exact h ▸ State.flashStart_keeps ..
theorem execFlashProgram_keeps (a0) (s t : State) (h : execFlashProgram a0 s = .next t) : Keeps s t := by
  injection h with h; exact h ▸ State.flashStart_keeps ..
theorem execFlashOperationDone_keeps (a0) (s t : State) (h : execFlashOperationDone a0 s = .next t) : Keeps s t := by
  injection h with h; exact h ▸ State.flashDone_keeps ..
theorem execSvnBlow_keeps (s t : State) (h : execSvnBlow s = .next t) : Keeps s t := by
  injection h with h; exact h ▸ State.blow_keeps ..
theorem execMeasurementExtend_keeps (a0) (s t : State) (h : execMeasurementExtend a0 s = .next t) : Keeps s t := by
  injection h with h; exact h ▸ State.measExt_keeps ..
theorem execIdentityCertificate_keeps (a0) (s t : State) (h : execIdentityCertificate a0 s = .next t) : Keeps s t := by
  injection h with h; exact h ▸ State.quoteStart_keeps ..
theorem execAttestationCertificate_keeps (a0) (s t : State) (h : execAttestationCertificate a0 s = .next t) : Keeps s t := by
  injection h with h; exact h ▸ State.quoteStart_keeps ..
theorem execQuote_keeps (a0) (s t : State) (h : execQuote a0 s = .next t) : Keeps s t := by
  injection h with h; exact h ▸ State.quoteStart_keeps ..
theorem execQuoteDone_keeps (s t : State) (h : execQuoteDone s = .next t) : Keeps s t := by
  injection h with h; exact h ▸ State.quoteEnd_keeps ..
theorem execSelfTestRequest_keeps (a0 a1) (s t : State) (h : execSelfTestRequest a0 a1 s = .next t) : Keeps s t := by
  injection h with h; exact h ▸ State.requestTest_keeps ..
theorem execSelfTestEnd_keeps (a0 a1 a2 a3) (s t : State) (h : execSelfTestEnd a0 a1 a2 a3 s = .next t) : Keeps s t := by
  injection h with h; exact h ▸ State.endTest_keeps ..
theorem execExtest_keeps (s t : State) (h : execExtest s = .next t) : Keeps s t := by
  unfold execExtest at h; injection h with h; subst h
  repeat' first
    | with_reducible exact Keeps.refl _
    | with_reducible apply Keeps.trans ?_ (State.boundary_keeps ..)
    | with_reducible apply Keeps.trans ?_ (State.bypassNow_keeps ..)
    | with_reducible apply Keeps.trans ?_ (State.jtag_keeps ..)
    | with_reducible refine Keeps.fold _ _ ?_ (fun _ _ => ?_)
    | with_reducible refine Keeps.ite ?_ ?_
theorem execIdcode_keeps (s t : State) (h : execIdcode s = .next t) : Keeps s t := by
  injection h with h; exact h ▸ State.jtag_keeps ..
theorem execSamplePreload_keeps (a0) (s t : State) (h : execSamplePreload a0 s = .next t) : Keeps s t := by
  injection h with h; exact h ▸ State.jtag_keeps ..
theorem execClear_keeps (s t : State) (h : execClear s = .next t) : Keeps s t := by
  unfold execClear at h; injection h with h; subst h
  repeat' first
    | with_reducible exact Keeps.refl _
    | with_reducible apply Keeps.trans ?_ (State.bypassNow_keeps ..)
    | with_reducible apply Keeps.trans ?_ (State.clearStart_keeps ..)
    | with_reducible apply Keeps.trans ?_ (State.jtag_keeps ..)
    | with_reducible refine Keeps.fold _ _ ?_ (fun _ _ => ?_)
    | with_reducible refine Keeps.ite ?_ ?_
theorem execClearComplete_keeps (s t : State) (h : execClearComplete s = .next t) : Keeps s t := by
  injection h with h; exact h ▸ State.clearEnd_keeps ..
theorem execIntscan_keeps (s t : State) (h : execIntscan s = .next t) : Keeps s t := by
  unfold execIntscan at h; injection h with h; subst h
  repeat' first
    | with_reducible exact Keeps.refl _
    | with_reducible apply Keeps.trans ?_ (State.bypassNow_keeps ..)
    | with_reducible apply Keeps.trans ?_ (State.draw_keeps ..)
    | with_reducible apply Keeps.trans ?_ (State.jtag_keeps ..)
    | with_reducible refine Keeps.fold _ _ ?_ (fun _ _ => ?_)
    | with_reducible refine Keeps.ite ?_ ?_
theorem execBypass_keeps (s t : State) (h : execBypass s = .next t) : Keeps s t := by
  injection h with h; exact h ▸ State.bypassNow_keeps ..
theorem execEthLinkChange_keeps (a0 a1) (s t : State) (h : execEthLinkChange a0 a1 s = .next t) : Keeps s t := by
  unfold execEthLinkChange at h; injection h with h; subst h
  repeat' first
    | with_reducible exact Keeps.refl _
    | with_reducible apply Keeps.trans ?_ (State.setBit_keeps ..)
    | with_reducible refine Keeps.fold _ _ ?_ (fun _ _ => ?_)
    | with_reducible refine Keeps.ite ?_ ?_
theorem execEthFecUncorrectable_keeps (a0) (s t : State) (h : execEthFecUncorrectable a0 s = .next t) : Keeps s t := by
  unfold execEthFecUncorrectable at h; injection h with h; subst h
  repeat' first
    | with_reducible exact Keeps.refl _
    | with_reducible apply Keeps.trans ?_ (State.setFld_keeps ..)
    | with_reducible refine Keeps.fold _ _ ?_ (fun _ _ => ?_)
    | with_reducible refine Keeps.ite ?_ ?_
theorem execDynamicAddressAssignment_keeps (a0) (s t : State) (h : execDynamicAddressAssignment a0 s = .next t) : Keeps s t := by
  unfold execDynamicAddressAssignment at h; injection h with h; subst h
  repeat' first
    | with_reducible exact Keeps.refl _
    | with_reducible refine Keeps.fold _ _ ?_ (fun _ _ => ?_)
    | with_reducible refine Keeps.ite ?_ ?_
    | intro _
    | dsimp only
    | split
    | fail_if_no_progress (with_reducible refine Keeps.mk ?_ rfl rfl rfl rfl rfl rfl)
theorem execOvervoltageEvent_keeps (s t : State) (h : execOvervoltageEvent s = .next t) : Keeps s t := by
  injection h with h; exact h ▸ State.orReg_keeps ..
theorem execInputLoss_keeps (s t : State) (h : execInputLoss s = .next t) : Keeps s t := by
  injection h with h; exact h ▸ State.dark_keeps ..
theorem execForwardedResult_keeps (a0) (s t : State) (h : execForwardedResult a0 s = .next t) : Keeps s t := by
  unfold execForwardedResult at h; injection h with h; subst h
  repeat' first
    | with_reducible exact Keeps.refl _
    | with_reducible apply Keeps.trans ?_ (State.arrive_keeps _ _ _ (fun _ => ?_))
    | with_reducible apply Keeps.trans ?_ (State.kvResult_keeps ..)
    | with_reducible apply Keeps.trans ?_ (State.srvResult_keeps ..)
    | with_reducible refine Keeps.fold _ _ ?_ (fun _ _ => ?_)
    | with_reducible refine Keeps.ite ?_ ?_
theorem execCostOverrun_keeps (a0) (s t : State) (h : execCostOverrun a0 s = .next t) : Keeps s t := by
  injection h with h; exact h ▸ State.overrun_keeps ..
theorem execLinkEnableWrite_keeps (a0 a1) (s t : State) (h : execLinkEnableWrite a0 a1 s = .next t) : Keeps s t := by
  injection h with h; exact h ▸ State.linkEnable_keeps ..
theorem execLinkInjectionArm_keeps (a0 a1) (s t : State) (h : execLinkInjectionArm a0 a1 s = .next t) : Keeps s t := by
  injection h with h; exact h ▸ State.linkInj_keeps ..

end Sys2Proof.Machine
end

