-- ==== Sys2Proof/Laws/Fields.lean ====
section
/-! SUPPORT. Fields of words and of registers (R7). -/
namespace Sys2Proof.Machine

theorem bits_testBit (v hi lo i : Nat) : (bits v hi lo).testBit i = (decide (i < hi + 1 - lo) && v.testBit (i + lo)) := by
  unfold bits
  rw [Nat.testBit_mod_two_pow, Nat.testBit_div_two_pow]

theorem testBit_putBits (v hi lo x i : Nat) (h : lo ≤ hi) :
    (putBits v hi lo x).testBit i = if lo ≤ i ∧ i ≤ hi then x.testBit (i - lo) else v.testBit i := by
  unfold putBits
  have hm : ∀ a b c : Nat, c < 2 ^ lo → b < 2 ^ (hi + 1 - lo) → 
     (a * 2 ^ (hi + 1) + b * 2 ^ lo + c).testBit i = if i < lo then c.testBit i else if i ≤ hi then b.testBit (i - lo) else a.testBit (i - (hi + 1)) := by
    intro a b c hc hb
    have e : a * 2 ^ (hi + 1) + b * 2 ^ lo + c = 2 ^ lo * (2 ^ (hi + 1 - lo) * a + b) + c := by
      have : 2 ^ (hi + 1) = 2 ^ lo * 2 ^ (hi + 1 - lo) := by rw [← Nat.pow_add]; congr 1; omega
      rw [this]; ring
    rw [e, Nat.testBit_two_pow_mul_add _ hc]
    split
    · rfl
    · rw [Nat.testBit_two_pow_mul_add _ hb]
      by_cases h2 : i ≤ hi
      · rw [if_pos (by omega), if_pos h2]
      · rw [if_neg (by omega), if_neg h2]; congr 1; omega
  dsimp only
  rw [hm _ _ _ (Nat.mod_lt _ (Nat.two_pow_pos _)) (Nat.mod_lt _ (Nat.two_pow_pos _))]
  by_cases h1 : i < lo
  · rw [if_pos h1, if_neg (by omega)]; simp [Nat.testBit_mod_two_pow, h1]
  · rw [if_neg h1]
    by_cases h2 : i ≤ hi
    · rw [if_pos h2, if_pos (by omega), Nat.testBit_mod_two_pow]; simp; intro; omega
    · rw [if_neg h2, if_neg (by omega), Nat.testBit_div_two_pow]; congr 1; omega

/-- Fields in ascending order, within the word. -/
def asc : Nat → List RField → Bool
  | _, [] => true
  | b, f :: t => decide (b ≤ f.lo ∧ f.lo ≤ f.hi ∧ f.hi < 64) && asc (f.hi+1) t

/-- The fields of every register are in ascending order. -/
theorem asc_all (r : Reg) : asc 0 r.info.fields = true := by cases r <;> decide

/-- a fold of fields -/
def sumF (g : RField → Nat) : List RField → Nat
  | [] => 0
  | f :: t => sumF g t + g f * 2 ^ f.lo

theorem sumF_testBit (g : RField → Nat) (l : List RField) (b : Nat) (h : asc b l = true) (hg : ∀ f ∈ l, g f < 2 ^ (f.hi + 1 - f.lo)) (n : Nat) :
    (sumF g l).testBit n = l.any (fun f => decide (f.lo ≤ n ∧ n ≤ f.hi) && (g f).testBit (n - f.lo)) := by
  suffices hh : (∃ k, sumF g l = 2 ^ b * k) ∧ (sumF g l).testBit n = l.any (fun f => decide (f.lo ≤ n ∧ n ≤ f.hi) && (g f).testBit (n - f.lo)) from hh.2
  induction l generalizing b with
  | nil => exact ⟨⟨0, rfl⟩, by simp [sumF]⟩
  | cons f t ih =>
    simp only [asc, Bool.and_eq_true, decide_eq_true_eq] at h
    obtain ⟨⟨h1, h2, h3⟩, h4⟩ := h
    obtain ⟨⟨k, hk⟩, ht⟩ := ih (f.hi + 1) h4 (fun x hx => hg x (List.mem_cons_of_mem _ hx))
    have hf := hg f (List.mem_cons_self ..)
    have e : sumF g (f :: t) = 2 ^ f.lo * (2 ^ (f.hi + 1 - f.lo) * k + g f) := by
      simp only [sumF, hk]
      have : 2 ^ (f.hi + 1) = 2 ^ f.lo * 2 ^ (f.hi + 1 - f.lo) := by rw [← Nat.pow_add]; congr 1; omega
      rw [this]; ring
    constructor
    · refine ⟨2 ^ (f.lo - b) * (2 ^ (f.hi + 1 - f.lo) * k + g f), ?_⟩
      rw [e, ← Nat.mul_assoc, ← Nat.pow_add]; congr 2; omega
    · rw [e]
      have ht' := ht
      rw [hk] at ht'
      rw [List.any_cons, ← ht', Nat.testBit_two_pow_mul, Nat.testBit_two_pow_mul_add _ hf, Nat.testBit_two_pow_mul]
      by_cases c1 : f.lo ≤ n
      · by_cases c2 : n ≤ f.hi
        · rw [if_pos (by omega)]; simp [c1, c2]; try (intro; omega)
        · rw [if_neg (by omega)]
          have : n - f.lo - (f.hi + 1 - f.lo) = n - (f.hi + 1) := by omega
          have h5 : f.hi + 1 ≤ n := by omega
          simp [c1, c2, this, h5]
      · simp [c1]; try (intro; omega)

theorem asc_lo {b : Nat} {l : List RField} (h : asc b l = true) : ∀ f ∈ l, b ≤ f.lo ∧ f.lo ≤ f.hi := by
  induction l generalizing b with
  | nil => simp
  | cons f t ih =>
    simp only [asc, Bool.and_eq_true, decide_eq_true_eq] at h
    intro x hx
    rcases List.mem_cons.1 hx with rfl | hx
    · exact ⟨h.1.1, h.1.2.1⟩
    · have := ih h.2 x hx; omega

theorem any_only (g : RField → Nat) (l : List RField) (b : Nat) (h : asc b l = true) (f : RField) (hf : f ∈ l) (n : Nat) (hn : f.lo ≤ n ∧ n ≤ f.hi) :
    l.any (fun f => decide (f.lo ≤ n ∧ n ≤ f.hi) && (g f).testBit (n - f.lo)) = (g f).testBit (n - f.lo) := by
  induction l generalizing b with
  | nil => cases hf
  | cons x t ih =>
    simp only [asc, Bool.and_eq_true, decide_eq_true_eq] at h
    rw [List.any_cons]
    rcases List.mem_cons.1 hf with rfl | hf
    · have : t.any (fun f => decide (f.lo ≤ n ∧ n ≤ f.hi) && (g f).testBit (n - f.lo)) = false := by
        rw [List.any_eq_false]; intro y hy
        have := asc_lo h.2 y hy
        simp; omega
      rw [this]; simp [hn]
    · have := asc_lo h.2 f hf
      rw [ih _ h.2 hf]
      have : ¬ (x.lo ≤ n ∧ n ≤ x.hi) := by omega
      simp [this]

theorem bits_lt (v hi lo : Nat) : bits v hi lo < 2 ^ (hi + 1 - lo) := Nat.mod_lt _ (Nat.two_pow_pos _)

theorem bits_sumF (g : RField → Nat) (l : List RField) (h : asc 0 l = true) (hg : ∀ f ∈ l, g f < 2 ^ (f.hi + 1 - f.lo)) (f : RField) (hf : f ∈ l) :
    bits (sumF g l) f.hi f.lo = g f := by
  apply Nat.eq_of_testBit_eq
  intro i
  have hl := asc_lo h f hf
  unfold bits
  rw [Nat.testBit_mod_two_pow, Nat.testBit_div_two_pow, sumF_testBit g l 0 h hg]
  by_cases c : i < f.hi + 1 - f.lo
  · rw [any_only g l 0 h f hf _ (by omega)]; simp [c]
  · simp [c]
    apply Nat.testBit_lt_two_pow
    exact lt_of_lt_of_le (hg f hf) (Nat.pow_le_pow_right (by omega) (by omega))

/-- What a write leaves, as a sum of fields. -/
theorem write_eq (old v hw : Nat) (l : List RField) : writeFields old v hw l = sumF (fun f => f.write old v hw) l := by
  induction l with
  | nil => rfl
  | cons f t ih => simp only [writeFields, sumF, ih]

/-- What a read shows, as a sum of fields. -/
theorem read_eq (w : Nat) (l : List RField) : readFields w l = sumF (fun f => if f.acc = .wo then 0 else bits w f.hi f.lo) l := by
  induction l with
  | nil => rfl
  | cons f t ih => simp only [readFields, sumF, ih]

/-- What a read leaves, as a sum of fields. -/
theorem after_eq (w : Nat) (l : List RField) : afterRead w l = sumF (fun f => if f.acc = .rc then 0 else bits w f.hi f.lo) l := by
  induction l with
  | nil => rfl
  | cons f t ih => simp only [afterRead, sumF, ih]

theorem fwrite_lt (f : RField) (old v hw : Nat) : f.write old v hw < 2 ^ (f.hi + 1 - f.lo) := by
  have a := bits_lt old f.hi f.lo
  have b := bits_lt v f.hi f.lo
  have c := bits_lt hw f.hi f.lo
  unfold RField.write
  dsimp only
  split
  · exact a
  · exact a
  · exact b
  · exact Nat.or_lt_two_pow (Nat.xor_lt_two_pow a (Nat.and_lt_two_pow _ b)) c
  · exact Nat.or_lt_two_pow a b
  · exact Nat.two_pow_pos _

theorem ite_lt (f : RField) (w : Nat) (c : Prop) [Decidable c] : (if c then 0 else bits w f.hi f.lo) < 2 ^ (f.hi + 1 - f.lo) := by
  split
  · exact Nat.two_pow_pos _
  · exact bits_lt ..

end Sys2Proof.Machine
end

