-- ==== Sys2Proof/Laws/Regs.lean ====
section
/-! SUPPORT. Laws of the registers: a write is read back, and leaves every register at another address as it was. -/
namespace Sys2Proof.Machine

/-- A register reads back the word that hardware wrote, where the register map is in its order. -/
theorem State.reg_setReg {s : State} {lo : Nat} (r : Reg) (p i : Nat) (v : Word) (h : mapSorted lo s.regs = true) :
    (s.setReg r p i v).reg r p i = v := by
  unfold State.reg State.setReg mapSet
  dsimp only
  split
  · rw [mapGet_mapDel _ _ h]; exact Eq.symm ‹_›
  · exact mapGet_mapPut _ _ _ _

/-- Writing a register keeps the register map in its order. -/
theorem State.setReg_sorted {s : State} (r : Reg) (p i : Nat) (v : Word) (h : mapSorted 0 s.regs = true) :
    mapSorted 0 (s.setReg r p i v).regs = true := by
  unfold State.setReg
  exact mapSorted_mapSet (fun _ => r.resetWord p i) h

/-- So does a count. -/
theorem State.bump_sorted {s : State} (r : Reg) (p n : Nat) (h : mapSorted 0 s.regs = true) :
    mapSorted 0 (s.bump r p n).regs = true := by
  unfold State.bump
  dsimp only
  split
  · exact h
  · exact State.setReg_sorted _ _ _ _ h

/-- A register at another address is unchanged. -/
theorem State.reg_setReg_ne (s : State) {r q : Reg} {p i x j : Nat} (v : Word) (h : q.addr x j ≠ r.addr p i) :
    (s.setReg r p i v).reg q x j = s.reg q x j := by
  unfold State.reg State.setReg
  exact mapGet_mapSet_other (fun _ => r.resetWord p i) (fun _ => q.resetWord x j) s.regs v h

/-- A flag of a register at another address is unchanged. -/
theorem State.flag_setBit_ne (s : State) {r q : Reg} {p x n m : Nat} (b : Bool) (h : q.addr x 0 ≠ r.addr p 0) :
    (s.setBit r p n b).flag q x m = s.flag q x m := by
  unfold State.flag State.setBit
  exact congrArg (wbit · m) (State.reg_setReg_ne s _ h)

/-- A field of a register at another address is unchanged. -/
theorem State.fld_setBit_ne (s : State) {r q : Reg} {p x n hi lo : Nat} (b : Bool) (h : q.addr x 0 ≠ r.addr p 0) :
    (s.setBit r p n b).fld q x hi lo = s.fld q x hi lo := by
  unfold State.fld State.setBit
  exact congrArg (wb · hi lo) (State.reg_setReg_ne s _ h)

/-- A count leaves every register at another address as it was. -/
theorem State.reg_bump_ne (s : State) {r q : Reg} {p n x j : Nat} (h : q.addr x j ≠ r.addr p 0) :
    (s.bump r p n).reg q x j = s.reg q x j := by
  by_cases c : n = 0
  · have e : (s.bump r p n).regs = s.regs := if_pos c
    unfold State.reg; rw [e]
  · have e : (s.bump r p n).regs = (s.setReg r p 0 (BitVec.ofNat 64 (min (2 ^ 48 - 1) (s.fld r p 47 0 + n)))).regs := if_neg c
    refine Eq.trans ?_ (State.reg_setReg_ne s (BitVec.ofNat 64 (min (2 ^ 48 - 1) (s.fld r p 47 0 + n))) h)
    unfold State.reg; rw [e]

/-- So does a count whose number is free. -/
theorem State.reg_bumpFree_ne (s : State) {r q : Reg} {p n x j : Nat} (h : q.addr x j ≠ r.addr p 0) :
    (s.bumpFree r p n).reg q x j = s.reg q x j := by
  unfold State.reg State.bumpFree
  exact mapGet_mapPut_ne (fun _ => q.resetWord x j) s.regs _ h

/-- It keeps the register map in its order. -/
theorem State.bumpFree_sorted {s : State} (r : Reg) (p n : Nat) (h : mapSorted 0 s.regs = true) :
    mapSorted 0 (s.bumpFree r p n).regs = true := mapSorted_mapPut h (Nat.zero_le _)

end Sys2Proof.Machine
end

