-- ==== Sys2Proof/Laws/Links.lean ====
section
/-! SUPPORT. What the arrival of a flit leaves as it was: the memory system, the links that are up, and every register but
the link's counters of flits. -/
namespace Sys2Proof.Machine

/-- A register that is none of the link's counters of flits. -/
theorem State.flitIn_reg (s : State) (l n : Nat) {q : Reg} {x j : Nat} (h1 : q.addr x j ≠ Reg.addr .lnkPerfFlits l 0)
    (h2 : q.addr x j ≠ Reg.addr .lnkPerfFeccorr l 0) : (s.flitIn l n).reg q x j = s.reg q x j := by
  unfold State.flitIn State.draw
  dsimp only
  rw [State.reg_bumpFree_ne _ h2]
  exact State.reg_bump_ne (s.setLink l { s.link l with rx := (s.link l).rx + BitVec.ofNat 10 n, discard := false }) h1

/-- The register map stays in its order. -/
theorem State.flitIn_sorted {s : State} (l n : Nat) (h : mapSorted 0 s.regs = true) : mapSorted 0 (s.flitIn l n).regs = true := by
  unfold State.flitIn State.draw
  dsimp only
  exact State.bumpFree_sorted _ _ _ (State.bump_sorted (s := s.setLink l _) _ _ _ h)

/-- The memory system. -/
@[simp] theorem State.flitIn_mm (s : State) (l n : Nat) : (s.flitIn l n).mm = s.mm := rfl

/-- The states and peers of the links. -/
theorem State.flitIn_lnkStat (s : State) (l n o : Nat) : (s.flitIn l n).reg .lnkStat o 0 = s.reg .lnkStat o 0 := by
  refine State.flitIn_reg s l n ?_ ?_ <;> (simp only [Reg.addr, Reg.info, Page.place]; omega)

/-- The links that are up to a device. -/
theorem State.flitIn_upLinks (s : State) (l n dev : Nat) : (s.flitIn l n).upLinks dev = s.upLinks dev := by
  unfold State.upLinks State.fld
  simp only [State.flitIn_lnkStat]

/-- The islands that answer. -/
theorem State.flitIn_ready (s : State) (l n d : Nat) : (s.flitIn l n).ready d = s.ready d := by
  unfold State.ready State.flag
  have h0 : (s.flitIn l n).reg .pltReady0 0 0 = s.reg .pltReady0 0 0 := by
    refine State.flitIn_reg s l n ?_ ?_ <;> (simp only [Reg.addr, Reg.info, Page.place]; omega)
  have h1 : (s.flitIn l n).reg .pltReady1 0 0 = s.reg .pltReady1 0 0 := by
    refine State.flitIn_reg s l n ?_ ?_ <;> (simp only [Reg.addr, Reg.info, Page.place]; omega)
  unfold readyBit
  repeat' split
  all_goals simp only [h0, h1]

/-- The home that does not answer an address. -/
theorem State.flitIn_noAnswer (s : State) (l n a : Nat) : (s.flitIn l n).noAnswer a = s.noAnswer a := by
  unfold State.noAnswer
  simp only [State.flitIn_ready]

end Sys2Proof.Machine
end

