-- ==== Sys2Proof/Laws/State.lean ====
section
/-! SUPPORT. What each update of the state leaves as it was: one lemma for every field, true by computation. -/
namespace Sys2Proof.Machine

theorem step_idle (s : State) (h : s.pending = []) : step s = .next (idleTick s) := by
  unfold step; rw [h]

@[simp] theorem State.setReg_vx (s : State) (r : Reg) (p i : Nat) (v : Word) : (s.setReg r p i v).vx = s.vx := rfl
@[simp] theorem State.setReg_ax (s : State) (r : Reg) (p i : Nat) (v : Word) : (s.setReg r p i v).ax = s.ax := rfl
@[simp] theorem State.setReg_st (s : State) (r : Reg) (p i : Nat) (v : Word) : (s.setReg r p i v).st = s.st := rfl
@[simp] theorem State.setReg_mm (s : State) (r : Reg) (p i : Nat) (v : Word) : (s.setReg r p i v).mm = s.mm := rfl
@[simp] theorem State.setReg_sc (s : State) (r : Reg) (p i : Nat) (v : Word) : (s.setReg r p i v).sc = s.sc := rfl
@[simp] theorem State.setReg_kv (s : State) (r : Reg) (p i : Nat) (v : Word) : (s.setReg r p i v).kv = s.kv := rfl
@[simp] theorem State.setReg_sv (s : State) (r : Reg) (p i : Nat) (v : Word) : (s.setReg r p i v).sv = s.sv := rfl
@[simp] theorem State.setReg_ix (s : State) (r : Reg) (p i : Nat) (v : Word) : (s.setReg r p i v).ix = s.ix := rfl
@[simp] theorem State.setReg_lk (s : State) (r : Reg) (p i : Nat) (v : Word) : (s.setReg r p i v).lk = s.lk := rfl
@[simp] theorem State.setReg_cc (s : State) (r : Reg) (p i : Nat) (v : Word) : (s.setReg r p i v).cc = s.cc := rfl
@[simp] theorem State.setReg_pw (s : State) (r : Reg) (p i : Nat) (v : Word) : (s.setReg r p i v).pw = s.pw := rfl
@[simp] theorem State.setReg_se (s : State) (r : Reg) (p i : Nat) (v : Word) : (s.setReg r p i v).se = s.se := rfl
@[simp] theorem State.setReg_io (s : State) (r : Reg) (p i : Nat) (v : Word) : (s.setReg r p i v).io = s.io := rfl
@[simp] theorem State.setReg_flight (s : State) (r : Reg) (p i : Nat) (v : Word) : (s.setReg r p i v).flight = s.flight := rfl
@[simp] theorem State.setReg_free (s : State) (r : Reg) (p i : Nat) (v : Word) : (s.setReg r p i v).free = s.free := rfl
@[simp] theorem State.setReg_pending (s : State) (r : Reg) (p i : Nat) (v : Word) : (s.setReg r p i v).pending = s.pending := rfl

@[simp] theorem State.setFld_vx (s : State) (r : Reg) (p hi lo x : Nat) : (s.setFld r p hi lo x).vx = s.vx := rfl
@[simp] theorem State.setFld_ax (s : State) (r : Reg) (p hi lo x : Nat) : (s.setFld r p hi lo x).ax = s.ax := rfl
@[simp] theorem State.setFld_st (s : State) (r : Reg) (p hi lo x : Nat) : (s.setFld r p hi lo x).st = s.st := rfl
@[simp] theorem State.setFld_mm (s : State) (r : Reg) (p hi lo x : Nat) : (s.setFld r p hi lo x).mm = s.mm := rfl
@[simp] theorem State.setFld_sc (s : State) (r : Reg) (p hi lo x : Nat) : (s.setFld r p hi lo x).sc = s.sc := rfl
@[simp] theorem State.setFld_kv (s : State) (r : Reg) (p hi lo x : Nat) : (s.setFld r p hi lo x).kv = s.kv := rfl
@[simp] theorem State.setFld_sv (s : State) (r : Reg) (p hi lo x : Nat) : (s.setFld r p hi lo x).sv = s.sv := rfl
@[simp] theorem State.setFld_ix (s : State) (r : Reg) (p hi lo x : Nat) : (s.setFld r p hi lo x).ix = s.ix := rfl
@[simp] theorem State.setFld_lk (s : State) (r : Reg) (p hi lo x : Nat) : (s.setFld r p hi lo x).lk = s.lk := rfl
@[simp] theorem State.setFld_cc (s : State) (r : Reg) (p hi lo x : Nat) : (s.setFld r p hi lo x).cc = s.cc := rfl
@[simp] theorem State.setFld_pw (s : State) (r : Reg) (p hi lo x : Nat) : (s.setFld r p hi lo x).pw = s.pw := rfl
@[simp] theorem State.setFld_se (s : State) (r : Reg) (p hi lo x : Nat) : (s.setFld r p hi lo x).se = s.se := rfl
@[simp] theorem State.setFld_io (s : State) (r : Reg) (p hi lo x : Nat) : (s.setFld r p hi lo x).io = s.io := rfl
@[simp] theorem State.setFld_flight (s : State) (r : Reg) (p hi lo x : Nat) : (s.setFld r p hi lo x).flight = s.flight := rfl
@[simp] theorem State.setFld_free (s : State) (r : Reg) (p hi lo x : Nat) : (s.setFld r p hi lo x).free = s.free := rfl
@[simp] theorem State.setFld_pending (s : State) (r : Reg) (p hi lo x : Nat) : (s.setFld r p hi lo x).pending = s.pending := rfl

@[simp] theorem State.setBit_vx (s : State) (r : Reg) (p n : Nat) (b : Bool) : (s.setBit r p n b).vx = s.vx := rfl
@[simp] theorem State.setBit_ax (s : State) (r : Reg) (p n : Nat) (b : Bool) : (s.setBit r p n b).ax = s.ax := rfl
@[simp] theorem State.setBit_st (s : State) (r : Reg) (p n : Nat) (b : Bool) : (s.setBit r p n b).st = s.st := rfl
@[simp] theorem State.setBit_mm (s : State) (r : Reg) (p n : Nat) (b : Bool) : (s.setBit r p n b).mm = s.mm := rfl
@[simp] theorem State.setBit_sc (s : State) (r : Reg) (p n : Nat) (b : Bool) : (s.setBit r p n b).sc = s.sc := rfl
@[simp] theorem State.setBit_kv (s : State) (r : Reg) (p n : Nat) (b : Bool) : (s.setBit r p n b).kv = s.kv := rfl
@[simp] theorem State.setBit_sv (s : State) (r : Reg) (p n : Nat) (b : Bool) : (s.setBit r p n b).sv = s.sv := rfl
@[simp] theorem State.setBit_ix (s : State) (r : Reg) (p n : Nat) (b : Bool) : (s.setBit r p n b).ix = s.ix := rfl
@[simp] theorem State.setBit_lk (s : State) (r : Reg) (p n : Nat) (b : Bool) : (s.setBit r p n b).lk = s.lk := rfl
@[simp] theorem State.setBit_cc (s : State) (r : Reg) (p n : Nat) (b : Bool) : (s.setBit r p n b).cc = s.cc := rfl
@[simp] theorem State.setBit_pw (s : State) (r : Reg) (p n : Nat) (b : Bool) : (s.setBit r p n b).pw = s.pw := rfl
@[simp] theorem State.setBit_se (s : State) (r : Reg) (p n : Nat) (b : Bool) : (s.setBit r p n b).se = s.se := rfl
@[simp] theorem State.setBit_io (s : State) (r : Reg) (p n : Nat) (b : Bool) : (s.setBit r p n b).io = s.io := rfl
@[simp] theorem State.setBit_flight (s : State) (r : Reg) (p n : Nat) (b : Bool) : (s.setBit r p n b).flight = s.flight := rfl
@[simp] theorem State.setBit_free (s : State) (r : Reg) (p n : Nat) (b : Bool) : (s.setBit r p n b).free = s.free := rfl
@[simp] theorem State.setBit_pending (s : State) (r : Reg) (p n : Nat) (b : Bool) : (s.setBit r p n b).pending = s.pending := rfl

@[simp] theorem State.setReady_vx (s : State) (d : Nat) (b : Bool) : (s.setReady d b).vx = s.vx := rfl
@[simp] theorem State.setReady_ax (s : State) (d : Nat) (b : Bool) : (s.setReady d b).ax = s.ax := rfl
@[simp] theorem State.setReady_st (s : State) (d : Nat) (b : Bool) : (s.setReady d b).st = s.st := rfl
@[simp] theorem State.setReady_mm (s : State) (d : Nat) (b : Bool) : (s.setReady d b).mm = s.mm := rfl
@[simp] theorem State.setReady_sc (s : State) (d : Nat) (b : Bool) : (s.setReady d b).sc = s.sc := rfl
@[simp] theorem State.setReady_kv (s : State) (d : Nat) (b : Bool) : (s.setReady d b).kv = s.kv := rfl
@[simp] theorem State.setReady_sv (s : State) (d : Nat) (b : Bool) : (s.setReady d b).sv = s.sv := rfl
@[simp] theorem State.setReady_ix (s : State) (d : Nat) (b : Bool) : (s.setReady d b).ix = s.ix := rfl
@[simp] theorem State.setReady_lk (s : State) (d : Nat) (b : Bool) : (s.setReady d b).lk = s.lk := rfl
@[simp] theorem State.setReady_cc (s : State) (d : Nat) (b : Bool) : (s.setReady d b).cc = s.cc := rfl
@[simp] theorem State.setReady_pw (s : State) (d : Nat) (b : Bool) : (s.setReady d b).pw = s.pw := rfl
@[simp] theorem State.setReady_se (s : State) (d : Nat) (b : Bool) : (s.setReady d b).se = s.se := rfl
@[simp] theorem State.setReady_io (s : State) (d : Nat) (b : Bool) : (s.setReady d b).io = s.io := rfl
@[simp] theorem State.setReady_flight (s : State) (d : Nat) (b : Bool) : (s.setReady d b).flight = s.flight := rfl
@[simp] theorem State.setReady_free (s : State) (d : Nat) (b : Bool) : (s.setReady d b).free = s.free := rfl
@[simp] theorem State.setReady_pending (s : State) (d : Nat) (b : Bool) : (s.setReady d b).pending = s.pending := rfl

@[simp] theorem State.setChan_regs (s : State) (n ch : Nat) (c : Chan) : (s.setChan n ch c).regs = s.regs := rfl
@[simp] theorem State.setChan_vx (s : State) (n ch : Nat) (c : Chan) : (s.setChan n ch c).vx = s.vx := rfl
@[simp] theorem State.setChan_ax (s : State) (n ch : Nat) (c : Chan) : (s.setChan n ch c).ax = s.ax := rfl
@[simp] theorem State.setChan_mm (s : State) (n ch : Nat) (c : Chan) : (s.setChan n ch c).mm = s.mm := rfl
@[simp] theorem State.setChan_sc (s : State) (n ch : Nat) (c : Chan) : (s.setChan n ch c).sc = s.sc := rfl
@[simp] theorem State.setChan_kv (s : State) (n ch : Nat) (c : Chan) : (s.setChan n ch c).kv = s.kv := rfl
@[simp] theorem State.setChan_sv (s : State) (n ch : Nat) (c : Chan) : (s.setChan n ch c).sv = s.sv := rfl
@[simp] theorem State.setChan_ix (s : State) (n ch : Nat) (c : Chan) : (s.setChan n ch c).ix = s.ix := rfl
@[simp] theorem State.setChan_lk (s : State) (n ch : Nat) (c : Chan) : (s.setChan n ch c).lk = s.lk := rfl
@[simp] theorem State.setChan_cc (s : State) (n ch : Nat) (c : Chan) : (s.setChan n ch c).cc = s.cc := rfl
@[simp] theorem State.setChan_pw (s : State) (n ch : Nat) (c : Chan) : (s.setChan n ch c).pw = s.pw := rfl
@[simp] theorem State.setChan_se (s : State) (n ch : Nat) (c : Chan) : (s.setChan n ch c).se = s.se := rfl
@[simp] theorem State.setChan_io (s : State) (n ch : Nat) (c : Chan) : (s.setChan n ch c).io = s.io := rfl
@[simp] theorem State.setChan_flight (s : State) (n ch : Nat) (c : Chan) : (s.setChan n ch c).flight = s.flight := rfl
@[simp] theorem State.setChan_free (s : State) (n ch : Nat) (c : Chan) : (s.setChan n ch c).free = s.free := rfl
@[simp] theorem State.setChan_pending (s : State) (n ch : Nat) (c : Chan) : (s.setChan n ch c).pending = s.pending := rfl

@[simp] theorem State.modChan_regs (s : State) (n ch : Nat) (f : Chan → Chan) : (s.modChan n ch f).regs = s.regs := rfl
@[simp] theorem State.modChan_vx (s : State) (n ch : Nat) (f : Chan → Chan) : (s.modChan n ch f).vx = s.vx := rfl
@[simp] theorem State.modChan_ax (s : State) (n ch : Nat) (f : Chan → Chan) : (s.modChan n ch f).ax = s.ax := rfl
@[simp] theorem State.modChan_mm (s : State) (n ch : Nat) (f : Chan → Chan) : (s.modChan n ch f).mm = s.mm := rfl
@[simp] theorem State.modChan_sc (s : State) (n ch : Nat) (f : Chan → Chan) : (s.modChan n ch f).sc = s.sc := rfl
@[simp] theorem State.modChan_kv (s : State) (n ch : Nat) (f : Chan → Chan) : (s.modChan n ch f).kv = s.kv := rfl
@[simp] theorem State.modChan_sv (s : State) (n ch : Nat) (f : Chan → Chan) : (s.modChan n ch f).sv = s.sv := rfl
@[simp] theorem State.modChan_ix (s : State) (n ch : Nat) (f : Chan → Chan) : (s.modChan n ch f).ix = s.ix := rfl
@[simp] theorem State.modChan_lk (s : State) (n ch : Nat) (f : Chan → Chan) : (s.modChan n ch f).lk = s.lk := rfl
@[simp] theorem State.modChan_cc (s : State) (n ch : Nat) (f : Chan → Chan) : (s.modChan n ch f).cc = s.cc := rfl
@[simp] theorem State.modChan_pw (s : State) (n ch : Nat) (f : Chan → Chan) : (s.modChan n ch f).pw = s.pw := rfl
@[simp] theorem State.modChan_se (s : State) (n ch : Nat) (f : Chan → Chan) : (s.modChan n ch f).se = s.se := rfl
@[simp] theorem State.modChan_io (s : State) (n ch : Nat) (f : Chan → Chan) : (s.modChan n ch f).io = s.io := rfl
@[simp] theorem State.modChan_flight (s : State) (n ch : Nat) (f : Chan → Chan) : (s.modChan n ch f).flight = s.flight := rfl
@[simp] theorem State.modChan_free (s : State) (n ch : Nat) (f : Chan → Chan) : (s.modChan n ch f).free = s.free := rfl
@[simp] theorem State.modChan_pending (s : State) (n ch : Nat) (f : Chan → Chan) : (s.modChan n ch f).pending = s.pending := rfl

@[simp] theorem State.setBank_regs (s : State) (n ch b : Nat) (v : Bank) : (s.setBank n ch b v).regs = s.regs := rfl
@[simp] theorem State.setBank_vx (s : State) (n ch b : Nat) (v : Bank) : (s.setBank n ch b v).vx = s.vx := rfl
@[simp] theorem State.setBank_ax (s : State) (n ch b : Nat) (v : Bank) : (s.setBank n ch b v).ax = s.ax := rfl
@[simp] theorem State.setBank_mm (s : State) (n ch b : Nat) (v : Bank) : (s.setBank n ch b v).mm = s.mm := rfl
@[simp] theorem State.setBank_sc (s : State) (n ch b : Nat) (v : Bank) : (s.setBank n ch b v).sc = s.sc := rfl
@[simp] theorem State.setBank_kv (s : State) (n ch b : Nat) (v : Bank) : (s.setBank n ch b v).kv = s.kv := rfl
@[simp] theorem State.setBank_sv (s : State) (n ch b : Nat) (v : Bank) : (s.setBank n ch b v).sv = s.sv := rfl
@[simp] theorem State.setBank_ix (s : State) (n ch b : Nat) (v : Bank) : (s.setBank n ch b v).ix = s.ix := rfl
@[simp] theorem State.setBank_lk (s : State) (n ch b : Nat) (v : Bank) : (s.setBank n ch b v).lk = s.lk := rfl
@[simp] theorem State.setBank_cc (s : State) (n ch b : Nat) (v : Bank) : (s.setBank n ch b v).cc = s.cc := rfl
@[simp] theorem State.setBank_pw (s : State) (n ch b : Nat) (v : Bank) : (s.setBank n ch b v).pw = s.pw := rfl
@[simp] theorem State.setBank_se (s : State) (n ch b : Nat) (v : Bank) : (s.setBank n ch b v).se = s.se := rfl
@[simp] theorem State.setBank_io (s : State) (n ch b : Nat) (v : Bank) : (s.setBank n ch b v).io = s.io := rfl
@[simp] theorem State.setBank_flight (s : State) (n ch b : Nat) (v : Bank) : (s.setBank n ch b v).flight = s.flight := rfl
@[simp] theorem State.setBank_free (s : State) (n ch b : Nat) (v : Bank) : (s.setBank n ch b v).free = s.free := rfl
@[simp] theorem State.setBank_pending (s : State) (n ch b : Nat) (v : Bank) : (s.setBank n ch b v).pending = s.pending := rfl

@[simp] theorem State.modBank_regs (s : State) (n ch b : Nat) (f : Bank → Bank) : (s.modBank n ch b f).regs = s.regs := rfl
@[simp] theorem State.modBank_vx (s : State) (n ch b : Nat) (f : Bank → Bank) : (s.modBank n ch b f).vx = s.vx := rfl
@[simp] theorem State.modBank_ax (s : State) (n ch b : Nat) (f : Bank → Bank) : (s.modBank n ch b f).ax = s.ax := rfl
@[simp] theorem State.modBank_mm (s : State) (n ch b : Nat) (f : Bank → Bank) : (s.modBank n ch b f).mm = s.mm := rfl
@[simp] theorem State.modBank_sc (s : State) (n ch b : Nat) (f : Bank → Bank) : (s.modBank n ch b f).sc = s.sc := rfl
@[simp] theorem State.modBank_kv (s : State) (n ch b : Nat) (f : Bank → Bank) : (s.modBank n ch b f).kv = s.kv := rfl
@[simp] theorem State.modBank_sv (s : State) (n ch b : Nat) (f : Bank → Bank) : (s.modBank n ch b f).sv = s.sv := rfl
@[simp] theorem State.modBank_ix (s : State) (n ch b : Nat) (f : Bank → Bank) : (s.modBank n ch b f).ix = s.ix := rfl
@[simp] theorem State.modBank_lk (s : State) (n ch b : Nat) (f : Bank → Bank) : (s.modBank n ch b f).lk = s.lk := rfl
@[simp] theorem State.modBank_cc (s : State) (n ch b : Nat) (f : Bank → Bank) : (s.modBank n ch b f).cc = s.cc := rfl
@[simp] theorem State.modBank_pw (s : State) (n ch b : Nat) (f : Bank → Bank) : (s.modBank n ch b f).pw = s.pw := rfl
@[simp] theorem State.modBank_se (s : State) (n ch b : Nat) (f : Bank → Bank) : (s.modBank n ch b f).se = s.se := rfl
@[simp] theorem State.modBank_io (s : State) (n ch b : Nat) (f : Bank → Bank) : (s.modBank n ch b f).io = s.io := rfl
@[simp] theorem State.modBank_flight (s : State) (n ch b : Nat) (f : Bank → Bank) : (s.modBank n ch b f).flight = s.flight := rfl
@[simp] theorem State.modBank_free (s : State) (n ch b : Nat) (f : Bank → Bank) : (s.modBank n ch b f).free = s.free := rfl
@[simp] theorem State.modBank_pending (s : State) (n ch b : Nat) (f : Bank → Bank) : (s.modBank n ch b f).pending = s.pending := rfl

@[simp] theorem State.setAcks_regs (s : State) (k n : Nat) : (s.setAcks k n).regs = s.regs := rfl
@[simp] theorem State.setAcks_vx (s : State) (k n : Nat) : (s.setAcks k n).vx = s.vx := rfl
@[simp] theorem State.setAcks_ax (s : State) (k n : Nat) : (s.setAcks k n).ax = s.ax := rfl
@[simp] theorem State.setAcks_st (s : State) (k n : Nat) : (s.setAcks k n).st = s.st := rfl
@[simp] theorem State.setAcks_sc (s : State) (k n : Nat) : (s.setAcks k n).sc = s.sc := rfl
@[simp] theorem State.setAcks_kv (s : State) (k n : Nat) : (s.setAcks k n).kv = s.kv := rfl
@[simp] theorem State.setAcks_sv (s : State) (k n : Nat) : (s.setAcks k n).sv = s.sv := rfl
@[simp] theorem State.setAcks_ix (s : State) (k n : Nat) : (s.setAcks k n).ix = s.ix := rfl
@[simp] theorem State.setAcks_lk (s : State) (k n : Nat) : (s.setAcks k n).lk = s.lk := rfl
@[simp] theorem State.setAcks_cc (s : State) (k n : Nat) : (s.setAcks k n).cc = s.cc := rfl
@[simp] theorem State.setAcks_pw (s : State) (k n : Nat) : (s.setAcks k n).pw = s.pw := rfl
@[simp] theorem State.setAcks_se (s : State) (k n : Nat) : (s.setAcks k n).se = s.se := rfl
@[simp] theorem State.setAcks_io (s : State) (k n : Nat) : (s.setAcks k n).io = s.io := rfl
@[simp] theorem State.setAcks_flight (s : State) (k n : Nat) : (s.setAcks k n).flight = s.flight := rfl
@[simp] theorem State.setAcks_free (s : State) (k n : Nat) : (s.setAcks k n).free = s.free := rfl
@[simp] theorem State.setAcks_pending (s : State) (k n : Nat) : (s.setAcks k n).pending = s.pending := rfl

@[simp] theorem State.setBucket_regs (s : State) (h p : Nat) (b : Bucket) : (s.setBucket h p b).regs = s.regs := rfl
@[simp] theorem State.setBucket_vx (s : State) (h p : Nat) (b : Bucket) : (s.setBucket h p b).vx = s.vx := rfl
@[simp] theorem State.setBucket_ax (s : State) (h p : Nat) (b : Bucket) : (s.setBucket h p b).ax = s.ax := rfl
@[simp] theorem State.setBucket_st (s : State) (h p : Nat) (b : Bucket) : (s.setBucket h p b).st = s.st := rfl
@[simp] theorem State.setBucket_sc (s : State) (h p : Nat) (b : Bucket) : (s.setBucket h p b).sc = s.sc := rfl
@[simp] theorem State.setBucket_kv (s : State) (h p : Nat) (b : Bucket) : (s.setBucket h p b).kv = s.kv := rfl
@[simp] theorem State.setBucket_sv (s : State) (h p : Nat) (b : Bucket) : (s.setBucket h p b).sv = s.sv := rfl
@[simp] theorem State.setBucket_ix (s : State) (h p : Nat) (b : Bucket) : (s.setBucket h p b).ix = s.ix := rfl
@[simp] theorem State.setBucket_lk (s : State) (h p : Nat) (b : Bucket) : (s.setBucket h p b).lk = s.lk := rfl
@[simp] theorem State.setBucket_cc (s : State) (h p : Nat) (b : Bucket) : (s.setBucket h p b).cc = s.cc := rfl
@[simp] theorem State.setBucket_pw (s : State) (h p : Nat) (b : Bucket) : (s.setBucket h p b).pw = s.pw := rfl
@[simp] theorem State.setBucket_se (s : State) (h p : Nat) (b : Bucket) : (s.setBucket h p b).se = s.se := rfl
@[simp] theorem State.setBucket_io (s : State) (h p : Nat) (b : Bucket) : (s.setBucket h p b).io = s.io := rfl
@[simp] theorem State.setBucket_flight (s : State) (h p : Nat) (b : Bucket) : (s.setBucket h p b).flight = s.flight := rfl
@[simp] theorem State.setBucket_free (s : State) (h p : Nat) (b : Bucket) : (s.setBucket h p b).free = s.free := rfl
@[simp] theorem State.setBucket_pending (s : State) (h p : Nat) (b : Bucket) : (s.setBucket h p b).pending = s.pending := rfl

@[simp] theorem State.setAtoms_regs (s : State) (l : List AtomLine) : (s.setAtoms l).regs = s.regs := rfl
@[simp] theorem State.setAtoms_vx (s : State) (l : List AtomLine) : (s.setAtoms l).vx = s.vx := rfl
@[simp] theorem State.setAtoms_ax (s : State) (l : List AtomLine) : (s.setAtoms l).ax = s.ax := rfl
@[simp] theorem State.setAtoms_st (s : State) (l : List AtomLine) : (s.setAtoms l).st = s.st := rfl
@[simp] theorem State.setAtoms_sc (s : State) (l : List AtomLine) : (s.setAtoms l).sc = s.sc := rfl
@[simp] theorem State.setAtoms_kv (s : State) (l : List AtomLine) : (s.setAtoms l).kv = s.kv := rfl
@[simp] theorem State.setAtoms_sv (s : State) (l : List AtomLine) : (s.setAtoms l).sv = s.sv := rfl
@[simp] theorem State.setAtoms_ix (s : State) (l : List AtomLine) : (s.setAtoms l).ix = s.ix := rfl
@[simp] theorem State.setAtoms_lk (s : State) (l : List AtomLine) : (s.setAtoms l).lk = s.lk := rfl
@[simp] theorem State.setAtoms_cc (s : State) (l : List AtomLine) : (s.setAtoms l).cc = s.cc := rfl
@[simp] theorem State.setAtoms_pw (s : State) (l : List AtomLine) : (s.setAtoms l).pw = s.pw := rfl
@[simp] theorem State.setAtoms_se (s : State) (l : List AtomLine) : (s.setAtoms l).se = s.se := rfl
@[simp] theorem State.setAtoms_io (s : State) (l : List AtomLine) : (s.setAtoms l).io = s.io := rfl
@[simp] theorem State.setAtoms_flight (s : State) (l : List AtomLine) : (s.setAtoms l).flight = s.flight := rfl
@[simp] theorem State.setAtoms_free (s : State) (l : List AtomLine) : (s.setAtoms l).free = s.free := rfl
@[simp] theorem State.setAtoms_pending (s : State) (l : List AtomLine) : (s.setAtoms l).pending = s.pending := rfl

@[simp] theorem State.setCtx_regs (s : State) (x : Nat) (c : Option Ctx) : (s.setCtx x c).regs = s.regs := rfl
@[simp] theorem State.setCtx_vx (s : State) (x : Nat) (c : Option Ctx) : (s.setCtx x c).vx = s.vx := rfl
@[simp] theorem State.setCtx_ax (s : State) (x : Nat) (c : Option Ctx) : (s.setCtx x c).ax = s.ax := rfl
@[simp] theorem State.setCtx_st (s : State) (x : Nat) (c : Option Ctx) : (s.setCtx x c).st = s.st := rfl
@[simp] theorem State.setCtx_mm (s : State) (x : Nat) (c : Option Ctx) : (s.setCtx x c).mm = s.mm := rfl
@[simp] theorem State.setCtx_kv (s : State) (x : Nat) (c : Option Ctx) : (s.setCtx x c).kv = s.kv := rfl
@[simp] theorem State.setCtx_sv (s : State) (x : Nat) (c : Option Ctx) : (s.setCtx x c).sv = s.sv := rfl
@[simp] theorem State.setCtx_ix (s : State) (x : Nat) (c : Option Ctx) : (s.setCtx x c).ix = s.ix := rfl
@[simp] theorem State.setCtx_lk (s : State) (x : Nat) (c : Option Ctx) : (s.setCtx x c).lk = s.lk := rfl
@[simp] theorem State.setCtx_cc (s : State) (x : Nat) (c : Option Ctx) : (s.setCtx x c).cc = s.cc := rfl
@[simp] theorem State.setCtx_pw (s : State) (x : Nat) (c : Option Ctx) : (s.setCtx x c).pw = s.pw := rfl
@[simp] theorem State.setCtx_se (s : State) (x : Nat) (c : Option Ctx) : (s.setCtx x c).se = s.se := rfl
@[simp] theorem State.setCtx_io (s : State) (x : Nat) (c : Option Ctx) : (s.setCtx x c).io = s.io := rfl
@[simp] theorem State.setCtx_flight (s : State) (x : Nat) (c : Option Ctx) : (s.setCtx x c).flight = s.flight := rfl
@[simp] theorem State.setCtx_free (s : State) (x : Nat) (c : Option Ctx) : (s.setCtx x c).free = s.free := rfl
@[simp] theorem State.setCtx_pending (s : State) (x : Nat) (c : Option Ctx) : (s.setCtx x c).pending = s.pending := rfl

@[simp] theorem State.setValid_regs (s : State) (x h : Nat) (v : Bool) : (s.setValid x h v).regs = s.regs := rfl
@[simp] theorem State.setValid_vx (s : State) (x h : Nat) (v : Bool) : (s.setValid x h v).vx = s.vx := rfl
@[simp] theorem State.setValid_ax (s : State) (x h : Nat) (v : Bool) : (s.setValid x h v).ax = s.ax := rfl
@[simp] theorem State.setValid_st (s : State) (x h : Nat) (v : Bool) : (s.setValid x h v).st = s.st := rfl
@[simp] theorem State.setValid_mm (s : State) (x h : Nat) (v : Bool) : (s.setValid x h v).mm = s.mm := rfl
@[simp] theorem State.setValid_kv (s : State) (x h : Nat) (v : Bool) : (s.setValid x h v).kv = s.kv := rfl
@[simp] theorem State.setValid_sv (s : State) (x h : Nat) (v : Bool) : (s.setValid x h v).sv = s.sv := rfl
@[simp] theorem State.setValid_ix (s : State) (x h : Nat) (v : Bool) : (s.setValid x h v).ix = s.ix := rfl
@[simp] theorem State.setValid_lk (s : State) (x h : Nat) (v : Bool) : (s.setValid x h v).lk = s.lk := rfl
@[simp] theorem State.setValid_cc (s : State) (x h : Nat) (v : Bool) : (s.setValid x h v).cc = s.cc := rfl
@[simp] theorem State.setValid_pw (s : State) (x h : Nat) (v : Bool) : (s.setValid x h v).pw = s.pw := rfl
@[simp] theorem State.setValid_se (s : State) (x h : Nat) (v : Bool) : (s.setValid x h v).se = s.se := rfl
@[simp] theorem State.setValid_io (s : State) (x h : Nat) (v : Bool) : (s.setValid x h v).io = s.io := rfl
@[simp] theorem State.setValid_flight (s : State) (x h : Nat) (v : Bool) : (s.setValid x h v).flight = s.flight := rfl
@[simp] theorem State.setValid_free (s : State) (x h : Nat) (v : Bool) : (s.setValid x h v).free = s.free := rfl
@[simp] theorem State.setValid_pending (s : State) (x h : Nat) (v : Bool) : (s.setValid x h v).pending = s.pending := rfl

@[simp] theorem State.modField_regs (s : State) (f : Nat) (g : Field → Field) : (s.modField f g).regs = s.regs := rfl
@[simp] theorem State.modField_vx (s : State) (f : Nat) (g : Field → Field) : (s.modField f g).vx = s.vx := rfl
@[simp] theorem State.modField_ax (s : State) (f : Nat) (g : Field → Field) : (s.modField f g).ax = s.ax := rfl
@[simp] theorem State.modField_st (s : State) (f : Nat) (g : Field → Field) : (s.modField f g).st = s.st := rfl
@[simp] theorem State.modField_mm (s : State) (f : Nat) (g : Field → Field) : (s.modField f g).mm = s.mm := rfl
@[simp] theorem State.modField_kv (s : State) (f : Nat) (g : Field → Field) : (s.modField f g).kv = s.kv := rfl
@[simp] theorem State.modField_sv (s : State) (f : Nat) (g : Field → Field) : (s.modField f g).sv = s.sv := rfl
@[simp] theorem State.modField_ix (s : State) (f : Nat) (g : Field → Field) : (s.modField f g).ix = s.ix := rfl
@[simp] theorem State.modField_lk (s : State) (f : Nat) (g : Field → Field) : (s.modField f g).lk = s.lk := rfl
@[simp] theorem State.modField_cc (s : State) (f : Nat) (g : Field → Field) : (s.modField f g).cc = s.cc := rfl
@[simp] theorem State.modField_pw (s : State) (f : Nat) (g : Field → Field) : (s.modField f g).pw = s.pw := rfl
@[simp] theorem State.modField_se (s : State) (f : Nat) (g : Field → Field) : (s.modField f g).se = s.se := rfl
@[simp] theorem State.modField_io (s : State) (f : Nat) (g : Field → Field) : (s.modField f g).io = s.io := rfl
@[simp] theorem State.modField_flight (s : State) (f : Nat) (g : Field → Field) : (s.modField f g).flight = s.flight := rfl
@[simp] theorem State.modField_free (s : State) (f : Nat) (g : Field → Field) : (s.modField f g).free = s.free := rfl
@[simp] theorem State.modField_pending (s : State) (f : Nat) (g : Field → Field) : (s.modField f g).pending = s.pending := rfl

@[simp] theorem State.setSlot_regs (s : State) (k : Nat) (v : Slot) : (s.setSlot k v).regs = s.regs := rfl
@[simp] theorem State.setSlot_vx (s : State) (k : Nat) (v : Slot) : (s.setSlot k v).vx = s.vx := rfl
@[simp] theorem State.setSlot_ax (s : State) (k : Nat) (v : Slot) : (s.setSlot k v).ax = s.ax := rfl
@[simp] theorem State.setSlot_st (s : State) (k : Nat) (v : Slot) : (s.setSlot k v).st = s.st := rfl
@[simp] theorem State.setSlot_mm (s : State) (k : Nat) (v : Slot) : (s.setSlot k v).mm = s.mm := rfl
@[simp] theorem State.setSlot_sc (s : State) (k : Nat) (v : Slot) : (s.setSlot k v).sc = s.sc := rfl
@[simp] theorem State.setSlot_kv (s : State) (k : Nat) (v : Slot) : (s.setSlot k v).kv = s.kv := rfl
@[simp] theorem State.setSlot_sv (s : State) (k : Nat) (v : Slot) : (s.setSlot k v).sv = s.sv := rfl
@[simp] theorem State.setSlot_lk (s : State) (k : Nat) (v : Slot) : (s.setSlot k v).lk = s.lk := rfl
@[simp] theorem State.setSlot_cc (s : State) (k : Nat) (v : Slot) : (s.setSlot k v).cc = s.cc := rfl
@[simp] theorem State.setSlot_pw (s : State) (k : Nat) (v : Slot) : (s.setSlot k v).pw = s.pw := rfl
@[simp] theorem State.setSlot_se (s : State) (k : Nat) (v : Slot) : (s.setSlot k v).se = s.se := rfl
@[simp] theorem State.setSlot_io (s : State) (k : Nat) (v : Slot) : (s.setSlot k v).io = s.io := rfl
@[simp] theorem State.setSlot_flight (s : State) (k : Nat) (v : Slot) : (s.setSlot k v).flight = s.flight := rfl
@[simp] theorem State.setSlot_free (s : State) (k : Nat) (v : Slot) : (s.setSlot k v).free = s.free := rfl
@[simp] theorem State.setSlot_pending (s : State) (k : Nat) (v : Slot) : (s.setSlot k v).pending = s.pending := rfl

@[simp] theorem State.putEvt_regs (s : State) (i w v : Nat) : (s.putEvt i w v).regs = s.regs := rfl
@[simp] theorem State.putEvt_vx (s : State) (i w v : Nat) : (s.putEvt i w v).vx = s.vx := rfl
@[simp] theorem State.putEvt_ax (s : State) (i w v : Nat) : (s.putEvt i w v).ax = s.ax := rfl
@[simp] theorem State.putEvt_st (s : State) (i w v : Nat) : (s.putEvt i w v).st = s.st := rfl
@[simp] theorem State.putEvt_mm (s : State) (i w v : Nat) : (s.putEvt i w v).mm = s.mm := rfl
@[simp] theorem State.putEvt_sc (s : State) (i w v : Nat) : (s.putEvt i w v).sc = s.sc := rfl
@[simp] theorem State.putEvt_kv (s : State) (i w v : Nat) : (s.putEvt i w v).kv = s.kv := rfl
@[simp] theorem State.putEvt_sv (s : State) (i w v : Nat) : (s.putEvt i w v).sv = s.sv := rfl
@[simp] theorem State.putEvt_lk (s : State) (i w v : Nat) : (s.putEvt i w v).lk = s.lk := rfl
@[simp] theorem State.putEvt_cc (s : State) (i w v : Nat) : (s.putEvt i w v).cc = s.cc := rfl
@[simp] theorem State.putEvt_pw (s : State) (i w v : Nat) : (s.putEvt i w v).pw = s.pw := rfl
@[simp] theorem State.putEvt_se (s : State) (i w v : Nat) : (s.putEvt i w v).se = s.se := rfl
@[simp] theorem State.putEvt_io (s : State) (i w v : Nat) : (s.putEvt i w v).io = s.io := rfl
@[simp] theorem State.putEvt_flight (s : State) (i w v : Nat) : (s.putEvt i w v).flight = s.flight := rfl
@[simp] theorem State.putEvt_free (s : State) (i w v : Nat) : (s.putEvt i w v).free = s.free := rfl
@[simp] theorem State.putEvt_pending (s : State) (i w v : Nat) : (s.putEvt i w v).pending = s.pending := rfl

@[simp] theorem State.setLink_regs (s : State) (l : Nat) (v : Link) : (s.setLink l v).regs = s.regs := rfl
@[simp] theorem State.setLink_vx (s : State) (l : Nat) (v : Link) : (s.setLink l v).vx = s.vx := rfl
@[simp] theorem State.setLink_ax (s : State) (l : Nat) (v : Link) : (s.setLink l v).ax = s.ax := rfl
@[simp] theorem State.setLink_st (s : State) (l : Nat) (v : Link) : (s.setLink l v).st = s.st := rfl
@[simp] theorem State.setLink_mm (s : State) (l : Nat) (v : Link) : (s.setLink l v).mm = s.mm := rfl
@[simp] theorem State.setLink_sc (s : State) (l : Nat) (v : Link) : (s.setLink l v).sc = s.sc := rfl
@[simp] theorem State.setLink_kv (s : State) (l : Nat) (v : Link) : (s.setLink l v).kv = s.kv := rfl
@[simp] theorem State.setLink_sv (s : State) (l : Nat) (v : Link) : (s.setLink l v).sv = s.sv := rfl
@[simp] theorem State.setLink_ix (s : State) (l : Nat) (v : Link) : (s.setLink l v).ix = s.ix := rfl
@[simp] theorem State.setLink_cc (s : State) (l : Nat) (v : Link) : (s.setLink l v).cc = s.cc := rfl
@[simp] theorem State.setLink_pw (s : State) (l : Nat) (v : Link) : (s.setLink l v).pw = s.pw := rfl
@[simp] theorem State.setLink_se (s : State) (l : Nat) (v : Link) : (s.setLink l v).se = s.se := rfl
@[simp] theorem State.setLink_io (s : State) (l : Nat) (v : Link) : (s.setLink l v).io = s.io := rfl
@[simp] theorem State.setLink_flight (s : State) (l : Nat) (v : Link) : (s.setLink l v).flight = s.flight := rfl
@[simp] theorem State.setLink_free (s : State) (l : Nat) (v : Link) : (s.setLink l v).free = s.free := rfl
@[simp] theorem State.setLink_pending (s : State) (l : Nat) (v : Link) : (s.setLink l v).pending = s.pending := rfl

@[simp] theorem State.setDom_regs (s : State) (d : Nat) (v : Dom) : (s.setDom d v).regs = s.regs := rfl
@[simp] theorem State.setDom_vx (s : State) (d : Nat) (v : Dom) : (s.setDom d v).vx = s.vx := rfl
@[simp] theorem State.setDom_ax (s : State) (d : Nat) (v : Dom) : (s.setDom d v).ax = s.ax := rfl
@[simp] theorem State.setDom_st (s : State) (d : Nat) (v : Dom) : (s.setDom d v).st = s.st := rfl
@[simp] theorem State.setDom_mm (s : State) (d : Nat) (v : Dom) : (s.setDom d v).mm = s.mm := rfl
@[simp] theorem State.setDom_sc (s : State) (d : Nat) (v : Dom) : (s.setDom d v).sc = s.sc := rfl
@[simp] theorem State.setDom_kv (s : State) (d : Nat) (v : Dom) : (s.setDom d v).kv = s.kv := rfl
@[simp] theorem State.setDom_sv (s : State) (d : Nat) (v : Dom) : (s.setDom d v).sv = s.sv := rfl
@[simp] theorem State.setDom_ix (s : State) (d : Nat) (v : Dom) : (s.setDom d v).ix = s.ix := rfl
@[simp] theorem State.setDom_lk (s : State) (d : Nat) (v : Dom) : (s.setDom d v).lk = s.lk := rfl
@[simp] theorem State.setDom_cc (s : State) (d : Nat) (v : Dom) : (s.setDom d v).cc = s.cc := rfl
@[simp] theorem State.setDom_se (s : State) (d : Nat) (v : Dom) : (s.setDom d v).se = s.se := rfl
@[simp] theorem State.setDom_io (s : State) (d : Nat) (v : Dom) : (s.setDom d v).io = s.io := rfl
@[simp] theorem State.setDom_flight (s : State) (d : Nat) (v : Dom) : (s.setDom d v).flight = s.flight := rfl
@[simp] theorem State.setDom_free (s : State) (d : Nat) (v : Dom) : (s.setDom d v).free = s.free := rfl
@[simp] theorem State.setDom_pending (s : State) (d : Nat) (v : Dom) : (s.setDom d v).pending = s.pending := rfl

@[simp] theorem State.setSt_regs (s : State) (k u : Nat) (v : StUnit) : (s.setSt k u v).regs = s.regs := rfl
@[simp] theorem State.setSt_vx (s : State) (k u : Nat) (v : StUnit) : (s.setSt k u v).vx = s.vx := rfl
@[simp] theorem State.setSt_ax (s : State) (k u : Nat) (v : StUnit) : (s.setSt k u v).ax = s.ax := rfl
@[simp] theorem State.setSt_st (s : State) (k u : Nat) (v : StUnit) : (s.setSt k u v).st = s.st := rfl
@[simp] theorem State.setSt_mm (s : State) (k u : Nat) (v : StUnit) : (s.setSt k u v).mm = s.mm := rfl
@[simp] theorem State.setSt_sc (s : State) (k u : Nat) (v : StUnit) : (s.setSt k u v).sc = s.sc := rfl
@[simp] theorem State.setSt_kv (s : State) (k u : Nat) (v : StUnit) : (s.setSt k u v).kv = s.kv := rfl
@[simp] theorem State.setSt_sv (s : State) (k u : Nat) (v : StUnit) : (s.setSt k u v).sv = s.sv := rfl
@[simp] theorem State.setSt_ix (s : State) (k u : Nat) (v : StUnit) : (s.setSt k u v).ix = s.ix := rfl
@[simp] theorem State.setSt_lk (s : State) (k u : Nat) (v : StUnit) : (s.setSt k u v).lk = s.lk := rfl
@[simp] theorem State.setSt_cc (s : State) (k u : Nat) (v : StUnit) : (s.setSt k u v).cc = s.cc := rfl
@[simp] theorem State.setSt_pw (s : State) (k u : Nat) (v : StUnit) : (s.setSt k u v).pw = s.pw := rfl
@[simp] theorem State.setSt_io (s : State) (k u : Nat) (v : StUnit) : (s.setSt k u v).io = s.io := rfl
@[simp] theorem State.setSt_flight (s : State) (k u : Nat) (v : StUnit) : (s.setSt k u v).flight = s.flight := rfl
@[simp] theorem State.setSt_free (s : State) (k u : Nat) (v : StUnit) : (s.setSt k u v).free = s.free := rfl
@[simp] theorem State.setSt_pending (s : State) (k u : Nat) (v : StUnit) : (s.setSt k u v).pending = s.pending := rfl

@[simp] theorem State.setCust_regs (s : State) (u : Nat) (c : Cust) : (s.setCust u c).regs = s.regs := rfl
@[simp] theorem State.setCust_vx (s : State) (u : Nat) (c : Cust) : (s.setCust u c).vx = s.vx := rfl
@[simp] theorem State.setCust_ax (s : State) (u : Nat) (c : Cust) : (s.setCust u c).ax = s.ax := rfl
@[simp] theorem State.setCust_st (s : State) (u : Nat) (c : Cust) : (s.setCust u c).st = s.st := rfl
@[simp] theorem State.setCust_mm (s : State) (u : Nat) (c : Cust) : (s.setCust u c).mm = s.mm := rfl
@[simp] theorem State.setCust_sc (s : State) (u : Nat) (c : Cust) : (s.setCust u c).sc = s.sc := rfl
@[simp] theorem State.setCust_kv (s : State) (u : Nat) (c : Cust) : (s.setCust u c).kv = s.kv := rfl
@[simp] theorem State.setCust_ix (s : State) (u : Nat) (c : Cust) : (s.setCust u c).ix = s.ix := rfl
@[simp] theorem State.setCust_lk (s : State) (u : Nat) (c : Cust) : (s.setCust u c).lk = s.lk := rfl
@[simp] theorem State.setCust_cc (s : State) (u : Nat) (c : Cust) : (s.setCust u c).cc = s.cc := rfl
@[simp] theorem State.setCust_pw (s : State) (u : Nat) (c : Cust) : (s.setCust u c).pw = s.pw := rfl
@[simp] theorem State.setCust_se (s : State) (u : Nat) (c : Cust) : (s.setCust u c).se = s.se := rfl
@[simp] theorem State.setCust_io (s : State) (u : Nat) (c : Cust) : (s.setCust u c).io = s.io := rfl
@[simp] theorem State.setCust_flight (s : State) (u : Nat) (c : Cust) : (s.setCust u c).flight = s.flight := rfl
@[simp] theorem State.setCust_free (s : State) (u : Nat) (c : Cust) : (s.setCust u c).free = s.free := rfl
@[simp] theorem State.setCust_pending (s : State) (u : Nat) (c : Cust) : (s.setCust u c).pending = s.pending := rfl

@[simp] theorem State.setThrottle_regs (s : State) (f u : Nat) (b : Bool) : (s.setThrottle f u b).regs = s.regs := rfl
@[simp] theorem State.setThrottle_vx (s : State) (f u : Nat) (b : Bool) : (s.setThrottle f u b).vx = s.vx := rfl
@[simp] theorem State.setThrottle_ax (s : State) (f u : Nat) (b : Bool) : (s.setThrottle f u b).ax = s.ax := rfl
@[simp] theorem State.setThrottle_st (s : State) (f u : Nat) (b : Bool) : (s.setThrottle f u b).st = s.st := rfl
@[simp] theorem State.setThrottle_mm (s : State) (f u : Nat) (b : Bool) : (s.setThrottle f u b).mm = s.mm := rfl
@[simp] theorem State.setThrottle_sc (s : State) (f u : Nat) (b : Bool) : (s.setThrottle f u b).sc = s.sc := rfl
@[simp] theorem State.setThrottle_kv (s : State) (f u : Nat) (b : Bool) : (s.setThrottle f u b).kv = s.kv := rfl
@[simp] theorem State.setThrottle_ix (s : State) (f u : Nat) (b : Bool) : (s.setThrottle f u b).ix = s.ix := rfl
@[simp] theorem State.setThrottle_lk (s : State) (f u : Nat) (b : Bool) : (s.setThrottle f u b).lk = s.lk := rfl
@[simp] theorem State.setThrottle_cc (s : State) (f u : Nat) (b : Bool) : (s.setThrottle f u b).cc = s.cc := rfl
@[simp] theorem State.setThrottle_pw (s : State) (f u : Nat) (b : Bool) : (s.setThrottle f u b).pw = s.pw := rfl
@[simp] theorem State.setThrottle_se (s : State) (f u : Nat) (b : Bool) : (s.setThrottle f u b).se = s.se := rfl
@[simp] theorem State.setThrottle_io (s : State) (f u : Nat) (b : Bool) : (s.setThrottle f u b).io = s.io := rfl
@[simp] theorem State.setThrottle_flight (s : State) (f u : Nat) (b : Bool) : (s.setThrottle f u b).flight = s.flight := rfl
@[simp] theorem State.setThrottle_free (s : State) (f u : Nat) (b : Bool) : (s.setThrottle f u b).free = s.free := rfl
@[simp] theorem State.setThrottle_pending (s : State) (f u : Nat) (b : Bool) : (s.setThrottle f u b).pending = s.pending := rfl

@[simp] theorem State.setArrays_regs (s : State) (c : Nat) (a : Arrays) : (s.setArrays c a).regs = s.regs := rfl
@[simp] theorem State.setArrays_vx (s : State) (c : Nat) (a : Arrays) : (s.setArrays c a).vx = s.vx := rfl
@[simp] theorem State.setArrays_st (s : State) (c : Nat) (a : Arrays) : (s.setArrays c a).st = s.st := rfl
@[simp] theorem State.setArrays_mm (s : State) (c : Nat) (a : Arrays) : (s.setArrays c a).mm = s.mm := rfl
@[simp] theorem State.setArrays_sc (s : State) (c : Nat) (a : Arrays) : (s.setArrays c a).sc = s.sc := rfl
@[simp] theorem State.setArrays_kv (s : State) (c : Nat) (a : Arrays) : (s.setArrays c a).kv = s.kv := rfl
@[simp] theorem State.setArrays_sv (s : State) (c : Nat) (a : Arrays) : (s.setArrays c a).sv = s.sv := rfl
@[simp] theorem State.setArrays_ix (s : State) (c : Nat) (a : Arrays) : (s.setArrays c a).ix = s.ix := rfl
@[simp] theorem State.setArrays_lk (s : State) (c : Nat) (a : Arrays) : (s.setArrays c a).lk = s.lk := rfl
@[simp] theorem State.setArrays_cc (s : State) (c : Nat) (a : Arrays) : (s.setArrays c a).cc = s.cc := rfl
@[simp] theorem State.setArrays_pw (s : State) (c : Nat) (a : Arrays) : (s.setArrays c a).pw = s.pw := rfl
@[simp] theorem State.setArrays_se (s : State) (c : Nat) (a : Arrays) : (s.setArrays c a).se = s.se := rfl
@[simp] theorem State.setArrays_io (s : State) (c : Nat) (a : Arrays) : (s.setArrays c a).io = s.io := rfl
@[simp] theorem State.setArrays_flight (s : State) (c : Nat) (a : Arrays) : (s.setArrays c a).flight = s.flight := rfl
@[simp] theorem State.setArrays_free (s : State) (c : Nat) (a : Arrays) : (s.setArrays c a).free = s.free := rfl
@[simp] theorem State.setArrays_pending (s : State) (c : Nat) (a : Arrays) : (s.setArrays c a).pending = s.pending := rfl

@[simp] theorem State.setStage_vx (s : State) (n : Nat) : (s.setStage n).vx = s.vx := rfl
@[simp] theorem State.setStage_ax (s : State) (n : Nat) : (s.setStage n).ax = s.ax := rfl
@[simp] theorem State.setStage_st (s : State) (n : Nat) : (s.setStage n).st = s.st := rfl
@[simp] theorem State.setStage_mm (s : State) (n : Nat) : (s.setStage n).mm = s.mm := rfl
@[simp] theorem State.setStage_sc (s : State) (n : Nat) : (s.setStage n).sc = s.sc := rfl
@[simp] theorem State.setStage_kv (s : State) (n : Nat) : (s.setStage n).kv = s.kv := rfl
@[simp] theorem State.setStage_sv (s : State) (n : Nat) : (s.setStage n).sv = s.sv := rfl
@[simp] theorem State.setStage_ix (s : State) (n : Nat) : (s.setStage n).ix = s.ix := rfl
@[simp] theorem State.setStage_lk (s : State) (n : Nat) : (s.setStage n).lk = s.lk := rfl
@[simp] theorem State.setStage_cc (s : State) (n : Nat) : (s.setStage n).cc = s.cc := rfl
@[simp] theorem State.setStage_pw (s : State) (n : Nat) : (s.setStage n).pw = s.pw := rfl
@[simp] theorem State.setStage_se (s : State) (n : Nat) : (s.setStage n).se = s.se := rfl
@[simp] theorem State.setStage_io (s : State) (n : Nat) : (s.setStage n).io = s.io := rfl
@[simp] theorem State.setStage_flight (s : State) (n : Nat) : (s.setStage n).flight = s.flight := rfl
@[simp] theorem State.setStage_free (s : State) (n : Nat) : (s.setStage n).free = s.free := rfl
@[simp] theorem State.setStage_pending (s : State) (n : Nat) : (s.setStage n).pending = s.pending := rfl

@[simp] theorem State.setLinkState_vx (s : State) (l v : Nat) : (s.setLinkState l v).vx = s.vx := rfl
@[simp] theorem State.setLinkState_ax (s : State) (l v : Nat) : (s.setLinkState l v).ax = s.ax := rfl
@[simp] theorem State.setLinkState_st (s : State) (l v : Nat) : (s.setLinkState l v).st = s.st := rfl
@[simp] theorem State.setLinkState_mm (s : State) (l v : Nat) : (s.setLinkState l v).mm = s.mm := rfl
@[simp] theorem State.setLinkState_sc (s : State) (l v : Nat) : (s.setLinkState l v).sc = s.sc := rfl
@[simp] theorem State.setLinkState_kv (s : State) (l v : Nat) : (s.setLinkState l v).kv = s.kv := rfl
@[simp] theorem State.setLinkState_sv (s : State) (l v : Nat) : (s.setLinkState l v).sv = s.sv := rfl
@[simp] theorem State.setLinkState_ix (s : State) (l v : Nat) : (s.setLinkState l v).ix = s.ix := rfl
@[simp] theorem State.setLinkState_lk (s : State) (l v : Nat) : (s.setLinkState l v).lk = s.lk := rfl
@[simp] theorem State.setLinkState_cc (s : State) (l v : Nat) : (s.setLinkState l v).cc = s.cc := rfl
@[simp] theorem State.setLinkState_pw (s : State) (l v : Nat) : (s.setLinkState l v).pw = s.pw := rfl
@[simp] theorem State.setLinkState_se (s : State) (l v : Nat) : (s.setLinkState l v).se = s.se := rfl
@[simp] theorem State.setLinkState_io (s : State) (l v : Nat) : (s.setLinkState l v).io = s.io := rfl
@[simp] theorem State.setLinkState_flight (s : State) (l v : Nat) : (s.setLinkState l v).flight = s.flight := rfl
@[simp] theorem State.setLinkState_free (s : State) (l v : Nat) : (s.setLinkState l v).free = s.free := rfl
@[simp] theorem State.setLinkState_pending (s : State) (l v : Nat) : (s.setLinkState l v).pending = s.pending := rfl

@[simp] theorem State.setPair_vx (s : State) (v : Nat) : (s.setPair v).vx = s.vx := rfl
@[simp] theorem State.setPair_ax (s : State) (v : Nat) : (s.setPair v).ax = s.ax := rfl
@[simp] theorem State.setPair_st (s : State) (v : Nat) : (s.setPair v).st = s.st := rfl
@[simp] theorem State.setPair_mm (s : State) (v : Nat) : (s.setPair v).mm = s.mm := rfl
@[simp] theorem State.setPair_sc (s : State) (v : Nat) : (s.setPair v).sc = s.sc := rfl
@[simp] theorem State.setPair_kv (s : State) (v : Nat) : (s.setPair v).kv = s.kv := rfl
@[simp] theorem State.setPair_sv (s : State) (v : Nat) : (s.setPair v).sv = s.sv := rfl
@[simp] theorem State.setPair_ix (s : State) (v : Nat) : (s.setPair v).ix = s.ix := rfl
@[simp] theorem State.setPair_lk (s : State) (v : Nat) : (s.setPair v).lk = s.lk := rfl
@[simp] theorem State.setPair_cc (s : State) (v : Nat) : (s.setPair v).cc = s.cc := rfl
@[simp] theorem State.setPair_pw (s : State) (v : Nat) : (s.setPair v).pw = s.pw := rfl
@[simp] theorem State.setPair_se (s : State) (v : Nat) : (s.setPair v).se = s.se := rfl
@[simp] theorem State.setPair_io (s : State) (v : Nat) : (s.setPair v).io = s.io := rfl
@[simp] theorem State.setPair_flight (s : State) (v : Nat) : (s.setPair v).flight = s.flight := rfl
@[simp] theorem State.setPair_free (s : State) (v : Nat) : (s.setPair v).free = s.free := rfl
@[simp] theorem State.setPair_pending (s : State) (v : Nat) : (s.setPair v).pending = s.pending := rfl

@[simp] theorem State.setPool_regs (s : State) (f p : Nat) (v : Pool) : (s.setPool f p v).regs = s.regs := rfl
@[simp] theorem State.setPool_vx (s : State) (f p : Nat) (v : Pool) : (s.setPool f p v).vx = s.vx := rfl
@[simp] theorem State.setPool_ax (s : State) (f p : Nat) (v : Pool) : (s.setPool f p v).ax = s.ax := rfl
@[simp] theorem State.setPool_st (s : State) (f p : Nat) (v : Pool) : (s.setPool f p v).st = s.st := rfl
@[simp] theorem State.setPool_mm (s : State) (f p : Nat) (v : Pool) : (s.setPool f p v).mm = s.mm := rfl
@[simp] theorem State.setPool_sc (s : State) (f p : Nat) (v : Pool) : (s.setPool f p v).sc = s.sc := rfl
@[simp] theorem State.setPool_sv (s : State) (f p : Nat) (v : Pool) : (s.setPool f p v).sv = s.sv := rfl
@[simp] theorem State.setPool_ix (s : State) (f p : Nat) (v : Pool) : (s.setPool f p v).ix = s.ix := rfl
@[simp] theorem State.setPool_lk (s : State) (f p : Nat) (v : Pool) : (s.setPool f p v).lk = s.lk := rfl
@[simp] theorem State.setPool_cc (s : State) (f p : Nat) (v : Pool) : (s.setPool f p v).cc = s.cc := rfl
@[simp] theorem State.setPool_pw (s : State) (f p : Nat) (v : Pool) : (s.setPool f p v).pw = s.pw := rfl
@[simp] theorem State.setPool_se (s : State) (f p : Nat) (v : Pool) : (s.setPool f p v).se = s.se := rfl
@[simp] theorem State.setPool_io (s : State) (f p : Nat) (v : Pool) : (s.setPool f p v).io = s.io := rfl
@[simp] theorem State.setPool_flight (s : State) (f p : Nat) (v : Pool) : (s.setPool f p v).flight = s.flight := rfl
@[simp] theorem State.setPool_free (s : State) (f p : Nat) (v : Pool) : (s.setPool f p v).free = s.free := rfl
@[simp] theorem State.setPool_pending (s : State) (f p : Nat) (v : Pool) : (s.setPool f p v).pending = s.pending := rfl

@[simp] theorem State.setLab_regs (s : State) (f w : Nat) (l : List LabGroup) : (s.setLab f w l).regs = s.regs := rfl
@[simp] theorem State.setLab_vx (s : State) (f w : Nat) (l : List LabGroup) : (s.setLab f w l).vx = s.vx := rfl
@[simp] theorem State.setLab_ax (s : State) (f w : Nat) (l : List LabGroup) : (s.setLab f w l).ax = s.ax := rfl
@[simp] theorem State.setLab_st (s : State) (f w : Nat) (l : List LabGroup) : (s.setLab f w l).st = s.st := rfl
@[simp] theorem State.setLab_mm (s : State) (f w : Nat) (l : List LabGroup) : (s.setLab f w l).mm = s.mm := rfl
@[simp] theorem State.setLab_sc (s : State) (f w : Nat) (l : List LabGroup) : (s.setLab f w l).sc = s.sc := rfl
@[simp] theorem State.setLab_sv (s : State) (f w : Nat) (l : List LabGroup) : (s.setLab f w l).sv = s.sv := rfl
@[simp] theorem State.setLab_ix (s : State) (f w : Nat) (l : List LabGroup) : (s.setLab f w l).ix = s.ix := rfl
@[simp] theorem State.setLab_lk (s : State) (f w : Nat) (l : List LabGroup) : (s.setLab f w l).lk = s.lk := rfl
@[simp] theorem State.setLab_cc (s : State) (f w : Nat) (l : List LabGroup) : (s.setLab f w l).cc = s.cc := rfl
@[simp] theorem State.setLab_pw (s : State) (f w : Nat) (l : List LabGroup) : (s.setLab f w l).pw = s.pw := rfl
@[simp] theorem State.setLab_se (s : State) (f w : Nat) (l : List LabGroup) : (s.setLab f w l).se = s.se := rfl
@[simp] theorem State.setLab_io (s : State) (f w : Nat) (l : List LabGroup) : (s.setLab f w l).io = s.io := rfl
@[simp] theorem State.setLab_flight (s : State) (f w : Nat) (l : List LabGroup) : (s.setLab f w l).flight = s.flight := rfl
@[simp] theorem State.setLab_free (s : State) (f w : Nat) (l : List LabGroup) : (s.setLab f w l).free = s.free := rfl
@[simp] theorem State.setLab_pending (s : State) (f w : Nat) (l : List LabGroup) : (s.setLab f w l).pending = s.pending := rfl

@[simp] theorem State.setKvEng_regs (s : State) (j : Nat) (v : KvEng) : (s.setKvEng j v).regs = s.regs := rfl
@[simp] theorem State.setKvEng_vx (s : State) (j : Nat) (v : KvEng) : (s.setKvEng j v).vx = s.vx := rfl
@[simp] theorem State.setKvEng_ax (s : State) (j : Nat) (v : KvEng) : (s.setKvEng j v).ax = s.ax := rfl
@[simp] theorem State.setKvEng_st (s : State) (j : Nat) (v : KvEng) : (s.setKvEng j v).st = s.st := rfl
@[simp] theorem State.setKvEng_mm (s : State) (j : Nat) (v : KvEng) : (s.setKvEng j v).mm = s.mm := rfl
@[simp] theorem State.setKvEng_sc (s : State) (j : Nat) (v : KvEng) : (s.setKvEng j v).sc = s.sc := rfl
@[simp] theorem State.setKvEng_sv (s : State) (j : Nat) (v : KvEng) : (s.setKvEng j v).sv = s.sv := rfl
@[simp] theorem State.setKvEng_ix (s : State) (j : Nat) (v : KvEng) : (s.setKvEng j v).ix = s.ix := rfl
@[simp] theorem State.setKvEng_lk (s : State) (j : Nat) (v : KvEng) : (s.setKvEng j v).lk = s.lk := rfl
@[simp] theorem State.setKvEng_cc (s : State) (j : Nat) (v : KvEng) : (s.setKvEng j v).cc = s.cc := rfl
@[simp] theorem State.setKvEng_pw (s : State) (j : Nat) (v : KvEng) : (s.setKvEng j v).pw = s.pw := rfl
@[simp] theorem State.setKvEng_se (s : State) (j : Nat) (v : KvEng) : (s.setKvEng j v).se = s.se := rfl
@[simp] theorem State.setKvEng_io (s : State) (j : Nat) (v : KvEng) : (s.setKvEng j v).io = s.io := rfl
@[simp] theorem State.setKvEng_flight (s : State) (j : Nat) (v : KvEng) : (s.setKvEng j v).flight = s.flight := rfl
@[simp] theorem State.setKvEng_free (s : State) (j : Nat) (v : KvEng) : (s.setKvEng j v).free = s.free := rfl
@[simp] theorem State.setKvEng_pending (s : State) (j : Nat) (v : KvEng) : (s.setKvEng j v).pending = s.pending := rfl

@[simp] theorem State.setTarget_regs (s : State) (t : Nat) (v : Target) : (s.setTarget t v).regs = s.regs := rfl
@[simp] theorem State.setTarget_vx (s : State) (t : Nat) (v : Target) : (s.setTarget t v).vx = s.vx := rfl
@[simp] theorem State.setTarget_ax (s : State) (t : Nat) (v : Target) : (s.setTarget t v).ax = s.ax := rfl
@[simp] theorem State.setTarget_st (s : State) (t : Nat) (v : Target) : (s.setTarget t v).st = s.st := rfl
@[simp] theorem State.setTarget_mm (s : State) (t : Nat) (v : Target) : (s.setTarget t v).mm = s.mm := rfl
@[simp] theorem State.setTarget_sc (s : State) (t : Nat) (v : Target) : (s.setTarget t v).sc = s.sc := rfl
@[simp] theorem State.setTarget_kv (s : State) (t : Nat) (v : Target) : (s.setTarget t v).kv = s.kv := rfl
@[simp] theorem State.setTarget_sv (s : State) (t : Nat) (v : Target) : (s.setTarget t v).sv = s.sv := rfl
@[simp] theorem State.setTarget_ix (s : State) (t : Nat) (v : Target) : (s.setTarget t v).ix = s.ix := rfl
@[simp] theorem State.setTarget_lk (s : State) (t : Nat) (v : Target) : (s.setTarget t v).lk = s.lk := rfl
@[simp] theorem State.setTarget_pw (s : State) (t : Nat) (v : Target) : (s.setTarget t v).pw = s.pw := rfl
@[simp] theorem State.setTarget_se (s : State) (t : Nat) (v : Target) : (s.setTarget t v).se = s.se := rfl
@[simp] theorem State.setTarget_io (s : State) (t : Nat) (v : Target) : (s.setTarget t v).io = s.io := rfl
@[simp] theorem State.setTarget_flight (s : State) (t : Nat) (v : Target) : (s.setTarget t v).flight = s.flight := rfl
@[simp] theorem State.setTarget_free (s : State) (t : Nat) (v : Target) : (s.setTarget t v).free = s.free := rfl
@[simp] theorem State.setTarget_pending (s : State) (t : Nat) (v : Target) : (s.setTarget t v).pending = s.pending := rfl

@[simp] theorem State.setStopped_regs (s : State) (p : Nat) (tx b : Bool) : (s.setStopped p tx b).regs = s.regs := rfl
@[simp] theorem State.setStopped_vx (s : State) (p : Nat) (tx b : Bool) : (s.setStopped p tx b).vx = s.vx := rfl
@[simp] theorem State.setStopped_ax (s : State) (p : Nat) (tx b : Bool) : (s.setStopped p tx b).ax = s.ax := rfl
@[simp] theorem State.setStopped_st (s : State) (p : Nat) (tx b : Bool) : (s.setStopped p tx b).st = s.st := rfl
@[simp] theorem State.setStopped_mm (s : State) (p : Nat) (tx b : Bool) : (s.setStopped p tx b).mm = s.mm := rfl
@[simp] theorem State.setStopped_sc (s : State) (p : Nat) (tx b : Bool) : (s.setStopped p tx b).sc = s.sc := rfl
@[simp] theorem State.setStopped_kv (s : State) (p : Nat) (tx b : Bool) : (s.setStopped p tx b).kv = s.kv := rfl
@[simp] theorem State.setStopped_sv (s : State) (p : Nat) (tx b : Bool) : (s.setStopped p tx b).sv = s.sv := rfl
@[simp] theorem State.setStopped_ix (s : State) (p : Nat) (tx b : Bool) : (s.setStopped p tx b).ix = s.ix := rfl
@[simp] theorem State.setStopped_lk (s : State) (p : Nat) (tx b : Bool) : (s.setStopped p tx b).lk = s.lk := rfl
@[simp] theorem State.setStopped_pw (s : State) (p : Nat) (tx b : Bool) : (s.setStopped p tx b).pw = s.pw := rfl
@[simp] theorem State.setStopped_se (s : State) (p : Nat) (tx b : Bool) : (s.setStopped p tx b).se = s.se := rfl
@[simp] theorem State.setStopped_io (s : State) (p : Nat) (tx b : Bool) : (s.setStopped p tx b).io = s.io := rfl
@[simp] theorem State.setStopped_flight (s : State) (p : Nat) (tx b : Bool) : (s.setStopped p tx b).flight = s.flight := rfl
@[simp] theorem State.setStopped_free (s : State) (p : Nat) (tx b : Bool) : (s.setStopped p tx b).free = s.free := rfl
@[simp] theorem State.setStopped_pending (s : State) (p : Nat) (tx b : Bool) : (s.setStopped p tx b).pending = s.pending := rfl

@[simp] theorem State.setEngine_regs (s : State) (n : Nat) (e : Engine) : (s.setEngine n e).regs = s.regs := rfl
@[simp] theorem State.setEngine_ax (s : State) (n : Nat) (e : Engine) : (s.setEngine n e).ax = s.ax := rfl
@[simp] theorem State.setEngine_st (s : State) (n : Nat) (e : Engine) : (s.setEngine n e).st = s.st := rfl
@[simp] theorem State.setEngine_mm (s : State) (n : Nat) (e : Engine) : (s.setEngine n e).mm = s.mm := rfl
@[simp] theorem State.setEngine_sc (s : State) (n : Nat) (e : Engine) : (s.setEngine n e).sc = s.sc := rfl
@[simp] theorem State.setEngine_kv (s : State) (n : Nat) (e : Engine) : (s.setEngine n e).kv = s.kv := rfl
@[simp] theorem State.setEngine_sv (s : State) (n : Nat) (e : Engine) : (s.setEngine n e).sv = s.sv := rfl
@[simp] theorem State.setEngine_ix (s : State) (n : Nat) (e : Engine) : (s.setEngine n e).ix = s.ix := rfl
@[simp] theorem State.setEngine_lk (s : State) (n : Nat) (e : Engine) : (s.setEngine n e).lk = s.lk := rfl
@[simp] theorem State.setEngine_cc (s : State) (n : Nat) (e : Engine) : (s.setEngine n e).cc = s.cc := rfl
@[simp] theorem State.setEngine_pw (s : State) (n : Nat) (e : Engine) : (s.setEngine n e).pw = s.pw := rfl
@[simp] theorem State.setEngine_se (s : State) (n : Nat) (e : Engine) : (s.setEngine n e).se = s.se := rfl
@[simp] theorem State.setEngine_io (s : State) (n : Nat) (e : Engine) : (s.setEngine n e).io = s.io := rfl
@[simp] theorem State.setEngine_flight (s : State) (n : Nat) (e : Engine) : (s.setEngine n e).flight = s.flight := rfl
@[simp] theorem State.setEngine_free (s : State) (n : Nat) (e : Engine) : (s.setEngine n e).free = s.free := rfl
@[simp] theorem State.setEngine_pending (s : State) (n : Nat) (e : Engine) : (s.setEngine n e).pending = s.pending := rfl

@[simp] theorem State.setRed_regs (s : State) (c : Nat) (u : RedUnit) : (s.setRed c u).regs = s.regs := rfl
@[simp] theorem State.setRed_ax (s : State) (c : Nat) (u : RedUnit) : (s.setRed c u).ax = s.ax := rfl
@[simp] theorem State.setRed_st (s : State) (c : Nat) (u : RedUnit) : (s.setRed c u).st = s.st := rfl
@[simp] theorem State.setRed_mm (s : State) (c : Nat) (u : RedUnit) : (s.setRed c u).mm = s.mm := rfl
@[simp] theorem State.setRed_sc (s : State) (c : Nat) (u : RedUnit) : (s.setRed c u).sc = s.sc := rfl
@[simp] theorem State.setRed_kv (s : State) (c : Nat) (u : RedUnit) : (s.setRed c u).kv = s.kv := rfl
@[simp] theorem State.setRed_sv (s : State) (c : Nat) (u : RedUnit) : (s.setRed c u).sv = s.sv := rfl
@[simp] theorem State.setRed_ix (s : State) (c : Nat) (u : RedUnit) : (s.setRed c u).ix = s.ix := rfl
@[simp] theorem State.setRed_lk (s : State) (c : Nat) (u : RedUnit) : (s.setRed c u).lk = s.lk := rfl
@[simp] theorem State.setRed_cc (s : State) (c : Nat) (u : RedUnit) : (s.setRed c u).cc = s.cc := rfl
@[simp] theorem State.setRed_pw (s : State) (c : Nat) (u : RedUnit) : (s.setRed c u).pw = s.pw := rfl
@[simp] theorem State.setRed_se (s : State) (c : Nat) (u : RedUnit) : (s.setRed c u).se = s.se := rfl
@[simp] theorem State.setRed_io (s : State) (c : Nat) (u : RedUnit) : (s.setRed c u).io = s.io := rfl
@[simp] theorem State.setRed_flight (s : State) (c : Nat) (u : RedUnit) : (s.setRed c u).flight = s.flight := rfl
@[simp] theorem State.setRed_free (s : State) (c : Nat) (u : RedUnit) : (s.setRed c u).free = s.free := rfl
@[simp] theorem State.setRed_pending (s : State) (c : Nat) (u : RedUnit) : (s.setRed c u).pending = s.pending := rfl

@[simp] theorem State.putTask_regs (s : State) (t : Nat) (k : Task) : (s.putTask t k).regs = s.regs := rfl
@[simp] theorem State.putTask_vx (s : State) (t : Nat) (k : Task) : (s.putTask t k).vx = s.vx := rfl
@[simp] theorem State.putTask_ax (s : State) (t : Nat) (k : Task) : (s.putTask t k).ax = s.ax := rfl
@[simp] theorem State.putTask_st (s : State) (t : Nat) (k : Task) : (s.putTask t k).st = s.st := rfl
@[simp] theorem State.putTask_mm (s : State) (t : Nat) (k : Task) : (s.putTask t k).mm = s.mm := rfl
@[simp] theorem State.putTask_kv (s : State) (t : Nat) (k : Task) : (s.putTask t k).kv = s.kv := rfl
@[simp] theorem State.putTask_sv (s : State) (t : Nat) (k : Task) : (s.putTask t k).sv = s.sv := rfl
@[simp] theorem State.putTask_ix (s : State) (t : Nat) (k : Task) : (s.putTask t k).ix = s.ix := rfl
@[simp] theorem State.putTask_lk (s : State) (t : Nat) (k : Task) : (s.putTask t k).lk = s.lk := rfl
@[simp] theorem State.putTask_cc (s : State) (t : Nat) (k : Task) : (s.putTask t k).cc = s.cc := rfl
@[simp] theorem State.putTask_pw (s : State) (t : Nat) (k : Task) : (s.putTask t k).pw = s.pw := rfl
@[simp] theorem State.putTask_se (s : State) (t : Nat) (k : Task) : (s.putTask t k).se = s.se := rfl
@[simp] theorem State.putTask_io (s : State) (t : Nat) (k : Task) : (s.putTask t k).io = s.io := rfl
@[simp] theorem State.putTask_flight (s : State) (t : Nat) (k : Task) : (s.putTask t k).flight = s.flight := rfl
@[simp] theorem State.putTask_free (s : State) (t : Nat) (k : Task) : (s.putTask t k).free = s.free := rfl
@[simp] theorem State.putTask_pending (s : State) (t : Nat) (k : Task) : (s.putTask t k).pending = s.pending := rfl

@[simp] theorem State.send_regs (s : State) (frm dest : Nat) (m : Instr) : (s.send frm dest m).regs = s.regs := rfl
@[simp] theorem State.send_vx (s : State) (frm dest : Nat) (m : Instr) : (s.send frm dest m).vx = s.vx := rfl
@[simp] theorem State.send_ax (s : State) (frm dest : Nat) (m : Instr) : (s.send frm dest m).ax = s.ax := rfl
@[simp] theorem State.send_st (s : State) (frm dest : Nat) (m : Instr) : (s.send frm dest m).st = s.st := rfl
@[simp] theorem State.send_mm (s : State) (frm dest : Nat) (m : Instr) : (s.send frm dest m).mm = s.mm := rfl
@[simp] theorem State.send_sc (s : State) (frm dest : Nat) (m : Instr) : (s.send frm dest m).sc = s.sc := rfl
@[simp] theorem State.send_kv (s : State) (frm dest : Nat) (m : Instr) : (s.send frm dest m).kv = s.kv := rfl
@[simp] theorem State.send_sv (s : State) (frm dest : Nat) (m : Instr) : (s.send frm dest m).sv = s.sv := rfl
@[simp] theorem State.send_ix (s : State) (frm dest : Nat) (m : Instr) : (s.send frm dest m).ix = s.ix := rfl
@[simp] theorem State.send_lk (s : State) (frm dest : Nat) (m : Instr) : (s.send frm dest m).lk = s.lk := rfl
@[simp] theorem State.send_cc (s : State) (frm dest : Nat) (m : Instr) : (s.send frm dest m).cc = s.cc := rfl
@[simp] theorem State.send_pw (s : State) (frm dest : Nat) (m : Instr) : (s.send frm dest m).pw = s.pw := rfl
@[simp] theorem State.send_se (s : State) (frm dest : Nat) (m : Instr) : (s.send frm dest m).se = s.se := rfl
@[simp] theorem State.send_io (s : State) (frm dest : Nat) (m : Instr) : (s.send frm dest m).io = s.io := rfl
@[simp] theorem State.send_free (s : State) (frm dest : Nat) (m : Instr) : (s.send frm dest m).free = s.free := rfl
@[simp] theorem State.send_pending (s : State) (frm dest : Nat) (m : Instr) : (s.send frm dest m).pending = s.pending := rfl

@[simp] theorem State.draw_regs (s : State) : s.draw.1.regs = s.regs := rfl
@[simp] theorem State.draw_vx (s : State) : s.draw.1.vx = s.vx := rfl
@[simp] theorem State.draw_ax (s : State) : s.draw.1.ax = s.ax := rfl
@[simp] theorem State.draw_st (s : State) : s.draw.1.st = s.st := rfl
@[simp] theorem State.draw_mm (s : State) : s.draw.1.mm = s.mm := rfl
@[simp] theorem State.draw_sc (s : State) : s.draw.1.sc = s.sc := rfl
@[simp] theorem State.draw_kv (s : State) : s.draw.1.kv = s.kv := rfl
@[simp] theorem State.draw_sv (s : State) : s.draw.1.sv = s.sv := rfl
@[simp] theorem State.draw_ix (s : State) : s.draw.1.ix = s.ix := rfl
@[simp] theorem State.draw_lk (s : State) : s.draw.1.lk = s.lk := rfl
@[simp] theorem State.draw_cc (s : State) : s.draw.1.cc = s.cc := rfl
@[simp] theorem State.draw_pw (s : State) : s.draw.1.pw = s.pw := rfl
@[simp] theorem State.draw_se (s : State) : s.draw.1.se = s.se := rfl
@[simp] theorem State.draw_io (s : State) : s.draw.1.io = s.io := rfl
@[simp] theorem State.draw_flight (s : State) : s.draw.1.flight = s.flight := rfl
@[simp] theorem State.draw_pending (s : State) : s.draw.1.pending = s.pending := rfl

@[simp] theorem State.modTask_regs (s : State) (t : Nat) (f : Task → Task) : (s.modTask t f).regs = s.regs := by unfold State.modTask; split <;> rfl
@[simp] theorem State.modTask_vx (s : State) (t : Nat) (f : Task → Task) : (s.modTask t f).vx = s.vx := by unfold State.modTask; split <;> rfl
@[simp] theorem State.modTask_ax (s : State) (t : Nat) (f : Task → Task) : (s.modTask t f).ax = s.ax := by unfold State.modTask; split <;> rfl
@[simp] theorem State.modTask_st (s : State) (t : Nat) (f : Task → Task) : (s.modTask t f).st = s.st := by unfold State.modTask; split <;> rfl
@[simp] theorem State.modTask_mm (s : State) (t : Nat) (f : Task → Task) : (s.modTask t f).mm = s.mm := by unfold State.modTask; split <;> rfl
@[simp] theorem State.modTask_kv (s : State) (t : Nat) (f : Task → Task) : (s.modTask t f).kv = s.kv := by unfold State.modTask; split <;> rfl
@[simp] theorem State.modTask_sv (s : State) (t : Nat) (f : Task → Task) : (s.modTask t f).sv = s.sv := by unfold State.modTask; split <;> rfl
@[simp] theorem State.modTask_ix (s : State) (t : Nat) (f : Task → Task) : (s.modTask t f).ix = s.ix := by unfold State.modTask; split <;> rfl
@[simp] theorem State.modTask_lk (s : State) (t : Nat) (f : Task → Task) : (s.modTask t f).lk = s.lk := by unfold State.modTask; split <;> rfl
@[simp] theorem State.modTask_cc (s : State) (t : Nat) (f : Task → Task) : (s.modTask t f).cc = s.cc := by unfold State.modTask; split <;> rfl
@[simp] theorem State.modTask_pw (s : State) (t : Nat) (f : Task → Task) : (s.modTask t f).pw = s.pw := by unfold State.modTask; split <;> rfl
@[simp] theorem State.modTask_se (s : State) (t : Nat) (f : Task → Task) : (s.modTask t f).se = s.se := by unfold State.modTask; split <;> rfl
@[simp] theorem State.modTask_io (s : State) (t : Nat) (f : Task → Task) : (s.modTask t f).io = s.io := by unfold State.modTask; split <;> rfl
@[simp] theorem State.modTask_flight (s : State) (t : Nat) (f : Task → Task) : (s.modTask t f).flight = s.flight := by unfold State.modTask; split <;> rfl
@[simp] theorem State.modTask_free (s : State) (t : Nat) (f : Task → Task) : (s.modTask t f).free = s.free := by unfold State.modTask; split <;> rfl
@[simp] theorem State.modTask_pending (s : State) (t : Nat) (f : Task → Task) : (s.modTask t f).pending = s.pending := by unfold State.modTask; split <;> rfl

@[simp] theorem State.modCtx_regs (s : State) (x : Nat) (f : Ctx → Ctx) : (s.modCtx x f).regs = s.regs := by unfold State.modCtx; split <;> rfl
@[simp] theorem State.modCtx_vx (s : State) (x : Nat) (f : Ctx → Ctx) : (s.modCtx x f).vx = s.vx := by unfold State.modCtx; split <;> rfl
@[simp] theorem State.modCtx_ax (s : State) (x : Nat) (f : Ctx → Ctx) : (s.modCtx x f).ax = s.ax := by unfold State.modCtx; split <;> rfl
@[simp] theorem State.modCtx_st (s : State) (x : Nat) (f : Ctx → Ctx) : (s.modCtx x f).st = s.st := by unfold State.modCtx; split <;> rfl
@[simp] theorem State.modCtx_mm (s : State) (x : Nat) (f : Ctx → Ctx) : (s.modCtx x f).mm = s.mm := by unfold State.modCtx; split <;> rfl
@[simp] theorem State.modCtx_kv (s : State) (x : Nat) (f : Ctx → Ctx) : (s.modCtx x f).kv = s.kv := by unfold State.modCtx; split <;> rfl
@[simp] theorem State.modCtx_sv (s : State) (x : Nat) (f : Ctx → Ctx) : (s.modCtx x f).sv = s.sv := by unfold State.modCtx; split <;> rfl
@[simp] theorem State.modCtx_ix (s : State) (x : Nat) (f : Ctx → Ctx) : (s.modCtx x f).ix = s.ix := by unfold State.modCtx; split <;> rfl
@[simp] theorem State.modCtx_lk (s : State) (x : Nat) (f : Ctx → Ctx) : (s.modCtx x f).lk = s.lk := by unfold State.modCtx; split <;> rfl
@[simp] theorem State.modCtx_cc (s : State) (x : Nat) (f : Ctx → Ctx) : (s.modCtx x f).cc = s.cc := by unfold State.modCtx; split <;> rfl
@[simp] theorem State.modCtx_pw (s : State) (x : Nat) (f : Ctx → Ctx) : (s.modCtx x f).pw = s.pw := by unfold State.modCtx; split <;> rfl
@[simp] theorem State.modCtx_se (s : State) (x : Nat) (f : Ctx → Ctx) : (s.modCtx x f).se = s.se := by unfold State.modCtx; split <;> rfl
@[simp] theorem State.modCtx_io (s : State) (x : Nat) (f : Ctx → Ctx) : (s.modCtx x f).io = s.io := by unfold State.modCtx; split <;> rfl
@[simp] theorem State.modCtx_flight (s : State) (x : Nat) (f : Ctx → Ctx) : (s.modCtx x f).flight = s.flight := by unfold State.modCtx; split <;> rfl
@[simp] theorem State.modCtx_free (s : State) (x : Nat) (f : Ctx → Ctx) : (s.modCtx x f).free = s.free := by unfold State.modCtx; split <;> rfl
@[simp] theorem State.modCtx_pending (s : State) (x : Nat) (f : Ctx → Ctx) : (s.modCtx x f).pending = s.pending := by unfold State.modCtx; split <;> rfl

@[simp] theorem State.setCfg_vx (s : State) (f : Nat) (r : CfgReg) (i : Nat) (v : Word) : (s.setCfg f r i v).vx = s.vx := by
  unfold State.setCfg; split <;> (try split) <;> rfl
@[simp] theorem State.setCfg_ax (s : State) (f : Nat) (r : CfgReg) (i : Nat) (v : Word) : (s.setCfg f r i v).ax = s.ax := by
  unfold State.setCfg; split <;> (try split) <;> rfl
@[simp] theorem State.setCfg_st (s : State) (f : Nat) (r : CfgReg) (i : Nat) (v : Word) : (s.setCfg f r i v).st = s.st := by
  unfold State.setCfg; split <;> (try split) <;> rfl
@[simp] theorem State.setCfg_mm (s : State) (f : Nat) (r : CfgReg) (i : Nat) (v : Word) : (s.setCfg f r i v).mm = s.mm := by
  unfold State.setCfg; split <;> (try split) <;> rfl
@[simp] theorem State.setCfg_sc (s : State) (f : Nat) (r : CfgReg) (i : Nat) (v : Word) : (s.setCfg f r i v).sc = s.sc := by
  unfold State.setCfg; split <;> (try split) <;> rfl
@[simp] theorem State.setCfg_ix (s : State) (f : Nat) (r : CfgReg) (i : Nat) (v : Word) : (s.setCfg f r i v).ix = s.ix := by
  unfold State.setCfg; split <;> (try split) <;> rfl
@[simp] theorem State.setCfg_lk (s : State) (f : Nat) (r : CfgReg) (i : Nat) (v : Word) : (s.setCfg f r i v).lk = s.lk := by
  unfold State.setCfg; split <;> (try split) <;> rfl
@[simp] theorem State.setCfg_cc (s : State) (f : Nat) (r : CfgReg) (i : Nat) (v : Word) : (s.setCfg f r i v).cc = s.cc := by
  unfold State.setCfg; split <;> (try split) <;> rfl
@[simp] theorem State.setCfg_pw (s : State) (f : Nat) (r : CfgReg) (i : Nat) (v : Word) : (s.setCfg f r i v).pw = s.pw := by
  unfold State.setCfg; split <;> (try split) <;> rfl
@[simp] theorem State.setCfg_se (s : State) (f : Nat) (r : CfgReg) (i : Nat) (v : Word) : (s.setCfg f r i v).se = s.se := by
  unfold State.setCfg; split <;> (try split) <;> rfl
@[simp] theorem State.setCfg_io (s : State) (f : Nat) (r : CfgReg) (i : Nat) (v : Word) : (s.setCfg f r i v).io = s.io := by
  unfold State.setCfg; split <;> (try split) <;> rfl
@[simp] theorem State.setCfg_flight (s : State) (f : Nat) (r : CfgReg) (i : Nat) (v : Word) : (s.setCfg f r i v).flight = s.flight := by
  unfold State.setCfg; split <;> (try split) <;> rfl
@[simp] theorem State.setCfg_free (s : State) (f : Nat) (r : CfgReg) (i : Nat) (v : Word) : (s.setCfg f r i v).free = s.free := by
  unfold State.setCfg; split <;> (try split) <;> rfl
@[simp] theorem State.setCfg_pending (s : State) (f : Nat) (r : CfgReg) (i : Nat) (v : Word) : (s.setCfg f r i v).pending = s.pending := by
  unfold State.setCfg; split <;> (try split) <;> rfl

@[simp] theorem State.draw_free (s : State) : s.draw.1.free = s.free + 1 := rfl
@[simp] theorem State.send_flight (s : State) (frm dest : Nat) (m : Instr) :
    (s.send frm dest m).flight = s.flight ++ [⟨frm, dest, m⟩] := rfl

end Sys2Proof.Machine
end

