-- ==== Sys2Proof/Laws/Syndromes.lean ====
section
/-! SUPPORT. The syndromes of encoded units, of one wrong symbol, of a wrong key and of poison (R271–R274). -/
namespace Sys2Proof.Machine

/-- inverses of α^k + 1, k = 0..71 -/
def gfInvTab : List (BitVec 8) := [0, 244, 167, 157, 114, 237, 95, 84, 160, 169, 251, 116, 133, 228, 192, 138, 103, 220, 38, 99, 242, 233, 180, 210, 2, 142, 186, 170, 222, 137, 87, 89, 172, 44, 147, 9, 96, 30, 188, 164, 179, 67, 235, 218, 106, 18, 199, 57, 4, 105, 71, 152, 62, 208, 35, 130, 151, 123, 82, 246, 197, 47, 145, 28, 55, 182, 36, 53, 11, 51, 65, 154]

def basis8 : List (BitVec 8) := [1#8, 2#8, 4#8, 8#8, 16#8, 32#8, 64#8, 128#8]

theorem gf_pow_mul (k : Nat) (hk : k < 72) (x : BitVec 8) : gfMul (gfPow k) x = gfXs k x :=
  additive_ext _ _ (gfMul_xor _) (gfXs_xor _) (by
    have : ∀ k < 72, ∀ b ∈ [1#8, 2#8, 4#8, 8#8, 16#8, 32#8, 64#8, 128#8], gfMul (gfPow k) b = gfXs k b := by decide +kernel
    exact this k hk) x

theorem no_fix (k : Nat) (h0 : 0 < k) (hk : k < 72) (e : BitVec 8) (h : gfXs k e = e) : e = 0#8 := by
  have inv : ∀ k < 72, 0 < k → ∀ b ∈ [1#8, 2#8, 4#8, 8#8, 16#8, 32#8, 64#8, 128#8], gfMul (gfInvTab.getD k 0) (gfXs k b ^^^ b) = b := by decide +kernel
  have : gfMul (gfInvTab.getD k 0) (gfXs k e ^^^ e) = e :=
    additive_ext (fun e => gfMul (gfInvTab.getD k 0) (gfXs k e ^^^ e)) id (fun a b => by
      show gfMul _ (gfXs k (a ^^^ b) ^^^ (a ^^^ b)) = _
      rw [gfXs_xor, ← gfMul_xor]; congr 1; ac_rfl) (fun _ _ => rfl) (inv k hk h0) e
  rw [h, BitVec.xor_self] at this
  rw [← this]
  have z := gfMul_xor (gfInvTab.getD k 0) 0#8 0#8
  rw [BitVec.xor_self, BitVec.xor_self] at z; exact z

theorem gfX_inj (a b : BitVec 8) (h : gfX a = gfX b) : a = b := by
  have k : gfX (a ^^^ b) = 0#8 := by rw [gfX_xor, h, BitVec.xor_self]
  have : ∀ x : BitVec 8, gfX x = 0#8 → x = 0#8 := by decide
  have := this _ k
  exact BitVec.xor_eq_zero_iff.1 this

theorem gfXs_inj (n : Nat) (a b : BitVec 8) (h : gfXs n a = gfXs n b) : a = b := by
  induction n with
  | zero => exact h
  | succ n ih => exact ih (gfX_inj _ _ h)

theorem gfXs_ne (n : Nat) (e : BitVec 8) (h : e ≠ 0#8) : gfXs n e ≠ 0#8 := by
  intro hc; exact h (gfXs_inj n e 0#8 (by rw [hc, gfXs_zero]))

theorem gfXs_diff (p q : Nat) (hpq : q < p) (hp : p < 72) (e : BitVec 8) (h : e ≠ 0#8) : gfXs q e ≠ gfXs p e := by
  intro hc
  rw [show p = q + (p - q) by omega, gfXs_add] at hc
  exact h (no_fix (p - q) (by omega) (by omega) e (gfXs_inj q _ _ hc).symm)

/-- syndromes of a single error -/
def synErr (p : Nat) (e : BitVec 8) : Quad := ⟨e, gfXs p e, gfXs (2 * p) e, gfXs (3 * p) e⟩

theorem singleAt_self (p : Nat) (hp : p < 72) (e : BitVec 8) (h : e ≠ 0#8) : singleAt (synErr p e) p = true := by
  unfold singleAt synErr
  simp only [gf_pow_mul p hp, ← gfXs_add]
  have h1 : p + p = 2 * p := by omega
  have h2 : p + 2 * p = 3 * p := by omega
  simp [h, h1, h2]

theorem singleAt_other (p q : Nat) (hp : p < 72) (hq : q < p) (e : BitVec 8) (h : e ≠ 0#8) : singleAt (synErr p e) q = false := by
  unfold singleAt synErr
  simp only [gf_pow_mul q (by omega)]
  have := gfXs_diff p q hq hp e h
  have : (gfXs p e == gfXs q e) = false := by rw [beq_eq_false_iff_ne]; exact fun hc => this hc.symm
  simp [this]

theorem errPos_lt (s : Quad) (n : Nat) (h : ∀ q < n, singleAt s q = false) : errPos s n = none := by
  induction n with
  | zero => rfl
  | succ n ih => simp only [errPos]; rw [ih (fun q hq => h q (by omega))]; simp [h n (by omega)]

theorem errPos_at (s : Quad) (p n : Nat) (hp : p < n) (h : ∀ q < p, singleAt s q = false) (h1 : singleAt s p = true) : errPos s n = some p := by
  induction n with
  | zero => omega
  | succ n ih =>
    simp only [errPos]
    rcases Nat.lt_or_ge p n with h2 | h2
    · rw [ih h2]
    · have : p = n := by omega
      subst this
      rw [errPos_lt s p h]; simp [h1]

theorem errPos_err (p n : Nat) (hp : p < n) (hn : n ≤ 72) (e : BitVec 8) (h : e ≠ 0#8) : errPos (synErr p e) n = some p :=
  errPos_at _ _ _ hp (fun q hq => singleAt_other p q (by omega) hq e h) (singleAt_self p (by omega) e h)

theorem poison_none (d : Nat) (hd : d = 32 ∨ d = 64) : errPos (poisonSyndrome d) (d + 8) = none := by
  rcases hd with rfl | rfl <;> decide +kernel

theorem syndromes_word (data : List Byte) (q : Quad) (key : List Byte) (w : List Byte) (hw : q.toList ++ data ++ key = w) :
   syndromes data q key = ⟨syndrome 0 w, syndrome 1 w, syndrome 2 w, syndrome 3 w⟩ := by
  unfold syndromes; dsimp only; rw [hw]

theorem syndromes_clean (data key : List Byte) : syndromes data (encodeChk data key) key = ⟨0#8, 0#8, 0#8, 0#8⟩ := by
  rw [syndromes_word _ _ _ _ rfl]
  rw [syndrome_encode 0 (by omega), syndrome_encode 1 (by omega), syndrome_encode 2 (by omega), syndrome_encode 3 (by omega)]

theorem syndromes_err (data key data' key' : List Byte) (q : Quad) (p : Nat) (e : Byte)
   (hw : q.toList ++ data' ++ key' = ((encodeChk data key).toList ++ data ++ key).modify p (· ^^^ e)) (hp : p < 4 + data.length + key.length) :
   syndromes data' q key' = synErr p e := by
  rw [syndromes_word _ _ _ _ hw]
  have hl : p < ((encodeChk data key).toList ++ data ++ key).length := by
    simp only [List.length_append, Quad.toList, List.length_cons, List.length_nil]; omega
  rw [syndrome_modify 0 _ _ _ hl, syndrome_modify 1 _ _ _ hl, syndrome_modify 2 _ _ _ hl, syndrome_modify 3 _ _ _ hl]
  rw [syndrome_encode 0 (by omega), syndrome_encode 1 (by omega), syndrome_encode 2 (by omega), syndrome_encode 3 (by omega)]
  simp only [BitVec.zero_xor, Nat.zero_mul, Nat.one_mul, synErr]; rfl

theorem synErr_ne0 (p : Nat) (e : Byte) (h : e ≠ 0#8) : synErr p e ≠ ⟨0#8, 0#8, 0#8, 0#8⟩ := by
  intro hc; injection hc with h1; exact h h1

theorem synErr_neP (d p : Nat) (hd : d = 32 ∨ d = 64) (hp : p < d + 8) (e : Byte) (h : e ≠ 0#8) : synErr p e ≠ poisonSyndrome d := by
  intro hc
  have a := errPos_err p (d + 8) hp (by omega) e h
  rw [hc, poison_none d hd] at a; cases a

theorem modify_xor_xor (l : List Byte) (p : Nat) (e : Byte) : (l.modify p (· ^^^ e)).modify p (· ^^^ e) = l := by
  induction l generalizing p with
  | nil => simp
  | cons a t ih =>
    cases p with
    | zero => simp only [List.modify_zero_cons, BitVec.xor_assoc, BitVec.xor_self, BitVec.xor_zero]
    | succ p => simp only [List.modify_succ_cons, ih]

theorem modify_left (a b : List Byte) (p : Nat) (f : Byte → Byte) (h : p < a.length) : (a ++ b).modify p f = a.modify p f ++ b := by
  induction a generalizing p with
  | nil => simp at h
  | cons x t ih =>
    cases p with
    | zero => rfl
    | succ p => simp only [List.cons_append, List.modify_succ_cons]; rw [ih p (by simpa using h)]

theorem modify_right (a b : List Byte) (p : Nat) (f : Byte → Byte) : (a ++ b).modify (a.length + p) f = a ++ b.modify p f := by
  induction a with
  | nil => simp
  | cons x t ih => simp only [List.cons_append, List.length_cons, Nat.succ_add, Nat.add_right_comm _ 1 p]; exact congrArg _ ih

theorem syndrome_append (i : Nat) (a b : List Byte) : syndrome i (a ++ b) = syndrome i a ^^^ gfXs (i * a.length) (syndrome i b) := by
  induction a with
  | nil => simp only [List.nil_append, List.length_nil, Nat.mul_zero, gfXs, syndrome, List.foldr_nil, BitVec.zero_xor]
  | cons x t ih =>
    simp only [syndrome, List.cons_append, List.foldr_cons, List.length_cons] at ih ⊢
    rw [ih, gfXs_xor, ← gfXs_add, show i + i * t.length = i * (t.length + 1) by rw [Nat.mul_succ]; omega]
    ac_rfl

theorem syndrome_zeros (i n : Nat) : syndrome i (List.replicate n 0#8) = 0#8 := by
  induction n with
  | zero => rfl
  | succ n ih => simp only [List.replicate_succ, syndrome, List.foldr_cons] at ih ⊢; rw [ih, gfXs_zero]; decide

theorem syndrome_key (i : Nat) (key : List Byte) (hk : key.length = 4) : syndrome i key ^^^ syndrome i (key.map (· ^^^ 0xFF#8)) = syndrome i (List.replicate 4 0xFF#8) := by
  match key, hk with
  | [a, b, c, d], _ =>
    have e : ∀ x y : BitVec 8, x ^^^ (x ^^^ y) = y := fun x y => by rw [← BitVec.xor_assoc, BitVec.xor_self, BitVec.zero_xor]
    simp only [syndrome, List.map_cons, List.map_nil, List.foldr_cons, List.foldr_nil, List.replicate, gfXs_xor, gfXs_zero, BitVec.zero_xor]
    generalize gfXs i (gfXs i (gfXs i d)) = d3
    generalize gfXs i (gfXs i c) = c2
    generalize gfXs i b = b1
    generalize gfXs i (gfXs i (gfXs i 0xFF#8)) = f3
    generalize gfXs i (gfXs i 0xFF#8) = f2
    generalize gfXs i 0xFF#8 = f1
    have : (d3 ^^^ c2 ^^^ b1 ^^^ a) ^^^ (d3 ^^^ f3 ^^^ (c2 ^^^ f2) ^^^ (b1 ^^^ f1) ^^^ (a ^^^ 0xFF#8)) = (d3 ^^^ d3) ^^^ (c2 ^^^ c2) ^^^ (b1 ^^^ b1) ^^^ (a ^^^ a) ^^^ (f3 ^^^ f2 ^^^ f1 ^^^ 0xFF#8) := by ac_rfl
    rw [this]; simp only [BitVec.xor_self, BitVec.zero_xor]

end Sys2Proof.Machine
end

