-- ==== Sys2Proof/Laws/Units.lean ====
section
/-! SUPPORT. What the operations on stored units change, and what they leave (R179, R271). -/
namespace Sys2Proof.Machine

theorem quad_unpack_pack (q : Quad) : Quad.unpack q.pack = q := by
  obtain ⟨a, b, c, d⟩ := q
  simp only [Quad.unpack, Quad.pack, Quad.mk.injEq]
  refine ⟨?_, ?_, ?_, ?_⟩ <;>
  · apply BitVec.eq_of_getLsbD_eq
    intro i hi
    have : i = 0 ∨ i = 1 ∨ i = 2 ∨ i = 3 ∨ i = 4 ∨ i = 5 ∨ i = 6 ∨ i = 7 := by omega
    rw [BitVec.getLsbD_extractLsb']
    simp only [BitVec.getLsbD_append]
    rcases this with rfl | rfl | rfl | rfl | rfl | rfl | rfl | rfl <;> rfl

theorem putBytes_ne (m : List Host.Cell) (a : Nat) (l : List Byte) (k : Nat) (h : k < a ∨ a + l.length ≤ k) :
    mapGet (fun _ => 0#8) (putBytes m a l) k = mapGet (fun _ => 0#8) m k := by
  induction l generalizing m a with
  | nil => rfl
  | cons b t ih =>
    simp only [List.length_cons] at h
    simp only [putBytes]
    rw [ih _ _ (by omega), mapGet_mapSet_ne _ _ _ (by omega)]

theorem putBytes_at (m : List Host.Cell) (a : Nat) (l : List Byte) (i : Nat) (hw : mapWf (fun _ => 0#8) m = true) (h : i < l.length) :
    mapGet (fun _ => 0#8) (putBytes m a l) (a + i) = l.getD i 0#8 := by
  induction l generalizing m a i with
  | nil => simp at h
  | cons b t ih =>
    simp only [putBytes]
    cases i with
    | zero => rw [putBytes_ne _ _ _ _ (by omega), Nat.add_zero, mapGet_mapSet _ _ _ hw]; rfl
    | succ i =>
      rw [show a + (i + 1) = a + 1 + i by omega, ih _ _ _ (mapWf_mapSet _ hw) (by simpa using h)]; rfl

theorem unitLen_pos (u : Nat) : 0 < unitLen u := by unfold unitLen; split <;> omega

theorem junk_clear (m : Mem) (u : Nat) : (m.clearJunk u).junkAt u = none := by
  unfold Mem.clearJunk
  cases hj : m.junkAt u with
  | none => simpa using hj
  | some j =>
    have hj' := hj
    unfold Mem.junkAt at hj
    cases hr : regionOf u with
    | meadow c =>
      rw [hr] at hj; dsimp only at hj ⊢
      cases ho : optGet m.junk c with
      | none => rw [ho] at hj; cases hj
      | some k =>
        rw [ho] at hj; dsimp only at hj
        split at hj
        · injection hj with hj; subst hj
          unfold Mem.junkAt
          rw [hr]; dsimp only
          rw [optGet_mapPut]; dsimp only
          rw [if_neg]
          rintro ⟨_, _, h⟩
          unfold mapSet at h
          rw [if_neg (by simp), mapGet_mapPut] at h
          simp at h
        · cases hj
    | _ => rw [hr] at hj; cases hj

theorem junk_other (m : Mem) (u v : Nat) (h : v ≠ u) : (m.clearJunk u).junkAt v = (m.junkAt v).map (fun j =>
    match m.junkAt u, regionOf u with
    | some _, .meadow c => if regionOf v = .meadow c then { j with written := mapSet (fun _ => false) j.written u true } else j
    | _, _ => j) := by
  unfold Mem.clearJunk
  cases hj : m.junkAt u with
  | none => simp
  | some j =>
    cases hr : regionOf u with
    | meadow c =>
      dsimp only
      have ho : optGet m.junk c = some j := by
        unfold Mem.junkAt at hj
        rw [hr] at hj; dsimp only at hj
        split at hj
        · next k hk => split at hj
                       · injection hj with hj; rw [hk, hj]
                       · cases hj
        · cases hj
      unfold Mem.junkAt
      cases hv : regionOf v with
      | meadow c' =>
        dsimp only
        by_cases hc : c' = c
        · subst hc
          rw [optGet_mapPut, ho]; dsimp only
          rw [mapGet_mapSet_ne _ _ _ h]
          split
          · simp
          · simp
        · rw [optGet_mapPut_ne _ _ hc]
          cases optGet m.junk c' with
          | none => rfl
          | some k => dsimp only; split <;> simp [hc]
      | _ => rfl
    | _ => simp

/-- A stored unit leaves every unit that does not overlap it, data and check symbols. -/
theorem putUnit_other (m : Mem) (u v : Nat) (d : List Byte) (q : Quad) (hl : d.length = unitLen u) (h : v + unitLen v ≤ u ∨ u + unitLen u ≤ v) :
    (m.putUnit u d q).unitData v = m.unitData v ∧ (m.putUnit u d q).unitChk v = m.unitChk v := by
  have hp := unitLen_pos u
  have hq := unitLen_pos v
  have hne : v ≠ u := by omega
  have hj : (m.putUnit u d q).junkAt v = (m.clearJunk u).junkAt v := rfl
  have e := junk_other m u v hne
  have d1 : (m.putUnit u d q).unitData v = m.unitData v := by
    unfold Mem.unitData
    rw [hj, e]
    cases hv : m.junkAt v with
    | none =>
      simp only [Option.map_none]
      apply List.map_congr_left
      intro i hi
      have hi := List.mem_range.1 hi
      exact putBytes_ne _ _ _ _ (by omega)
    | some j =>
      simp only [Option.map_some]
      cases m.junkAt u with
      | none => rfl
      | some _ =>
        cases regionOf u with
        | meadow c => dsimp only; split <;> rfl
        | _ => rfl
  refine ⟨d1, ?_⟩
  unfold Mem.unitChk
  rw [hj, e, d1]
  cases m.junkAt v with
  | none =>
    simp only [Option.map_none]
    exact congrArg _ (mapGet_mapSet_ne _ _ _ hne)
  | some j => rfl

/-- A stored unit holds its data and its check symbols. -/
theorem putUnit_self (m : Mem) (u : Nat) (d : List Byte) (q : Quad) (hw : m.wf = true) (hl : d.length = unitLen u) :
    (m.putUnit u d q).unitData u = d ∧ (m.putUnit u d q).unitChk u = q := by
  unfold Mem.wf at hw; simp only [Bool.and_eq_true] at hw
  have hj : (m.putUnit u d q).junkAt u = none := junk_clear m u
  constructor
  · unfold Mem.unitData; rw [hj]; dsimp only
    apply List.ext_getElem
    · simp [hl]
    · intro i h1 h2
      simp only [List.getElem_map, List.getElem_range]
      change mapGet _ (putBytes m.mem u d) (u + i) = _
      rw [putBytes_at _ _ _ _ hw.1 h2]
      simp [List.getD, h2]
  · unfold Mem.unitChk; rw [hj]; dsimp only
    change Quad.unpack (mapGet chkDefault (mapSet chkDefault m.chk u q.pack) u) = q
    rw [mapGet_mapSet _ _ _ hw.2, quad_unpack_pack]

theorem setReg_mm (s : State) (r p i v) : (s.setReg r p i v).mm = s.mm := rfl

theorem setFld_mm (s : State) (r p h l v) : (s.setFld r p h l v).mm = s.mm := rfl

theorem setBit_mm (s : State) (r p n b) : (s.setBit r p n b).mm = s.mm := rfl

theorem bump_mm (s : State) (r p n) : (s.bump r p n).mm = s.mm := rfl

theorem putEvt_mm (s : State) (i j v) : (s.putEvt i j v).mm = s.mm := rfl

theorem logLevel_mm (s : State) : s.logLevel.mm = s.mm := by
  unfold State.logLevel; repeat' first | rfl | (rw [setBit_mm]) | split

/-- Logging an event leaves memory as it was. -/
theorem logE_mm (s : State) (e) : (s.logE e).mm = s.mm := by
  unfold State.logE
  extract_lets q s1 s2 s3 t i s4 s5 s6 s7
  have h3 : s3.mm = s.mm := by
    simp only [s3]
    split
    · exact setBit_mm ..
    · rfl
  split
  · exact (bump_mm ..).trans h3
  · exact (logLevel_mm _).trans ((setFld_mm ..).trans ((putEvt_mm ..).trans ((putEvt_mm ..).trans ((putEvt_mm ..).trans ((putEvt_mm ..).trans h3)))))

theorem injFired_mm (s : State) (i a) : (s.injFired i a).mm = s.mm :=
  (logE_mm _ _).trans ((setBit_mm ..).trans ((setBit_mm ..).trans (setBit_mm ..)))

/-- Decoding a unit leaves memory as it was. -/
theorem loadUnit_mm (s : State) (b u) : (s.loadUnit b u).1.mm = s.mm := by
  unfold State.loadUnit
  split
  · exact injFired_mm ..
  · rfl

theorem xorAt_len (d c p x) : (xorAt d c p x).1.length = d.length := by
  unfold xorAt
  simp [Quad.toList]

theorem fault_len (s : State) (d c k) : (s.fault d c k).1.length = d.length := by
  unfold State.fault
  dsimp only
  split
  · exact xorAt_len ..
  · simp only []
    rw [xorAt_len, xorAt_len]
  · rfl
  · simp
  · rfl

theorem decodeUnit_len (d c k) : (decodeUnit d c k).data.length = d.length := by
  unfold decodeUnit
  dsimp only
  repeat' first | rfl | split
  simp [Quad.toList]

theorem unitData_len (m : Mem) (u) : (m.unitData u).length = unitLen u := by
  unfold Mem.unitData; split <;> simp

theorem loadUnit_len (s : State) (b u) : (s.loadUnit b u).2.data.length = unitLen u := by
  unfold State.loadUnit
  split
  · dsimp only; rw [decodeUnit_len, fault_len, unitData_len]
  · dsimp only; unfold Mem.decode; rw [decodeUnit_len, unitData_len]

/-- A store through the encoder changes one unit, whatever the injection. -/
theorem storeUnit_mm (s : State) (u : Nat) (d : List Byte) : ∃ d' q, d'.length = d.length ∧ (s.storeUnit u d).mm = s.mm.putUnit u d' q := by
  by_cases hb : s.injMeets false u false = true
  · let f := s.fault d (encodeChk d (s.fault d (encodeChk d (keyOf u)) (keyOf u)).2.2) (keyOf u)
    have e : s.storeUnit u d = ({ s with mm := s.mm.putUnit u f.1 f.2.1 } : State).injFired ((homeIsland u).getD 0) u := if_pos hb
    exact ⟨f.1, f.2.1, fault_len .., (congrArg State.mm e).trans (injFired_mm ..)⟩
  · have e : s.storeUnit u d = { s with mm := s.mm.encodeUnit u d } := if_neg hb
    exact ⟨d, _, rfl, congrArg State.mm e⟩

theorem onto_len (l : WLine) (u b) : (l.onto u b).length = b.length := by simp [WLine.onto]

theorem byteWrites_addr (a : Nat) (d m : List Byte) : ∀ w ∈ byteWrites a d m, a ≤ w.addr ∧ w.addr < a + d.length := by
  induction d generalizing a m with
  | nil => simp [byteWrites]
  | cons x t ih =>
    intro w hw
    cases m with
    | nil =>
      simp only [byteWrites, List.mem_cons, List.length_cons] at hw ⊢
      rcases hw with rfl | hw
      · dsimp only; omega
      · have := ih _ _ w hw; omega
    | cons y ys =>
      simp only [byteWrites, List.mem_cons, List.length_cons] at hw ⊢
      rcases hw with rfl | hw
      · dsimp only; omega
      · have := ih _ _ w hw; omega

theorem groupBy_one (f : Nat → Nat) (k : Nat) (ws : List ByteW) (h : ∀ w ∈ ws, f w.addr = k) (acc : List ByteW) :
    ws.foldl (fun (g : List (Nat × List ByteW)) w =>
      let k := f w.addr
      if g.any (fun p => p.1 = k) then g.map (fun p => if p.1 = k then (p.1, p.2 ++ [w]) else p)
      else g ++ [(k, [w])]) [(k, acc)] = [(k, acc ++ ws)] := by
  induction ws generalizing acc with
  | nil => simp
  | cons w t ih =>
    simp only [List.foldl_cons]
    have e := h w (List.mem_cons_self ..)
    rw [e]
    simp only [List.any_cons, decide_true, List.any_nil, Bool.or_false, if_true, List.map_cons, List.map_nil]
    rw [ih (fun w hw => h w (List.mem_cons_of_mem _ hw)), List.append_assoc]; rfl

/-- Writes of one group are one group. -/
theorem groupBy_const (f : Nat → Nat) (k : Nat) (ws : List ByteW) (h : ∀ w ∈ ws, f w.addr = k) :
    groupBy f ws = [] ∨ groupBy f ws = [(k, ws)] := by
  cases ws with
  | nil => left; rfl
  | cons w t =>
    right
    unfold groupBy
    simp only [List.foldl_cons]
    have e := h w (List.mem_cons_self ..)
    rw [e]
    have := groupBy_one f k t (fun w hw => h w (List.mem_cons_of_mem _ hw)) [w]
    simpa using this

theorem sendAck_units (s : State) (a : Nat) (i : Issuer) (v : Nat) :
    (s.sendAck a i).mm.unitData v = s.mm.unitData v ∧ (s.sendAck a i).mm.unitChk v = s.mm.unitChk v := by
  unfold State.sendAck
  cases i <;> (try split) <;> exact ⟨rfl, rfl⟩

/-- The bytes of one granule of a meadow lie in one unit of one home. -/
theorem meadow_span (a b c : Nat) (h : regionOf a = .meadow c) (hab : a / 32 = b / 32) : regionOf b = .meadow c ∧ unitBase b = unitBase a ∧ unitLen a = 32 ∧ unitBase a = a / 32 * 32 ∧ homeOf a = 20 + c := by
  have hr : ∀ b, a / 32 = b / 32 → regionOf b = .meadow c := by
    intro b hab
    unfold regionOf at h ⊢
    have c1 : (meadowBase : Nat) % 32 = 0 := by decide
    have c2 : heathBase + 2 * halfSize ≤ meadowBase := by decide
    by_cases x1 : a < heathBase
    · rw [if_pos x1] at h; cases h
    rw [if_neg x1] at h
    by_cases x2 : a < heathBase + 2 * halfSize
    · rw [if_pos x2] at h; cases h
    rw [if_neg x2] at h
    by_cases x3 : meadowBase ≤ a ∧ a < meadowBase + 48 * 2 ^ 24
    · rw [if_pos x3] at h
      injection h with h
      have gen : ∀ m hh hb cb : Nat, m % 32 = 0 → hb ≤ hh → hh ≤ m → ¬ a < hb → ¬ a < hh → (m ≤ a ∧ a < m + 48 * 2 ^ 24) → (a - m) / 2 ^ 24 = c →
          (if b < hb then Region.stack (b / 2 ^ 36) else if b < hh then .heath
            else if m ≤ b ∧ b < m + 48 * 2 ^ 24 then .meadow ((b - m) / 2 ^ 24)
            else if cb ≤ b ∧ b < cb + 0xF00000 then .control else .unmapped) = Region.meadow c := by
        intro m hh hb cb e1 e2 e3 e4 e5 e6 e7
        rw [if_neg (by omega), if_neg (by omega), if_pos (by omega), show (b - m) / 2 ^ 24 = c by omega]
      exact gen meadowBase (heathBase + 2 * halfSize) heathBase controlBase c1 (Nat.le_add_right _ _) c2 x1 x2 x3 h
    · rw [if_neg x3] at h
      by_cases x4 : controlBase ≤ a ∧ a < controlBase + 0xF00000
      · rw [if_pos x4] at h; cases h
      · rw [if_neg x4] at h; cases h
  have h1 := hr b hab
  refine ⟨h1, ?_, ?_, ?_, ?_⟩
  · unfold unitBase unitLen; rw [h, h1]; dsimp only; omega
  · unfold unitLen; rw [h]
  · unfold unitBase unitLen; rw [h]
  · unfold homeOf; rw [h]

end Sys2Proof.Machine
end

