-- ==== Sys2Proof/Laws/Vector.lean ====
section
/-! SUPPORT. What a vector operation does to the lanes of its engine (R105–R107). -/
namespace Sys2Proof.Machine

theorem setReg_sat (v : Engine) (r l) : (v.setReg r l).sat = v.sat := rfl

theorem bump0 (s : State) (r p) : s.bump r p 0 = s := rfl

theorem foldl0 {α} (l : List Nat) (f : Nat → α × Nat) (h : ∀ i, (f i).2 = 0) (n : Nat) : (l.map f).foldl (fun n r => n + r.2) n = n := by
  induction l generalizing n with
  | nil => rfl
  | cons a t ih => simp only [List.map_cons, List.foldl_cons, h, Nat.add_zero]; exact ih n

theorem foldl_count {α} (l : List Nat) (f : Nat → α × Nat) (g : Nat → Bool) (h : ∀ i, (f i).2 = b2n (g i)) (n : Nat) :
    (l.map f).foldl (fun n r => n + r.2) n = n + l.countP g := by
  induction l generalizing n with
  | nil => rfl
  | cons a t ih =>
    simp only [List.map_cons, List.foldl_cons, h, List.countP_cons]
    rw [ih]; cases g a <;> simp [b2n]; omega

theorem vecOp_plain (s : State) (c e op : Nat) (w : BitVec 24) (v' : Engine) (h : ¬ 0x30 ≤ op)
    (hv : (s.engine (2 * c + e)).plainStep op w.toNat = v') (hp : v'.prange = (s.engine (2 * c + e)).prange) :
    s.vecOp c e op w = s.setEngine (2 * c + e) v' := by
  unfold State.vecOp Engine.step
  simp only [if_neg h, hv, hp, Nat.sub_self]
  exact bump0 _ _ _

theorem minmax_in (x y : BitVec 32) : satInt 32 (min x.toInt y.toInt) = (min x.toInt y.toInt, false) ∧ satInt 32 (max x.toInt y.toInt) = (max x.toInt y.toInt, false) := by
  have h1 := x.isLt; have h2 := y.isLt
  have i1 : intMax 32 = 2147483647 := by decide
  have i2 : intMin 32 = -2147483648 := by decide
  unfold satInt
  rw [i1, i2, BitVec.toInt_eq_toNat_cond, BitVec.toInt_eq_toNat_cond] 
  constructor <;> (simp only [min_def, max_def]; split <;> split <;> split <;> split <;> simp_all <;> omega)

end Sys2Proof.Machine
end

