-- ==== Sys2Proof/WellFormed.lean ====
section
/-! DEFINITION. Which commands are well formed: the fields of a command word that its rule restricts, and
operand lists whose lengths belong together. The machine's step gives every command its effect, whether
or not it is well formed. -/
namespace Sys2Proof

/-- Control-space accesses are aligned 64-bit words inside the blocks' ranges (R7). -/
def wfOffset (off : Nat) : Bool := decide (off % 8 = 0 ∧ off < 0xF00000)

/-- The first column of RD and WR, and the column of SCRB and WRP, is even (R87). -/
def wfColumn (w : BitVec 26) : Bool := !w.getLsbD 6

/-- WR carries 64 bytes for each of its pairs (R87). -/
def wfWriteData (w : BitVec 26) (data : List Byte) : Bool :=
  decide (data.length = ((w.extractLsb' 12 4).toNat + 1) * 64)

/-- A reserved compute opcode is 0x3B–0x3F (R80). -/
def wfReservedCompute (w : BitVec 32) : Bool := decide (0x3B ≤ (w.extractLsb' 26 6).toNat)

/-- A reserved column opcode is 0x05–0x2F (R87). -/
def wfReservedColumn (w : BitVec 32) : Bool :=
  decide (0x05 ≤ (w.extractLsb' 26 6).toNat ∧ (w.extractLsb' 26 6).toNat ≤ 0x2F)

/-- A masked write has a mask byte for each data byte (R179). -/
def wfMask (data mask : List Byte) : Bool := decide (data.length = mask.length)

/-- Types of the memory-side adders (R187). -/
def wfAddType (etype : BitVec 5) : Bool := decide (etype.toNat ∈ [0, 1, 2, 9, 10])

/-- Bytes of an element of an adder type. -/
def addBytes (etype : BitVec 5) : Nat :=
  match etype.toNat with
  | 1 | 2 => 2
  | 10 => 8
  | _ => 4

/-- An add acts on whole, naturally aligned elements (R267). -/
def wfAdd (addr : Nat) (etype : BitVec 5) (data : List Byte) : Bool :=
  decide (addr % addBytes etype = 0 ∧ data.length % addBytes etype = 0)

/-- A repair answer holds one granule pair (R280). -/
def wfPair (data : List Byte) : Bool := decide (data.length = 64)

/-- A management frame holds at most 32 argument bytes and an Ed448 signature of 114 bytes, or none (R321). -/
def wfMgmt (m : MgmtFrame) : Bool :=
  decide (m.args.length ≤ 32 ∧ (m.sig.length = 114 ∨ m.sig.length = 0))

/-- A frame has at most 9,216 bytes (R320). -/
def wfFrame (f : List Byte) : Bool := decide (f.length ≤ 9216)

/-- A trace event has an island below 76 and a kind of R289. -/
def wfTrace (e : TraceEv) : Bool := decide (e.island < 76 ∧ 1 ≤ e.kind.toNat ∧ e.kind.toNat ≤ 13)

/-- A poison report has an outcome of R273 and an island below 76. -/
def wfReport (r : PReport) : Bool := decide (1 ≤ r.outcome.toNat ∧ r.outcome.toNat ≤ 4 ∧ r.island < 76)

/-- The well-formedness of a command. -/
def Instr.wf : Instr → Bool
  | .registerWrite off _ _ => wfOffset off
  | .readClear off _ => wfOffset off
  | .rd _ _ w => wfColumn w
  | .wr _ _ w data => wfColumn w && wfWriteData w data
  | .scrb _ _ w => wfColumn w
  | .wrp _ _ w => wfColumn w
  | .bpuReservedOpcode _ _ w => wfReservedCompute w
  | .columnReservedOpcode _ _ w => wfReservedColumn w
  | .homeWrite _ _ data mask _ => wfMask data mask
  | .memoryAdd _ addr etype data _ => wfAddType etype && wfAdd addr etype data
  | .repairSourceAnswer _ _ data => wfPair data
  | .managementFrame m => wfMgmt m
  | .domain _ _ m => wfMgmt m
  | .resetCc m => wfMgmt m
  | .resetModule m => wfMgmt m
  | .powerOff m => wfMgmt m
  | .frameReceive _ f _ => wfFrame f
  | .traceEvent e => wfTrace e
  | .poisonReport r => wfReport r
  | _ => true

end Sys2Proof
end

