-- ==== Sys2Proof/Tests/Slice0.lean ====
section
/-! SUPPORT. Small tests: ill-formed commands that the check of WellFormed refuses, results worked out by hand from
the manual, and for every statement states and operands that meet its hypotheses. -/
open Sys2Proof Sys2Proof.Machine
namespace Sys2Proof.Tests
set_option Elab.async false

/-! Ill-formed commands, one for each check. -/

theorem test_wf_offset_aligned : (Instr.registerWrite 4 0 0).wf = false := by decide
theorem test_wf_offset_range : (Instr.readClear 0xF00000 0).wf = false := by decide
theorem test_wf_rd_column : (Instr.rd 0 0 0x40).wf = false := by decide
theorem test_wf_wr_column : (Instr.wr 0 0 0x40 (List.replicate 64 0)).wf = false := by decide
theorem test_wf_wr_data : (Instr.wr 0 0 0x1000 (List.replicate 64 0)).wf = false := by decide
theorem test_wf_scrb_column : (Instr.scrb 0 0 0x40).wf = false := by decide
theorem test_wf_wrp_column : (Instr.wrp 0 0 0x40).wf = false := by decide
theorem test_wf_compute_opcode : (Instr.bpuReservedOpcode 0 0 (0x3A <<< 26)).wf = false := by decide
theorem test_wf_column_opcode : (Instr.columnReservedOpcode 0 0 (0x30 <<< 26)).wf = false := by decide
theorem test_wf_mask : (Instr.homeWrite (.task 0) 0 [1] [] false).wf = false := by decide
theorem test_wf_add_type : (Instr.memoryAdd (.task 0) 0 3 [0] false).wf = false := by decide
theorem test_wf_add_aligned : (Instr.memoryAdd (.task 0) 2 0 [0, 0, 0, 0] false).wf = false := by decide
theorem test_wf_add_whole : (Instr.memoryAdd (.task 0) 0 0 [0] false).wf = false := by decide
theorem test_wf_pair : (Instr.repairSourceAnswer 0 true [0]).wf = false := by decide
theorem test_wf_frame_args : (Instr.managementFrame ⟨0, 0, 0, 0, List.replicate 33 0, []⟩).wf = false := by decide
theorem test_wf_frame_sig : (Instr.powerOff ⟨0, 0, 0, 0, [], [0]⟩).wf = false := by decide
theorem test_wf_ethernet : (Instr.frameReceive 0 (List.replicate 9217 0) false).wf = false := by decide +kernel
theorem test_wf_trace_island : (Instr.traceEvent ⟨1, 76, none, 0, 0, 0, 0, 0, 0⟩).wf = false := by decide
theorem test_wf_trace_kind : (Instr.traceEvent ⟨14, 0, none, 0, 0, 0, 0, 0, 0⟩).wf = false := by decide
theorem test_wf_accepts : (Instr.wr 0 0 0x1000 (List.replicate 128 0)).wf = true ∧
    (Instr.memoryAdd (.task 0) 4 0 [0, 0, 0, 0] false).wf = true ∧ (Instr.rd 0 0 0x80).wf = true := by decide +kernel

/-! Results that the manual works out. -/

/-- Chapter 2, one escaped block: 4.8, twenty times 0.1, eleven times −0.1 in FP32, threshold 12. -/
def escapeBlock : List FV := (0x4099999A#32 :: List.replicate 20 0x3DCCCCCD#32 ++ List.replicate 11 0xBDCCCCCD#32).map f32

theorem test_escaped_block : (let q := quantBlock .fp4 .e8m0 (some 0x0C00) (List.replicate 32 Rnd.rne) escapeBlock;
    q.tag = true ∧ q.scale = 0x79 ∧ q.codes.take 2 = [7, 4] ∧ q.low.take 2 = [0xA, 0xD] ∧ q.codes.getD 31 0 = 0xC ∧ q.low.getD 31 0 = 0xD) := by
  decide +kernel
theorem test_not_escaped_block : (let q := quantBlock .fp4 .e8m0 (some 0xFFFF) (List.replicate 32 Rnd.rne) escapeBlock;
    q.tag = false ∧ q.scale = 0x7F ∧ q.codes.take 2 = [6, 0]) := by decide +kernel

/-- Chapter 12: position difference 300 has bucket 137. -/
theorem test_bias_bucket : biasBucket 300 = 137 := by decide

/-- Chapter 14, one kilobyte of a KV frame: block 4,473,928 of half 1, byte 512, device H24, device block 279,620. -/
theorem test_heath_position : (let p := heathPos (heathBase + 68719480832);
    p = ⟨1, 4473928, 512⟩ ∧ p.device = 24 ∧ p.devBlock = 279620) := by decide +kernel

/-- R37: +0.5 rounds to the even integer 0, 1.5 to 2. -/
theorem test_ties_to_even : roundInt .rne false 1 2 0 = 0 ∧ roundInt .rne false 3 2 0 = 2 := by decide

theorem test_reset_idle : step State.reset = .next (idleTick State.reset) := step_idle _ rfl

/-- The hypothesis of VectorFunctions and VectorIntegers: an engine out of packed mode; and one in packed mode. -/
theorem test_vector_hyps : (State.reset.engine 0).packed = false ∧
    ((State.reset.setEngine 3 { engine0 with packed := true, vl := 2 }).engine 3).packed = true := by decide

/-- The operand hypotheses of VectorFunctions: finite values of both signs, +0, 2^18 and 2^19, both infinities, a NaN. -/
theorem test_function_hyps : f32 0x3F800000#32 = .fin false 8388608 1 (-23) ∧ f32 0xBF800000#32 = .fin true 8388608 1 (-23) ∧
    f32 0#32 = .fin false 0 1 (-149) ∧ f32 0x7FC00000#32 = .nan ∧ f32 0x7F800000#32 = .inf false ∧ f32 0xFF800000#32 = .inf true ∧
    ((f32 0x48800000#32).fix.natAbs ≤ 2 ^ (fxP + 18)) ∧ (2 ^ (fxP + 18) < (f32 0x49000000#32).fix.natAbs) := by decide +kernel

/-- The row hypothesis of RowReductions: a unit that has taken in a row. -/
theorem test_reduction_hyps : ((State.reset.setRed 5 { red0 with row := [⟨0x3F800000#32, false⟩] }).redUnit 5).row.map (·.v)
    = 0x3F800000#32 :: [] := by decide

/-- The hypotheses of the bank statements: a channel with two banks, an open row in each, and a BF16 configuration. -/
def bankState : State :=
  let s := State.reset.modChan 0 3 (fun c => { c with bset := 0x5#64, pcfg := 0x4#26 })
  (s.modBank 0 3 0 (fun v => { v with row := some 7 })).modBank 0 3 2 (fun v => { v with row := some 16382 })
theorem test_bank_set_hyps : (PassCfg.ofWord 4#26).isSome = true ∧ bankState.passOn 0 3 = false ∧
    (PassCfg.ofWord (bankState.chan 0 3).pcfg).isSome = true ∧
    (PassWord.of 0x1000#26).n = 64 ∧ (PassWord.of 0x1000#26).c0 = 0 ∧
    (∀ b ∈ bankState.setOf 0 3, (bankState.bank 0 3 b).row.isSome) ∧ bankState.setOf 0 3 = [0, 2] ∧
    (bankState.chan 0 3).stop = false ∧ bankState.markedSet 0 3 = false := by decide +kernel

theorem test_bank_register_hyps : bits (0x103C#26).toNat 5 0 = 60 ∧ bits (0x30C0#26).toNat 13 12 + bits (0x0000#26).toNat 7 6 + 1 = 4 ∧
    (∀ r < 16, (bankState.regsInUse 0 3).contains r = false) ∧ bankState.passOn 0 3 = false := by decide

/-- A channel with an active BF16 pass; words that are malformed, in range and in conflict. -/
theorem test_turned_away_hyps :
    let s := (bankState.modChan 0 3 (fun c => { c with pass := some 0x40#26 })).modBank 0 3 2 (fun v => v.setStatus stActive true)
    s.passOn 0 3 = true ∧ (s.regsInUse 0 3).contains 4 = true ∧ (s.regsInUse 0 3).contains 0 = true ∧
    bits (0x60#26).toNat 6 5 = 3 ∧ (PassWord.of 0x103F#26).c0 + (PassWord.of 0x103F#26).n = 127 ∧
    bits (0x100#26).toNat 9 6 = 4 ∧ bits (0x3D#26).toNat 5 0 = 61 ∧
    4 < bits (0x30C0#26).toNat 13 12 + bits (0x30C0#26).toNat 7 6 + 1 ∧
    (s.chan 0 3).stop = false ∧ s.markedSet 0 3 = false ∧ (s.activeSet 0 3, s.freeSet 0 3) = ([2], [0]) ∧
    ((s.modChan 0 3 (fun c => { c with stop := true })).chan 0 3).stop = true := by decide +kernel

theorem test_column_hyps : (bankState.bank 0 3 (colBank (0xF002#26).toNat)).row = some 16382 ∧
    colFirst (0xF802#26).toNat + colCount (0xF802#26).toNat = 64 := by decide

/-- The count hypotheses of RowCommands, at the limits: a bank just below both, and one that blocks in a stepping set. -/
theorem test_row_hyps :
    let s := (State.reset.modBank 1 0 5 (fun v => { v with raa := 31 })).setFld .stkRhCfg 1 16 0 (32 + 64 * 256)
    let u := ((s.modBank 1 0 5 (fun v => { v with raa := 64 })).modChan 1 0 (fun c => { c with run := some 3, bset := 0x20#64 }))
    bits (0x14007#20).toNat 19 14 = 5 ∧ (s.bank 1 0 5).raa < s.raaimt 1 ∧ (s.bank 1 0 5).raa < s.raammt 1 ∧
    (u.chan 1 0).steps = true ∧ (u.chan 1 0).bset.getLsbD 5 = true ∧ u.raammt 1 ≤ (u.bank 1 0 5).raa := by decide +kernel

theorem test_stack_hyps :
    let s := (State.reset.setFld .stkScrubCfg 2 31 0 7).setReady 54 true
    let u := s.modChan 2 31 (fun c => { c with run := some 0, bset := 1#64, debt := 7 })
    let a := stackAddr 2 31 0 5 0
    s.injEvent 4 2 = false ∧ ((u.modChan 2 31 (fun c => { c with debt := c.debt + 1 })).chan 2 31).debt ≤ 8 ∧
    (u.chan 2 31).steps = true ∧ (s.chan 2 31).steps = false ∧
    0 < s.fld .stkScrubCfg 2 31 0 ∧ s.flag .stkScrubCfg 2 40 = false ∧ s.ready (52 + 2) = true ∧
    regionOf a = .stack 2 ∧ s.stepping a = false ∧ u.stepping a = true ∧ regionOf heathBase ≠ .stack 2 ∧
    (let q : MemReq := ⟨.task 1, .wr, a, 3, [1, 2, 3], [], false, none⟩
     u.repairing a 3 = [] ∧ u.mm.stalled.any (fun p => p.before q) = false ∧ u.ordBehind 2 q = none) := by decide +kernel

/-- A descriptor that runs in the banks: its task, the channel that steps it, and the same before its issue. -/
def bankTask : Task := { newTask 0 0 0 [] false with phase := .running, route := true }
/-- Every message may come to an idle machine, which it leaves as it is. -/
theorem test_may_come (m : Instr) : Claims.mayCome State.reset m ∧ Claims.came State.reset m = State.reset := ⟨.inr rfl, rfl⟩
theorem test_bank_descriptor_hyps :
    let s := State.reset.putTask 7 bankTask
    let u := s.modChan 1 2 (fun c => { c with run := some 7 })
    (s.task 7).isSome = true ∧ bankTask.phase = .running ∧ bankTask.route = true ∧ (s.chansWith 7).contains (1, 2) = false ∧
    Claims.mayCome s (.bankDescriptorIssue 1 2 7) ∧ Claims.mayCome (s.send 48 53 (.bankDescriptorIssue 1 2 7)) (.bankDescriptorIssue 1 2 7) ∧
    (s.chan 1 2).pass = none ∧ (u.stackChans 1 7).all (fun c => (u.chan 1 c).run == some 7) = true ∧
    u.stackChans 1 7 ≠ [] ∧ (u.issuesOf 7).contains 1 = false ∧
    (let v := s.modChan 1 2 (fun c => { c with run := some 3, queue := [7] })
     (v.stackChans 1 7).all (fun c => (v.chan 1 c).run == some 7) = false) := by decide +kernel

theorem test_twin_hyps :
    let s := (State.reset.setDom 46 .on).setDom 47 .on
    let at' (v : Nat) : State := s.setFld .tenTwinStat 46 1 0 v
    s.twinState 46 = 0 ∧ s.entriesOf 46 false = 0 ∧ s.entriesOf 47 false = 0 ∧ s.dom 46 = .on ∧ s.dom 47 = .on ∧
    (at' 1).twinState 46 = 1 ∧ (at' 2).twinState 46 = 2 ∧ (at' 3).twinState 46 = 3 := by decide +kernel

/-- An entry of a BF16 tensor of one element at an offset of range 1. -/
def oneElem (off : Nat) : List Word :=
  [BitVec.ofNat 64 (2 + EType.bf16.code * 8), BitVec.ofNat 64 (off + 2 ^ 40), 0, 0, 1, 1, 1, 1, 0, 0, 0, 0]
/-- A product of one element that holds the arrays of cluster 0. -/
def prodTask : Task :=
  { newTask 0 0 0 [0x10] false with phase := .running, eng := .arrays, entries := [oneElem 0, oneElem 64, [], oneElem 128, []] }
def prodState (k : Task) : State :=
  let s := State.reset.putTask 3 k
  { s with mm := s.mm.setRange 1 (some [4 + 0xFFFF * 16 + 0xFFFF * 2 ^ 20, 0, 4096]) }
theorem test_array_hyps :
    let s := prodState prodTask
    let w := (prodState { prodTask with issued := true }).setArrays 0 { arrays0 with task := some 3 }
    let d := w.setArrays 0 { arrays0 with task := some 3, unit := 1 }
    s.arrayTask 0 = some (3, prodTask) ∧ s.mayIssue 0 prodTask 7 = true ∧
    ((s.openProd 3 prodTask true).2.map (fun p => (p.tiles, p.units))) = some (1, 1) ∧
    w.arrayTask 0 = some (3, { prodTask with issued := true }) ∧ (w.arrays 0).task = some 3 ∧ (w.arrays 0).tile < 1 ∧
    (w.arrays 0).unit < 1 ∧ (w.arrays 0).drain = none ∧ 1 ≤ (d.arrays 0).unit ∧
    ((w.openProd 3 { prodTask with issued := true } false).2.map (fun p => p.tiles)) = some 1 := by decide +kernel
theorem test_audit_hyps :
    let k := { prodTask with issued := true, sel := some 1, round := 1, units := 1 }
    ((prodState k).task 3).isSome = true ∧ k.auditWaits = true ∧
    (prodState k).flight.any (fun x => match x.m with | .unitDone y _ _ => decide (y = 3) | _ => false) = false ∧
    (((prodState k).openProd 3 k false).2.map (fun p => decide (p.tiles ≤ k.round))) = some true := by decide +kernel

/-- Tasks that meet the hypotheses of ClusterDescriptors, for every opcode and both routes. -/
def opTask (op : Nat) : Task := { newTask 0 0 0 [BitVec.ofNat 64 op] false with phase := .running, eng := .vector }
theorem test_descriptor_hyps : ∀ op ∈ [0x10, 0x11, 0x12, 0x53, 0x20, 0x30],
    ((State.reset.putTask 2 (opTask op)).task 2).isSome = true ∧ (opTask op).phase = .running ∧ (opTask op).route = false ∧
    (opTask op).issued = false ∧ twOpcode (opTask op).w = op ∧ ({ opTask op with route := true } : Task).route = true := by decide +kernel
theorem test_round_hyps :
    let s := State.reset.putTask 2 (opTask 0x20)
    s.holder 0 .vector = some (2, opTask 0x20) ∧ s.mayIssue 0 (opTask 0x20) 15 = true ∧
    ((Claims.fresh s).openMany 2 (opTask 0x20) [0, 1, 2, 3] false).2.2 = false ∧
    Claims.waits s ((((Claims.fresh s).openMany 2 (opTask 0x20) [0, 1, 2, 3] false).1.putTask 2
      { opTask 0x20 with issued := true }).vopRun 2 (opTask 0x20) 2) = false := by decide +kernel
/-- Work goes on where nothing has to wait, and a product whose operands lie in a stepping bank waits. -/
theorem test_work_goes_on :
    let p := { prodTask with phase := .running }
    let s := (prodState p).setReady 0 true
    let w := { s with mm := s.mm.setRange 1 (some [1 + 0xFFFF * 16 + 0xFFFF * 2 ^ 20, 1 + 2 ^ 30]) }
    let w := (w.setReady 52 true).modChan 0 0 (fun c => { c with pass := some 0, bset := BitVec.allOnes 64 })
    Claims.waits s (Claims.reported (((Claims.fresh s).putTask 3 { p with issued := true }).productRun 3 p) 3) = false ∧
    Claims.waits w (Claims.reported (((Claims.fresh w).putTask 3 { p with issued := true }).productRun 3 p) 3) = true := by decide +kernel
theorem test_works_go_on : (let s := State.reset.putTask 2 (opTask 0x20)
    let z := fun (op : Nat) => (Claims.fresh s).putTask 2 { opTask op with issued := true }
    Claims.waits s ((z 0x20).vopRun 2 (opTask 0x20) allStrips) = false ∧
    Claims.waits s (Claims.reported ((z 0x30).copyRun 2 (opTask 0x30)) 2) = false ∧
    ∀ op ∈ [0x11, 0x12, 0x53], Claims.waits s (Claims.reported ((z op).productRun 2 (opTask op)) 2) = false) := by decide +kernel
/-- The same of the commands of the arrays. -/
theorem test_arrays_go_on : (let s := prodState prodTask
    let k := { prodTask with issued := true }
    let w := (prodState k).setArrays 0 { arrays0 with task := some 3 }
    let d := w.setArrays 0 { arrays0 with task := some 3, unit := 1 }
    let e := w.setArrays 0 { arrays0 with task := some 3, tile := 1, drain := some 0 }
    let a := prodState { prodTask with issued := true, sel := some 1, round := 1, units := 1 }
    Claims.waits s ((Claims.fresh s).kUnitStart 0 7) = false ∧ Claims.waits w ((Claims.fresh w).kUnitStart 0 7) = false ∧
    Claims.waits d ((Claims.fresh d).tileDone 0) = false ∧ Claims.waits e ((Claims.fresh e).drainDone 0) = false ∧
    Claims.waits a ((Claims.fresh a).auditTileCmd 3) = false) := by decide +kernel

/-- A request for a heath range of 64 KiB under handle 5. -/
def rangeState (create : Bool) : State :=
  let s := State.reset
  { s with mm := { s.mm with
    ranges := [(6, [3, 0, 65536])],
    rangeReq := some ⟨if create then 5 else 6, create, false, [3, 0, 65536, 0, 0, 0, 0, 0, 0, 0, 0, 0]⟩ } }
theorem test_range_hyps :
    State.reset.flag .memRangeStat 0 1 = false ∧
    ((rangeState true).mm.rangeReq.map (fun q => (rangeState true).rangeReason q)) = some 0 ∧
    ((rangeState false).mm.rangeReq.map (fun q => (rangeState false).rangeReason q)) = some 0 ∧
    (rangeState true).rangeReason ⟨5, true, true, []⟩ = 2 := by decide +kernel

theorem test_home_hyps :
    let s := (State.reset.setDom 74 .on).setReady 52 true
    let b : Bucket := ⟨16, 16, true, 1, [], 0, false, 0⟩
    let t := (s.setBucket 0 0 b).putTask 3 (newTask 0 0 0 [] false)
    let q (i : Issuer) (n : Nat) : MemReq := ⟨i, .rd, 0, n, [], [], false, none⟩
    s.noAnswer 0 = none ∧ s.chargedPart (q (.core 0) 32) = none ∧ s.repairing 0 32 = [] ∧ s.mm.stalled = [] ∧
    s.stepping 0 = false ∧ s.ordBehind 0 (q (.core 0) 32) = none ∧ s.postWaits (.core 0) 0 [1] = false ∧ regionOf 0 ≠ .control ∧
    t.chargedPart (q (.task 3) 64) = some 0 ∧ (t.bucket (homeOf 0) 0) = b ∧ homeOf 0 < 20 ∧ creditsOf 64 ≤ 1 ∧
    1 < creditsOf 128 ∧ t.repairing 0 64 = [] ∧ t.ordBehind 0 (q (.task 3) 64) = none ∧ t.stepping 0 = false ∧
    (State.bucket (s.putTask 3 (newTask 0 0 0 [] false)) (homeOf 0) 0).enable = false ∧
    ({ s with io := { s.io with posts := [⟨0, 8, [2]⟩, ⟨0, 0, [1]⟩] } } : State).postWaits (.core 0) 0 [1] = true := by decide +kernel

theorem test_service_hyps :
    let r : ReadData := ⟨.core 2, [7#8], false⟩
    let q : MemReq := ⟨.core 2, .rd, 64, 8, [], [], false, none⟩
    takeRead (.core 2) [⟨.task 1, [], true⟩, r] = some (r, [⟨.task 1, [], true⟩]) ∧
    findLine 1024 [⟨0, []⟩, ⟨1024, []⟩] = some ⟨1024, []⟩ ∧
    ((State.reset.setBucket 1 2 ⟨4, 16, true, 3, [], 0, false, 0⟩).bucket 1 2).enable = true ∧ State.reset.fld .memRegSel 0 8 4 < 20 ∧
    wbit (0x100000000 : Word) 32 = true ∧ takeStall (.core 2) [q] = some (q, []) ∧ q.kind = .rd ∧
    ({ q with kind := .wr } : MemReq).kind ≠ .rd ∧ takeStall (.task 2) State.reset.mm.stalled = none ∧
    ((State.reset.putTask 2 (opTask 0x20)).task 2) = some (opTask 0x20) ∧ (opTask 0x20).phase = .running ∧
    State.reset.stepping 1024 = false ∧
    (State.reset.modChan 0 1 (fun c => { c with run := some 3, bset := 1#64 })).stepping 1024 = true := by decide +kernel

theorem test_glint_hyps :
    let s := State.reset
    s.glint 0 5 = ⟨0, 0⟩ ∧ s.slotOwner 0 5 = none ∧
    (s.setCtx 0 (some (newCtx 0 (List.replicate 20 (BitVec.allOnes 64))))).slotOwner 0 4095 ≠ none ∧
    ((s.setGlint 0 5 ⟨7, 1⟩).glint 0 5).st ≠ 0 ∧ ((s.setGlint 0 5 ⟨7, 1⟩).glint 0 5).epoch = 7 := by decide +kernel

/-- A state with descriptor 3 of context 0 in a phase. -/
def phaseState (p : Phase) (n : Nat) : State :=
  (State.reset.putTask 3 { newTask 0 0 0 [] false with phase := p, units := n }).setAcks 19 1
theorem test_ends_hyps :
    ((phaseState .running 1).task 3).map (fun k => (k.phase, k.units)) = some (.running, 1) ∧
    (phaseState .doneWait 0).acksOf (16 + 3) = 1 ∧ ((phaseState .killed 0).task 3).isSome = true ∧
    ((State.reset.setAcks 19 0).acksOf 19) = 0 ∧
    ((phaseState .killed 0).ctx 0).map (·.dying) ≠ some true ∧
    ((((State.reset.setCtx 0 (some { newCtx 0 [] with dying := true })).ctx 0).map (·.dying)) = some true) ∧
    (State.reset.setCtx 0 (some { newCtx 0 [] with dying := true })).hasTasks 0 = false := by decide +kernel

theorem test_context_hyps :
    let q : CxReq := ⟨3, true, false, [0, 0, 0, 0]⟩
    let s := State.reset.setCtx 3 (some (newCtx 0 [6 * 2 ^ 40]))
    (State.reset.fieldAt 0).cx = none ∧ wbit ((0 : Word) ||| BitVec.ofNat 64 (2 ^ 10)) 10 = true ∧
    wbit ((0 : Word) ||| BitVec.ofNat 64 (2 ^ 11)) 11 = true ∧ State.reset.ctxReason 0 q ≠ 0 ∧
    s.ctxReason 0 ⟨3, false, true, []⟩ = 0 ∧ (s.ctx (wb (1027 : Word) 9 0)).isSome = true ∧
    (BitVec.ofNat 17 (wb (1027 : Word) 26 10) : BitVec 17) ≠ 0 := by decide +kernel
/-- A range of 64 KiB in the heath that every partition may read, and the record of a context with a ring of 64 entries in it. -/
def ctxRecord : List Word := [5 + 6 * 2 ^ 56, 0, 0, 0]
theorem test_ring_step : (BitVec.ofNat 17 (wb (1027 : Word) 26 10) - (0 : BitVec 17)).toNat ≤ 2 ^ 6 := by decide

theorem test_tensor_hyps :
    let s := State.reset.setCtx 3 (some (newCtx 0 []))
    State.reset.flag .schTdResult 0 1 = false ∧ ((State.reset.setBit .schTdResult 0 0 false).fieldAt 0).td = none ∧
    (((s.modField 0 (fun t => { t with td := some ⟨3, 1, true, [], none⟩ })).tdNext 0).ctx 3).isSome = true ∧
    (s.creationCheck 0 3 1 []).2.1 ≠ 0 := by decide +kernel

theorem test_fetch_hyps :
    let c := { newCtx 0 [] with tail := 1, res := .resident }
    let s := (State.reset.setCtx 3 (some c)).putTask 1 { newTask 0 0 0 [0x20] false with met := 0 }
    let p := State.reset.putTask 1 (newTask 0 0 0 [0x10] true)
    s.clearing = false ∧ (s.settle 0).fetchNext 0 = some 3 ∧ s.twinState 0 ≠ 1 ∧ s.holder 0 .vector = none ∧
    selectable (newTask 0 0 0 [0x20] false) = true ∧ (p.bestTask (p.sc.tasks.filter (fun q => selectable q.2 &&
      decide (q.2.field = 0) && q.2.inPool))).isSome = true := by decide +kernel
theorem test_handoff_hyps :
    let s (p : Phase) : State := State.reset.putTask 1 { newTask 0 0 0 [] true with phase := p }
    ((Claims.came (s .handoff) (.routeHandoff 1)).task 1).map (·.phase) = some Phase.handoff ∧
    Claims.mayCome (s .handoff) (.routeHandoff 1) := by decide +kernel
/-- A product in the pool: one that goes to the arrays, one that goes to the banks, and a gathered one whose header is read. -/
def withBits (e : List Word) (v : Nat) : List Word := (e.headD 0 ||| BitVec.ofNat 64 v) :: e.tail
def poolTask (op : Nat) : Task :=
  { newTask 0 0 0 [BitVec.ofNat 64 op] true with
    entries := [oneElem 0, oneElem 64, [], withBits (oneElem 128) (2 ^ 18), []] }
def bankPoolTask : Task :=
  { poolTask 0x10 with entries := [oneElem 0, withBits (oneElem 64) (2 ^ 25), [], withBits (oneElem 128) (2 ^ 18), []] }
def headerTask : Task :=
  { poolTask 0x11 with
    phase := .header
    entries := [withBits (oneElem 0) (2 ^ 19), oneElem 64, [], withBits (oneElem 128) (2 ^ 18), [],
      BitVec.ofNat 64 (1 + 9 * 8 + 2 ^ 26) :: (oneElem 256).tail] }
def poolState (k : Task) : State := (prodState k).setReady 0 true
theorem test_pool_hyps :
    let a := poolState (poolTask 0x10)
    let b := poolState bankPoolTask
    (a.sample 3).2 = none ∧ ((a.sample 3).1.task 3).map (fun k => (a.sample 3).1.routeOf k) = some (some false) ∧
    (b.sample 3).2 = none ∧ ((b.sample 3).1.task 3).map (fun k => (b.sample 3).1.routeOf k) = some (some true) ∧
    ((b.sample 3).1.sampleCounts 3).2 = false ∧
    (((b.sample 3).1.sampleCounts 3).1.task 3).map (fun k => ((b.sample 3).1.sampleCounts 3).1.dispatchFail k) = some none ∧
    Claims.waits a ((Claims.fresh a).poolDispatch 0) = false ∧ Claims.waits b ((Claims.fresh b).poolDispatch 0) = false := by
  decide +kernel
theorem test_header_hyps :
    let s := (poolState headerTask).storeUnit (meadowBase + 256) (List.replicate 32 0)
    (s.task 3).isSome = true ∧ headerTask.stale = false ∧ teBound (headerTask.entries.getD 0 []) = true ∧
    teIsIndex (headerTask.entries.getD 5 []) = true ∧ (s.sampleCount 3 0 (headerTask.entries.getD 5 [])).2 = some (0, 0, false) ∧
    Claims.waits s ((Claims.fresh s).headerRead 3) = false := by decide +kernel
theorem test_dispatch_hyps :
    let k := { newTask 0 0 0 [0x20] false with met := 0 }
    let s := State.reset.putTask 1 k
    let cand := s.sc.tasks.filter (fun p => selectable p.2 && decide (twHome p.2.w = 0) && !p.2.inPool &&
      !(decide (bits (s.gate 0) 4 0 = 0) && s.bestOf p.2.ctx && engOf (twOpcode p.2.w) != Eng.none) &&
      (match engOf (twOpcode p.2.w) with
        | .arrays | .vector | .copy => engOf (twOpcode p.2.w) == engNo 1
        | _ => true))
    s.bestTask (cand.filter (fun p => s.engineFree 0 p.2)) = some (1, k) ∧ s.holder 0 (engNo 1) = none ∧
    Claims.waits s ((Claims.fresh s).dispatchAt 0 1) = false := by decide +kernel

theorem test_field_hyps : ∀ op ∈ [0, 1, 2, 3], let k := { newTask 0 0 0 [BitVec.ofNat 64 op] false with phase := .running }
    (State.reset.putTask 2 k).task 2 = some k ∧ k.issued = false ∧ twOpcode k.w = op := by decide +kernel
theorem test_field_goes_on : (let s := State.reset.putTask 2 (opTask 2)
    let z := (Claims.fresh s).putTask 2 { opTask 2 with issued := true }
    Claims.waits s (Claims.reported z 2) = false ∧ Claims.waits s (z.tcreateRun 2 (opTask 2)) = false ∧
    Claims.waits s (z.garmSend 2 (opTask 2)) = false) := by decide +kernel

/-- Context 3 of a field in a residency state, with swapping enabled. -/
def resState (f : Nat) (r : Resid) : State :=
  (State.reset.setFld .schSwapCfg 0 15 0 9).setCtx 3 (some { newCtx f [] with res := r })
theorem test_residency_hyps :
    (((resState 0 .blocked).settle 0).ctx 3).map (fun c => (c.field, c.dying, c.pinned, c.res)) = some (0, false, false, .blocked) ∧
    ((resState 0 .blocked).settle 0).fld .schSwapCfg 0 15 0 ≠ 0 ∧ (((resState 0 .blocked).settle 0).fieldAt 0).swap = .idle ∧
    (((resState 0 .nonResident).settle 0).ctx 3).map (·.res) = some .nonResident ∧ (((resState 1 .blocked).settle 0).ctx 3).map (·.field) = some 1 ∧
    (resState 0 .nonResident).slotFree 0 false = true ∧ ((resState 1 .blocked).ctx 3).map (·.field) ≠ some 0 ∧
    cwBest [0, 0, 0, 2 ^ 29] = true ∧ ((resState 0 .blocked).setFld .schClassRsv 0 18 10 256).slotFree 0 true = false := by decide +kernel

theorem test_swap_hyps :
    let c := { newCtx 0 [] with runnable := true }
    let s := State.reset.setCtx 3 (some c)
    let out := s.modField 0 (fun v => { v with swap := .out 3 none })
    let inn := s.modField 0 (fun v => { v with swap := .inn 3 })
    let full := inn.putTask 2 { newTask 0 3 0 [] false with phase := .image }
    ((s.settle 0).fieldAt 0).swap = .idle ∧ (s.settle 0).nextIn 0 = some (3, c) ∧ (s.settle 0).slotFree 0 false = true ∧
    (out.fieldAt 0).swap = .out 3 none ∧ ((out.writeImage 0 3).ctx 3).isSome = true ∧ (inn.fieldAt 0).swap = .inn 3 ∧
    Claims.mayCome out (.swapOutDone 0) ∧ Claims.mayCome inn (.swapInDone 0) ∧ (inn.ctx 3).isSome = true ∧
    c.hasImage = false ∧ inn.imageTasks 3 = [] ∧ full.imageTasks 3 ≠ [] ∧
    (((resState 0 .blocked).setBit .schSwapStat 0 1 true).victim 0 false) = some 3 := by decide +kernel

theorem test_atom_hyps : ∀ op ∈ [0x70, 0x71, 0x72, 0x73], let k := { newTask 0 0 0 [BitVec.ofNat 64 op] false with phase := .running }
    (State.reset.putTask 2 k).task 2 = some k ∧ k.issued = false ∧ twOpcode k.w = op := by decide +kernel
theorem test_atoms_go_on : ∀ op ∈ [0x70, 0x71, 0x72, 0x73], (let k := { prodTask with w := [BitVec.ofNat 64 op], eng := .copy }
    let s := (prodState k).setReady 0 true
    Claims.waits s (Claims.reported (((Claims.fresh s).putTask 3 { k with issued := true }).atomRun 3 k) 3) = false) := by decide +kernel
theorem test_atom_home_hyps :
    let s := (State.reset.setReady 52 true).storeUnit 64 (List.replicate 32 0)
    s.noAnswer 64 = none ∧ ((s.settleLines 64 4 false).fetchUnit (.task 1) 0 false (unitBase 64)).2.bad = false ∧
    twOpcode [0x72] = 0x72 ∧ twOpcode [0x73] = 0x73 ∧ twOpcode [0x70] = 0x70 := by decide +kernel
theorem test_atom_open_hyps :
    let k := { prodTask with w := [0x72], eng := .copy }
    let r := (prodState k).openMany 3 k [0, 1, 2, 3] true
    r.2.2 = false ∧ k.empty = false ∧ (opndAt r.2.1 0).isSome = true ∧ (opndAt r.2.1 3).isSome = true := by decide +kernel

/-- A state with a heath range 5 that partition 0 may use, holding the stream records and a page table, and an FP16 format. -/
def kvState (fwd : Option Fwd) : State :=
  let s := ((State.reset.setReady 72 true).setCfg 0 .srec 0 5).setCfg 0 .fmt 0 (1 + 2 ^ 15 + 2 ^ 23)
  { s with mm := s.mm.setRange 5 (some [3 + 0xFFFF * 16 + 0xFFFF * 2 ^ 20, 0, 0x200000])
           kv := { s.kv with fwd := fwd } }
/-- The same with a record of stream 3 held open on the die at field 0. -/
def heldRec (readers : Nat) : State :=
  let s := kvState (some (.recClose 3))
  { s with kv := { s.kv with recs := [(3, [2 ^ 42, 0, 16, BitVec.ofNat 64 (readers * 2 ^ 32)])] } }
theorem test_record_hyps :
    let s := kvState (some (.recClose 3))
    State.reset.flag .kvsSrecStat 0 1 = false ∧ Claims.mayCome s (.forwardedRequest ⟨0, .recClose 3⟩) ∧
    Claims.mayCome s (.forwardedResult ⟨false, 0⟩) ∧ s.kv.fwd.isSome = true ∧ State.reset.kv.fwd = none ∧
    s.kv.opens.any (fun o => decide (o.2 = 0)) = false ∧ ([(3, 0)] : SMap Nat).any (fun o => decide (o.2 = 0)) = true ∧
    (s.pool 0 0).held = 0 ∧ ((s.setPool 0 0 { pool0 with held := 1 }).pool 0 0).held ≠ 0 ∧ (s.recAddr 0 3).isSome = true := by decide +kernel
theorem test_close_hyps :
    ((heldRec 1).recGet (.service 0) 0 3).2 = ([2 ^ 42, 0, 16, 2 ^ 32], false) ∧ ((heldRec 1).recClose 0 3).2 = 5 ∧
    ((heldRec 0).recClose 0 3).2 = 0 ∧ ((heldRec 0).recClose 1 3).2 = 2 ∧
    ((heldRec 0).recClose 1 3).1.kv.fwd = some (.recClose 3) ∧ ((heldRec 0).recClose 1 3).1.closeLeft 3 = false := by decide +kernel
theorem test_open_hyps :
    let w : List Word := [2 ^ 42, 5 + 65536 * 2 ^ 16, 16]
    reCap w ≠ 0 ∧ reCap w ≤ 16384 ∧ (kvState none).ptInRange w = true ∧ reOpen [0, 0, 0, 0] = false ∧ reOpen w = true ∧
    ((kvState none).kvFmt 0 (rePart w)).ok = true ∧ reReaders [2 ^ 42, 0, 0, 2 ^ 32] ≠ 0 := by decide +kernel

theorem test_kv_hyps : ∀ op ∈ [0x40, 0x41, 0x42, 0x43, 0x44, 0x45, 0x46],
    let k := { newTask 0 0 0 [BitVec.ofNat 64 op] false with phase := .running }
    let s := State.reset.putTask 2 k
    s.task 2 = some k ∧ k.issued = false ∧ twOpcode k.w = op ∧ (s.kvEng 0).run = none ∧ (s.kvEng 1).run = none ∧
    (s.setKvEng 0 ⟨some 7, []⟩).kvEng 0 = ⟨some 7, []⟩ := by decide +kernel
theorem test_kv_goes_on : ∀ op ∈ [0x40, 0x41, 0x42, 0x43, 0x44, 0x45, 0x46],
    let k := { newTask 0 0 0 [BitVec.ofNat 64 op] false with phase := .running }
    let s := State.reset.putTask 2 k
    let z := (Claims.fresh s).putTask 2 { k with issued := true }
    Claims.waits s (Claims.reported (z.kappendRun 2 k 9) 2) = false ∧ Claims.waits s (Claims.reported (z.kadvanceRun 2 k) 2) = false ∧
    Claims.waits s (Claims.reported (z.kfreeRun 2 k) 2) = false ∧ Claims.waits s (Claims.reported (z.kbucketRun 2 k) 2) = false ∧
    Claims.waits s (Claims.reported (z.kmigrateRun 2 k 9) 2) = false ∧ Claims.waits s ((Claims.fresh s).kreadCmd 2) = false ∧
    Claims.waits s ((Claims.fresh s).kexpandCmd 2) = false := by decide +kernel
/-- A record of stream 0 held open on the die, with a number of readers. -/
def openRec (readers : Nat) : State :=
  let s := State.reset.putTask 2 { newTask 0 0 0 [0x40] false with phase := .running }
  { s with kv := { s.kv with recs := [(0, [2 ^ 42, 0, 16, BitVec.ofNat 64 (readers * 2 ^ 32)])] } }
theorem test_kv_open_hyps :
    let k := { newTask 0 0 0 [0x40] false with phase := .running }
    (openRec 1).stopped 2 = false ∧ ((openRec 1).kvFail 2 0x50).stopped 2 = true ∧
    ((openRec 1).kvOpen 2 k 0).2.map reReaders = some 1 ∧ ((openRec 65535).kvOpen 2 k 0).2.map reReaders = some 65535 := by decide +kernel

/-- A state in which descriptor 2 waits for the length of stream 0. -/
def queryState : State :=
  let s := State.reset.putTask 2 { newTask 0 0 0 [0x50] false with phase := .query }
  { s with kv := { s.kv with recs := [(0, [2 ^ 42, 0, 16, 0])] } }
theorem test_length_hyps :
    let k := { newTask 0 0 0 [0x50] false with phase := .query }
    let a := Claims.came queryState (.lengthQuery 2)
    let s := queryState
    Claims.mayCome s (.lengthQuery 2) ∧ Claims.mayCome s (.lengthAnswer 2) ∧ Claims.mayCome s (.advance 0 0) ∧
    a.task 2 = some k ∧ a.kv.holds = [] ∧ (a.kvOpen 2 k 0).2.map reOpen = some true ∧ readsPages 0x50 = true ∧
    ([⟨2, 0, 5⟩] : List LenHold).any (fun h => decide (h.task = 2)) = true ∧
    ((Claims.came s (.advance 0 0)).recGet (.service 0) 0 0).2 = ([2 ^ 42, 0, 16, 0], false) ∧
    reTentative [2 ^ 42, 0, 16, 0] = 0 := by decide +kernel
theorem test_yield_hyps :
    let b := { newTask 0 1 0 [0x40] false with phase := .running }
    let s := ((((State.reset.setCtx 0 (some (newCtx 0 []))).setCtx 1 (some (newCtx 0 [0, 0, 0, 2 ^ 29]))).putTask 4 b).putTask 5 (newTask 0 0 0 [0x40] false)).setKvEng 0 ⟨some 4, [5]⟩
    (s.kvEng 0).run = some 4 ∧ s.kvPick (s.kvEng 0).wait = some 5 ∧ s.bestTaskOf 4 = true ∧ s.bestTaskOf 5 = false ∧
    s.task 4 = some b ∧ b.phase = .running ∧ b.issued = false := by decide +kernel

/-- Stream 0 in a tracker state, with a request in progress and others waiting. -/
def trkState (n : Nat) (l : List Fwd) : State :=
  let s := State.reset
  { s with sv := { s.sv with
    trk := [(0, ⟨BitVec.ofNat 64 n, 0, 0, 0⟩)]
    fwd := some (.stream 0 3 [0, 0])
    fwdC := l } }
theorem test_stream_hyps :
    State.reset.flag .srvStreamStat 0 1 = false ∧ State.reset.sv.fwd = none ∧ (trkState 3 []).sv.fwd.isSome = true ∧
    Claims.mayCome (trkState 3 []) (.forwardedRequest ⟨0, .stream 0 3 [0, 0]⟩) ∧
    Claims.mayCome (trkState 3 []) (.forwardedResult ⟨true, 2⟩) ∧
    (Claims.came (trkState 3 [.credit 5 7]) (.forwardedResult ⟨true, 2⟩)).sv.fwdC = [.credit 5 7] ∧
    Claims.isLocal (.credit 5 7) = false ∧ Claims.isLocal (.credit 8 7) = true ∧
    ∀ n ∈ [0, 1, 2, 3, 4, 5, 6, 7], ((trkState n []).trk 0).state = n := by decide +kernel
theorem test_admit_hyps :
    let s := ((State.reset.setReady 48 true).setCfg 0 .partState 0 3).setCust 0 { cust0 with enabled := true }
    let n : Trk := ⟨BitVec.ofNat 64 (1 + 16 + 0xFFFF * 2 ^ 24), BitVec.ofNat 64 (8 * 2 ^ 21), 0, 0⟩
    s.admissionBad 0 n = false ∧ State.reset.admissionBad 0 n = true ∧ n.maxLen = 8 ∧ n.cstate = cFree ∧
    s.admissionBad 0 { n with w1 := 0 } = false ∧ ({ n with w1 := 0 } : Trk).maxLen = 0 := by decide +kernel
theorem test_budget_forward :
    Claims.mayCome State.reset (.forwardedRequest ⟨1, .credit 5 7⟩) ∧ Claims.mayCome State.reset (.forwardedRequest ⟨1, .custCfg 5 7⟩) := by
  decide +kernel

theorem test_budget_hyps :
    let s := State.reset.setCust 4 { cust0 with bal := 5, cap := 9 }
    let z := State.reset
    let r : State := { z with sv := { z.sv with outs := [(0, 1)] } }
    max ((Claims.came s (.debit 4 9)).cust 4).bal (-(2 ^ 39)) = 5 ∧ Claims.mayCome s (.debit 4 9) ∧
    Claims.mayCome s (.throttle 1 4) ∧ Claims.mayCome s (.unthrottle 1 4) ∧ s.sv.fwd = none ∧ (trkState 3 []).sv.fwd.isSome = true ∧
    (4 : BitVec 12).toNat % 4 = 0 ∧ (5 : BitVec 12).toNat % 4 ≠ 0 ∧ s.standby 0 = false ∧ s.pstate 0 0 ≠ 6 ∧
    (s.setCfg 0 .partState 0 6).pstate 0 0 = 6 ∧ s.outTail 0 = s.outHead 0 ∧ s.outResv 0 = 0 ∧
    Claims.mayCome r (.outputRecordAck 0) ∧ (Claims.came r (.outputRecordAck 0)).outsOf 0 = 1 ∧
    ((s.setFld .srvOutStat 0 33 17 2).outResv 0) = 2 := by decide +kernel

theorem test_step_hyps : ∀ op ∈ [0x60, 0x61, 0x62, 0x63], let k := { newTask 0 0 0 [BitVec.ofNat 64 op] false with phase := .running }
    (State.reset.putTask 2 k).task 2 = some k ∧ k.issued = false ∧ twOpcode k.w = op := by decide +kernel
/-- A report of one token without an ending. -/
def oneToken (fin : Nat) : Emission := { stream := 0, verify := false, k := 0, toks := [5], ending := BitVec.ofNat 3 fin, base := 1, qpos := 0,
                                         prefillStep := false, cstate := 0xFFFF, cookie := 9 }
theorem test_report_hyps :
    ((trkState 4 []).trk 0).state = 4 ∧ (oneToken 0).ending ≠ 1 ∧ (oneToken 1).ending = 1 ∧
    Claims.mayCome (trkState 4 []) (.report (oneToken 0)) ∧ Claims.mayCome (trkState 4 []) (.report (oneToken 1)) ∧
    ((trkState 3 []).trk 0).state = 3 ∧ ((trkState 3 []).trk 0).resv = false ∧ ((trkState (7 + 128) []).trk 0).state = 7 ∧
    ((trkState (7 + 128) []).trk 0).resv = true ∧ (State.reset.beginRefused 0 false trk0) = some 2 := by decide +kernel
theorem test_begin_hyps :
    let s := (((State.reset.setCfg 0 .partState 0 3).setCust 0 { cust0 with enabled := true }).setFld .srvOutCfg 0 60 56 10)
    s.beginRefused 0 false ⟨3, 0, 0, 0⟩ = none := by decide +kernel
theorem test_serving_go_on :
    let z := fun (n op : Nat) => (Claims.fresh ((trkState n []).putTask 2 (opTask op))).putTask 2 { opTask op with issued := true }
    let go := fun (n op : Nat) (u : State) =>
      (z n op).srvMismatch (opTask op) = none ∧ Claims.waits ((trkState n []).putTask 2 (opTask op)) (Claims.reported u 2) = false
    go 19 0x60 ((z 19 0x60).beginStep 2 (opTask 0x60) ((z 19 0x60).trk 0)) ∧
    go 20 0x61 ((z 20 0x61).emission 2 (opTask 0x61) ((z 20 0x61).trk 0) false) ∧
    go 20 0x62 ((z 20 0x62).emission 2 (opTask 0x62) ((z 20 0x62).trk 0) true) ∧
    go 20 0x63 ((z 20 0x63).smaskRun 2 (opTask 0x63) ((z 20 0x63).trk 0)) := by decide +kernel

theorem test_attention_hyps : ∀ op ∈ [0x50, 0x51, 0x52, 0x54, 0x55], let k := { newTask 0 0 0 [BitVec.ofNat 64 op] false with phase := .running }
    let s := State.reset.putTask 2 k
    s.task 2 = some k ∧ k.issued = false ∧ twOpcode k.w = op ∧ k.entryAt 12 = [] ∧
    ((s.modTask 2 (fun k => { k with issued := true })).task 2) = some { k with issued := true } ∧
    (s.modTask 2 (fun k => { k with issued := true })).ringLinksBad k.w = none := by decide +kernel
theorem test_ring_hyps :
    let k (r n : Nat) : Task := { newTask 0 0 0 [0x55, 0, 0, 0, 0, 0, 0, 0, 0, 0, 0, 0, BitVec.ofNat 64 n] false with
      phase := .running, issued := true, round := r }
    ringN (k 0 0).w ≤ (k 0 0).round ∧
    (twArea (k 0 2).w 0 = 2 → ringN (k 0 2).w = 2 ∧ ringMay (k 0 2) = true ∧ ringMay { k 1 2 with readys := 0 } = false) ∧
    (State.reset.setFld .lnkMirCfg 0 0 0 1).ringLinksBad [0x55] = none := by decide +kernel
theorem test_attention_go_on :
    let z := fun (op : Nat) => (Claims.fresh (State.reset.putTask 2 (opTask op))).putTask 2 { opTask op with issued := true }
    let s := fun (op : Nat) => State.reset.putTask 2 (opTask op)
    (∀ op ∈ [0x50, 0x51], Claims.waits (s op) (Claims.reported ((z op).attPaged 2 (opTask op)) 2) = false) ∧
    Claims.waits (s 0x52) (Claims.reported ((z 0x52).attDense 2 (opTask 0x52)) 2) = false ∧
    Claims.waits (s 0x54) ((Claims.fresh (s 0x54)).lsumCmd 2) = false ∧ Claims.waits (s 0x55) ((Claims.fresh (s 0x55)).aringCmd 2) = false ∧
    Claims.waits (s 0x55) ((Claims.fresh (s 0x55)).ringGo 2 16) = false := by decide +kernel
theorem test_lsum_opens :
    ((openRec 1).kvOpen 2 (opTask 0x54) 0).2.map reReaders = some 1 ∧ ((openRec 65535).kvOpen 2 (opTask 0x54) 0).2.map reReaders = some 65535 := by
  decide +kernel

/-- Slot 1 in a state, for a pair of the heath. -/
def slotState (st src : Nat) : State := State.reset.setSlot 1 { slot0 with st := st, addr := heathBase, src := src }
theorem test_slot_hyps :
    let r : PReport := ⟨0, 48, 4, some 3, 0, 0, true, false⟩
    let a := Claims.came State.reset (.poisonReport r)
    Claims.mayCome State.reset (.poisonReport r) ∧ r ∉ a.ix.rels ∧ r.outcome ≠ 2 ∧ a.slotOf 0 = none ∧ a.freeSlot = some 0 ∧
    ∀ n ∈ [1, 2, 3, 4, 5], ((slotState n 1).slot 1).st = n ∧ ((slotState n 4).slot 1).src = 4 ∧ ((slotState n 1).slot 1).src < 2 := by decide +kernel

theorem test_scrub_hyps :
    let s := ((State.reset.setFld .icxScrubHth 0 31 0 5).setReady 68 true).setFld .icxScrubMdw 0 31 0 5 |>.setReady 0 true
    s.fld .icxScrubHth 0 31 0 ≠ 0 ∧ s.ready 68 = true ∧ s.inRepair (heathPairAddr 0 0) = false ∧
    (s.loadUnit false (heathPairAddr 0 0)).2.outc = .poison ∧ s.fld .icxScrubMdw 0 31 0 ≠ 0 ∧ s.ready 0 = true ∧
    (slotState 1 0).inRepair heathBase = true := by decide +kernel
theorem test_trace_hyps :
    let s := State.reset
    let o : State := { s with se := { s.se with record := [(81, 1)] } }
    let e : TraceEv := ⟨1, 0, none, 0, 0, 0, 0, 0, 0⟩
    s.option 8 = false ∧ o.option 8 = true ∧ s.flag .tlmTraceStat 0 0 = false ∧ (s.setBit .tlmTraceStat 0 0 true).flag .tlmTraceStat 0 0 = true ∧
    Claims.mayCome s (.traceEvent e) ∧ (Claims.came s (.traceEvent e)).ix.trq = [] ∧ (Claims.came s (.traceEvent e)).ix.trBusy = false ∧ s.logCount = 0 ∧
    injAccepts 0 0 false = true ∧ injAccepts 9 0 false = false ∧ wbit ((0 : Word) ||| BitVec.ofNat 64 (2 ^ 19)) 19 = true := by decide +kernel

theorem test_link_hyps :
    let s (n : Nat) : State := ((State.reset.setLinkState 2 n).setBit .lnkCtl 2 0 true).setFld .lnkCtl 2 3 1 2
    (∀ n ∈ [0, 1, 2, 3, 4, 5], (s n).linkState 2 = n ∧ (s n).flag .lnkCtl 2 0 = true) ∧ ((s 0).link 2).spent = false ∧
    ((s 1).link 2).step = 0 ∧ (s 4).fld .lnkStat 2 20 18 < (s 4).fld .lnkCtl 2 3 1 ∧ (s 3).receives 2 = true ∧
    (((s 3).link 2).tx - (((s 3).link 2).tx - 1)).toNat ≤ 512 ∧ ((s 3).link 2).replay = none ∧ ((s 3).link 2).discard = false ∧
    (State.reset.setBit .icxCfg 0 27 true).flag .icxCfg 0 27 = true := by decide +kernel

/-- Link 2 up to device 5, with a range of the heath that the device may read and write, and two outstanding accesses. -/
def peerState : State :=
  let s := ((State.reset.setDom 74 .on).setReady 68 true).setLinkState 2 3 |>.setFld .lnkStat 2 14 11 5
  { s with mm := { s.mm with ranges := [(1, [3 + 2 ^ 41 + 2 ^ 52, BitVec.ofNat 64 heathBase, 65536])] }
           lk := { s.lk with remote := [⟨.core 3, 2, 5, true, 7, 64, 8, [], []⟩, ⟨.task 4, 2, 5, false, 8, 64, 8, [], []⟩] } }
/-- A read of device 5 through the range. -/
def peerRead (h : Nat) : RemoteReq := ⟨5, BitVec.ofNat 56 heathBase, BitVec.ofNat 16 h, 0, 0, 64, [], false, 7, none⟩
theorem test_peer_hyps :
    peerState.linkState 2 = 3 ∧ peerState.fld .lnkStat 2 14 11 = 5 ∧ peerState.peerMay (peerRead 1) = true ∧
    peerState.peerMay (peerRead 2) = false ∧ (peerRead 1).addr.toNat % 2 ^ 52 = heathBase ∧ peerState.noAnswer heathBase = none ∧
    (peerState.setReady 68 false).noAnswer heathBase = some 68 ∧ (peerState.setReady 68 false).peerMay (peerRead 1) = true ∧
    ((peerState.sentOn 2).find? (fun r => decide (r.tag = 7))).map (·.iss) = some (.core 3) ∧
    ((peerState.sentOn 2).find? (fun r => decide (r.tag = 8))).map (·.iss) = some (.task 4) ∧ locate 4 = none := by decide +kernel
/-- What decides on the request is as before the flit. -/
theorem test_peer_flit (s : State) (l n a : Nat) (r : RemoteReq) :
    (s.flitIn l n).peerMay r = s.peerMay r ∧ (s.flitIn l n).noAnswer a = s.noAnswer a := by
  refine ⟨?_, State.flitIn_noAnswer s l n a⟩
  unfold State.peerMay State.range
  rw [State.flitIn_mm]
theorem test_peer_clear : let q : MemReq := ⟨.peer 5, .rd, heathBase, 64, [], [], false, none⟩
    (peerState.flitIn 2 1).chargedPart q = none ∧ Claims.clear (peerState.flitIn 2 1) q := by
  refine ⟨rfl, ?_, ?_, ?_⟩
  · unfold State.flitIn State.draw State.bump; dsimp only; repeat' split
    all_goals decide +kernel
  · unfold State.flitIn State.draw State.bump; dsimp only; repeat' split
    all_goals decide +kernel
  · intro st h
    rw [show regionOf heathBase = .heath by decide +kernel] at h; cases h
theorem test_ident_hyps :
    let s := State.reset.setLinkState 2 2
    s.linkState 2 = 2 ∧ (s.flitIn 2 1).identBad 2 5 false 0 = false ∧ (s.flitIn 2 1).identBad 2 5 true 0 = true := by
  refine ⟨by decide +kernel, ?_, ?_⟩
  · unfold State.identBad State.fld
    rw [State.flitIn_upLinks, State.flitIn_reg _ _ _ (q := .lnkDev) (by decide) (by decide)]
    simp only [show (State.reset.setLinkState 2 2).upLinks 5 = [] by decide +kernel]
    decide +kernel
  · simp [State.identBad]
theorem test_signal_register : (locate (Reg.addr .schGlintSignal 1 0)).map (·.1) = some .schGlintSignal ∧
    bitOf ((State.reset.setFld .memPeerSig 0 15 0 32).fld .memPeerSig 0 15 0) 5 = true := by decide +kernel

theorem test_mirror_hyps :
    let s (n : Nat) : State := (((((State.reset.setPair n).setBit .lnkMirCfg 0 0 true).setLinkState 8 3).setFld .lnkMirPart 0 31 0 1).setLinkState 4 3).setFld
      .lnkMirCfg 0 7 5 4
    (s 0).formed = false ∧ (s 0).flag .lnkMirCfg 0 0 = true ∧ (s 3).formed = true ∧ (s 0).pair ≠ 5 ∧ (s 0).linkState 8 = 3 ∧
    (s 0).linkState 9 ≠ 3 ∧ (s 0).flag .lnkInj 8 4 = false ∧ (s 0).gp3Pair = false ∧ ((s 0).setBit .lnkMirCfg 0 8 true).gp3Pair = true ∧
    (s 3).standby 0 = true ∧ (s 5).pair = 5 ∧ (s 2).linkState ((s 2).fld .lnkMirCfg 0 7 5) = 3 ∧ (s 3).portAlive 0 = false ∧
    (s 3).lk.out = [] ∧ takeRec 4 [⟨4, []⟩] = some (⟨4, []⟩, []) ∧ (s 3).lk.hbMiss < 2 ∧ (s 3).msgPart (.partState 0 3) = 0 := by decide +kernel
/-- A heartbeat on an up port of a pair in a state, with the catch-up link up. -/
theorem test_beat_hyps : ∀ n ∈ [1, 2, 3],
    let s := ((State.reset.setPair n).setLinkState 8 3).setFld .lnkMirCfg 0 7 5 4 |>.setLinkState 4 3
    let u := ((s.flitIn 8 1).setFld .lnkStat 8 22 21 0).setBit .lnkMirStat 0 3 true
    s.linkState 8 = 3 ∧ u.pair = n ∧ u.linkState (u.fld .lnkMirCfg 0 7 5) = 3 := by
  intro n hn s u
  have e0 : (s.flitIn 8 1).reg .lnkMirStat 0 0 = s.reg .lnkMirStat 0 0 := State.flitIn_reg s 8 1 (by decide) (by decide)
  have e1 : ((s.flitIn 8 1).setFld .lnkStat 8 22 21 0).reg .lnkMirStat 0 0 = s.reg .lnkMirStat 0 0 :=
    (State.reg_setReg_ne _ _ (by decide)).trans e0
  have hs : mapSorted 0 ((s.flitIn 8 1).setFld .lnkStat 8 22 21 0).regs = true :=
    State.setReg_sorted _ _ _ _ (State.flitIn_sorted 8 1 (by fin_cases hn <;> decide +kernel))
  have e2 : u.reg .lnkMirStat 0 0 = wput (s.reg .lnkMirStat 0 0) 3 3 1 := by
    rw [← e1]; exact State.reg_setReg _ _ _ _ hs
  have e3 : u.reg .lnkMirCfg 0 0 = s.reg .lnkMirCfg 0 0 :=
    (State.reg_setReg_ne _ _ (by decide)).trans ((State.reg_setReg_ne _ _ (by decide)).trans (State.flitIn_reg s 8 1 (by decide) (by decide)))
  have e4 : u.reg .lnkStat 4 0 = s.reg .lnkStat 4 0 :=
    (State.reg_setReg_ne _ _ (by decide)).trans ((State.reg_setReg_ne _ _ (by decide)).trans (State.flitIn_lnkStat s 8 1 4))
  have h4 : u.fld .lnkMirCfg 0 7 5 = 4 := by
    unfold State.fld; rw [e3]; fin_cases hn <;> decide +kernel
  refine ⟨by fin_cases hn <;> decide +kernel, ?_, ?_⟩
  · unfold State.pair State.fld; rw [e2]; fin_cases hn <;> decide +kernel
  · rw [h4]; unfold State.linkState State.fld; rw [e4]; fin_cases hn <;> decide +kernel
theorem test_miss_hyps :
    let s := (((State.reset.setPair 3).setBit .lnkMirStat 0 3 true).setBit .lnkMirStat 0 4 true).setFld .lnkStat 8 22 21 2
    min 3 (s.fld .lnkStat 8 22 21 + 1) = 3 ∧ (s.setFld .lnkStat 8 22 21 3).portAlive 0 = true ∧
    ((s.setFld .lnkStat 8 22 21 3).setBit .lnkMirStat 0 3 false).formed = true ∧
    ((s.setFld .lnkStat 8 22 21 3).setBit .lnkMirStat 0 3 false).portAlive 1 = true ∧
    min 3 (State.reset.fld .lnkStat 8 22 21 + 1) < 3 := by decide +kernel

theorem test_interrupt_hyps :
    let s := (State.reset.setDom 74 .on).setReg .intSrcCfg 0 256 32
    let p := s.putSoft 0 1
    let r : State := { s with cc := { s.cc with retain := some ⟨[(Reg.addr .intSrcCfg 0 256, 64)], 0⟩ } }
    s.dom 74 = .on ∧ (s.target 0).serv = none ∧ p.pendingFor 0 = some 256 ∧ s.pendingFor 0 = none ∧
    ((s.setTarget 3 ⟨some 7, true⟩).target 3).serv = some 7 ∧ ((s.setTarget 3 ⟨some 7, true⟩).target 3).sample = true ∧
    r.cc.retain.isSome = true ∧ p.levelOf 256 = true ∧
    wbit (mapGet (fun _ => 0#64) [(Reg.addr .intSrcCfg 0 256, (64 : Word))] (Reg.addr .intSrcCfg 0 256)) 6 = true := by decide +kernel

/-- Port 0 enabled with rings of 64 entries at the start of the carve-out, whose first receive entry the MAC owns. -/
def ethState (tx : Bool) : State :=
  let s := (((State.reset.setDom 74 .on).setReady 68 true |>.setReady 69 true).setBit .pltEthCfg 0 0 true).setReg .pltEthRing 0 0
    (BitVec.ofNat 64 (heathBase + carveLo + 6 * 2 ^ 48))
  let s := s.setFld (ringReg tx) 0 16 0 1
  let w := heathBase + carveLo + 65536 + 256 * 2 ^ 48 + 2 ^ 62
  let a := heathBase + carveLo + (if tx then 1024 else 0)
  (s.storeUnit a (leBytes 64 w)).storeUnit (heathBase + carveLo + 65536) (List.replicate 64 1)
theorem test_eth_hyps :
    ((ethState false).nextEntry 0 false).2.isSome = true ∧ ((ethState true).nextEntry 0 true).2.isSome = true ∧
    inCarve (heathBase + carveLo + 65536) 256 = true ∧ (ethState false).noAnswer (heathBase + carveLo + 65536) = none ∧
    (State.reset.nextEntry 0 false).2 = none ∧ frameLen 256 = true ∧ (ethState false).pcsOn 0 = true := by decide +kernel

/-- A frame of an operation at the front of the queue. -/
def frameOf (op : BitVec 8) : MgmtFrame :=
  ⟨BitVec.ofNat 48 (State.reset.fld .pltMgmtCfg 0 47 0), BitVec.ofNat 16 (State.reset.fld .pltMgmtCfg 0 63 48), op, 1, [], []⟩
def mgmtState (op : BitVec 8) : State :=
  let s := State.reset
  { s with cc := { s.cc with mq := [frameOf op] } }
theorem test_mgmt_hyps :
    State.reset.forResponder (frameOf 1) = true ∧ State.reset.cc.mq = [] ∧
    (∀ op ∈ mgmtOps, (mgmtState op).waiting = [frameOf op] ∧ (mgmtState op).signedCause (frameOf op) = .signature) ∧
    ([frameOf 1, frameOf 1, frameOf 1, frameOf 1].length = 4) := by decide +kernel

theorem test_domain_hyps :
    let s : State := State.reset.setDom 75 .on
    let s : State := { s with pw := { s.pw with input := true } }
    let w := (s.setDom 73 .switching)
    let w : State := { w with pw := { w.pw with onq := [73] } }
    s.dom 72 = .off ∧ s.pw.onq = [] ∧ s.onOk 72 = true ∧ s.dom 48 = .off ∧ s.onOk 48 = false ∧
    w.pw.onq = [73] ∧ w.dom 73 = .switching ∧ w.pw.onq.contains 72 = false ∧ w.onOk 72 = true ∧
    (s.setDom 0 .fused).dom 0 = .fused ∧ (s.setDom 0 .on).offOk 0 = true ∧ (s.setDom 68 .on).offOk 68 = false ∧
    (s.setDom 74 .on).offOk 74 = true ∧
    (((w.setDom 73 .on).orReg .pwrEvt 0 (2 ^ 8)).promote []).pw.onq = [] ∧
    (((w.setDom 73 .on).orReg .pwrEvt 0 (2 ^ 8)).promote [72]).pw.onq = [72] := by decide +kernel
theorem test_domain_ready_hyps :
    let s : State := State.reset
    (s.setDom 0 .on).ready 0 = false ∧ ((s.setDom 0 .on).loadRemaps .tenMremap 0 4728 8).testHolds 0 = false ∧
    (s.setDom 48 .on).ready 48 = false ∧ (((s.setDom 52 .on).loadRemaps .stkRemap 0 632 16).loadFuses 0).testHolds 52 = false ∧
    ((((s.setSt 1 0 ⟨3, 0⟩).setDom 52 .on).loadRemaps .stkRemap 0 632 16).loadFuses 0).testHolds 52 = true ∧
    (let t := ((s.setDom 68 .on).loadRemaps .hthRemap 0 2680 64).setFld .hthStat 0 7 0 255
     t.testHolds 68 = false ∧ t.fld .hthStat 0 7 0 = 255) ∧
    (((s.setDom 68 .on).loadRemaps .hthRemap 0 2680 64).setFld .hthStat 0 7 0 7).fld .hthStat 0 7 0 ≠ 255 ∧
    (s.setDom 72 .on).ready 72 = false ∧ (s.setDom 74 .on).ready 74 = false := by decide +kernel

theorem test_governor_hyps :
    let s := State.reset
    s.injected 0 3100 0 4095 = (s, 3100) ∧ s.ceiling < 3100 ∧ s.govB ≠ 0 ∧ s.govAudit = true ∧ s.govQ = 16 ∧ 100 * 0 < 97 * s.ceiling ∧
    ((s.setFld .pwrGovStat 0 4 0 0).setBit .pwrGovStat 0 5 false).govAudit = false ∧ (s.setFld .pwrGovStat 0 10 6 1).govQ = 1 ∧
    s.pw.alerts = 0 ∧ s.pw.onq = [] ∧ residencyMax ≤ (s.setBins [residencyMax]).pw.bins.foldl (· + ·) 0 ∧
    thresholds 0 = (93, 100) ∧ s.injected 1 372 (-2048) 2047 = (s, 372) ∧ s.injected 1 400 (-2048) 2047 = (s, 400) ∧
    s.injected 1 300 (-2048) 2047 = (s, 300) := by decide +kernel

theorem test_input_hyps :
    let s : State := State.reset.setDom 75 .on
    let d : State := { s with pw := { s.pw with input := false } }
    let u : State := { s with pw := { s.pw with input := true, sampled := true } }
    u.pw.input = true ∧ u.dom 75 = .on ∧ d.pw.input = false ∧ u.pw.sampled = true ∧ State.reset.pw.sampled = false := by decide +kernel

theorem test_boot_hyps :
    let s := State.reset.setDom 75 .on
    s.stage = 0 ∧ s.dom 75 = .on ∧ (s.setStage 1).stage = 1 ∧
    (((s.setStage 2).setReady 68 true).setReady 69 true).stage = 2 ∧ (((s.setStage 2).setReady 68 true).setReady 69 true).ready 68 = true ∧
    (((s.setStage 2).setReady 68 true).setReady 69 true).ready 69 = true ∧ (((s.setStage 2).setReady 68 true).setReady 69 true).scan = 0 := by decide +kernel
/-- A flash of an empty module in which image entries of slot A of types 1, 3 and 4 are 0 bytes long. -/
def imageFlash : State :=
  let s := State.reset
  let b := slotBase 0
  { s with se := { s.se with flash := flashPut (flashPut (flashPut (flashPut (flashPut [] b [0x44#8, 0x4B#8, 0x50#8, 0x53#8]) (b + 72) [3, 0, 0, 0])
    (b + 128) (leBytes 20 1)) (b + 256) (leBytes 20 3)) (b + 384) (leBytes 20 4) } }
theorem test_boot_images :
    (imageFlash.image 0 3).isSome = true ∧ (imageFlash.image 0 4).isSome = true ∧ (imageFlash.image 0 1).isSome = true ∧
    State.reset.slotNo = 0 := by decide +kernel

theorem test_flash_hyps :
    let s := (((State.reset.setStage 3).setReady 68 true).setReady 69 true).setReg .secFlashBuf 0 0 (BitVec.ofNat 64 (heathBase + carveLo))
    let c := (heathBase + carveLo) / 64
    let t : State := { s with se := { s.se with flashOp := some (1, 0, []), keys := true, locked := true, quoteOp := some (heathBase + carveLo, []) } }
    let u : State := { s with se := { s.se with keys := true } }
    s.stage = 3 ∧ s.scan = 0 ∧ s.se.flashOp = none ∧ (0x8100000 : Nat) % 0x10000 = 0 ∧ s.flashFree 0x8100000 0x10000 = true ∧
    s.flashFree 0x8100000 256 = true ∧ inCarve (s.fld .secFlashBuf 0 51 0) 256 = true ∧ s.noAnswer (s.fld .secFlashBuf 0 51 0) = none ∧
    t.se.flashOp.isSome = true ∧ s.se.floor = 0 ∧ (s.setFld .pltBootStat 0 31 24 7).fld .pltBootStat 0 31 24 = 7 ∧
    t.se.locked = true ∧ s.se.locked = false ∧ u.se.quoteOp = none ∧ u.se.keys = true ∧ inCarve (64 * c) 730 = true ∧
    inCarve (64 * c) 194 = true ∧ inCarve (64 * c) 250 = true ∧ t.se.quoteOp.isSome = true ∧ s.se.keys = false ∧
    t.noAnswer (heathBase + carveLo) = none := by decide +kernel

theorem test_self_hyps :
    let s := State.reset.setDom 5 .on
    let t := s.setSt 0 5 ⟨1, 0⟩
    let q := (((t.setSt 0 1 ⟨1, 0⟩).setSt 0 2 ⟨1, 0⟩).setSt 0 3 ⟨1, 0⟩)
    unitDomain 0 5 = some 5 ∧ s.testReason 0 5 = 0 ∧ t.testReason 0 5 = 2 ∧ (State.reset).testReason 0 5 = 2 ∧ q.testReason 0 6 = 1 ∧
    testSlots 0 ≤ (q.testing 0).length ∧ (s.testing 0).length < testSlots 0 ∧ (t.stOf 0 5).st = 1 ∧
    s.boardUsed 5 = false ∧ s.twinState 5 = 0 ∧ unitDomain 3 0 = none ∧
    (s.setFld .pwrCfg 0 11 0 10).sustain < (s.setFld .pwrCfg 0 11 0 10).fld .pwrIn 0 27 16 + testWatts 0 ∧
    s.fld .pwrIn 0 27 16 + testWatts 0 ≤ s.sustain ∧ s.anyAlert = false ∧ s.scan = 0 ∧ (s.setFld .secDbg 0 1 0 1).scan = 1 ∧
    ({ s with pw := { s.pw with temps := [(3, 0x190#12)] } } : State).anyAlert = true := by decide +kernel

theorem test_access_hyps :
    let s := State.reset
    (s.setFld .secDbg 0 1 0 2).scan = 2 ∧ s.scan = 0 ∧ (s.setFld .secDbg 0 1 0 1).scan = 1 ∧ (s.setFld .secDbg 0 1 0 3).scan = 3 ∧
    (s.setStage 4).stage = 4 ∧ ((s.setStage 4).setFld .secDbg 0 1 0 1).stage = 4 ∧ s.option 7 = false ∧ s.stage ≠ 4 := by decide +kernel

theorem test_register_hyps :
    locate 0x301FF8 = none ∧ locate 0x300000 = some (.schCtxStage, 0, 0) ∧ Claims.special.contains Reg.schCtxStage = false ∧
    (∃ f ∈ Reg.schCtxStat.info.fields, f.acc = .w1c) ∧ readClears .schCtxStage = false ∧ Claims.inField .schCtxCtl 12 = false ∧
    locate (Reg.addr .memNoAnswer 0 0) = some (.memNoAnswer, 0, 0) ∧ readClears .memNoAnswer = true ∧ 0x300000 < eventBase ∧
    locate (Reg.addr .intClaim 3 0) = some (.intClaim, 3, 0) ∧ locate (Reg.addr .memRegWait 0 0) = some (.memRegWait, 0, 0) ∧
    Reg.addr .intClaim 3 0 < eventBase ∧ Reg.addr .memRegWait 0 0 < eventBase ∧
    (State.reset.setFld .memRegSel 0 8 4 20).fld .memRegSel 0 8 4 = 20 := by decide +kernel

theorem test_core_hyps :
    let s := ((State.reset.setReady 52 true).setReady 68 true).setReady 69 true
    let c := heathBase + carveLo
    s.coreTo 1 8 = .fault ∧ s.coreTo (controlBase + 0x300000) 8 = .control 0x300000 ∧ s.coreTo 0 8 = .memory ∧ s.coreTo c 1 = .carve ∧
    s.coreTo (2 ^ 52) 8 = .peer 1 ∧ s.peerLinks 1 = [] ∧ regionOf (controlBase + 0x300000) = .control ∧ s.acksOf 2 = 0 ∧
    (s.setAcks 2 1).acksOf 2 ≠ 0 ∧ State.reset.coreTo 0 8 = .silent ∧ s.postWaits (.core 2) (controlBase + 0x300000) [1] = false ∧
    ({ s with io := { s.io with posts := [⟨2, controlBase + 0x300008, [2]⟩, ⟨2, controlBase + 0x300000, [1]⟩] } } : State).postWaits (.core 2)
      (controlBase + 0x300000) [1] = true := by decide +kernel
/-- Link 0 is up to device 1. -/
def upState : State :=
  (State.reset.setFld .lnkStat 0 2 0 3).setFld .lnkStat 0 14 11 1
theorem test_core_peer : upState.peerLinks 1 = [0] ∧ upState.coreTo (2 ^ 52) 8 = .peer 1 := by decide +kernel

/-- Two messages of one crossing: the second may not come first. -/
theorem test_crossing_waits :
    let s := (State.reset.send 48 49 (.throttle 1 5)).send 48 49 (.unthrottle 1 5)
    Claims.crossing (.unthrottle 1 5) = true ∧ ¬ Claims.mayCome s (.unthrottle 1 5) ∧ Claims.mayCome s (.throttle 1 5) := by decide +kernel
theorem test_front_hyps :
    let s := State.reset
    s.pending = [] ∧ s.ix.trq = [] ∧ s.dom 74 ≠ .on ∧ s.cc.retain = none ∧ (s.setDom 74 .on).dom 74 = .on ∧
    ({ s with pending := [.nop 0, .nop 1] } : State).pending = [.nop 0, .nop 1] ∧
    ({ s with ix := { s.ix with trq := [⟨1, 75, none, 0, 0, 0, 0, 0, 0⟩] } } : State).ix.trq = [⟨1, 75, none, 0, 0, 0, 0, 0, 0⟩] ∧
    (({ s with cc := { s.cc with retain := some ⟨[], 5⟩ } } : State).cc.retain = some ⟨[], 5⟩) := by decide +kernel

theorem test_step_keeps_hyps : State.reset.mm.wf = true ∧
    (({ State.reset with pending := [.nop 3] } : State).mm.wf = true) ∧ StepGoesOn State.reset :=
  ⟨by decide, by decide, _, rfl⟩

theorem test_fuses_hyps : (State.reset.setStage 1).stage = 1 ∧ State.reset.se.owner = [] ∧ (State.reset.setStage 3).stage ≠ 2 ∧
    StepGoesOn State.reset := ⟨by decide +kernel, rfl, by decide +kernel, _, rfl⟩

theorem test_stack_address : stackPos (stackAddr 15 31 63 16383 63) = ⟨31, 63, 16383, 63⟩ ∧ stackAddr 15 31 63 16383 63 < heathBase ∧
    stackPos 0x00208421 = ⟨1, 1, 0, 33⟩ := by decide +kernel

theorem test_block_hyps : (∀ x ∈ [FV.fin true 0 1 0, .fin false 0 3 7], ∃ sg d e, x = .fin sg 0 d e) ∧
    (∃ x ∈ [FV.fin true 1 1 0, .nan], x.isFin = false) := by
  constructor
  · intro x hx; simp at hx; rcases hx with rfl | rfl <;> exact ⟨_, _, _, rfl⟩
  · exact ⟨.nan, by simp, rfl⟩

theorem test_granule_hyps : (List.replicate 32 7#8).length = 32 ∧ (List.replicate 64 7#8).length = 64 ∧ [1#8, 2#8, 3#8, 4#8].length = 4 := by
  decide

theorem test_store_hyps :
    let s := State.reset.setReady 3 true
    let a := meadowBase + 3 * 2 ^ 24 + 40
    s.mm.wf = true ∧ regionOf a = .meadow 3 ∧ a % 32 + [1#8, 2#8].length ≤ 32 ∧ s.noAnswer a = none ∧ s.repairing a 2 = [] ∧
    s.injMeets false a false = false ∧ (List.replicate 32 5#8).length = unitLen a := by decide +kernel

end Sys2Proof.Tests
end

section
/-! Number formats: the FP4 codes (R28) and the scales of blocks without a finite nonzero element to scale by (R33). -/
namespace Sys2Proof.Machine

/-- R26 for FP4: bit 3 of a code is the sign, and every magnitude code is finite. -/
theorem decodeElt_fp4 (c : Nat) :
    decodeElt .fp4 c = .fin (decide (8 ≤ c % 16)) (magOf .fp4 (c % 16 % 8)).1 1 (magOf .fp4 (c % 16 % 8)).2 := by
  have finite : c % 16 % 8 ≤ EType.fp4.maxCode := by simp only [EType.maxCode]; omega
  exact if_pos finite

/-- The magnitudes of R28's table, in halves, with either sign. -/
theorem magOf_fp4_eq_table : ∀ m < 8, ∀ neg : Bool,
    (FV.fin neg (magOf .fp4 m).1 1 (magOf .fp4 m).2).eq (.fin neg ([0, 1, 2, 3, 4, 6, 8, 12].getD m 0) 1 (-1)) = true := by
  decide

/-- A zero of either sign, whatever its denominator and exponent. -/
def FV.IsZero (x : FV) : Prop := ∃ sg d e, x = .fin sg 0 d e

theorem FV.isZero_zero : (FV.fin false 0 1 0).IsZero := ⟨_, _, _, rfl⟩

theorem FV.IsZero.isFin {x : FV} (h : x.IsZero) : x.isFin = true := by
  obtain ⟨sg, d, e, rfl⟩ := h
  rfl

theorem FV.IsZero.abs {x : FV} (h : x.IsZero) : x.abs.IsZero := by
  obtain ⟨sg, d, e, rfl⟩ := h
  exact ⟨false, d, e, rfl⟩

theorem FV.IsZero.lt_eq_false {x y : FV} (hx : x.IsZero) (hy : y.IsZero) : x.lt y = false := by
  obtain ⟨sx, dx, ex, rfl⟩ := hx
  obtain ⟨sy, dy, ey, rfl⟩ := hy
  simp [FV.lt]

/-- −0 and +0 compare equal. -/
theorem FV.IsZero.eq {x y : FV} (hx : x.IsZero) (hy : y.IsZero) : x.eq y = true := by
  have notNan : ∀ {z : FV}, z.IsZero → z.isNan = false := by rintro _ ⟨sg, d, e, rfl⟩; rfl
  simp [FV.eq, notNan hx, notNan hy, hx.lt_eq_false hy, hy.lt_eq_false hx]

theorem amaxOf_isZero {xs : List FV} (h : ∀ x ∈ xs, x.IsZero) : (amaxOf xs).IsZero := by
  induction xs with
  | nil => exact FV.isZero_zero
  | cons a xs ih =>
    obtain ⟨ha, hxs⟩ := List.forall_mem_cons.mp h
    simp only [amaxOf]
    split
    · exact ha.abs
    · exact ih hxs

section
variable {t : EType} {s : SType} {thr : Option Nat} {rnds : List Rnd} {xs : List FV}

/-- R33, second sentence: the NaN scale, zero codes and tag 0, each non-finite element counted. -/
theorem quantBlock_of_nonFinite (h : ∃ x ∈ xs, x.isFin = false) :
    quantBlock t s thr rnds xs = ⟨xs.map (fun _ => 0), xs.map (fun _ => 0), if s = .e4m3 then 0x7F else 0xFF, false,
      xs.countP (fun x => !x.isFin)⟩ := by
  have bad : (xs.filter (fun x => !x.isFin)).length ≠ 0 := by simpa using h
  rw [List.countP_eq_length_filter]
  exact if_pos bad

/-- R33, first sentence: a block of zeros is finite and its largest magnitude is 0, so its scale is 1.0. -/
theorem quantBlock_of_zeros (h : ∀ x ∈ xs, x.IsZero) :
    quantBlock t s thr rnds xs = ⟨xs.map (fun _ => 0), xs.map (fun _ => 0), if s = .e4m3 then 0x38 else 0x7F, false, 0⟩ := by
  have fin : ¬ (xs.filter (fun x => !x.isFin)).length ≠ 0 := by simpa using fun x hx => (h x hx).isFin
  exact (if_neg fin).trans (if_pos ((amaxOf_isZero h).eq FV.isZero_zero))

end

/-- Settles O56: bit 3 of a code is its sign, and its magnitude is the table's entry (R28). -/
theorem fp4Codes : Obligations.Fp4Codes := by
  intro c hc
  have decoded := decodeElt_fp4 c
  rw [Nat.mod_eq_of_lt hc] at decoded
  exact ⟨_, _, _, decoded, magOf_fp4_eq_table (c % 8) (Nat.mod_lt c (by decide)) _⟩

/-- Settles O58, from what quantising leaves for a block of zeros and for one with a non-finite element (R33). -/
theorem blockScales : Obligations.BlockScales := by
  intro t thr rnds xs
  constructor
  · intro zeros
    have q := fun s => quantBlock_of_zeros (t := t) (s := s) (thr := thr) (rnds := rnds) zeros
    simp only [q, reduceCtorEq, if_true, if_false, and_self, implies_true]
  · intro nonFinite
    have q := fun s => quantBlock_of_nonFinite (t := t) (s := s) (thr := thr) (rnds := rnds) nonFinite
    simp only [q, reduceCtorEq, if_true, if_false, and_self, implies_true]

end Sys2Proof.Machine
end

section
/-! The address map of a stack: the fields of a local address, both ways (R256). -/
namespace Sys2Proof.Machine

/-- Bits of a machine word, read as the model reads a field of a number. -/
theorem toNat_extractLsb'_ofNat (w lo len a : Nat) :
    ((BitVec.ofNat w a).extractLsb' lo (len + 1)).toNat = bits (a % 2 ^ w) (lo + len) lo := by
  rw [BitVec.extractLsb'_toNat, BitVec.toNat_ofNat, Nat.shiftRight_eq_div_pow, bits, Nat.add_assoc, Nat.add_sub_cancel_left]

/-- Bits `hi`:0 without the lowest `lo` of them. -/
theorem bits_zero_div (v : Nat) {hi lo : Nat} (h : lo ≤ hi + 1) : bits v hi 0 / 2 ^ lo = bits v hi lo := by
  have split : 2 ^ (hi + 1) = 2 ^ lo * 2 ^ (hi + 1 - lo) := by rw [← Nat.pow_add, Nat.add_sub_cancel' h]
  rw [bits, bits, Nat.pow_zero, Nat.div_one, Nat.sub_zero, split, Nat.mod_mul_right_div_self]

/-- A field below bit `n` does not see the bits from `n` on. -/
theorem bits_mod_two_pow (v : Nat) {hi n : Nat} (lo : Nat) (h : hi < n) : bits (v % 2 ^ n) hi lo = bits v hi lo := by
  apply Nat.eq_of_testBit_eq
  intro i
  rw [bits_testBit, bits_testBit, Nat.testBit_mod_two_pow]
  by_cases inside : i < hi + 1 - lo
  · have below : i + lo < n := by omega
    simp only [below, decide_true, Bool.true_and]
  · simp only [inside, decide_false, Bool.false_and]

/-- A field is read back from a number that is put together of what lies above it, itself and what lies below it. -/
theorem bits_eq_of_fields {v hi lo above field below : Nat} (hlo : lo ≤ hi + 1) (hf : field < 2 ^ (hi + 1 - lo))
    (hb : below < 2 ^ lo) (hv : v = above * 2 ^ (hi + 1) + field * 2 ^ lo + below) : bits v hi lo = field := by
  have split : 2 ^ (hi + 1) = 2 ^ (hi + 1 - lo) * 2 ^ lo := by rw [← Nat.pow_add, Nat.sub_add_cancel hlo]
  have upper : v / 2 ^ lo = above * 2 ^ (hi + 1 - lo) + field := by
    rw [hv, split, ← Nat.mul_assoc, ← Nat.add_mul, Nat.add_comm, Nat.add_mul_div_right _ _ (Nat.two_pow_pos lo),
      Nat.div_eq_of_lt hb, Nat.zero_add]
  rw [bits, upper, Nat.mul_add_mod', Nat.mod_eq_of_lt hf]

/-- R254: below the heath's base lie the stacks, 64 GiB each. -/
theorem regionOf_of_lt_heathBase {a : Nat} (h : a < heathBase) : regionOf a = .stack (a / 2 ^ 36) := if_pos h

/-- The table of R256 over the word of bits 35:0; its chunk offset, bits 9:0, holds the granule in bits 9:5. -/
theorem stackPos_eq_extractLsb' (a : Nat) :
    stackPos a = ⟨((BitVec.ofNat 36 a).extractLsb' 10 5).toNat, ((BitVec.ofNat 36 a).extractLsb' 15 6).toNat,
      ((BitVec.ofNat 36 a).extractLsb' 22 14).toNat,
      32 * ((BitVec.ofNat 36 a).extractLsb' 21 1).toNat + ((BitVec.ofNat 36 a).extractLsb' 0 10).toNat / 32⟩ := by
  have granule : bits (a % 2 ^ 36) 9 0 / 32 = bits (a % 2 ^ 36) 9 5 := bits_zero_div _ (hi := 9) (lo := 5) (by decide)
  simp only [toNat_extractLsb'_ofNat, stackPos, Nat.zero_add, Nat.add_zero, Nat.reduceAdd, granule, Nat.mul_comm 32]

/-- The fields lie below bit 36, so the stack's number does not enter them. -/
theorem stackPos_eq_bits (a : Nat) :
    stackPos a = ⟨bits a 14 10, bits a 20 15, bits a 35 22, bits a 21 21 * 32 + bits a 9 5⟩ := by
  have local_bits : ∀ {hi : Nat} (lo : Nat), hi < 36 → bits (a % 2 ^ 36) hi lo = bits a hi lo := bits_mod_two_pow a
  rw [stackPos, local_bits 10 (by decide), local_bits 15 (by decide), local_bits 22 (by decide), local_bits 21 (by decide),
    local_bits 5 (by decide)]

/-- The row is the 4 MiB block of the stack: a row stripe of R256. -/
theorem stackPos_row (a : Nat) : (stackPos a).row = a % 2 ^ 36 / 2 ^ 22 :=
  Nat.mod_eq_of_lt (by omega)

section
variable {st ch bank row col : Nat} (hch : ch < 32) (hbank : bank < 64) (hrow : row < 16384) (hcol : col < 64)

include hch hbank hrow hcol

theorem regionOf_stackAddr (hst : st < 16) : regionOf (stackAddr st ch bank row col) = .stack st := by
  have below_heath : stackAddr st ch bank row col < heathBase := by
    unfold stackAddr heathBase
    omega
  have stack : stackAddr st ch bank row col / 2 ^ 36 = st := by
    unfold stackAddr
    omega
  rw [regionOf_of_lt_heathBase below_heath, stack]

/-- R256 the other way: each field is read back from its place between the fields above and below it. -/
theorem stackPos_stackAddr (st : Nat) : stackPos (stackAddr st ch bank row col) = ⟨ch, bank, row, col⟩ := by
  have ch_bits : bits (stackAddr st ch bank row col) 14 10 = ch :=
    bits_eq_of_fields (above := st * 2 ^ 21 + row * 2 ^ 7 + col / 32 * 2 ^ 6 + bank) (below := col % 32 * 32)
      (by decide) (by omega) (by omega) (by unfold stackAddr; omega)
  have bank_bits : bits (stackAddr st ch bank row col) 20 15 = bank :=
    bits_eq_of_fields (above := st * 2 ^ 15 + row * 2 + col / 32) (below := ch * 2 ^ 10 + col % 32 * 32)
      (by decide) (by omega) (by omega) (by unfold stackAddr; omega)
  have half_bits : bits (stackAddr st ch bank row col) 21 21 = col / 32 :=
    bits_eq_of_fields (above := st * 2 ^ 14 + row) (below := bank * 2 ^ 15 + ch * 2 ^ 10 + col % 32 * 32)
      (by decide) (by omega) (by omega) (by unfold stackAddr; omega)
  have row_bits : bits (stackAddr st ch bank row col) 35 22 = row :=
    bits_eq_of_fields (above := st) (below := col / 32 * 2 ^ 21 + bank * 2 ^ 15 + ch * 2 ^ 10 + col % 32 * 32)
      (by decide) (by omega) (by omega) (by unfold stackAddr; omega)
  have granule_bits : bits (stackAddr st ch bank row col) 9 5 = col % 32 :=
    bits_eq_of_fields (above := st * 2 ^ 26 + row * 2 ^ 12 + col / 32 * 2 ^ 11 + bank * 2 ^ 5 + ch) (below := 0)
      (by decide) (by omega) (by omega) (by unfold stackAddr; omega)
  rw [stackPos_eq_bits, ch_bits, bank_bits, row_bits, half_bits, granule_bits, Nat.div_add_mod']

end

/-- Settles O57: the fields are those of R256's table, and an address built from fields gives them back. -/
theorem stackAddress : Obligations.StackAddress := by
  constructor
  · intro a ha
    simp only [regionOf_of_lt_heathBase ha, stackPos_eq_extractLsb', and_self]
  · intro st ch bank row col hst hch hbank hrow hcol
    have pos := stackPos_stackAddr hch hbank hrow hcol st
    have stripe := stackPos_row (stackAddr st ch bank row col)
    rw [pos] at stripe
    exact ⟨regionOf_stackAddr hch hbank hrow hcol hst, pos, stripe.symm⟩

end Sys2Proof.Machine
end

section
/-! The fuses: no command changes what they hold except to raise the floor and to program a blank owner fuse (R336, R338,
R342), and the record that programs it is the one that the checker accepts (R341). -/
namespace Sys2Proof.Machine

/-! ## Every step keeps the fuses -/

theorem Keeps.fusesKept {s t : State} (h : Keeps s t) : s.se.FusesKept t.se := by
  obtain ⟨_, _, fuses⟩ := h
  exact fuses

/-- The lemmas about the commands' meanings, put together over the constructors of `Instr`. -/
theorem exec_keeps {s t : State} : ∀ i : Instr, exec i s = .next t → Keeps s t
  | .registerWrite off v hw, ran => execRegisterWrite_keeps off v hw _ _ ran
  | .readClear off late, ran => execReadClear_keeps off late _ _ ran
  | .coreLoad h addr len, ran => execCoreLoad_keeps h addr len _ _ ran
  | .coreStore h addr data, ran => execCoreStore_keeps h addr data _ _ ran
  | .fence h predI predO succI succO, ran => execFence_keeps h predI predO succI succO _ _ ran
  | .twinForm c both sameAc, ran => execTwinForm_keeps c both sameAc _ _ ran
  | .twinDissolve c both sameAc, ran => execTwinDissolve_keeps c both sameAc _ _ ran
  | .twinClockSwitched c, ran => execTwinClockSwitched_keeps c _ _ ran
  | .twinRelock c, ran => execTwinRelock_keeps c _ _ ran
  | .auditConfigWrite f v, ran => execAuditConfigWrite_keeps f v _ _ ran
  | .auditTile t, ran => execAuditTile_keeps t _ _ ran
  | .tileComplete c, ran => execTileComplete_keeps c _ _ ran
  | .drainComplete c, ran => execDrainComplete_keeps c _ _ ran
  | .kUnitStart c ac, ran => execKUnitStart_keeps c ac _ _ ran
  | .vectorRound c ac, ran => execVectorRound_keeps c ac _ _ ran
  | .bset st ch w, ran => execBset_keeps st ch w _ _ ran
  | .pcfg st ch w, ran => execPcfg_keeps st ch w _ _ ran
  | .mpass st ch w, ran => execMpass_keeps st ch w _ _ ran
  | .passEnd st ch, ran => execPassEnd_keeps st ch _ _ ran
  | .lpass st ch w, ran => execLpass_keeps st ch w _ _ ran
  | .spass st ch w, ran => execSpass_keeps st ch w _ _ ran
  | .fpass st ch w, ran => execFpass_keeps st ch w _ _ ran
  | .ldr st ch w pins, ran => execLdr_keeps st ch w pins _ _ ran
  | .rdr st ch w, ran => execRdr_keeps st ch w _ _ ran
  | .aclr st ch w, ran => execAclr_keeps st ch w _ _ ran
  | .stat st ch w, ran => execStat_keeps st ch w _ _ ran
  | .halt st ch w, ran => execHalt_keeps st ch w _ _ ran
  | .bpuReservedOpcode st ch w, ran => execBpuReservedOpcode_keeps st ch w _ _ ran
  | .columnNop st ch, ran => execColumnNop_keeps st ch _ _ ran
  | .rd st ch w, ran => execRd_keeps st ch w _ _ ran
  | .wr st ch w data, ran => execWr_keeps st ch w data _ _ ran
  | .scrb st ch w, ran => execScrb_keeps st ch w _ _ ran
  | .wrp st ch w, ran => execWrp_keeps st ch w _ _ ran
  | .columnReservedOpcode st ch w, ran => execColumnReservedOpcode_keeps st ch w _ _ ran
  | .rowNop st ch, ran => execRowNop_keeps st ch _ _ ran
  | .act st ch w, ran => execAct_keeps st ch w _ _ ran
  | .pre st ch w, ran => execPre_keeps st ch w _ _ ran
  | .prea st ch, ran => execPrea_keeps st ch _ _ ran
  | .sact st ch w, ran => execSact_keeps st ch w _ _ ran
  | .spre st ch, ran => execSpre_keeps st ch _ _ ran
  | .ref st ch, ran => execRef_keeps st ch _ _ ran
  | .rfm st ch w, ran => execRfm_keeps st ch w _ _ ran
  | .srfm st ch, ran => execSrfm_keeps st ch _ _ ran
  | .bankDescriptorIssue st ch t, ran => execBankDescriptorIssue_keeps st ch t _ _ ran
  | .passBoundary st ch, ran => execPassBoundary_keeps st ch _ _ ran
  | .bankDescriptorComplete st t, ran => execBankDescriptorComplete_keeps st t _ _ ran
  | .refreshDue st ch, ran => execRefreshDue_keeps st ch _ _ ran
  | .scrubTick st ch, ran => execScrubTick_keeps st ch _ _ ran
  | .arbConfigWrite st v, ran => execArbConfigWrite_keeps st v _ _ ran
  | .ordinaryRequest st iss addr len data isWrite, ran => execOrdinaryRequest_keeps st iss addr len data isWrite _ _ ran
  | .add c e w, ran => execAdd_keeps c e w _ _ ran
  | .sub c e w, ran => execSub_keeps c e w _ _ ran
  | .mul c e w, ran => execMul_keeps c e w _ _ ran
  | .fma c e w, ran => execFma_keeps c e w _ _ ran
  | .min c e w, ran => execMin_keeps c e w _ _ ran
  | .max c e w, ran => execMax_keeps c e w _ _ ran
  | .abs c e w, ran => execAbs_keeps c e w _ _ ran
  | .neg c e w, ran => execNeg_keeps c e w _ _ ran
  | .cmplt c e w, ran => execCmplt_keeps c e w _ _ ran
  | .cmple c e w, ran => execCmple_keeps c e w _ _ ran
  | .cmpeq c e w, ran => execCmpeq_keeps c e w _ _ ran
  | .sel c e w, ran => execSel_keeps c e w _ _ ran
  | .mov c e w, ran => execMov_keeps c e w _ _ ran
  | .rcp c e w, ran => execRcp_keeps c e w _ _ ran
  | .div c e w, ran => execDiv_keeps c e w _ _ ran
  | .sqrt c e w, ran => execSqrt_keeps c e w _ _ ran
  | .rsqrt c e w, ran => execRsqrt_keeps c e w _ _ ran
  | .exp c e w, ran => execExp_keeps c e w _ _ ran
  | .exp2 c e w, ran => execExp2_keeps c e w _ _ ran
  | .log c e w, ran => execLog_keeps c e w _ _ ran
  | .tanh c e w, ran => execTanh_keeps c e w _ _ ran
  | .sigm c e w, ran => execSigm_keeps c e w _ _ ran
  | .silu c e w, ran => execSilu_keeps c e w _ _ ran
  | .gelut c e w, ran => execGelut_keeps c e w _ _ ran
  | .sin c e w, ran => execSin_keeps c e w _ _ ran
  | .cos c e w, ran => execCos_keeps c e w _ _ ran
  | .iadd c e w, ran => execIadd_keeps c e w _ _ ran
  | .imul c e w, ran => execImul_keeps c e w _ _ ran
  | .imin c e w, ran => execImin_keeps c e w _ _ ran
  | .imax c e w, ran => execImax_keeps c e w _ _ ran
  | .cvti c e w, ran => execCvti_keeps c e w _ _ ran
  | .cvtf c e w, ran => execCvtf_keeps c e w _ _ ran
  | .iota c e w, ran => execIota_keeps c e w _ _ ran
  | .rand c e w, ran => execRand_keeps c e w _ _ ran
  | .bcast c e w, ran => execBcast_keeps c e w _ _ ran
  | .rot c e w, ran => execRot_keeps c e w _ _ ran
  | .shft c e w, ran => execShft_keeps c e w _ _ ran
  | .rev c e w, ran => execRev_keeps c e w _ _ ran
  | .zip c e w, ran => execZip_keeps c e w _ _ ran
  | .unzip c e w, ran => execUnzip_keeps c e w _ _ ran
  | .xpose16 c e w, ran => execXpose16_keeps c e w _ _ ran
  | .idx c e w, ran => execIdx_keeps c e w _ _ ran
  | .sum c, ran => execSum_keeps c _ _ ran
  | .reduceMax c, ran => execReduceMax_keeps c _ _ ran
  | .reduceMin c, ran => execReduceMin_keeps c _ _ ran
  | .argmax c, ran => execArgmax_keeps c _ _ ran
  | .topk c kM1, ran => execTopk_keeps c kM1 _ _ ran
  | .sample c companion, ran => execSample_keeps c companion _ _ ran
  | .tensorCreate f v, ran => execTensorCreate_keeps f v _ _ ran
  | .tensorDestroy f v, ran => execTensorDestroy_keeps f v _ _ ran
  | .tensorCreationComplete f, ran => execTensorCreationComplete_keeps f _ _ ran
  | .contextCreate f v, ran => execContextCreate_keeps f v _ _ ran
  | .contextDestroy f v, ran => execContextDestroy_keeps f v _ _ ran
  | .contextCheckComplete f, ran => execContextCheckComplete_keeps f _ _ ran
  | .doorbell f v, ran => execDoorbell_keeps f v _ _ ran
  | .fetch f, ran => execFetch_keeps f _ _ ran
  | .glintChange f pool gf slot, ran => execGlintChange_keeps f pool gf slot _ _ ran
  | .glintSignalArrival f slot epoch failed, ran => execGlintSignalArrival_keeps f slot epoch failed _ _ ran
  | .rearmRequest f slot epoch t, ran => execRearmRequest_keeps f slot epoch t _ _ ran
  | .garmAnswer t applied, ran => execGarmAnswer_keeps t applied _ _ ran
  | .dispatch c eng, ran => execDispatch_keeps c eng _ _ ran
  | .killComplete t, ran => execKillComplete_keeps t _ _ ran
  | .killedWritesAcked t, ran => execKilledWritesAcked_keeps t _ _ ran
  | .routePoolDispatch f, ran => execRoutePoolDispatch_keeps f _ _ ran
  | .headerArrival t, ran => execHeaderArrival_keeps t _ _ ran
  | .routeHandoff t, ran => execRouteHandoff_keeps t _ _ ran
  | .unitDone t rep killSameAc, ran => execUnitDone_keeps t rep killSameAc _ _ ran
  | .descriptorRelease t slot, ran => execDescriptorRelease_keeps t slot _ _ ran
  | .writeAck iss, ran => execWriteAck_keeps iss _ _ ran
  | .nop t, ran => execNop_keeps t _ _ ran
  | .garm t, ran => execGarm_keeps t _ _ ran
  | .tcreate t, ran => execTcreate_keeps t _ _ ran
  | .tdestroy t, ran => execTdestroy_keeps t _ _ ran
  | .matmul t, ran => execMatmul_keeps t _ _ ran
  | .matmulG t, ran => execMatmulG_keeps t _ _ ran
  | .matmulB t, ran => execMatmulB_keeps t _ _ ran
  | .vop t, ran => execVop_keeps t _ _ ran
  | .copy t, ran => execCopy_keeps t _ _ ran
  | .aadd t, ran => execAadd_keeps t _ _ ran
  | .aminmax t, ran => execAminmax_keeps t _ _ ran
  | .aswap t, ran => execAswap_keeps t _ _ ran
  | .acas t, ran => execAcas_keeps t _ _ ran
  | .swapSelect f, ran => execSwapSelect_keeps f _ _ ran
  | .swapOutDone f, ran => execSwapOutDone_keeps f _ _ ran
  | .swapInDone f, ran => execSwapInDone_keeps f _ _ ran
  | .pin f x, ran => execPin_keeps f x _ _ ran
  | .unpin f x, ran => execUnpin_keeps f x _ _ ran
  | .evict f x, ran => execEvict_keeps f x _ _ ran
  | .admission f x, ran => execAdmission_keeps f x _ _ ran
  | .tearDown f x, ran => execTearDown_keeps f x _ _ ran
  | .teardownComplete x, ran => execTeardownComplete_keeps x _ _ ran
  | .exportDone f slot epoch, ran => execExportDone_keeps f slot epoch _ _ ran
  | .exportFailed f slot epoch, ran => execExportFailed_keeps f slot epoch _ _ ran
  | .exportRearm f slot epoch, ran => execExportRearm_keeps f slot epoch _ _ ran
  | .peerControlWrite dev off v, ran => execPeerControlWrite_keeps dev off v _ _ ran
  | .homeWrite iss addr data mask poison, ran => execHomeWrite_keeps iss addr data mask poison _ _ ran
  | .homeRead iss addr len, ran => execHomeRead_keeps iss addr len _ _ ran
  | .readResponse iss, ran => execReadResponse_keeps iss _ _ ran
  | .memoryAdd iss addr etype data poison, ran => execMemoryAdd_keeps iss addr etype data poison _ _ ran
  | .wcbFlush home base, ran => execWcbFlush_keeps home base _ _ ran
  | .streamRecordOpen stream, ran => execStreamRecordOpen_keeps stream _ _ ran
  | .streamRecordClose stream, ran => execStreamRecordClose_keeps stream _ _ ran
  | .forwardedRequest m, ran => execForwardedRequest_keeps m _ _ ran
  | .kvFormatWrite v, ran => execKvFormatWrite_keeps v _ _ ran
  | .poolConfigWrite f list v, ran => execPoolConfigWrite_keeps f list v _ _ ran
  | .kappend t, ran => execKappend_keeps t _ _ ran
  | .kadvance t, ran => execKadvance_keeps t _ _ ran
  | .kfree t, ran => execKfree_keeps t _ _ ran
  | .kread t, ran => execKread_keeps t _ _ ran
  | .kbucket t, ran => execKbucket_keeps t _ _ ran
  | .kmigrate t, ran => execKmigrate_keeps t _ _ ran
  | .kexpand t, ran => execKexpand_keeps t _ _ ran
  | .kvEngineYield f migration, ran => execKvEngineYield_keeps f migration _ _ ran
  | .advance stream c, ran => execAdvance_keeps stream c _ _ ran
  | .lengthQuery t, ran => execLengthQuery_keeps t _ _ ran
  | .lengthAnswer t, ran => execLengthAnswer_keeps t _ _ ran
  | .lengthHoldExpiry t, ran => execLengthHoldExpiry_keeps t _ _ ran
  | .astep t, ran => execAstep_keeps t _ _ ran
  | .alatent t, ran => execAlatent_keeps t _ _ ran
  | .adense t, ran => execAdense_keeps t _ _ ran
  | .lscan t, ran => execLscan_keeps t _ _ ran
  | .lsum t, ran => execLsum_keeps t _ _ ran
  | .aring t, ran => execAring_keeps t _ _ ran
  | .ringCredit t half, ran => execRingCredit_keeps t half _ _ ran
  | .ringReady t, ran => execRingReady_keeps t _ _ ran
  | .streamOpen stream, ran => execStreamOpen_keeps stream _ _ ran
  | .streamClose stream, ran => execStreamClose_keeps stream _ _ ran
  | .cancel stream, ran => execCancel_keeps stream _ _ ran
  | .pause stream, ran => execPause_keeps stream _ _ ran
  | .resume stream, ran => execResume_keeps stream _ _ ran
  | .expire stream, ran => execExpire_keeps stream _ _ ran
  | .abort stream, ran => execAbort_keeps stream _ _ ran
  | .finish stream, ran => execFinish_keeps stream _ _ ran
  | .constrain stream, ran => execConstrain_keeps stream _ _ ran
  | .fail stream, ran => execFail_keeps stream _ _ ran
  | .sbegin t, ran => execSbegin_keeps t _ _ ran
  | .semit t, ran => execSemit_keeps t _ _ ran
  | .sverify t, ran => execSverify_keeps t _ _ ran
  | .smask t, ran => execSmask_keeps t _ _ ran
  | .report r, ran => execReport_keeps r _ _ ran
  | .outputRecordAck f, ran => execOutputRecordAck_keeps f _ _ ran
  | .debit cust amount, ran => execDebit_keeps cust amount _ _ ran
  | .throttle f cust, ran => execThrottle_keeps f cust _ _ ran
  | .unthrottle f cust, ran => execUnthrottle_keeps f cust _ _ ran
  | .credit cust amount, ran => execCredit_keeps cust amount _ _ ran
  | .customerConfigWrite cust v, ran => execCustomerConfigWrite_keeps cust v _ _ ran
  | .partitionStateWrite p v, ran => execPartitionStateWrite_keeps p v _ _ ran
  | .outputRingConfig f v, ran => execOutputRingConfig_keeps f v _ _ ran
  | .rangeCreate h both, ran => execRangeCreate_keeps h both _ _ ran
  | .rangeDestroy h, ran => execRangeDestroy_keeps h _ _ ran
  | .rangeUpdateComplete, ran => execRangeUpdateComplete_keeps _ _ ran
  | .creditRefill home p, ran => execCreditRefill_keeps home p _ _ ran
  | .regulatorConfigWrite v, ran => execRegulatorConfigWrite_keeps v _ _ ran
  | .heathRefreshDue dev, ran => execHeathRefreshDue_keeps dev _ _ ran
  | .poisonReport r, ran => execPoisonReport_keeps r _ _ ran
  | .repairSourceAnswer slot clean data, ran => execRepairSourceAnswer_keeps slot clean data _ _ ran
  | .repairSourceTimeout slot, ran => execRepairSourceTimeout_keeps slot _ _ ran
  | .reload slot, ran => execReload_keeps slot _ _ ran
  | .repairVerify slot, ran => execRepairVerify_keeps slot _ _ ran
  | .repairStallTimeout iss, ran => execRepairStallTimeout_keeps iss _ _ ran
  | .repairBoundExpiry slot, ran => execRepairBoundExpiry_keeps slot _ _ ran
  | .holdRelease slot, ran => execHoldRelease_keeps slot _ _ ran
  | .holdAbandon slot, ran => execHoldAbandon_keeps slot _ _ ran
  | .remapCopyDone slot, ran => execRemapCopyDone_keeps slot _ _ ran
  | .repairMapWrite v, ran => execRepairMapWrite_keeps v _ _ ran
  | .heathScrubTick dev, ran => execHeathScrubTick_keeps dev _ _ ran
  | .meadowScrubTick c, ran => execMeadowScrubTick_keeps c _ _ ran
  | .injectionArm v, ran => execInjectionArm_keeps v _ _ ran
  | .logFullWrite v, ran => execLogFullWrite_keeps v _ _ ran
  | .traceStart, ran => execTraceStart_keeps _ _ ran
  | .traceStop, ran => execTraceStop_keeps _ _ ran
  | .traceConfigWrite v, ran => execTraceConfigWrite_keeps v _ _ ran
  | .traceEvent e, ran => execTraceEvent_keeps e _ _ ran
  | .idleExit l, ran => execIdleExit_keeps l _ _ ran
  | .retrain l, ran => execRetrain_keeps l _ _ ran
  | .trainingStepDone l, ran => execTrainingStepDone_keeps l _ _ ran
  | .trainingTimeout l, ran => execTrainingTimeout_keeps l _ _ ran
  | .retrainTimer l, ran => execRetrainTimer_keeps l _ _ ran
  | .uncorrectableFlit l seq, ran => execUncorrectableFlit_keeps l seq _ _ ran
  | .nak l seq, ran => execNak_keeps l seq _ _ ran
  | .linkRxTimeout l, ran => execLinkRxTimeout_keeps l _ _ ran
  | .ident l dev index mirror digest, ran => execIdent_keeps l dev index mirror digest _ _ ran
  | .remoteRequest l r, ran => execRemoteRequest_keeps l r _ _ ran
  | .remoteResponse l t a, ran => execRemoteResponse_keeps l t a _ _ ran
  | .heartbeatSend, ran => execHeartbeatSend_keeps _ _ ran
  | .heartbeat port, ran => execHeartbeat_keeps port _ _ ran
  | .heartbeatMiss port, ran => execHeartbeatMiss_keeps port _ _ ran
  | .gp3Toggle, ran => execGp3Toggle_keeps _ _ ran
  | .hbInToggle, ran => execHbInToggle_keeps _ _ ran
  | .hbInMiss, ran => execHbInMiss_keeps _ _ ran
  | .mirrorMessage port m, ran => execMirrorMessage_keeps port m _ _ ran
  | .mirrorAck stream, ran => execMirrorAck_keeps stream _ _ ran
  | .form, ran => execForm_keeps _ _ ran
  | .breakPair, ran => execBreakPair_keeps _ _ ran
  | .confirm, ran => execConfirm_keeps _ _ ran
  | .catchUpStreamDone, ran => execCatchUpStreamDone_keeps _ _ ran
  | .sourceLevelChange n, ran => execSourceLevelChange_keeps n _ _ ran
  | .claim t, ran => execClaim_keeps t _ _ ran
  | .complete t n, ran => execComplete_keeps t n _ _ ran
  | .completionSample t, ran => execCompletionSample_keeps t _ _ ran
  | .softwareSourceSet n v, ran => execSoftwareSourceSet_keeps n v _ _ ran
  | .softwareSourceClear n v, ran => execSoftwareSourceClear_keeps n v _ _ ran
  | .machineTimerExpiry h, ran => execMachineTimerExpiry_keeps h _ _ ran
  | .ccWake n, ran => execCcWake_keeps n _ _ ran
  | .receiveProd p prod, ran => execReceiveProd_keeps p prod _ _ ran
  | .transmitProd p prod, ran => execTransmitProd_keeps p prod _ _ ran
  | .frameReceive p frame bad, ran => execFrameReceive_keeps p frame bad _ _ ran
  | .frameTransmit p, ran => execFrameTransmit_keeps p _ _ ran
  | .ethStatRead p, ran => execEthStatRead_keeps p _ _ ran
  | .managementFrame m, ran => execManagementFrame_keeps m _ _ ran
  | .managementIdent, ran => execManagementIdent_keeps _ _ ran
  | .read off, ran => execRead_keeps off _ _ ran
  | .domain d on m, ran => execDomain_keeps d on m _ _ ran
  | .resetCc m, ran => execResetCc_keeps m _ _ ran
  | .resetModule m, ran => execResetModule_keeps m _ _ ran
  | .powerOff m, ran => execPowerOff_keeps m _ _ ran
  | .i3cIdent, ran => execI3cIdent_keeps _ _ ran
  | .i3cRead off, ran => execI3cRead_keeps off _ _ ran
  | .i3cPowerOff, ran => execI3cPowerOff_keeps _ _ ran
  | .domainOn d, ran => execDomainOn_keeps d _ _ ran
  | .domainOff d, ran => execDomainOff_keeps d _ _ ran
  | .domainSwitchDone d, ran => execDomainSwitchDone_keeps d _ _ ran
  | .initialisationDone d trained, ran => execInitialisationDone_keeps d trained _ _ ran
  | .governorSample watts, ran => execGovernorSample_keeps watts _ _ ran
  | .gatingLevelArrival island, ran => execGatingLevelArrival_keeps island _ _ ran
  | .residencyBinRollover, ran => execResidencyBinRollover_keeps _ _ ran
  | .sensorSample n temp, ran => execSensorSample_keeps n temp _ _ ran
  | .powerApplied, ran => execPowerApplied_keeps _ _ ran
  | .undervoltageWarning, ran => execUndervoltageWarning_keeps _ _ ran
  | .undervoltageShutdown, ran => execUndervoltageShutdown_keeps _ _ ran
  | .overvoltageShutdown, ran => execOvervoltageShutdown_keeps _ _ ran
  | .converterFault, ran => execConverterFault_keeps _ _ ran
  | .senseOpen, ran => execSenseOpen_keeps _ _ ran
  | .powerInjectionArm v, ran => execPowerInjectionArm_keeps v _ _ ran
  | .slotIdSample pins, ran => execSlotIdSample_keeps pins _ _ ran
  | .bootRom, ran => execBootRom_keeps _ _ ran
  | .platformFirmwareStart, ran => execPlatformFirmwareStart_keeps _ _ ran
  | .imagesLoaded, ran => execImagesLoaded_keeps _ _ ran
  | .flashErase addr, ran => execFlashErase_keeps addr _ _ ran
  | .flashProgram addr, ran => execFlashProgram_keeps addr _ _ ran
  | .flashOperationDone pass, ran => execFlashOperationDone_keeps pass _ _ ran
  | .svnBlow, ran => execSvnBlow_keeps _ _ ran
  | .measurementExtend reg, ran => execMeasurementExtend_keeps reg _ _ ran
  | .identityCertificate buf, ran => execIdentityCertificate_keeps buf _ _ ran
  | .attestationCertificate buf, ran => execAttestationCertificate_keeps buf _ _ ran
  | .quote buf, ran => execQuote_keeps buf _ _ ran
  | .quoteDone, ran => execQuoteDone_keeps _ _ ran
  | .selfTestRequest kind unit, ran => execSelfTestRequest_keeps kind unit _ _ ran
  | .selfTestEnd kind unit pass remaps, ran => execSelfTestEnd_keeps kind unit pass remaps _ _ ran
  | .extest, ran => execExtest_keeps _ _ ran
  | .idcode, ran => execIdcode_keeps _ _ ran
  | .samplePreload boundary, ran => execSamplePreload_keeps boundary _ _ ran
  | .clear, ran => execClear_keeps _ _ ran
  | .clearComplete, ran => execClearComplete_keeps _ _ ran
  | .intscan, ran => execIntscan_keeps _ _ ran
  | .bypass, ran => execBypass_keeps _ _ ran
  | .ethLinkChange p up, ran => execEthLinkChange_keeps p up _ _ ran
  | .ethFecUncorrectable p, ran => execEthFecUncorrectable_keeps p _ _ ran
  | .dynamicAddressAssignment a, ran => execDynamicAddressAssignment_keeps a _ _ ran
  | .overvoltageEvent, ran => execOvervoltageEvent_keeps _ _ ran
  | .inputLoss, ran => execInputLoss_keeps _ _ ran
  | .forwardedResult m, ran => execForwardedResult_keeps m _ _ ran
  | .costOverrun t, ran => execCostOverrun_keeps t _ _ ran
  | .linkEnableWrite l on, ran => execLinkEnableWrite_keeps l on _ _ ran
  | .linkInjectionArm l v, ran => execLinkInjectionArm_keeps l v _ _ ran

/-- The queue, which a step pops before it runs the command, is no part of the fuses. -/
theorem step_fusesKept {s t : State} (h : step s = .next t) : s.se.FusesKept t.se := by
  unfold step at h
  split at h
  next => exact (Host.Outcome.next.inj h) ▸ (idleTick_keeps s).fusesKept
  next c rest _ => exact (exec_keeps (s := { s with pending := rest }) c h).fusesKept

/-! ## The checker (R341) -/

theorem ed448Verify_of_checkRecord_eq_zero {s : State} {r : List Byte} (h : s.checkRecord r = 0) :
    Config.ed448Verify ((r.drop 8).take 57) (digest (r.take 8064)) ((r.drop 8064).take 114) = true := by
  by_contra unsigned
  have reason : s.checkRecord r = 1 := if_pos (by simpa using unsigned)
  rw [reason] at h
  contradiction

theorem owner_of_checkRecord_eq_zero {s : State} {r : List Byte} (h : s.checkRecord r = 0) :
    s.se.owner = [] ∨ s.se.owner = digest ((r.drop 8).take 57) := by
  by_contra other
  have signed := ed448Verify_of_checkRecord_eq_zero h
  have reason : s.checkRecord r = 2 := (if_neg (by simp [signed])).trans (if_pos (not_or.mp other))
  rw [reason] at h
  contradiction

/-! ## The first accepted record (R342) -/

theorem digest_length (m : List Byte) : (digest m).length = 64 := by
  simp only [digest, fitBytes, List.length_map, List.length_range]

theorem digest_ne_nil (m : List Byte) : digest m ≠ [] :=
  List.ne_nil_of_length_pos (by simp only [digest_length, Nat.zero_lt_succ])

theorem State.takeRecord_owner_of_blank {s : State} (r : List Byte) (blank : s.se.owner = []) :
    (s.takeRecord r).se.owner = digest ((r.drop 8).take 57) :=
  if_pos (decide_eq_true blank)

/-- What the record brings beside itself goes, in turn, to the device number, the mirror, the integrity unit with its log,
the management address, the ports, the clusters and their readiness, and the GP3 pin. -/
theorem State.applyRecord_keeps_taken (s : State) (r : List Byte) : Keeps (s.takeRecord r) (s.applyRecord r) := by
  unfold State.applyRecord
  refine Keeps.trans ?clusters (State.showGp3_keeps ..)
  refine Keeps.trans ?ports (((State.fuseClusters_keeps _).trans (State.setBit_keeps ..)).trans (State.setBit_keeps ..))
  refine Keeps.fold _ _ (Keeps.trans ?log (State.setFld_keeps ..)) (fun _ _ => State.setReg_keeps ..)
  refine Keeps.trans ?mirror ((State.setBit_keeps ..).trans (State.logCfgWrite_keeps ..))
  refine Keeps.trans ?device (State.setReg_keeps ..)
  exact Keeps.ite ((State.setFld_keeps ..).trans (State.setBit_keeps ..)) (Keeps.refl _)

theorem State.firmwareGo_keeps_taken (s : State) (r : List Byte) : Keeps (s.takeRecord r) (s.firmwareGo r) := by
  unfold State.firmwareGo
  with_reducible refine Keeps.trans ?_ (State.promote_keeps ..)
  exact ((State.applyRecord_keeps_taken s r).trans (State.setStage_keeps ..)).trans (State.putStq_keeps ..)

/-- Once programmed by the record, the fuse outlives the rest of the start-up, since that keeps a programmed fuse. -/
theorem State.firmwareGo_owner_of_blank {s : State} (r : List Byte) (blank : s.se.owner = []) :
    (s.firmwareGo r).se.owner = digest ((r.drop 8).take 57) := by
  have programmed := State.takeRecord_owner_of_blank r blank
  obtain ⟨_, _, stays⟩ := (State.firmwareGo_keeps_taken s r).fusesKept
  rw [stays (programmed ▸ digest_ne_nil _), programmed]

theorem State.firmwareRun_of_accepted {s : State} {r : List Byte} (h : s.checkRecord r = 0) :
    s.firmwareRun r = (s.setFld .pltBootStat 0 16 14 0).firmwareGo r :=
  if_neg (not_not.mpr h)

theorem State.firmware_of_flash_read {s t : State} (stage : s.stage = 1) (read : s.flashFails = (t, false)) :
    s.firmware = t.firmwareRun t.recordBytes := by
  rw [State.firmware, if_neg (not_not.mpr stage), read]

theorem State.loaded_of_stage_ne_two {s : State} (h : s.stage ≠ 2) : s.loaded = s :=
  if_pos (Or.inl h)

/-- Settles O55: each command keeps a programmed fuse, and the first accepted record programs a blank one. -/
theorem fusesStay : Obligations.FusesStay := by
  refine ⟨rfl, fun s r accepted => ?checker, fun s t stage read accepted blank => ?programs, fun s stage => ?images,
    fun s t h => step_fusesKept h⟩
  case checker => exact ⟨ed448Verify_of_checkRecord_eq_zero accepted, owner_of_checkRecord_eq_zero accepted⟩
  case programs =>
    have shown : (t.setFld .pltBootStat 0 16 14 0).se.owner = [] := by rw [State.setFld_se, blank]
    have owner : s.firmware.se.owner = digest ((t.recordBytes.drop 8).take 57) := by
      rw [State.firmware_of_flash_read stage read, State.firmwareRun_of_accepted accepted,
        State.firmwareGo_owner_of_blank _ shown]
    exact ⟨s.firmware, rfl, owner, owner ▸ digest_length _⟩
  case images => exact congrArg _ (State.loaded_of_stage_ne_two stage)

end Sys2Proof.Machine
end

section
/-! Commands and steps: equal outcomes, and what every step keeps of the queue and of the stored memory (R18, R271). -/
namespace Sys2Proof.Machine

/-- Commands that leave the same state have the same outcome. -/
theorem next_congr {s t : State} (h : s = t) : (.next s : Host.Outcome State Fault Refusal) = .next t := congrArg _ h

/-- A step takes the front command off the queue, and then keeps what every command keeps. -/
theorem step_keeps {s t : State} (h : step s = .next t) : Keeps { s with pending := s.pending.tail } t := by
  unfold step at h
  split at h
  next empty =>
    have unqueued : { s with pending := s.pending.tail } = s := by rw [empty, List.tail_nil, ← empty]
    rw [unqueued, ← Host.Outcome.next.inj h]
    exact idleTick_keeps s
  next c rest queue =>
    rw [queue, List.tail_cons]
    exact exec_keeps c h

/-- Settles O54: no command puts a command into the queue or takes one out, and each keeps memory canonical. -/
theorem stepKeepsQueueAndMemory : Obligations.StepKeepsQueueAndMemory := by
  intro s t canonical h
  obtain ⟨queue, memory, _⟩ := step_keeps h
  exact ⟨memory canonical, queue⟩

end Sys2Proof.Machine
end

section
/-! The vector engines: what one chain step leaves, lane by lane (R104–R111, R116). -/
namespace Sys2Proof.Machine
open Claims

/-! ## Steps that are no prism operation -/

/-- One lane of such a step, and the saturations in it: `Engine.plainStep` runs it on every lane of the strip. -/
def Engine.plainLane (v : Engine) (op : Nat) (w : BitVec 24) (i : Nat) : Lane × Nat :=
  let mov := decide (op = 0x0D)
  let (ra, rb, rc) := opReads op
  let bad := (ra && (srcA v w mov i).p) || (rb && (srcB v w i).p) || (rc && (srcC v w i).p)
  if v.packed then
    (⟨v.packOp op (Half.of v.halfType (scalA w mov) (srcA v w mov i).v) (Half.of v.halfType (scalB w) (srcB v w i).v)
      (Half.of v.halfType (scalC w) (srcC v w i).v), bad⟩, 0)
  else
    let (x, n) := v.laneOp op i (srcA v w mov i).v (srcB v w i).v (srcC v w i).v
    (⟨x, bad⟩, n)

theorem Engine.plainStep_eq_plainLane (v : Engine) (op : Nat) (w : BitVec 24) :
    v.plainStep op w.toNat =
      { v.setReg (bits w.toNat 23 20) (((List.range v.count).map (v.plainLane op w)).map (·.1)) with
        sat := v.sat + ((List.range v.count).map (v.plainLane op w)).foldl (fun n r => n + r.2) 0 } := by
  have source : ∀ i, srcA v w (decide (op = 0x0D)) i =
      if decide (op = 0x0D ∧ bits w.toNat 7 6 = 1) then ⟨v.scalar (bits w.toNat 5 0), false⟩ else v.lane (bits w.toNat 19 16) i := by
    simp [srcA]
  have named : scalA w (decide (op = 0x0D)) = decide (op = 0x0D ∧ bits w.toNat 7 6 = 1) := by simp [scalA]
  unfold Engine.plainLane
  simp only [source, named]
  rfl

section
variable {v : Engine} {op n : Nat} {w : BitVec 24}
  (reads : opReads op = (decide (1 ≤ n), decide (2 ≤ n), decide (3 ≤ n)))
include reads

/-- Outside packed mode a step writes `f` of each lane's number and operands, and counts the lanes that saturate. -/
theorem Engine.plainStep_of_not_packed (unpacked : v.packed = false)
    {f : Nat → BitVec 32 → BitVec 32 → BitVec 32 → BitVec 32 × Bool}
    (lane : ∀ i x y z, v.laneOp op i x y z = ((f i x y z).1, b2n (f i x y z).2)) :
    v.plainStep op w.toNat = { lanesOut v w (decide (op = 0x0D)) n (fun i x y z => (f i x y z).1) with
      sat := v.sat + (List.range v.vl).countP
        (fun i => (f i (srcA v w (decide (op = 0x0D)) i).v (srcB v w i).v (srcC v w i).v).2) } := by
  have count : v.count = v.vl := by simp only [Engine.count, unpacked, Bool.false_eq_true, if_false]
  have one : v.plainLane op w = fun i => (⟨(f i (srcA v w (decide (op = 0x0D)) i).v (srcB v w i).v (srcC v w i).v).1,
      badOf v w (decide (op = 0x0D)) n i⟩, b2n (f i (srcA v w (decide (op = 0x0D)) i).v (srcB v w i).v (srcC v w i).v).2) := by
    funext i
    simp only [Engine.plainLane, reads, unpacked, Bool.false_eq_true, if_false, lane, badOf]
  rw [Engine.plainStep_eq_plainLane, count, one, foldl_count _ _ _ (fun _ => rfl), Nat.zero_add, List.map_map]
  rfl

/-- In packed mode a step writes both halves of every lane that holds elements, and saturates nowhere. -/
theorem Engine.plainStep_of_packed (packed : v.packed = true) :
    v.plainStep op w.toNat = packOut v w (decide (op = 0x0D)) n (fun i j => halfOp v.halfType op
      (Half.of v.halfType (scalA w (decide (op = 0x0D))) (srcA v w (decide (op = 0x0D)) i).v j)
      (Half.of v.halfType (scalB w) (srcB v w i).v j) (Half.of v.halfType (scalC w) (srcC v w i).v j)) := by
  have count : v.count = (v.vl + 1) / 2 := by simp only [Engine.count, packed, if_true]
  have unsaturated : ∀ i, (v.plainLane op w i).2 = 0 := by
    intro i
    simp only [Engine.plainLane, packed, if_true]
  have one : ∀ i, (v.plainLane op w i).1 = ⟨v.packOp op
      (Half.of v.halfType (scalA w (decide (op = 0x0D))) (srcA v w (decide (op = 0x0D)) i).v)
      (Half.of v.halfType (scalB w) (srcB v w i).v) (Half.of v.halfType (scalC w) (srcC v w i).v),
      badOf v w (decide (op = 0x0D)) n i⟩ := by
    intro i
    simp only [Engine.plainLane, reads, packed, if_true, badOf]
  rw [Engine.plainStep_eq_plainLane, count, foldl0 _ _ unsaturated, List.map_map]
  exact congrArg (v.setReg _) (List.map_congr_left fun i _ => one i)

end

/-- The FP32 value that a packed step computes with. -/
theorem Half.of_v (v : Engine) (scalar : Bool) (x : BitVec 32) (j : Nat) :
    (Half.of v.halfType scalar x j).v = halfVal v scalar x j := by
  cases scalar <;> rfl

/-- The code that a packed step passes on. -/
theorem Half.of_result (v : Engine) (scalar : Bool) (x : BitVec 32) (j : Nat) :
    (Half.of v.halfType scalar x j).result v.halfType = halfCode v scalar x j := by
  cases scalar <;> rfl

/-! ## Arithmetic (R105, R106) -/

/-- Opcode `op` gives the exact result `g` of its first `n` operands, rounded once. -/
structure IsArith (op n : Nat) (g : FV → FV → FV → FV) : Prop where
  plain : op < 0x30
  notMov : op ≠ 0x0D
  reads : opReads op = (decide (1 ≤ n), decide (2 ≤ n), decide (3 ≤ n))
  lane : ∀ (v : Engine) (i : Nat) (x y z : BitVec 32), v.laneOp op i x y z = (round32 (g (f32 x) (f32 y) (f32 z)), 0)
  half : ∀ (t : EType) (x y z : Half), halfOp t op x y z = (convert t .rne (g x.v y.v z.v)).1

theorem IsArith.plainStep {op n : Nat} {g : FV → FV → FV → FV} (h : IsArith op n g) (v : Engine) (w : BitVec 24) :
    v.plainStep op w.toNat = arith v w n g := by
  have notMov : decide (op = 0x0D) = false := decide_eq_false h.notMov
  cases packed : v.packed with
  | false =>
    rw [Engine.plainStep_of_not_packed (f := fun _ x y z => (round32 (g (f32 x) (f32 y) (f32 z)), false)) h.reads packed (h.lane v),
      notMov]
    simp only [arith, packed, Bool.false_eq_true, if_false, List.countP_false]
    rfl
  | true =>
    rw [Engine.plainStep_of_packed h.reads packed, notMov]
    simp only [arith, packed, if_true, h.half, Half.of_v]
    rfl

theorem IsArith.vecOp {op n : Nat} {g : FV → FV → FV → FV} (h : IsArith op n g) (c : Cl) (e : Fin 2) (w : BitVec 24) (s : State) :
    s.vecOp c.val e.val op w = s.setEngine (2 * c.val + e.val) (arith (s.engine (2 * c.val + e.val)) w n g) := by
  refine vecOp_plain _ _ _ _ _ _ (Nat.not_le.mpr h.plain) (h.plainStep _ w) ?_
  unfold arith
  split <;> rfl

theorem isArith_of_fvOp {op n : Nat} {g : FV → FV → FV → FV} (range : 1 ≤ op ∧ op ≤ 0x0B)
    (reads : opReads op = (decide (1 ≤ n), decide (2 ≤ n), decide (3 ≤ n))) (value : fvOp op = g) :
    IsArith op n g := by
  subst value
  obtain ⟨low, high⟩ := range
  refine ⟨by omega, by omega, reads, ?lane, ?half⟩
  all_goals interval_cases op <;> intros <;> rfl

/-! ## SEL and MOV -/

theorem selects_eq_true_iff (z : FV) : selects z = true ↔ ¬ z.eq (.fin false 0 1 0) = true := by
  simp only [selects, Bool.not_eq_true', Bool.not_eq_true]

theorem Engine.plainStep_sel (v : Engine) (w : BitVec 24) : v.plainStep 0x0C w.toNat = selected v w := by
  have reads : opReads 0x0C = (decide (1 ≤ 3), decide (2 ≤ 3), decide (3 ≤ 3)) := rfl
  cases packed : v.packed with
  | false =>
    have lane (i : Nat) (x y z : BitVec 32) :
        v.laneOp 0x0C i x y z = (if (f32 z).eq (.fin false 0 1 0) then y else x, 0) := by
      have codes : v.laneOp 0x0C i x y z = (BitVec.ofNat 32 (if selects (f32 z) then x.toNat else y.toNat), 0) := rfl
      rw [codes]
      simp only [selects_eq_true_iff, ite_not, apply_ite (BitVec.ofNat 32), BitVec.ofNat_toNat, BitVec.setWidth_eq]
    rw [Engine.plainStep_of_not_packed (f := fun _ x y z => (if (f32 z).eq (.fin false 0 1 0) then y else x, false)) reads packed lane]
    simp only [selected, packed, Bool.false_eq_true, if_false, List.countP_false]
    rfl
  | true =>
    have half (x y z : Half) : halfOp v.halfType 0x0C x y z =
        if z.v.eq (.fin false 0 1 0) then y.result v.halfType else x.result v.halfType := by
      have codes : halfOp v.halfType 0x0C x y z = (if selects z.v then x else y).result v.halfType := rfl
      rw [codes]
      simp only [selects_eq_true_iff, ite_not, apply_ite (Half.result v.halfType)]
    rw [Engine.plainStep_of_packed reads packed]
    simp only [selected, packed, if_true, half, Half.of_v, Half.of_result]
    rfl

theorem Engine.plainStep_mov (v : Engine) (w : BitVec 24) : v.plainStep 0x0D w.toNat = moved v w := by
  have reads : opReads 0x0D = (decide (1 ≤ 1), decide (2 ≤ 1), decide (3 ≤ 1)) := rfl
  cases packed : v.packed with
  | false =>
    have lane (i : Nat) (x y z : BitVec 32) : v.laneOp 0x0D i x y z = (x, 0) := congrArg (·, 0) (BitVec.ofNat_toNat ..)
    rw [Engine.plainStep_of_not_packed (f := fun _ x _ _ => (x, false)) reads packed lane]
    simp only [moved, packed, Bool.false_eq_true, if_false, List.countP_false]
    rfl
  | true =>
    have half (x y z : Half) : halfOp v.halfType 0x0D x y z = x.result v.halfType := rfl
    rw [Engine.plainStep_of_packed reads packed]
    simp only [moved, packed, if_true, half, Half.of_result]
    rfl

theorem selected_prange (v : Engine) (w : BitVec 24) : (selected v w).prange = v.prange := by
  unfold selected
  split <;> rfl

theorem moved_prange (v : Engine) (w : BitVec 24) : (moved v w).prange = v.prange := by
  unfold moved
  split <;> rfl

/-- Settles O1: each operation but SEL and MOV is arithmetic, and those two pass codes on. -/
theorem vectorArithmetic : Obligations.VectorArithmetic := by
  intro c e w s
  have arithmetic {op n : Nat} {g : FV → FV → FV → FV} (range : 1 ≤ op ∧ op ≤ 0x0B)
      (reads : opReads op = (decide (1 ≤ n), decide (2 ≤ n), decide (3 ≤ n))) (value : fvOp op = g) :
      Host.Outcome.next (s.vecOp c.val e.val op w) =
        .next (s.setEngine (2 * c.val + e.val) (arith (s.engine (2 * c.val + e.val)) w n g)) :=
    next_congr ((isArith_of_fvOp range reads value).vecOp c e w s)
  refine ⟨arithmetic (by decide) rfl rfl, arithmetic (by decide) rfl rfl, arithmetic (by decide) rfl rfl,
    arithmetic (by decide) rfl rfl, arithmetic (by decide) rfl rfl, arithmetic (by decide) rfl rfl,
    arithmetic (by decide) rfl rfl, arithmetic (by decide) rfl rfl, arithmetic (by decide) rfl rfl,
    arithmetic (by decide) rfl rfl, arithmetic (by decide) rfl rfl, next_congr ?sel, next_congr ?mov⟩
  case sel => exact vecOp_plain _ _ _ _ _ _ (by decide) (Engine.plainStep_sel _ w) (selected_prange _ w)
  case mov => exact vecOp_plain _ _ _ _ _ _ (by decide) (Engine.plainStep_mov _ w) (moved_prange _ w)

/-! ## Functions and integer operations (R107, R108, R111) -/

section
variable {cmd : Cl → Fin 2 → BitVec 24 → Instr} {op n : Nat}
  (runs : ∀ c e w s, exec (cmd c e w) s = .next (s.vecOp c.val e.val op w))
  (range : 0x10 ≤ op ∧ op < 0x30)
  (reads : opReads op = (decide (1 ≤ n), decide (2 ≤ n), decide (3 ≤ n)))
include runs range reads

theorem saturates_of_laneOp {f : Engine → Nat → BitVec 32 → BitVec 32 → BitVec 32 × Bool}
    (lane : ∀ v i x y z, Engine.laneOp v op i x y z = ((f v i x y).1, b2n (f v i x y).2)) : saturates cmd n f := by
  intro c e w s k v unpacked
  have notMov : decide (op = 0x0D) = false := decide_eq_false (by omega)
  rw [runs, vecOp_plain _ _ _ _ _ _ (Nat.not_le.mpr range.2)
    (Engine.plainStep_of_not_packed (f := fun i x y _ => f v i x y) reads unpacked (lane v)) rfl, notMov]

theorem writes_of_laneOp {f : Engine → Nat → BitVec 32 → BitVec 32 → BitVec 32 → BitVec 32}
    (lane : ∀ v i x y z, Engine.laneOp v op i x y z = (f v i x y z, 0)) : writes cmd n f := by
  intro c e w s k unpacked
  have notMov : decide (op = 0x0D) = false := decide_eq_false (by omega)
  rw [runs, vecOp_plain _ _ _ _ _ _ (Nat.not_le.mpr range.2)
    (Engine.plainStep_of_not_packed (f := fun i x y z => (f (s.engine k) i x y z, false)) reads unpacked (lane (s.engine k))) rfl,
    notMov, List.countP_false]
  rfl

end

/-- A code within the INT32 range is the code of the number that it stands for. -/
theorem intOp_min (x y : BitVec 32) : intOp 0x22 x y = (if x.toInt ≤ y.toInt then x else y, false) := by
  have inRange := (minmax_in x y).1
  have value : intOp 0x22 x y = (BitVec.ofInt 32 (satInt 32 (min x.toInt y.toInt)).1, (satInt 32 (min x.toInt y.toInt)).2) := rfl
  rw [value, inRange, min_def]
  simp only [apply_ite (BitVec.ofInt 32), BitVec.ofInt_toInt]

theorem intOp_max (x y : BitVec 32) : intOp 0x23 x y = (if x.toInt ≤ y.toInt then y else x, false) := by
  have inRange := (minmax_in x y).2
  have value : intOp 0x23 x y = (BitVec.ofInt 32 (satInt 32 (max x.toInt y.toInt)).1, (satInt 32 (max x.toInt y.toInt)).2) := rfl
  rw [value, inRange, max_def]
  simp only [apply_ite (BitVec.ofInt 32), BitVec.ofInt_toInt]

/-- Settles O3: what each operation leaves in a lane is its arm of `Engine.laneOp`. -/
theorem vectorIntegers : Obligations.VectorIntegers := by
  refine ⟨?iadd, ?imul, ?imin, ?imax, ?cvti, ?cvtf, ?iota, ?rand⟩
  case iadd => exact saturates_of_laneOp (op := 0x20) (fun _ _ _ _ => rfl) (by decide) rfl (fun _ _ _ _ _ => rfl)
  case imul => exact saturates_of_laneOp (op := 0x21) (fun _ _ _ _ => rfl) (by decide) rfl (fun _ _ _ _ _ => rfl)
  case imin =>
    refine writes_of_laneOp (op := 0x22) (fun _ _ _ _ => rfl) (by decide) rfl (fun v i x y z => ?_)
    exact congrArg (fun r => (r.1, b2n r.2)) (intOp_min x y)
  case imax =>
    refine writes_of_laneOp (op := 0x23) (fun _ _ _ _ => rfl) (by decide) rfl (fun v i x y z => ?_)
    exact congrArg (fun r => (r.1, b2n r.2)) (intOp_max x y)
  case cvti => exact saturates_of_laneOp (op := 0x24) (fun _ _ _ _ => rfl) (by decide) rfl (fun _ _ _ _ _ => rfl)
  case cvtf => exact writes_of_laneOp (op := 0x25) (fun _ _ _ _ => rfl) (by decide) rfl (fun _ _ _ _ _ => rfl)
  case iota => exact writes_of_laneOp (op := 0x26) (fun _ _ _ _ => rfl) (by decide) rfl (fun _ _ _ _ _ => rfl)
  case rand => exact writes_of_laneOp (op := 0x27) (fun _ _ _ _ => rfl) (by decide) rfl (fun _ _ _ _ _ => rfl)

end Sys2Proof.Machine
end

section
/-! The prism (R110) and the accuracy of the functions (R107, R108). -/
namespace Sys2Proof.Machine
open Claims

/-- One lane of a prism step, and whether it is out of range: `Engine.prismStep` runs it on every lane of the strip. -/
def Engine.prismOne (v : Engine) (op : Nat) (w : BitVec 24) (i : Nat) : Lane × Nat :=
  let x := v.lane (bits w.toNat 15 12) i
  let ib := decide (op = 0x37) && x.p
  let j := prismLane op (bits w.toNat 11 0) v.count i x.v.toInt
  if 0 ≤ j ∧ j < v.count then
    let l := v.lane (bits w.toNat 19 16) j.toNat
    (⟨l.v, l.p || ib⟩, 0)
  else (⟨0, ib⟩, 1)

theorem Engine.prismStep_eq_prismOne (v : Engine) (op : Nat) (w : BitVec 24) :
    v.prismStep op w.toNat =
      { v.setReg (bits w.toNat 23 20) (((List.range v.count).map (v.prismOne op w)).map (·.1)) with
        prange := v.prange + ((List.range v.count).map (v.prismOne op w)).foldl (fun n r => n + r.2) 0 } := rfl

/-- A prism operation moves whole lanes by its map `j` of lane numbers. -/
theorem moves_of_prismLane {cmd : Cl → Fin 2 → BitVec 24 → Instr} {op : Nat} {idx : Bool} {j : Nat → Nat → Nat → Int → Int}
    (runs : ∀ c e w s, exec (cmd c e w) s = .next (s.vecOp c.val e.val op w)) (prism : 0x30 ≤ op)
    (index : decide (op = 0x37) = idx) (map : ∀ p n i x, prismLane op p n i x = j p n i x) : moves cmd idx j := by
  intro c e w s k v src out lane n
  have one (i : Nat) : v.prismOne op w i = (lane i, b2n (out i)) := by
    have lanes : v.prismOne op w i = if 0 ≤ src i ∧ src i < v.count then
        (⟨(v.lane (bits w.toNat 19 16) (src i).toNat).v,
          (v.lane (bits w.toNat 19 16) (src i).toNat).p || (idx && (v.lane (bits w.toNat 15 12) i).p)⟩, 0)
      else (⟨0, idx && (v.lane (bits w.toNat 15 12) i).p⟩, 1) := by
      simp only [Engine.prismOne, index, map, src]
    by_cases inside : 0 ≤ src i ∧ src i < v.count
    · have inStrip : out i = false := decide_eq_false (by omega)
      simp only [lanes, if_pos inside, lane, inStrip, Bool.false_eq_true, if_false, b2n]
    · have offStrip : out i = true := decide_eq_true (by omega)
      simp only [lanes, if_neg inside, lane, offStrip, if_true, b2n]
  have step : v.step op w.toNat =
      { v.setReg (bits w.toNat 23 20) ((List.range v.count).map lane) with prange := v.prange + n } := by
    rw [Engine.step, if_pos prism, Engine.prismStep_eq_prismOne, funext one, foldl_count _ _ _ (fun _ => rfl), Nat.zero_add, List.map_map]
    rfl
  have moved : s.vecOp c.val e.val op w = (s.setEngine k (v.step op w.toNat)).bump .vecPerfPrange c.val
    ((v.step op w.toNat).prange - v.prange) := rfl
  rw [runs, moved, step, Nat.add_sub_cancel_left]

/-- Settles O4: each operation's map of lane numbers is its arm of `prismLane`. -/
theorem prismOperations : Obligations.PrismOperations := by
  refine ⟨moves_of_prismLane (op := 0x30) (fun _ _ _ _ => rfl) (by decide) rfl (fun _ _ _ _ => rfl), moves_of_prismLane (op := 0x31) (fun _ _ _ _ => rfl) (by decide) rfl (fun _ _ _ _ => rfl),
    moves_of_prismLane (op := 0x32) (fun _ _ _ _ => rfl) (by decide) rfl (fun _ _ _ _ => rfl), moves_of_prismLane (op := 0x33) (fun _ _ _ _ => rfl) (by decide) rfl (fun _ _ _ _ => rfl),
    moves_of_prismLane (op := 0x34) (fun _ _ _ _ => rfl) (by decide) rfl (fun _ _ _ _ => rfl), moves_of_prismLane (op := 0x35) (fun _ _ _ _ => rfl) (by decide) rfl (fun _ _ _ _ => rfl),
    moves_of_prismLane (op := 0x36) (fun _ _ _ _ => rfl) (by decide) rfl (fun _ _ _ _ => rfl), moves_of_prismLane (op := 0x37) (fun _ _ _ _ => rfl) (by decide) rfl (fun _ _ _ _ => rfl)⟩

/-! ## Accuracy -/

theorem accurate_withinUlp (op k : Nat) (a : BitVec 32) (v : FV) : accurate k v (withinUlp op k a v) := by
  unfold withinUlp
  dsimp only
  split
  · next moved => exact .inr moved.2
  · exact .inl rfl

theorem close_withinAbs (op : Nat) (a : BitVec 32) (v : FV) : close v (withinAbs op a v) := by
  unfold withinAbs
  dsimp only
  split
  · exact .inl rfl
  · next near => exact .inr (by simpa using near)

theorem close_trigOp (op q : Nat) {a : BitVec 32} {v : FV} (value : f32 a = v) :
    (v.fix.natAbs ≤ 2 ^ (fxP + 18) → accurate 2 (fxVal (fxSin v.fix q)) (trigOp op q a)) ∧
      (2 ^ (fxP + 18) < v.fix.natAbs → close (fxVal (fxSin v.fix q)) (trigOp op q a)) := by
  unfold trigOp
  rw [value]
  refine ⟨fun near => ?_, fun far => ?_⟩
  · rw [if_pos near]
    exact accurate_withinUlp ..
  · rw [if_neg (Nat.not_le.mpr far)]
    exact close_withinAbs ..

/-! The function of a finite operand, by opcode. -/

section
variable {a : BitVec 32} {g : Bool} {n d : Nat} {e : Int} (value : f32 a = .fin g n d e)
include value

theorem transc_rcp : transc 0x10 a =
    if n = 0 then toF32 (.inf g) else withinUlp 0x10 1 a (one.div (.fin g n d e)) := by
  simp only [transc, value, one]

theorem transc_sqrt : transc 0x12 a = fsqrt a := by
  simp only [transc, value]

theorem transc_rsqrt : transc 0x13 a =
    if n = 0 then toF32 (.inf g) else if g then nan32 else withinUlp 0x13 1 a (one.div (FV.fin g n d e).sqrt) := by
  simp only [transc, value, one]

theorem transc_exp : transc 0x14 a = withinUlp 0x14 2 a (expVal (FV.fin g n d e).fix) := by
  simp only [transc, value]

theorem transc_exp2 : transc 0x15 a =
    let w := roundInt ⟨.rtz, 0⟩ g n d e
    if (FV.ofInt w).eq (.fin g n d e) ∧ -126 ≤ w ∧ w ≤ 127 then toF32 (.fin false 1 1 w)
    else if a = 0xBF000000#32 then 0x3F3504F3#32
    else withinUlp 0x15 1 a (expVal (fxMul (FV.fin g n d e).fix fxLn2)) := by
  simp only [transc, value]

theorem transc_log : transc 0x16 a =
    if n = 0 then (if g then BitVec.ofNat 32 (Config.vecUlp 0x16 a) else 0xFF800000#32)
    else if g then nan32 else withinUlp 0x16 2 a (fxVal (fxLog n d e)) := by
  simp only [transc, value]

theorem transc_tanh : transc 0x17 a =
    if n = 0 then toF32 (.fin g n d e)
    else withinUlp 0x17 3 a ((FV.ofInt (fxExp (2 * (FV.fin g n d e).fix) - fxOne)).div
      (FV.ofInt (fxExp (2 * (FV.fin g n d e).fix) + fxOne))) := by
  simp only [transc, value]

theorem transc_sigm : transc 0x18 a = withinUlp 0x18 3 a (sigmoid (FV.fin g n d e).fix) := by
  simp only [transc, value, sigmoid]

theorem transc_silu : transc 0x19 a =
    withinUlp 0x19 4 a ((FV.fin g n d e).mul (sigmoid (FV.fin g n d e).fix)) := by
  simp only [transc, value, sigmoid]

theorem transc_gelut : transc 0x1A a =
    let y := fxClamp (40 * fxOne) (FV.fin g n d e).fix
    withinUlp 0x1A 4 a ((FV.fin g n d e).mul (sigmoid (2 * fxMul fxGelu (y + fxMul (fxMul y y) y * 44715 / 1000000)))) := by
  simp only [transc, value, sigmoid, Int.neg_mul]

theorem transc_trig {q : Nat} (hq : q < 2) : transc (0x1B + q) a = trigOp (0x1B + q) q a := by
  interval_cases q <;> simp only [transc, value]

end

theorem transc_of_inf {a : BitVec 32} {g : Bool} (op : Nat) (value : f32 a = .inf g) : transc op a = transcInf op g := by
  simp only [transc, value]

theorem transc_of_nan {a : BitVec 32} (op : Nat) (value : f32 a = .nan) : transc op a = nan32 := by
  simp only [transc, value]

/-- Settles O2: each function is its arm of `transc`, which rounds the exact value or moves it within the bound. -/
theorem vectorFunctions : Obligations.VectorFunctions := by
  refine ⟨writes_of_laneOp (op := 0x10) (fun _ _ _ _ => rfl) (by decide) (by decide) (fun _ _ _ _ _ => rfl), writes_of_laneOp (op := 0x11) (fun _ _ _ _ => rfl) (by decide) (by decide) (fun _ _ _ _ _ => rfl),
    writes_of_laneOp (op := 0x12) (fun _ _ _ _ => rfl) (by decide) (by decide) (fun _ _ _ _ _ => rfl), writes_of_laneOp (op := 0x13) (fun _ _ _ _ => rfl) (by decide) (by decide) (fun _ _ _ _ _ => rfl),
    writes_of_laneOp (op := 0x14) (fun _ _ _ _ => rfl) (by decide) (by decide) (fun _ _ _ _ _ => rfl), writes_of_laneOp (op := 0x15) (fun _ _ _ _ => rfl) (by decide) (by decide) (fun _ _ _ _ _ => rfl),
    writes_of_laneOp (op := 0x16) (fun _ _ _ _ => rfl) (by decide) (by decide) (fun _ _ _ _ _ => rfl), writes_of_laneOp (op := 0x17) (fun _ _ _ _ => rfl) (by decide) (by decide) (fun _ _ _ _ _ => rfl),
    writes_of_laneOp (op := 0x18) (fun _ _ _ _ => rfl) (by decide) (by decide) (fun _ _ _ _ _ => rfl), writes_of_laneOp (op := 0x19) (fun _ _ _ _ => rfl) (by decide) (by decide) (fun _ _ _ _ _ => rfl),
    writes_of_laneOp (op := 0x1A) (fun _ _ _ _ => rfl) (by decide) (by decide) (fun _ _ _ _ _ => rfl), writes_of_laneOp (op := 0x1B) (fun _ _ _ _ => rfl) (by decide) (by decide) (fun _ _ _ _ _ => rfl),
    writes_of_laneOp (op := 0x1C) (fun _ _ _ _ => rfl) (by decide) (by decide) (fun _ _ _ _ _ => rfl), ?finite, ?infinite, fun a value op => transc_of_nan op value⟩
  case finite =>
    intro a g n d e value v
    refine ⟨transc_sqrt value, ?zero, ?nonzero, ?exp, ?exp2, ?sigm, ?silu, ?gelut, fun q hq => ?trig⟩
    case zero =>
      intro zero
      simp only [transc_rcp value, transc_rsqrt value, transc_tanh value, transc_log value, if_pos zero, v, true_and]
      exact fun positive => by simp only [positive, Bool.false_eq_true, if_false]
    case nonzero =>
      intro nonzero
      simp only [transc_rcp value, transc_rsqrt value, transc_tanh value, transc_log value, if_neg nonzero]
      refine ⟨accurate_withinUlp .., fun negative => ?_, fun positive => ?_, accurate_withinUlp ..⟩
      · simp only [negative, if_true, and_self]
      · simp only [positive, Bool.false_eq_true, if_false, v]
        exact ⟨accurate_withinUlp .., accurate_withinUlp ..⟩
    case exp => exact transc_exp value ▸ accurate_withinUlp ..
    case exp2 =>
      have run := transc_exp2 value
      dsimp only at run ⊢
      split at run
      · next whole => rw [if_pos whole]; exact run
      · next fraction =>
        rw [if_neg fraction]
        split at run
        · next half => rw [if_pos half]; exact run
        · next other => rw [if_neg other, run]; exact accurate_withinUlp ..
    case sigm => exact transc_sigm value ▸ accurate_withinUlp ..
    case silu => exact transc_silu value ▸ accurate_withinUlp ..
    case gelut => exact transc_gelut value ▸ accurate_withinUlp ..
    case trig => exact transc_trig value hq ▸ close_trigOp _ q value
  case infinite =>
    intro a g value
    simp only [transc_of_inf _ value]
    cases g <;> simp [transcInf]

end Sys2Proof.Machine
end

section
/-! The reduction unit of a cluster (R112–R116). -/
namespace Sys2Proof.Machine

/-- A reduction replaces the outputs of its unit. -/
theorem RedUnit.reduce_eq (u : RedUnit) (red k : Nat) : u.reduce red k = { u with
    vals := (reduceRow red k u).1, idxs := (reduceRow red k u).2
    bad := u.row.any (·.p) || (decide (red = 6) && u.hasComp && u.comp.any (·.p)) } := rfl

theorem reduceRow_max {u : RedUnit} {a : BitVec 32} {t : List (BitVec 32)} (k : Nat) (first : u.row.map (·.v) = a :: t) :
    reduceRow 2 k u = ([t.foldl fmax (canon32 a)], []) := by
  simp only [reduceRow, first]

theorem reduceRow_min {u : RedUnit} {a : BitVec 32} {t : List (BitVec 32)} (k : Nat) (first : u.row.map (·.v) = a :: t) :
    reduceRow 3 k u = ([t.foldl fmin (canon32 a)], []) := by
  simp only [reduceRow, first]

/-- Settles O5: what each reduction puts out is its arm of `reduceRow`. -/
theorem rowReductions : Obligations.RowReductions := by
  intro c s u row bad top ranked
  have plain {red k : Nat} {vals idxs : List (BitVec 32)} (notSample : red ≠ 6) (out : reduceRow red k u = (vals, idxs)) :
      s.redOp c.val red k = s.setRed c.val { u with vals := vals, idxs := idxs, bad := bad } := by
    rw [State.redOp, RedUnit.reduce_eq, out, decide_eq_false notSample, Bool.false_and, Bool.false_and, Bool.or_false]
  have sampled (companion : Bool) : s.sampleCmd c.val companion = s.setRed c.val { u with
      hasComp := companion, bad := bad || (companion && u.comp.any (·.p)), idxs := []
      vals := [match samplePos row u.seed u.rowNo with
        | none => 0xFFFFFFFF#32
        | some i => if companion then (u.comp.getD i Lane.zero).v else BitVec.ofNat 32 i] } := by
    have out : reduceRow 6 1 { u with hasComp := companion } = ([match samplePos row u.seed u.rowNo with
        | none => 0xFFFFFFFF#32
        | some i => if companion then (u.comp.getD i Lane.zero).v else BitVec.ofNat 32 i], []) := by
      simp only [reduceRow]
      cases samplePos row u.seed u.rowNo <;> rfl
    rw [State.sampleCmd, RedUnit.reduce_eq, out]
    simp only [decide_true, Bool.true_and]
    rfl
  refine ⟨next_congr (plain (by decide) rfl), fun a t first => ⟨next_congr (plain (by decide) (reduceRow_max 1 first)), next_congr (plain (by decide) (reduceRow_min 1 first))⟩,
    next_congr (plain (by decide) rfl), fun k => next_congr (plain (by decide) rfl), next_congr ((sampled false).trans ?_),
    next_congr ((sampled true).trans ?_)⟩
  · simp only [Bool.false_and, Bool.or_false, Bool.false_eq_true, if_false] <;> rfl
  · rfl

end Sys2Proof.Machine
end

section
/-! Compute commands of a stack channel (R69–R84). -/
namespace Sys2Proof.Machine
open Claims

/-! ## Commands on the open rows of a set of banks -/

theorem filter_closed_eq_nil {s : State} {st : St} {ch : Ch} {bs : List Nat}
    (rows : ∀ b ∈ bs, (s.bank st.val ch.val b).row.isSome) : bs.filter (fun b => (s.bank st.val ch.val b).row.isNone) = [] := by
  rw [List.filter_eq_nil_iff]
  intro b hb
  rw [Option.isNone_iff_eq_none, ← Option.not_isSome_iff_eq_none]
  exact fun closed => closed (rows b hb)

/-- Where every bank has an open row, a command on the open rows acts in each of them and marks none. -/
theorem State.onOpenRows_of_rows_open {s : State} {st : St} {ch : Ch} {bs : List Nat} (f : State → Nat → Nat → State)
    (rows : ∀ b ∈ bs, (s.bank st.val ch.val b).row.isSome) : s.onOpenRows st.val ch.val f bs = onRows s st ch bs f := by
  unfold State.onOpenRows
  rw [filter_closed_eq_nil rows]
  rfl

theorem rowsOpen_freeSet {s : State} {st : St} {ch : Ch} (rows : rowsOpen s st ch) :
    ∀ b ∈ s.freeSet st.val ch.val, (s.bank st.val ch.val b).row.isSome :=
  fun b hb => rows b (List.mem_of_mem_filter hb)

/-- A command that meets no register in use acts in the whole set. -/
theorem State.unlessBusy_false (s : State) (st ch : Nat) (f : State → List Nat → State) :
    s.unlessBusy st ch false f = f s (s.setOf st ch) := rfl

/-- A command that meets one acts in the banks without an active pass, and the others take the conflict. -/
theorem State.unlessBusy_true (s : State) (st ch : Nat) (f : State → List Nat → State) :
    s.unlessBusy st ch true f = (f s (s.freeSet st ch)).bpuConflict st ch (s.activeSet st ch) := rfl

/-! ## Bank sets, configurations and passes -/

/-- BSET replaces the quarter that bits 17:16 of its word name by bits 15:0. -/
theorem bset_bit (old : BitVec 64) (w : BitVec 26) {i : Nat} (hi : i < 64) :
    let q := bits w.toNat 17 16
    (BitVec.ofNat 64 (putBits old.toNat (16 * q + 15) (16 * q) (bits w.toNat 15 0))).getLsbD i =
      if i / 16 = q then w.getLsbD (i % 16) else old.getLsbD i := by
  intro q
  rw [BitVec.getLsbD_ofNat, testBit_putBits _ _ _ _ _ (by omega), decide_eq_true hi, Bool.true_and]
  by_cases quarter : i / 16 = q
  · have place : i - 16 * q = i % 16 := by omega
    rw [if_pos (by omega), if_pos quarter, place, bits_testBit, decide_eq_true (by omega), Bool.true_and, Nat.add_zero,
      BitVec.testBit_toNat]
  · rw [if_neg (by omega), if_neg quarter, BitVec.testBit_toNat]

theorem setOf_length_le (s : State) (st ch : Nat) : (s.setOf st ch).length ≤ 64 :=
  (List.length_filter_le _ _).trans_eq List.length_range

/-- The waves of a set run over its banks in their order. -/
theorem foldl_wavesOf {β : Type} (f : β → Nat → β) (x : β) (bs : List Nat) :
    (wavesOf bs).foldl (fun y wave => wave.foldl f y) x = bs.foldl f x := by
  have dropEmpty : ∀ (ls : List (List Nat)) (x : β),
      (ls.filter (fun l => !l.isEmpty)).foldl (fun y wave => wave.foldl f y) x = ls.foldl (fun y wave => wave.foldl f y) x := by
    intro ls
    induction ls with
    | nil => intro x; rfl
    | cons l ls ih =>
      intro x
      cases l with
      | nil => exact ih x
      | cons b l => exact ih _
  rw [wavesOf, dropEmpty]
  conv_rhs => rw [← List.take_append_drop 32 bs, List.foldl_append]
  rfl

/-- A set of 1 to 64 banks runs in waves of at most 32. -/
theorem wavesOf_length {bs : List Nat} (some' : bs ≠ []) (few : bs.length ≤ 64) : (wavesOf bs).length = (bs.length + 31) / 32 := by
  have first : (bs.take 32).isEmpty = false := by cases bs <;> simp_all
  have second : (bs.drop 32).isEmpty = decide (bs.length ≤ 32) := by
    rw [Bool.eq_iff_iff]
    simp
  have positive : 0 < bs.length := List.length_pos_of_ne_nil some'
  simp only [wavesOf, List.filter_cons, first, second, List.filter_nil, Bool.not_false, if_true]
  by_cases one : bs.length ≤ 32
  · simp only [one, decide_true, Bool.not_true, Bool.false_eq_true, if_false, List.length_singleton]
    omega
  · simp only [one, decide_false, Bool.not_false, if_true, List.length_cons, List.length_nil]
    omega

/-- A pass over a set in which every row is open runs in every bank. -/
theorem State.openPass_of_rows_open {s : State} {st : St} {ch : Ch} (c : PassCfg) (p : PassWord) (w : BitVec 26)
    (banks : s.setOf st.val ch.val ≠ []) (rows : rowsOpen s st ch) :
    s.openPass st.val ch.val c p w = ((onRows s st ch (s.setOf st.val ch.val)
      (fun u b r => u.bankMpass st.val ch.val b c p r)).modChan st.val ch.val (fun c => { c with pass := some w })).bump
        .stkPerfPass st.val (((s.setOf st.val ch.val).length + 31) / 32) := by
  have opened : (s.setOf st.val ch.val).filter (fun b => (s.bank st.val ch.val b).row.isSome) = s.setOf st.val ch.val :=
    List.filter_eq_self.mpr rows
  have nonempty : (s.setOf st.val ch.val).isEmpty = false := by simpa using banks
  simp only [State.openPass, opened, filter_closed_eq_nil rows, nonempty, Bool.false_eq_true, if_false, State.runPass,
    foldl_wavesOf, wavesOf_length banks (setOf_length_le ..)]
  rfl

/-- MPASS by its four checks, in their order (R81, R93, R281). -/
theorem State.mpassCmd_eq {s : State} {st ch : Nat} {w : BitVec 26} {c : PassCfg} (cfg : PassCfg.ofWord (s.chan st ch).pcfg = some c) :
    s.mpassCmd st ch w =
      if (PassWord.of w).n = 0 ∨ 64 < (PassWord.of w).c0 + (PassWord.of w).n then s.bpuMalformed st ch (s.setOf st ch)
      else if ((s.chan st ch).stop || s.markedSet st ch) = true then s
      else if s.passOn st ch = true then s.bpuConflict st ch (s.activeSet st ch)
      else s.openPass st ch c (PassWord.of w) w := by
  simp only [State.mpassCmd, cfg]

/-- Settles O6: the bits of BSET, and an MPASS that passes all its checks. -/
theorem bankSetCommands : Obligations.BankSetCommands := by
  intro st ch w s
  refine ⟨⟨_, rfl, fun i hi => bset_bit _ w hi⟩, fun cfg idle => next_congr ?pcfg,
    fun c cfg some' inRow idle admitted banks rows => next_congr ?mpass, rfl⟩
  case pcfg =>
    obtain ⟨c, hc⟩ := Option.isSome_iff_exists.mp cfg
    simp only [State.pcfgCmd, hc, idle, Bool.false_eq_true, if_false]
  case mpass =>
    obtain ⟨noStop, noMark⟩ := admitted
    rw [State.mpassCmd_eq cfg, if_neg (by omega), noStop, noMark, idle, State.openPass_of_rows_open c _ w banks rows]
    rfl

/-! ## Registers in use (R81) -/

theorem PassCfg.ofWord_rows_le {w : BitVec 26} {c : PassCfg} (h : PassCfg.ofWord w = some c) : c.rows ≤ 4 := by
  have two := bits_lt w.toNat 8 7
  unfold PassCfg.ofWord at h
  dsimp only at h
  split at h
  · cases h
  · split at h
    · cases h
    · cases h
      dsimp only
      omega

theorem passShared_lt (c : PassCfg) (p : PassWord) : ∀ r ∈ passShared c p, r < 16 := by
  intro r hr
  unfold passShared scaleRegs at hr
  simp only [List.mem_append] at hr
  rcases hr with (scale | act) | tag
  · split at scale
    · cases scale
    · next inside =>
      obtain ⟨_, low⟩ := not_or.mp inside
      rw [List.mem_singleton] at scale
      omega
  · split at act <;> simp_all
  · split at tag <;> simp_all

/-- A pass uses registers bk0 to bk15 only. -/
theorem State.regsInUse_lt (s : State) (st ch : Nat) : ∀ r ∈ s.regsInUse st ch, r < 16 := by
  intro r hr
  unfold State.regsInUse at hr
  split at hr
  · next w c pass cfg =>
    have rows := PassCfg.ofWord_rows_le cfg
    simp only [List.mem_append, List.mem_map, List.mem_range] at hr
    rcases hr with (row | ⟨x, hx, rfl⟩) | shared
    · omega
    · omega
    · exact passShared_lt c _ r shared
  · cases hr

/-- Settles O7: each command acts in every bank of the set, since it meets no register in use and no closed row. -/
theorem bankRegisterCommands : Obligations.BankRegisterCommands := by
  intro st ch w s
  refine ⟨fun inReg idle rows => next_congr ?lpass, fun inRow rows => next_congr ?spass, fun inRow idle rows => next_congr ?fpass,
    fun pins idle => next_congr ?ldr, rfl, fun idle accs => next_congr ?aclr, rfl, rfl⟩
  case lpass =>
    have idle : (s.regsInUse st.val ch.val).contains (bits w.toNat 11 8) = false := idle
    have inReg : ¬ 4 < bits w.toNat 13 12 + (bits w.toNat 7 6 + 1) := by omega
    simp only [State.lpassCmd, if_neg inReg, idle, State.unlessBusy_false]
    exact State.onOpenRows_of_rows_open _ rows
  case spass =>
    simp only [State.spassCmd, if_neg (Nat.not_lt.mpr inRow)]
    exact State.onOpenRows_of_rows_open _ rows
  case fpass =>
    have idle : (s.regsInUse st.val ch.val).contains (bits w.toNat 9 6) = false := idle
    simp only [State.fpassCmd, if_neg (Nat.not_lt.mpr inRow), idle, State.unlessBusy_false]
    exact State.onOpenRows_of_rows_open _ rows
  case ldr =>
    have idle : (s.regsInUse st.val ch.val).contains (bits w.toNat 3 0) = false := idle
    simp only [State.ldrCmd, idle, State.unlessBusy_false]
    rfl
  case aclr =>
    have registers : (s.regsInUse st.val ch.val).any (fun r => bitOf w.toNat r) = false := by
      rw [List.any_eq_false]
      intro r used named
      have free : (s.regsInUse st.val ch.val).contains r = false := idle r (s.regsInUse_lt _ _ r used) named
      rw [List.contains_eq_mem, decide_eq_false_iff_not] at free
      exact free used
    have sets : (s.passOn st.val ch.val && decide (bits w.toNat 17 16 ≠ 0)) = false := by
      cases pass : s.passOn st.val ch.val with
      | false => rfl
      | true => simp only [accs pass, ne_eq, not_true, decide_false, Bool.and_false]
    simp only [State.aclrCmd, registers, sets, Bool.or_false, State.unlessBusy_false]
    rfl

/-! ## Commands that are turned away (R81) -/

theorem PassCfg.ofWord_eq_none {w : BitVec 26}
    (bad : bits w.toNat 6 5 = 3 ∨ bits w.toNat 25 14 ≠ 0 ∨ EType.ofCode (bits w.toNat 4 0) = none) : PassCfg.ofWord w = none := by
  unfold PassCfg.ofWord
  dsimp only
  split
  · rfl
  · next t type =>
    have reserved : bits w.toNat 6 5 = 3 ∨ bits w.toNat 25 14 ≠ 0 := by
      rcases bad with form | zeros | none'
      · exact .inl form
      · exact .inr zeros
      · rw [type] at none'
        cases none'
    rw [if_pos (by simpa [or_assoc] using .inr reserved)]

/-- An MPASS past the row or of no column is malformed under every configuration. -/
theorem State.mpassCmd_of_out_of_row (s : State) (st ch : Nat) {w : BitVec 26}
    (outside : (PassWord.of w).n = 0 ∨ 64 < (PassWord.of w).c0 + (PassWord.of w).n) :
    s.mpassCmd st ch w = s.bpuMalformed st ch (s.setOf st ch) := by
  cases cfg : PassCfg.ofWord (s.chan st ch).pcfg with
  | none => simp only [State.mpassCmd, cfg]
  | some c => rw [State.mpassCmd_eq cfg, if_pos outside]

theorem not_admits_iff (s : State) (st : St) (ch : Ch) :
    ¬ admits s st ch ↔ ((s.chan st.val ch.val).stop || s.markedSet st.val ch.val) = true := by
  simp only [admits, not_and_or, Bool.not_eq_false, Bool.or_eq_true]

/-- Settles O8: the malformed commands by their first check, the conflicting ones by their second. -/
theorem bankCommandsTurnedAway : Obligations.BankCommandsTurnedAway := by
  intro st ch w s bad hit clash free
  refine ⟨fun x => ⟨rfl, rfl⟩, fun reserved => next_congr ?pcfgBad, fun cfg pass => next_congr ?pcfgBusy,
    fun outside => next_congr (s.mpassCmd_of_out_of_row _ _ outside), fun cfg some' inRow pass admitted => next_congr ?mpassBusy,
    fun cfg some' inRow stopped => next_congr ?mpassStopped, fun outside => next_congr ?lpassBad,
    fun outside => ⟨next_congr ?spassBad, next_congr ?fpassBad⟩, fun inReg busy rows => next_congr ?lpass,
    fun inRow busy rows => next_congr ?fpass, fun pins busy => next_congr ?ldr⟩
  case pcfgBad => simp only [State.pcfgCmd, PassCfg.ofWord_eq_none reserved, bad]
  case pcfgBusy =>
    obtain ⟨c, hc⟩ := Option.isSome_iff_exists.mp cfg
    simp only [State.pcfgCmd, hc, pass, if_true, clash, hit]
  case mpassBusy =>
    obtain ⟨c, hc⟩ := Option.isSome_iff_exists.mp cfg
    obtain ⟨noStop, noMark⟩ := admitted
    rw [State.mpassCmd_eq hc, if_neg (by omega), noStop, noMark, pass]
    rfl
  case mpassStopped =>
    obtain ⟨c, hc⟩ := Option.isSome_iff_exists.mp cfg
    rw [State.mpassCmd_eq hc, if_neg (by omega), if_pos ((not_admits_iff s st ch).mp stopped)]
  case lpassBad =>
    have outside : 4 < bits w.toNat 13 12 + (bits w.toNat 7 6 + 1) := by omega
    simp only [State.lpassCmd, if_pos outside, bad]
  case spassBad => simp only [State.spassCmd, if_pos outside, bad]
  case fpassBad => simp only [State.fpassCmd, if_pos outside, bad]
  case lpass =>
    have busy : (s.regsInUse st.val ch.val).contains (bits w.toNat 11 8) = true := busy
    have inReg : ¬ 4 < bits w.toNat 13 12 + (bits w.toNat 7 6 + 1) := by omega
    simp only [State.lpassCmd, if_neg inReg, busy, State.unlessBusy_true]
    rw [State.onOpenRows_of_rows_open _ (rowsOpen_freeSet rows)]
  case fpass =>
    have busy : (s.regsInUse st.val ch.val).contains (bits w.toNat 9 6) = true := busy
    simp only [State.fpassCmd, if_neg (Nat.not_lt.mpr inRow), busy, State.unlessBusy_true]
    rw [State.onOpenRows_of_rows_open _ (rowsOpen_freeSet rows)]
  case ldr =>
    have busy : (s.regsInUse st.val ch.val).contains (bits w.toNat 3 0) = true := busy
    simp only [State.ldrCmd, busy, State.unlessBusy_true]
    rfl

end Sys2Proof.Machine
end

section
/-! Column and row commands of a stack channel (R87, R88). -/
namespace Sys2Proof.Machine
open Claims

/-! ## The pins as digits of 256 bits -/

/-- What RD drives for a granule: its low 256 bits, or 0 where the decoder gave no data. -/
def Decoded.pinWord (d : Decoded) : Nat := if d.outc.bad then 0 else leNat d.data % 2 ^ 256

theorem Decoded.pinWord_lt (d : Decoded) : d.pinWord < 2 ^ 256 := by
  unfold Decoded.pinWord
  split
  · norm_num
  · exact Nat.mod_lt _ (by norm_num)

/-- The number that a list of granules puts on the pins. -/
def pinsOf (ds : List Decoded) : Nat := Nat.ofDigits (2 ^ 256) (ds.map Decoded.pinWord)

theorem pinWords_lt (ds : List Decoded) : ∀ x ∈ ds.map Decoded.pinWord, x < 2 ^ 256 := by
  intro x hx
  obtain ⟨d, -, rfl⟩ := List.mem_map.mp hx
  exact d.pinWord_lt

theorem pinsOf_lt {ds : List Decoded} {n : Nat} (room : 256 * ds.length ≤ n) : pinsOf ds < 2 ^ n := by
  have bound := Nat.ofDigits_lt_base_pow_length (by norm_num) (pinWords_lt ds)
  rw [List.length_map, ← pow_mul] at bound
  exact bound.trans_le (Nat.pow_le_pow_right Nat.two_pos room)

theorem pinsOf_append (ds : List Decoded) (d : Decoded) : pinsOf (ds ++ [d]) = pinsOf ds + d.pinWord * 2 ^ (256 * ds.length) := by
  rw [pinsOf, List.map_append, Nat.ofDigits_append, List.length_map, ← pow_mul, List.map_singleton, Nat.ofDigits_singleton,
    Nat.mul_comm]
  rfl

/-- Digit i of the pins is granule i. -/
theorem pinsOf_digit (ds : List Decoded) (i : Nat) :
    pinsOf ds / 2 ^ (256 * i) % 2 ^ 256 = (match ds[i]? with | some d => d.pinWord | none => 0) := by
  induction ds generalizing i with
  | nil => simp [pinsOf]
  | cons d ds ih =>
    have unfolded : pinsOf (d :: ds) = d.pinWord + 2 ^ 256 * pinsOf ds := rfl
    have small := d.pinWord_lt
    cases i with
    | zero =>
      rw [unfolded, Nat.mul_zero, pow_zero, Nat.div_one, Nat.add_mul_mod_self_left, Nat.mod_eq_of_lt small]
      rfl
    | succ i =>
      have rest : pinsOf (d :: ds) / 2 ^ 256 = pinsOf ds := by
        rw [unfolded, Nat.add_mul_div_left _ _ (by norm_num), Nat.div_eq_of_lt small, Nat.zero_add]
      rw [Nat.mul_succ, Nat.add_comm, pow_add, ← Nat.div_div_eq_div_mul, rest, ih]
      rfl

/-! ## RD and WR inside a row -/

/-- RD's walk over granules inside the row: the state and the decoded units after n of them. -/
def State.readGranules (s : State) (addr : Nat → Nat) (n : Nat) : State × List Decoded :=
  (List.range n).foldl (fun (p : State × List Decoded) i =>
    ((p.1.loadUnit false (addr i)).1, p.2 ++ [(p.1.loadUnit false (addr i)).2])) (s, [])

theorem State.readGranules_succ (s : State) (addr : Nat → Nat) (n : Nat) :
    s.readGranules addr (n + 1) = (((s.readGranules addr n).1.loadUnit false (addr n)).1,
      (s.readGranules addr n).2 ++ [((s.readGranules addr n).1.loadUnit false (addr n)).2]) := by
  rw [State.readGranules, List.range_succ, List.foldl_append]
  rfl

theorem State.readGranules_length (s : State) (addr : Nat → Nat) (n : Nat) : (s.readGranules addr n).2.length = n := by
  induction n with
  | zero => rfl
  | succ n ih => rw [State.readGranules_succ, List.length_append, ih, List.length_singleton]

theorem State.pinGranule_of_in_row (s : State) (st ch b r : Nat) {col : Nat} (inRow : col < 64) :
    s.pinGranule st ch b (some r) col = ((s.loadUnit false (stackAddr st ch b r col)).1,
      (if (s.loadUnit false (stackAddr st ch b r col)).2.outc.bad then 0 else leNat (s.loadUnit false (stackAddr st ch b r col)).2.data),
      (s.loadUnit false (stackAddr st ch b r col)).2.outc.bad) := by
  rw [State.pinGranule]
  refine (if_pos inRow).trans ?_
  cases s.loadUnit false (stackAddr st ch b r col)
  rfl

/-- Inside the row, what RD folds up is the pins of the granules it reads. -/
theorem State.rd_fold_eq_readGranules (s : State) (st ch b r first : Nat) {n : Nat} (inRow : first + n ≤ 64) :
    (List.range n).foldl (fun (p : State × Nat × Bool) i =>
        ((p.1.pinGranule st ch b (some r) (first + i)).1,
          p.2.1 + (p.1.pinGranule st ch b (some r) (first + i)).2.1 % 2 ^ 256 * 2 ^ (256 * i),
          p.2.2 || (p.1.pinGranule st ch b (some r) (first + i)).2.2)) (s, 0, false) =
      let got := s.readGranules (fun i => stackAddr st ch b r (first + i)) n
      (got.1, pinsOf got.2, got.2.any (fun d => d.outc.bad)) := by
  induction n with
  | zero => rfl
  | succ n ih =>
    rw [List.range_succ, List.foldl_append, ih (by omega), List.foldl_cons, List.foldl_nil, State.pinGranule_of_in_row _ _ _ _ _ (by omega),
      State.readGranules_succ]
    refine Prod.ext rfl (Prod.ext ?_ ?_)
    · dsimp only
      rw [pinsOf_append, State.readGranules_length, Decoded.pinWord]
      congr 2
      split <;> rfl
    · dsimp only
      rw [List.any_append, List.any_cons, List.any_nil, Bool.or_false]

theorem colCount_le (w : Nat) : colCount w ≤ 32 := by
  have four := bits_lt w 15 12
  unfold colCount
  omega

theorem foldl_range_congr {β : Type} {f g : β → Nat → β} {n : Nat} (h : ∀ x, ∀ i < n, f x i = g x i) (x : β) :
    (List.range n).foldl f x = (List.range n).foldl g x :=
  List.foldl_ext _ _ _ fun y i hi => h y i (List.mem_range.mp hi)

theorem toNat_ofNat_of_lt {w x : Nat} (h : x < 2 ^ w) : (BitVec.ofNat w x).toNat = x := by
  rw [BitVec.toNat_ofNat, Nat.mod_eq_of_lt h]

/-- Settles O9: RD through the pins' digits, and WR granule by granule. -/
theorem columnCommands : Obligations.ColumnCommands := by
  intro st ch w s
  refine ⟨rfl, fun r row => ⟨fun inRow => ⟨⟨BitVec.ofNat 8192 (pinsOf (s.readGranules
    (fun i => stackAddr st.val ch.val (colBank w.toNat) r (colFirst w.toNat + i)) (colCount w.toNat)).2), next_congr ?rd, ?pins⟩,
    fun data => next_congr ?wr⟩, next_congr ?scrb, next_congr ?wrp⟩⟩
  case rd =>
    dsimp only [State.rdCmd]
    rw [row, State.rd_fold_eq_readGranules s st.val ch.val _ r _ inRow]
    rfl
  case pins =>
    intro i _
    have fits : pinsOf (s.readGranules (fun i => stackAddr st.val ch.val (colBank w.toNat) r (colFirst w.toNat + i))
        (colCount w.toNat)).2 < 2 ^ 8192 := by
      refine pinsOf_lt ?_
      rw [State.readGranules_length]
      exact Nat.mul_le_mul_left 256 (colCount_le w.toNat)
    rw [toNat_ofNat_of_lt fits, pinsOf_digit]
    rfl
  case wr =>
    dsimp only [State.wrCmd]
    rw [row]
    dsimp only
    rw [foldl_range_congr fun u i hi => if_pos (by omega)]
  case scrb => simp only [State.scrbCmd, State.openPair, row]; rfl
  case wrp => simp only [State.wrpCmd, State.openPair, row]; rfl

/-- Settles O10: an ACT below both limits, and at the blocking limit of a bank that a stepping set holds. -/
theorem rowCommands : Obligations.RowCommands := by
  intro st ch w s
  refine ⟨rfl, fun belowRefresh belowBlock => next_congr ?act, fun steps member atLimit => next_congr ?blocked,
    rfl, rfl, rfl, rfl, rfl, rfl, rfl⟩
  case act =>
    have noRefresh : decide (s.raaimt st.val ≤ (s.bank st.val ch.val (bits w.toNat 19 14)).raa) = false :=
      decide_eq_false (Nat.not_le.mpr belowRefresh)
    simp only [State.activate, noRefresh, Bool.and_false, Bool.false_eq_true, if_false, if_neg (Nat.not_le.mpr belowBlock)]
  case blocked =>
    simp only [State.activate, steps, member, Bool.and_self, Bool.not_true, Bool.false_and, Bool.false_eq_true, if_false,
      if_pos atLimit]

end Sys2Proof.Machine
end

section
/-! Messages on their way and work that waits: what `arrive` and `awaitBoundary` do, once for all commands. -/
namespace Sys2Proof.Machine
open Claims

/-! ## Messages (R19) -/

/-- A message that may come takes effect with itself off the way. -/
theorem State.arrive_of_mayCome {s : State} {m : Instr} (f : State → State) (free : mayCome s m) : s.arrive m f = f (came s m) := by
  unfold State.arrive came
  cases found : takeMsg m [] s.flight with
  | some l => rfl
  | none =>
    have outside : s.inFlight m = false := by
      rcases free with taken | outside
      · rw [found] at taken
        cases taken
      · exact outside
    dsimp only
    rw [outside, if_neg Bool.false_ne_true]

/-- A message behind an earlier one of its crossing changes nothing. -/
theorem State.arrive_of_waiting {s : State} {m : Instr} (f : State → State) (behind : ¬ mayCome s m) : s.arrive m f = s := by
  obtain ⟨absent, onItsWay⟩ := not_or.mp behind
  rw [Bool.not_eq_true, Option.isSome_eq_false_iff, Option.isNone_iff_eq_none] at absent
  rw [Bool.not_eq_false] at onItsWay
  unfold State.arrive
  rw [absent, onItsWay]
  rfl

/-- The outcome of a command whose message may come. -/
theorem exec_arrive {c m : Instr} {s r : State} (f : State → State) (command : exec c s = .next (s.arrive m f)) (free : mayCome s m)
    (effect : f (came s m) = r) : exec c s = .next r := by
  rw [command, State.arrive_of_mayCome f free, effect]

/-! ## Work that may have to wait (R12, R91, R268, R281) -/

/-- Work that tries to take place does so or waits, as `waits` tells. -/
theorem tries_awaitBoundary (s : State) (f : State → State) : tries (.next (s.awaitBoundary f)) s (f (fresh s)) := by
  have either : s.awaitBoundary f = if waits s (f (fresh s)) then s else f (fresh s) := rfl
  refine ⟨fun go => next_congr ?_, fun stay => next_congr ?_⟩
  · rw [either, go]
    rfl
  · rw [either, stay]
    rfl

theorem tries_of_effect {s r : State} {f : State → State} (effect : f (fresh s) = r) :
    tries (.next (s.awaitBoundary f)) s r :=
  effect ▸ tries_awaitBoundary s f

/-- The report of a unit, as the statements write it. -/
theorem State.sendDone_eq_reported (v : State) (t : Nat) : v.sendDone t = reported v t := by
  unfold State.sendDone reported
  rfl

theorem State.runOp_of_ready {s : State} {t op : Nat} {k : Task} (f : State → Task → State) (task : s.task t = some k)
    (running : k.phase = .running) (unissued : k.issued = false) (opcode : twOpcode k.w = op) :
    s.runOp t op f = s.awaitBoundary (fun u => f (u.putTask t { k with issued := true }) k) := by
  unfold State.runOp
  rw [task]
  exact if_pos ⟨running, by rw [unissued]; rfl, opcode⟩

/-- A command that runs `runOp` does its opcode's work. -/
theorem runsOp_of_runOp {c : Nat → Instr} {op : Nat} {f : Nat → State → Task → State}
    (command : ∀ t s, exec (c t) s = .next (s.runOp t op (f t))) : runsOp c op f := by
  intro t k s task running unissued opcode
  rw [command, State.runOp_of_ready _ task running unissued opcode]
  exact tries_awaitBoundary s _

/-- A unit's work takes place with its report, or waits. -/
theorem tries_runUnit {s : State} {t op : Nat} {k : Task} (f : State → Task → State) (task : s.task t = some k)
    (running : k.phase = .running) (unissued : k.issued = false) (opcode : twOpcode k.w = op) :
    tries (.next (s.runUnit t op f)) s (reported (f ((fresh s).putTask t { k with issued := true }) k) t) := by
  rw [State.runUnit, State.runOp_of_ready _ task running unissued opcode]
  exact tries_of_effect (State.sendDone_eq_reported _ t)

/-- A command that runs `runUnit` does its opcode's work, and the unit reports. -/
theorem runsUnit_of_runUnit {c : Nat → Instr} {op : Nat} {f : Nat → State → Task → State}
    (command : ∀ t s, exec (c t) s = .next (s.runUnit t op (f t))) : runsUnit c op f := by
  intro t k s task running unissued opcode
  rw [command]
  exact tries_runUnit (f t) task running unissued opcode

end Sys2Proof.Machine
end

section
/-! Clusters: twins, the arrays and the descriptors that run there (R54, R59, R60, R62, R104). -/
namespace Sys2Proof.Machine
open Claims

/-! ## Twins (R62, R65) -/

theorem State.fld_setReg_ne (s : State) {r q : Reg} {p i x hi lo : Nat} (v : Word) (h : q.addr x 0 ≠ r.addr p i) :
    (s.setReg r p i v).fld q x hi lo = s.fld q x hi lo :=
  congrArg (wb · hi lo) (State.reg_setReg_ne s v h)

/-- A request's bits are no part of the state that the pair is in. -/
theorem State.twinState_twinBits (s : State) (c d : Nat) (form dissolve : Bool) :
    (s.twinBits c form dissolve).twinState d = s.twinState d := by
  refine State.fld_setReg_ne s _ ?_
  simp only [Reg.addr, Reg.info, Page.place]
  omega

/-- Settles O13: each request by its first refusal that holds, or by none. -/
theorem twinCommands : Obligations.TwinCommands := by
  intro c s even
  have lower : ¬ c.val % 2 = 1 := by omega
  refine ⟨fun single free free' on on' => next_congr ?form, fun forming => next_congr (if_pos ⟨even, forming⟩),
    fun twin free free' => next_congr ?dissolve, fun dissolving => next_congr (if_pos ⟨even, dissolving⟩),
    fun sameAc => ⟨next_congr ?bothForm, next_congr ?bothDissolve⟩, fun single => next_congr ?formSame,
    fun twin => next_congr ?dissolveSame, fun f v => rfl⟩
  case form =>
    have idle : (s.twinBits c.val true false).pairBusy c.val false = false := by
      change (false || decide (s.entriesOf c.val false ≠ 0 ∨ s.entriesOf (c.val + 1) false ≠ 0)) = false
      simp only [free, free', ne_eq, not_true, or_self, decide_false, Bool.or_false]
    have dom : ∀ d, (s.twinBits c.val true false).dom d = s.dom d := fun _ => rfl
    simp only [State.twinFormOp, if_neg lower, State.twinState_twinBits, single, idle, dom, on, on']
    rfl
  case dissolve =>
    have idle : (s.twinBits c.val false true).pairBusy c.val false = false := by
      change (false || decide (s.entriesOf c.val false ≠ 0 ∨ s.entriesOf (c.val + 1) false ≠ 0)) = false
      simp only [free, free', ne_eq, not_true, or_self, decide_false, Bool.or_false]
    simp only [State.twinDissolveOp, if_neg lower, State.twinState_twinBits, twin, idle]
    rfl
  case bothForm => simp only [State.twinFormOp, if_neg lower]; rfl
  case bothDissolve => simp only [State.twinDissolveOp, if_neg lower]; rfl
  case formSame => simp only [State.twinFormOp, if_neg lower, State.twinState_twinBits, single]; rfl
  case dissolveSame => simp only [State.twinDissolveOp, if_neg lower, State.twinState_twinBits, twin]; rfl

/-! ## The arrays (R54, R59, R61) -/

/-- The next K unit of an issued product. -/
theorem State.kUnitStart_of_issued {z u : State} {c ac t : Nat} {k : Task} {p : Prod} (holds : z.arrayTask c = some (t, k))
    (may : z.mayIssue c k ac = true) (opened : z.openProd t k (!k.issued) = (u, some p)) (some' : k.empty = false) (tiles : p.tiles ≠ 0)
    (issued : k.issued = true) (mine : (z.arrays c).task = some t) (tile : (u.arrays c).tile < p.tiles)
    (unit : (u.arrays c).unit < p.units) :
    z.kUnitStart c ac = (u.kUnit c t k p).setArrays c { (u.kUnit c t k p).arrays c with units := ac } := by
  have more : ¬ (p.tiles ≤ (u.arrays c).tile ∨ p.units ≤ (u.arrays c).unit) := by omega
  simp only [issued, Bool.not_true] at opened
  simp [State.kUnitStart, holds, may, issued, mine, opened, some', tiles, more]

/-- The first K unit of a product: the arrays and the stream buffers start with it. -/
theorem State.kUnitStart_of_new {z u v : State} {c ac t : Nat} {k : Task} {p : Prod} (holds : z.arrayTask c = some (t, k))
    (may : z.mayIssue c k ac = true) (opened : z.openProd t k (!k.issued) = (u, some p)) (some' : k.empty = false) (tiles : p.tiles ≠ 0)
    (new : k.issued = false)
    (started : ((u.streams k).modTask t (fun k => { k with issued := true })).setArrays c { arrays0 with task := some t } = v)
    (tile : (v.arrays c).tile < p.tiles) (unit : (v.arrays c).unit < p.units) :
    z.kUnitStart c ac = (v.kUnit c t k p).setArrays c { (v.kUnit c t k p).arrays c with units := ac } := by
  have more : ¬ (p.tiles ≤ (v.arrays c).tile ∨ p.units ≤ (v.arrays c).unit) := by omega
  simp only [new, Bool.not_false] at opened
  simp [State.kUnitStart, holds, may, new, opened, some', tiles, started, more]

/-- The end of a drain: the tile is stored, its accumulator bank is free, and the work may be done with it. -/
theorem State.drainDone_of_drain {z u v : State} {c t n : Nat} {k k' : Task} {p : Prod} (holds : z.arrayTask c = some (t, k))
    (mine : (z.arrays c).task = some t) (drain : (z.arrays c).drain = some n) (opened : z.openProd t k false = (u, some p))
    (stored : ((u.drainTile t k p n (if (z.arrays c).bank then (z.arrays c).acc0 else (z.arrays c).acc1)).setArrays c
      { z.arrays c with drain := none, acc0 := if (z.arrays c).bank then [] else (z.arrays c).acc0,
                        acc1 := if (z.arrays c).bank then (z.arrays c).acc1 else [] }).modTask t
      (fun k => { k with round := n + 1 }) = v)
    (task : v.task t = some k') :
    z.drainDone c = if n + 1 < p.tiles || v.auditDue k' then v else v.sendDone t := by
  unfold State.drainDone
  rw [holds]
  dsimp only
  rw [drain]
  dsimp only
  rw [if_neg (not_not_intro mine), opened]
  dsimp only
  rw [stored, task]

/-- Settles O14: each command by its guards; the waiting is `awaitBoundary`'s. -/
theorem arrayCommands : Obligations.ArrayCommands := by
  intro c t k s u p a z
  refine ⟨fun ac holds may opened some' tiles => ⟨fun issued mine tile unit => tries_of_effect ?unit,
      fun new tile unit => tries_of_effect ?first⟩,
    fun holds mine opened => ⟨fun free tile unit => tries_of_effect ?tile, fun n k' drain task => tries_of_effect ?drain⟩,
    fun task due noReport opened rounds => tries_of_effect ?audit⟩
  case unit => exact State.kUnitStart_of_issued holds may opened some' tiles issued mine tile unit
  case first => exact State.kUnitStart_of_new holds may opened some' tiles new rfl tile unit
  case tile =>
    have holds : z.arrayTask c.val = some (t, k) := holds
    have own : ¬ ((z.arrays c.val).task ≠ some t ∨ (z.arrays c.val).drain.isSome = true) := by
      rintro (other | drains)
      · exact other mine
      · have free : (z.arrays c.val).drain = none := free
        rw [free] at drains
        cases drains
    have last : ¬ (p.tiles ≤ a.tile ∨ a.unit < p.units) := by omega
    change z.tileDone c.val = _
    unfold State.tileDone
    rw [holds]
    dsimp only
    rw [if_neg own, opened]
    simp only [Bool.or_eq_true, decide_eq_true_eq]
    exact if_neg last
  case drain => exact State.drainDone_of_drain holds mine drain opened rfl task
  case audit =>
    have task : z.task t = some k := task
    have noReport : z.flight.any (fun x => match x.m with | .unitDone y _ _ => decide (y = t) | _ => false) = false := noReport
    change z.auditTileCmd t = _
    unfold State.auditTileCmd
    rw [task]
    dsimp only
    rw [due, opened]
    exact (if_neg (Bool.eq_false_iff.mp noReport)).trans (if_neg (Nat.not_lt.mpr rounds))

/-! ## Descriptors on a cluster -/

/-- A product on the arrays runs as one unit. -/
theorem State.matmulRun_of_arrays {s : State} {t : Nat} {k : Task} (op : Nat) (task : s.task t = some k) (arrays : k.route = false) :
    s.matmulRun t op = s.runUnit t op (fun s k => s.productRun t k) := by
  unfold State.matmulRun
  rw [task]
  dsimp only
  rw [arrays]
  rfl

/-- A product on the banks completes in every stack that holds it. -/
theorem State.matmulRun_of_banks {s : State} {t op : Nat} {k : Task} (task : s.task t = some k) (banks : k.route = true)
    (running : k.phase = .running) (opcode : twOpcode k.w = op) :
    s.matmulRun t op = (uniq ((s.chansWith t).map (·.1))).foldl (fun u st => u.bankComplete st t) s := by
  unfold State.matmulRun
  rw [task]
  dsimp only
  rw [banks, if_pos rfl, if_pos ⟨running, opcode⟩]

theorem tries_matmulRun {s : State} {t op : Nat} {k : Task} (task : s.task t = some k) (running : k.phase = .running)
    (arrays : k.route = false) (unissued : k.issued = false) (opcode : twOpcode k.w = op) :
    tries (.next (s.matmulRun t op)) s
      (reported (((fresh s).putTask t { k with issued := true }).productRun t k) t) := by
  rw [State.matmulRun_of_arrays op task arrays]
  exact tries_runUnit _ task running unissued opcode

/-- A round of strips of the vector descriptor that holds a cluster. -/
theorem State.vecRound_of_holder {z u : State} {c a t : Nat} {k : Task} {l : List (Nat × Opnd)} {g : Bool}
    (holds : z.holder c .vector = some (t, k)) (running : k.phase = .running) (opcode : twOpcode k.w = 0x20)
    (may : z.mayIssue c k a = true) (opened : z.openMany t k [0, 1, 2, 3] false = (u, l, g))
    (inside : k.issued = true → 0 < k.round ∧ k.round < stripCount k.w (iterShape k.w l) * passesOf k.w) :
    z.vecRound c a = (u.putTask t { k with issued := true }).vopRun t k (if twTwin k.w then 4 else 2) := by
  have begun : (k.issued && decide (k.round = 0)) = false := by
    cases issued : k.issued with
    | false => rfl
    | true => exact decide_eq_false (Nat.pos_iff_ne_zero.mp (inside issued).1)
  have unfinished : (k.issued && decide (stripCount k.w (iterShape k.w l) * passesOf k.w ≤ k.round)) = false := by
    cases issued : k.issued with
    | false => rfl
    | true => exact decide_eq_false (Nat.not_le.mpr (inside issued).2)
  unfold State.vecRound
  rw [holds]
  dsimp only
  rw [running, opcode, may, begun, opened]
  dsimp only
  rw [unfinished]
  rfl

/-- Settles O15: one run of the unit for each opcode; products by their route. -/
theorem clusterDescriptors : Obligations.ClusterDescriptors := by
  refine ⟨fun t k s task running => ⟨fun arrays unissued => ?arrays, fun banks => ?banks⟩, runsOp_of_runOp fun _ _ => rfl,
    runsUnit_of_runUnit fun _ _ => rfl, fun c ac t k s u l g holds running opcode may opened inside => tries_of_effect ?round⟩
  case arrays =>
    exact ⟨tries_matmulRun task running arrays unissued, tries_matmulRun task running arrays unissued,
      tries_matmulRun task running arrays unissued, tries_matmulRun task running arrays unissued⟩
  case banks =>
    exact ⟨fun opcode => next_congr (State.matmulRun_of_banks task banks running opcode),
      fun opcode => next_congr (State.matmulRun_of_banks task banks running opcode),
      fun opcode => next_congr (State.matmulRun_of_banks task banks running opcode),
      fun opcode => next_congr (State.matmulRun_of_banks task banks running opcode)⟩
  case round => exact State.vecRound_of_holder holds running opcode may opened inside

end Sys2Proof.Machine
end

section
/-! Homes: requests, their regulators and a stack's schedule (R90–R93, R178, R265–R281). -/
namespace Sys2Proof.Machine
open Claims

/-! ## What an arriving message leaves as it was -/

/-- Only the messages in flight change. -/
theorem came_eq (s : State) (m : Instr) : came s m = { s with flight := (came s m).flight } := by
  unfold came
  split <;> rfl

theorem task_came (s : State) (m : Instr) (t : Nat) : (came s m).task t = s.task t := by
  rw [came_eq]
  rfl

/-! ## Requests at a home (R178, R266–R268, R281) -/

theorem State.serveReq_eq_served (s : State) (q : MemReq) : s.serveReq q = Claims.served s q := by
  unfold State.serveReq Claims.served
  cases q.kind <;> rfl

/-- Where no earlier write of its unit waits and no pair is in repair, the home's region decides. -/
theorem State.atHome_of_free {s : State} {q : MemReq} (noRepair : s.repairing q.addr q.len = [])
    (noStall : s.mm.stalled.any (fun p => p.before q) = false) :
    s.atHome q = (match regionOf q.addr with
      | .stack st => s.atStack st q
      | _ => s.serveReq q) := by
  have nothingBefore : ∀ f : MemReq → Bool, s.mm.stalled.any (fun p => p.before q && f p) = false := by
    intro f
    rw [List.any_eq_false] at noStall ⊢
    intro p hp both
    exact noStall p hp (Bool.and_eq_true_iff.mp both).1
  unfold State.atHome
  rw [noRepair]
  dsimp only
  rw [nothingBefore]
  exact if_neg Bool.false_ne_true

/-- A request that nothing holds up is served. -/
theorem State.atHome_of_clear {s : State} {q : MemReq} (free : clear s q) : s.atHome q = Claims.served s q := by
  obtain ⟨noRepair, noStall, stack⟩ := free
  rw [State.atHome_of_free noRepair noStall, ← State.serveReq_eq_served]
  split
  · next st region =>
    obtain ⟨noWrite, still⟩ := stack st region
    simp only [State.atStack, noWrite, still, Bool.false_eq_true, if_false]
  · rfl

/-- The credits of a bucket hold up no request. -/
theorem clear_setBucket {s : State} {q : MemReq} (h p : Nat) (b : Bucket) (free : clear s q) : clear (s.setBucket h p b) q := free

/-- A request at a home that answers: uncharged, or charged and with or without its credits (R268). -/
theorem presents_of_request {c : Instr} {s u : State} {q : MemReq} (command : exec c s = .next (u.request q)) : presents c s u q := by
  intro answers
  have region : u.request q = (match u.chargedPart q with
      | none => u.atHome q
      | some p =>
        if !(u.bucket (homeOf q.addr) p).enable || 20 ≤ homeOf q.addr then u.atHome q
        else if (u.bucket (homeOf q.addr) p).wait.isEmpty && (u.bucket (homeOf q.addr) p).debt = 0 &&
            creditsOf q.len ≤ (u.bucket (homeOf q.addr) p).level then
          (u.setBucket (homeOf q.addr) p { u.bucket (homeOf q.addr) p with
            level := (u.bucket (homeOf q.addr) p).level - creditsOf q.len }).atHome q
        else u.setBucket (homeOf q.addr) p { u.bucket (homeOf q.addr) p with wait := (u.bucket (homeOf q.addr) p).wait ++ [q] }) := by
    unfold State.request
    rw [answers] <;> rfl
  rw [command, region]
  refine ⟨fun uncharged free => next_congr ?uncharged, fun p charged => ?charged⟩
  case uncharged => rw [uncharged]; exact State.atHome_of_clear free
  case charged =>
    rw [charged]
    dsimp only
    refine ⟨fun off free => next_congr ?off, fun on home noWait noDebt credits free => next_congr ?on,
      fun on home few => next_congr ?few⟩
    case off =>
      have unregulated : (!(u.bucket (homeOf q.addr) p).enable || decide (20 ≤ homeOf q.addr)) = true := by simpa using off
      rw [unregulated, if_pos rfl, State.atHome_of_clear free]
    case on =>
      have regulated : (!(u.bucket (homeOf q.addr) p).enable || decide (20 ≤ homeOf q.addr)) = false := by
        simp only [on, Bool.not_true, Bool.false_or, decide_eq_false_iff_not]
        omega
      have enough : ((u.bucket (homeOf q.addr) p).wait.isEmpty && (u.bucket (homeOf q.addr) p).debt = 0 &&
          creditsOf q.len ≤ (u.bucket (homeOf q.addr) p).level) = true := by
        simp only [noWait, noDebt, credits, List.isEmpty_nil, decide_true, Bool.and_self]
      rw [regulated, if_neg Bool.false_ne_true, if_pos enough, State.atHome_of_clear (clear_setBucket _ _ _ free)]
    case few =>
      have regulated : (!(u.bucket (homeOf q.addr) p).enable || decide (20 ≤ homeOf q.addr)) = false := by
        simp only [on, Bool.not_true, Bool.false_or, decide_eq_false_iff_not]
        omega
      have short : ((u.bucket (homeOf q.addr) p).wait.isEmpty && (u.bucket (homeOf q.addr) p).debt = 0 &&
          creditsOf q.len ≤ (u.bucket (homeOf q.addr) p).level) = false := by
        simp only [Nat.not_le.mpr few, decide_false, Bool.and_false]
      rw [regulated, if_neg Bool.false_ne_true, short, if_neg Bool.false_ne_true]

/-- A write that is no core's word for the control space is a request at its home. -/
theorem State.writeAt_of_memory {s : State} {i : Issuer} {a : Nat} {data mask : List Byte} {poison : Bool}
    (first : s.postWaits i a data = false) (memory : ∀ h, i = .core h → regionOf a ≠ .control) :
    s.writeAt i a data mask poison = (s.takePost i a data).request ⟨i, .wr, a, data.length, data, mask, poison, none⟩ := by
  unfold State.writeAt
  rw [first, if_neg Bool.false_ne_true]
  dsimp only
  split
  · next h region => exact absurd region (memory h rfl)
  · rfl

/-- Settles O17: three requests, and a core's store that waits behind an earlier one. -/
theorem homeReadsAndWrites : Obligations.HomeReadsAndWrites := by
  intro i a n data mask et poison s
  exact ⟨presents_of_request rfl, presents_of_request rfl,
    fun first memory => presents_of_request (next_congr (State.writeAt_of_memory first memory)),
    fun waits => next_congr (if_pos waits)⟩

/-! ## Ranges (R265) -/

/-- Settles O16: a request runs from its write to its result. -/
theorem rangeCommands : Obligations.RangeCommands := by
  intro s h both
  refine ⟨fun idle => ⟨next_congr (if_neg ?create), next_congr (if_neg ?destroy)⟩,
    fun q asked => ⟨fun accepted create => next_congr ?inserted, fun accepted destroy => next_congr ?removed,
      fun refused => next_congr ?refused⟩⟩
  case create => rw [idle]; exact Bool.false_ne_true
  case destroy => rw [idle]; exact Bool.false_ne_true
  case inserted => simp only [State.rangeFinish, asked, accepted, create, if_true]; rfl
  case removed => simp only [State.rangeFinish, asked, accepted, destroy, if_true]; rfl
  case refused => simp only [State.rangeFinish, asked, if_neg refused]

/-! ## Responses, flushes, refills and regulators (R262, R266, R268, R281) -/

/-- A refill where nothing waits pays what is owed, and the rest of the rate adds to the level. -/
theorem State.refill_of_no_wait {s : State} {h p : Nat} (on : (s.bucket h p).enable = true) (noWait : (s.bucket h p).wait = []) :
    s.refill h p = s.setBucket h p { s.bucket h p with
      level := min (s.bucket h p).burst ((s.bucket h p).level + ((s.bucket h p).rate - (s.bucket h p).debt))
      debt := (s.bucket h p).debt - (s.bucket h p).rate, held := false, waited := min (2 ^ 48 - 1) (s.bucket h p).waited } := by
  have clocks : s.waitClocks (s.bucket h p) = (s, 0) := by
    unfold State.waitClocks
    rw [noWait]
    rfl
  unfold State.refill
  dsimp only
  rw [on, clocks, noWait]
  rfl

/-- Settles O18: the cases of a response, a line, a bucket and a stalled request. -/
theorem memoryService : Obligations.MemoryService := by
  intro s
  refine ⟨fun h r t taken => next_congr ?response, fun h b l steps => next_congr (if_pos steps),
    fun h b l still line => next_congr ?flush, fun h p on noWait => next_congr (State.refill_of_no_wait on noWait),
    fun v home on => next_congr ?regulator, fun d => rfl, fun i q t taken read => next_congr ?readOver,
    fun i q t taken noRead => next_congr ?writeOver, fun t k taken task running => next_congr ?taskOver⟩
  case response =>
    unfold State.readBack
    rw [taken]
    dsimp only
    cases r.bad <;> rfl
  case flush =>
    rw [still, if_neg Bool.false_ne_true]
    unfold State.flushBase
    rw [line]
  case regulator =>
    simp only [State.regulator, if_neg (Nat.not_le.mpr home), on, Bool.true_and, if_true]
    cases (s.bucket (s.fld .memRegSel 0 8 4) (s.fld .memRegSel 0 3 0)).enable <;> rfl
  case readOver =>
    unfold State.stallOver
    rw [taken]
    dsimp only
    rw [read]
  case writeOver =>
    unfold State.stallOver
    rw [taken]
    dsimp only
    split
    · next read => exact absurd read noRead
    · rfl
  case taskOver =>
    unfold State.stallOver
    rw [taken]
    dsimp only [State.modTask]
    rw [task]
    dsimp only
    rw [if_pos running]

/-! ## The schedule of a stack (R90–R93, R95) -/

/-- A refresh that falls due, within 8 REF and with no injection armed. -/
theorem State.refreshDue_of_within {s u : State} {st ch : Nat} (owed : s.modChan st ch (fun c => { c with debt := c.debt + 1 }) = u)
    (noInjection : s.injEvent 4 st = false) (within : (u.chan st ch).debt ≤ 8) :
    s.refreshDue st ch = if (u.chan st ch).steps then u.showDebt st else ((u.payDebt st ch).showDebt st).chanNext st ch := by
  unfold State.refreshDue
  dsimp only
  rw [noInjection, owed, if_neg Bool.false_ne_true, Bool.false_or, decide_eq_false (not_lt.mpr within), if_neg Bool.false_ne_true]

/-- An ordinary request of the stack that neither a repair nor an earlier write of its unit holds up. -/
theorem State.ordinary_of_free {s : State} {st : Nat} {q : MemReq} (mine : regionOf q.addr = .stack st)
    (noRepair : s.repairing q.addr q.len = []) (noStall : s.mm.stalled.any (fun p => p.before q) = false)
    (noWrite : s.ordBehind st q = none) :
    s.ordinary st q = if s.stepping q.addr then s.pushOrd st (stackPos q.addr).ch q else s.serveReq q := by
  rw [State.ordinary, if_neg (not_not_intro mine), State.atHome_of_free noRepair noStall, mine]
  dsimp only [State.atStack]
  rw [noWrite]

/-- Settles O11: each command by its guards. -/
theorem stackSchedule : Obligations.StackSchedule := by
  intro st ch s
  refine ⟨fun noInjection within => ⟨fun steps => next_congr ?owed, fun still => next_congr ?paid⟩,
    fun on shown ready => next_congr (if_neg ?scrub), fun v => next_congr ?arb, fun iss addr len data write =>
      ⟨fun other => next_congr (if_pos other), fun mine => next_congr (if_neg (not_not_intro mine)),
        fun mine noRepair noStall noWrite => next_congr (State.ordinary_of_free mine noRepair noStall noWrite)⟩⟩
  case owed => rw [State.refreshDue_of_within rfl noInjection within, if_pos steps]
  case paid =>
    rw [State.refreshDue_of_within rfl noInjection within, if_neg]
    rw [still]
    exact Bool.false_ne_true
  case scrub =>
    have interval : ¬ s.fld .stkScrubCfg st.val 31 0 = 0 := by omega
    simp only [interval, shown, ready, decide_false, Bool.not_true, Bool.or_self, Bool.false_eq_true, not_false_eq_true]
  case arb =>
    have low : wb v 7 0 = v.toNat % 256 := by simp only [wb, bits, pow_zero, Nat.div_one]; rfl
    rw [State.arbCfg, low]

/-! ## Bank descriptors (R76, R90, R92) -/

/-- Settles O12: an issue, a boundary, and a completion where every channel of the stack steps the descriptor. -/
theorem bankDescriptors : Obligations.BankDescriptors := by
  intro st ch t k s
  refine ⟨fun free task running banks absent => exec_arrive _ rfl free ?issue, fun noPass => next_congr (if_neg ?boundary),
    fun task running banks steps some' noIssue => next_congr ?complete, fun idle => next_congr ?waits⟩
  case issue =>
    have task : (came s (.bankDescriptorIssue st ch t)).task t = some k := (task_came s _ t).trans task
    dsimp only [State.bankIssue]
    rw [task]
    dsimp only
    rw [if_neg]
    simp only [running, banks, absent, ne_eq, not_true, decide_false, Bool.not_true, Bool.or_self, Bool.false_eq_true,
      not_false_eq_true]
  case boundary =>
    rw [noPass]
    exact Bool.false_ne_true
  case complete =>
    have nonempty : (s.stackChans st.val t).isEmpty = false := by simpa using some'
    unfold State.bankComplete
    rw [task]
    dsimp only
    rw [if_neg]
    · rfl
    · simp only [running, banks, steps, nonempty, noIssue, ne_eq, not_true, decide_false, Bool.not_true, Bool.or_self,
        Bool.false_eq_true, not_false_eq_true]
  case waits =>
    unfold State.bankComplete
    split
    · rfl
    · dsimp only
      rw [if_pos]
      simp only [idle, Bool.not_false, Bool.or_true, Bool.true_or]

end Sys2Proof.Machine
end

section
/-! Graph execution: glints, contexts, tensors and the ends of descriptors (R134–R137, R143–R147, R152–R156, R164, R176). -/
namespace Sys2Proof.Machine
open Claims

/-! ## Glint slots (R144–R147) -/

/-- A signal at the epoch of an armed slot. -/
theorem State.signal_of_armed {s : State} {f slot : Nat} {ep : BitVec 16} (failed : Bool) (armed : s.glint f slot = ⟨ep, 0⟩) :
    s.signal f slot ep.toNat failed = s.setGlint f slot ⟨ep, if failed then 2 else 1⟩ := by
  unfold State.signal
  rw [armed]
  exact if_pos ⟨rfl, rfl⟩

/-- Any other signal is a duplicate. -/
theorem State.signal_of_other {s : State} {f slot : Nat} {ep : BitVec 16} (failed : Bool)
    (other : (s.glint f slot).st ≠ 0 ∨ (s.glint f slot).epoch ≠ ep) : s.signal f slot ep.toNat failed = s.bump .schGlintDup f 1 := by
  refine if_neg fun ⟨armed, same⟩ => ?_
  rcases other with notArmed | early
  · exact notArmed armed
  · exact early (BitVec.eq_of_toNat_eq same)

theorem State.rearm_of_next {s : State} {f slot ep : Nat} (done : (s.glint f slot).st ≠ 0)
    (next : ep = ((s.glint f slot).epoch.toNat + 1) % 65536) :
    s.rearm f slot ep = (s.setGlint f slot ⟨BitVec.ofNat 16 ep, 0⟩, true) :=
  if_pos ⟨done, next⟩

theorem State.rearm_of_other {s : State} {f slot ep : Nat}
    (other : (s.glint f slot).st = 0 ∨ ep ≠ ((s.glint f slot).epoch.toNat + 1) % 65536) : s.rearm f slot ep = (s, false) :=
  if_neg fun ⟨done, next⟩ => other.elim done fun early => early next

/-- An exported slot that no context owns takes signals and re-arms. -/
theorem State.exportOp_of_free {s : State} {f slot : Nat} (ep op : Nat) (free : s.slotOwner f slot = none) :
    s.exportOp f slot ep op = (match op with
      | 0 => s.signal f slot ep false
      | 1 => s.signal f slot ep true
      | 2 => if (s.rearm f slot ep).2 then (s.rearm f slot ep).1 else (s.rearm f slot ep).1.bump .schGlintDup f 1
      | _ => s.bump .schGlintDup f 1) := by
  unfold State.exportOp
  rw [free]
  rfl

theorem State.exportOp_of_owned {s : State} {f slot : Nat} (ep op : Nat) (owned : s.slotOwner f slot ≠ none) :
    s.exportOp f slot ep op = s.bump .schGlintDup f 1 :=
  if_pos (Option.isSome_iff_ne_none.mpr owned)

theorem Task.fail_field (k : Task) (st d : Nat) : (k.fail st d).field = k.field := by
  unfold Task.fail
  split <;> rfl

theorem Task.fail_units (k : Task) (st d : Nat) : (k.fail st d).units = k.units := by
  unfold Task.fail
  split <;> rfl

/-- What a unit's report makes of its descriptor, before it counts (R155). -/
def Task.reportedBy (k : Task) : UnitRep → Task
  | .done => k
  | .poison => { k with poison := true, everPoison := true }
  | .error st d => k.fail st.toNat d.toNat

theorem State.unitReport_of_running {s : State} {t : Nat} {k : Task} (r : UnitRep) (task : s.task t = some k) (running : k.phase = .running) :
    s.unitReport t r = if (k.reportedBy r).units - 1 = 0
      then (((s.putTask t { k.reportedBy r with units := (k.reportedBy r).units - 1 }).atomsBack t (k.reportedBy r).field).kvEngLeave t).allDone t
      else s.putTask t { k.reportedBy r with units := (k.reportedBy r).units - 1 } := by
  unfold State.unitReport
  rw [task]
  dsimp only
  rw [if_neg (not_not_intro running)]
  cases r <;> rfl

theorem State.unitReport_of_last {s : State} {t : Nat} {k : Task} {r : UnitRep} (task : s.task t = some k) (running : k.phase = .running)
    (last : (k.reportedBy r).units = 1) :
    s.unitReport t r =
      (((s.putTask t { k.reportedBy r with units := 0 }).atomsBack t (k.reportedBy r).field).kvEngLeave t).allDone t := by
  have none' : (k.reportedBy r).units - 1 = 0 := by omega
  rw [State.unitReport_of_running r task running, none', if_pos rfl]

theorem State.unitReport_of_earlier {s : State} {t : Nat} {k : Task} {r : UnitRep} (task : s.task t = some k)
    (running : k.phase = .running) (earlier : 1 < (k.reportedBy r).units) :
    s.unitReport t r = s.putTask t { k.reportedBy r with units := (k.reportedBy r).units - 1 } := by
  rw [State.unitReport_of_running r task running, if_neg (by omega)]

/-- The answer to a GARM is its unit's last report. -/
theorem State.garmAnswered_of_running {s : State} {t : Nat} {k : Task} (ok : Bool) (task : s.task t = some k)
    (running : k.phase = .running) (last : k.units = 1) :
    s.garmAnswered t ok =
      (((s.putTask t { (if ok then k else k.fail 0x13 0) with units := 0 }).atomsBack t k.field).kvEngLeave t).allDone t := by
  cases ok with
  | true => exact State.unitReport_of_last task running last
  | false =>
    refine (State.unitReport_of_last (r := .error 0x13 0) task running ((k.fail_units _ _).trans last)).trans ?_
    simp only [Task.reportedBy, Task.fail_field, Bool.false_eq_true, if_false] <;> rfl

/-- Settles O19: signals and re-arms at a slot, and the same from a register of the exported set. -/
theorem glintCommands : Obligations.GlintCommands := by
  intro f gf pool slot ep failed t s
  refine ⟨fun free => ⟨fun armed => exec_arrive _ rfl free (State.signal_of_armed failed armed),
      fun other => exec_arrive _ rfl free (State.signal_of_other failed other)⟩,
    fun free => ⟨fun done next => exec_arrive _ rfl free ?rearmed, fun other => exec_arrive _ rfl free ?refused⟩,
    fun k ok free task running last => exec_arrive _ rfl free (State.garmAnswered_of_running ok task running last),
    fun free => exec_arrive _ rfl free rfl,
    fun owned => ⟨next_congr (State.exportOp_of_owned _ _ owned), next_congr (State.exportOp_of_owned _ _ owned),
      next_congr (State.exportOp_of_owned _ _ owned)⟩,
    fun unowned => ⟨fun armed => ⟨next_congr ?done, next_congr ?failed⟩, fun done next => next_congr ?exported,
      fun other => next_congr ?exportRefused⟩⟩
  case rearmed =>
    unfold State.rearmFor
    rw [State.rearm_of_next done next]
  case refused =>
    unfold State.rearmFor
    rw [State.rearm_of_other other]
  case done => exact (State.exportOp_of_free _ _ unowned).trans (State.signal_of_armed false armed)
  case failed => exact (State.exportOp_of_free _ _ unowned).trans (State.signal_of_armed true armed)
  case exported =>
    refine (State.exportOp_of_free _ _ unowned).trans ?_
    rw [State.rearm_of_next done next]
    exact if_pos rfl
  case exportRefused =>
    refine (State.exportOp_of_free _ _ unowned).trans ?_
    rw [State.rearm_of_other other]
    exact if_neg Bool.false_ne_true

/-! ## The ends of descriptors (R152–R156, R164, R170, R176, R178) -/

/-- An acknowledgement that is not the last one only counts. -/
theorem State.writeAcked_of_more {s : State} {i : Issuer} {key : Nat} (counted : ackKey i = some key) (more : 1 < s.acksOf key) :
    s.writeAcked i = s.setAcks key (s.acksOf key - 1) := by
  unfold State.writeAcked
  rw [counted]
  exact if_pos (by omega)

/-- The last acknowledgement of a core completes its FENCE. -/
theorem State.writeAcked_of_last_core {s : State} {h : Hart} (last : s.acksOf h.val = 1) :
    s.writeAcked (.core h) =
      { s.setAcks h.val 0 with io := { (s.setAcks h.val 0).io with fence := (s.setAcks h.val 0).io.fence.filter (· ≠ h.val) } } := by
  dsimp only [State.writeAcked, ackKey]
  rw [last, if_neg (by decide)]

/-- The last acknowledgement of a descriptor lets go on what waits for it. -/
theorem State.writeAcked_of_last_task {s : State} {t : Nat} (last : s.acksOf (16 + t) = 1) :
    s.writeAcked (.task t) = (s.setAcks (16 + t) 0).acked t := by
  dsimp only [State.writeAcked, ackKey]
  rw [last, if_neg (by decide)]

/-- What a descriptor's last acknowledgement does, by the phase that waits for it. -/
theorem State.acked_of_task {s : State} {t : Nat} {k : Task} (task : s.task t = some k) :
    s.acked t = (match k.phase with
      | .doneWait => (s.readyShards t).allDone t
      | .recWait => (s.readyShards t).closeTask t k k.dead.isSome
      | .killWait => (s.readyShards t).sendOnce k.owner k.owner (.killedWritesAcked t)
      | _ => s.readyShards t) := by
  unfold State.acked
  rw [task] <;> rfl

/-- The end of a kill, with what the attempt held discarded. -/
theorem State.killDone_of_killed {s : State} {t : Nat} {k : Task} (task : s.task t = some k) (killed : k.phase = .killed) :
    s.killDone t = (let v := (s.discard t k).kvLeave t k
      if (match v.ctx k.ctx with
        | some c => c.dying
        | none => false) then (v.modTask t (fun k => { k with counts := counts0 })).endCore t 0x20 0
      else if v.acksOf (16 + t) = 0 then (v.putTask t k.again).whenReady t
      else v.putTask t { k.again with phase := .killWait }) := by
  unfold State.killDone
  rw [task]
  exact if_neg (not_not_intro killed)

theorem dying_iff (o : Option Ctx) : (match o with
    | some c => c.dying
    | none => false) = true ↔ o.map (·.dying) = some true := by
  cases o with
  | none => simp
  | some c => simp

/-- Settles O20: each end of an attempt by what waits for it. -/
theorem descriptorEnds : Obligations.DescriptorEnds := by
  intro t s
  refine ⟨fun rep same k free task running => ⟨fun last => exec_arrive _ rfl free ?last, fun earlier => exec_arrive _ rfl free ?earlier⟩,
    fun h free => ⟨fun more => exec_arrive _ rfl free (State.writeAcked_of_more rfl more),
      fun last => exec_arrive _ rfl free (State.writeAcked_of_last_core last)⟩,
    fun d free => exec_arrive _ rfl free rfl,
    fun free => ⟨fun more => exec_arrive _ rfl free (State.writeAcked_of_more rfl more), fun k last task =>
      ⟨fun phase => exec_arrive _ rfl free ?committed, fun phase => exec_arrive _ rfl free ?closed,
        fun phase => exec_arrive _ rfl free ?unkilled⟩⟩,
    fun k free task killed => ⟨fun dying => exec_arrive _ rfl free ?torn, fun alive noWrites => exec_arrive _ rfl free ?again,
      fun alive writes => exec_arrive _ rfl free ?waits⟩,
    fun k free task waiting noWrites => exec_arrive _ rfl free ?ready,
    fun slot k free task => exec_arrive _ rfl free ?released,
    fun k v isl task phase island => next_congr ?overrun,
    fun x c free ctx dying notTorn noTasks => exec_arrive _ rfl free ?teardown⟩
  case last => cases rep <;> exact State.unitReport_of_last task running last
  case earlier => cases rep <;> exact State.unitReport_of_earlier task running earlier
  case committed =>
    refine (State.writeAcked_of_last_task last).trans ((State.acked_of_task (s := (came s _).setAcks (16 + t) 0) task).trans ?_)
    rw [phase]
  case closed =>
    refine (State.writeAcked_of_last_task last).trans ((State.acked_of_task (s := (came s _).setAcks (16 + t) 0) task).trans ?_)
    rw [phase]
  case unkilled =>
    refine (State.writeAcked_of_last_task last).trans ((State.acked_of_task (s := (came s _).setAcks (16 + t) 0) task).trans ?_)
    rw [phase]
  case torn => exact (State.killDone_of_killed task killed).trans (if_pos ((dying_iff _).mpr dying))
  case again =>
    exact (State.killDone_of_killed task killed).trans ((if_neg (mt (dying_iff _).mp alive)).trans (if_pos noWrites))
  case waits =>
    exact (State.killDone_of_killed task killed).trans ((if_neg (mt (dying_iff _).mp alive)).trans (if_neg writes))
  case ready =>
    dsimp only [State.killAcked]
    rw [task]
    exact if_pos ⟨waiting, noWrites⟩
  case released =>
    dsimp only [State.released]
    rw [task]
  case overrun =>
    unfold State.overrun
    rw [task]
    dsimp only
    rw [if_pos phase, island]
  case teardown =>
    dsimp only [State.tornDown]
    rw [ctx]
    refine if_neg ?_
    simpa [dying, noTasks] using notTorn

/-! ## Contexts (R137, R138, R159) -/

theorem State.ctxFinish_of_idle {s : State} {f : Nat} (idle : (s.fieldAt f).cx = none) : s.ctxFinish f = s := by
  unfold State.ctxFinish
  rw [idle]

/-- A write of SCH_CTX_CTL that asks for something, at an idle checker. -/
theorem State.ctxStart_of_idle {s : State} {f : Nat} {v : Word} (idle : (s.fieldAt f).cx = none)
    (asks : wbit v 10 = true ∨ wbit v 11 = true) :
    s.ctxStart f v = (s.setBit .schCtxStat f 0 false).modField f (fun t => { t with cx := some ⟨wb v 9 0, wbit v 10, wbit v 11,
      (List.range 4).map (fun i => (s.setBit .schCtxStat f 0 false).reg .schCtxStage f i)⟩ }) := by
  unfold State.ctxStart
  rw [State.ctxFinish_of_idle idle]
  refine if_neg ?_
  rcases asks with create | destroy
  · simp [create]
  · simp [destroy]

/-- The checker's answer to a context request. -/
theorem State.ctxFinish_of_request {s u w : State} {f : Nat} {q : CxReq} (asked : (s.fieldAt f).cx = some q)
    (idle : s.modField f (fun t => { t with cx := none }) = u)
    (answered : (u.setFld .schCtxStat f 3 1 (u.ctxReason f q)).setBit .schCtxStat f 0 true = w) :
    s.ctxFinish f = if u.ctxReason f q ≠ 0 then w
      else if q.create then
        (List.range (cwGCount q.words)).foldl (fun s i => s.setGlint f (cwGBase q.words + i) ⟨0, 0⟩) (w.setCtx q.ctx (some (newCtx f q.words)))
      else { w.setCtx q.ctx none with sc := { (w.setCtx q.ctx none).sc with
        tens := (w.setCtx q.ctx none).sc.tens.filter (fun p => decide (p.1 / 65536 ≠ q.ctx)) } } := by
  subst idle answered
  unfold State.ctxFinish
  rw [asked]

/-- Settles O21: a request's start, the three answers, and a doorbell inside its ring. -/
theorem contextCommands : Obligations.ContextCommands := by
  intro f v s
  refine ⟨fun idle => ⟨fun create => next_congr ?create, fun destroy => next_congr ?destroy⟩,
    fun q asked => ⟨fun accepted create => next_congr ?created, fun accepted destroy => next_congr ?destroyed,
      fun refused => next_congr ?refused⟩, fun c ctx mine alive room new => next_congr ?doorbell⟩
  case create =>
    refine (State.ctxStart_of_idle idle (.inl create)).trans ?_
    rw [create]
  case destroy =>
    refine (State.ctxStart_of_idle idle (.inr destroy)).trans ?_
    rw [destroy]
  case created =>
    refine (State.ctxFinish_of_request asked rfl rfl).trans ((if_neg (not_not_intro accepted)).trans (if_pos create))
  case destroyed =>
    refine (State.ctxFinish_of_request asked rfl rfl).trans ((if_neg (not_not_intro accepted)).trans (if_neg ?_))
    rw [destroy]
    exact Bool.false_ne_true
  case refused => exact (State.ctxFinish_of_request asked rfl rfl).trans (if_pos refused)
  case doorbell =>
    unfold State.ring
    dsimp only
    rw [ctx]
    dsimp only
    rw [if_neg, if_pos new]
    simp only [mine, alive, Nat.not_lt.mpr room, ne_eq, not_true, decide_false, Bool.or_self, Bool.false_eq_true, not_false_eq_true]

/-! ## Tensors (R134–R136, R148) -/

/-- The checker's answer to a destruction of a handle of its own field's context. -/
theorem State.tdFinish_of_destroy {s u : State} {f : Nat} {q : TdReq} {c : Ctx} (asked : (s.fieldAt f).td = some q) (next : s.tdNext f = u)
    (destroy : q.destroy = true) (ctx : u.ctx q.ctx = some c) (mine : c.field = f) :
    s.tdFinish f = ((((u.setValid q.ctx q.handle false).staleCopies q.ctx q.handle).setBit .schTdResult f 0 true).setFld
      .schTdResult f 15 8 0).setFld .schTdResult f 47 16 0 := by
  unfold State.tdFinish
  rw [asked]
  dsimp only
  rw [if_pos destroy, next, ctx]
  dsimp only
  rw [if_pos mine]

/-- The checker's answer to a creation that it refuses or accepts with reason r. -/
theorem State.tdFinish_of_create {s u x : State} {f r : Nat} {q : TdReq} {e : List Word} (asked : (s.fieldAt f).td = some q)
    (next : s.tdNext f = u) (create : q.destroy = false) (checked : u.creationCheck f q.ctx q.handle q.words = (x, r, e)) :
    s.tdFinish f = (let y := if r = 0 then x else x.bump .schTdRefused f 1
      match q.task with
      | some t => (y.modTask t (fun k => if r = 0 then { k with entries := [e] } else k.fail r 0)).sendDone t
      | none => (((if r = 0 then (y.writeEntry q.ctx q.handle e).staleCopies q.ctx q.handle else y).setBit .schTdResult f 0 true).setFld
          .schTdResult f 15 8 r).setFld .schTdResult f 47 16 (if r = 0 then teSize e (teRank e - 1) else 0)) := by
  unfold State.tdFinish
  rw [asked]
  dsimp only
  rw [create, if_neg Bool.false_ne_true, next, checked] <;> rfl

/-- Settles O22: a request's start, a destruction, and a creation for a register or for a graph. -/
theorem tensorCommands : Obligations.TensorCommands := by
  intro f v s
  refine ⟨fun notBusy idle => ⟨next_congr ?create, next_congr ?destroy⟩, fun q u x c r e asked next =>
    ⟨fun destroy ctx mine => next_congr (State.tdFinish_of_destroy asked next destroy ctx mine), fun create checked =>
      ⟨fun accepted fromRegister => next_congr ?written, fun refused fromRegister => next_congr ?refused,
        fun t accepted fromGraph => next_congr ?handed, fun t refused fromGraph => next_congr ?failed⟩⟩⟩
  case create =>
    dsimp only [State.tdWrite, State.tdSubmit]
    rw [notBusy, if_neg Bool.false_ne_true, idle]
  case destroy =>
    dsimp only [State.tdWrite, State.tdSubmit]
    rw [notBusy, if_neg Bool.false_ne_true, idle]
  case written =>
    rw [State.tdFinish_of_create asked next create checked, fromRegister]
    simp only [accepted, if_true]
  case refused =>
    rw [State.tdFinish_of_create asked next create checked, fromRegister]
    simp only [refused, if_false]
  case handed =>
    rw [State.tdFinish_of_create asked next create checked, fromGraph]
    simp only [accepted, if_true]
  case failed =>
    rw [State.tdFinish_of_create asked next create checked, fromGraph]
    simp only [refused, if_false]

end Sys2Proof.Machine
end

section
/-! The field scheduler and residency (R101, R139, R149–R151, R161, R171–R177). -/
namespace Sys2Proof.Machine
open Claims

/-! ## Fetch and dispatch (R139, R149–R151) -/

/-- The field's turn goes to the context that is next. -/
theorem State.fetchField_of_next {s : State} {f x : Nat} (turn : (s.settle f).fetchNext f = some x) :
    s.fetchField f = (((s.settle f).modField f (fun v => { v with rr := x })).fetchTurn f x 8).settle f := by
  unfold State.fetchField
  dsimp only
  rw [turn]

/-- The ready descriptors that a cluster considers for an engine (R149, R328). -/
def State.dispatchable (s : State) (c e : Nat) : List (Nat × Task) :=
  s.sc.tasks.filter (fun p => selectable p.2 && decide (twHome p.2.w = c) && !p.2.inPool &&
    !(decide (bits (s.gate c) 4 0 = 0) && s.bestOf p.2.ctx && engOf (twOpcode p.2.w) != Eng.none) &&
    (match engOf (twOpcode p.2.w) with
      | .arrays | .vector | .copy => engOf (twOpcode p.2.w) == engNo e
      | _ => true))

/-- The state in which a cluster dispatches: a latency-critical candidate has killed a killable best-effort holder (R163). -/
def State.preempted (s : State) (c e : Nat) : State :=
  match s.bestTask ((s.dispatchable c e).filter (fun p => engOf (twOpcode p.2.w) == engNo e)), s.holder c (engNo e) with
  | some p, some h => if !s.bestOf p.2.ctx && s.bestOf h.2.ctx && !h.2.nkRun && h.2.phase == Phase.running
      then s.killTask h.1 true else s
  | _, _ => s

theorem State.dispatchAt_eq (s : State) (c e : Nat) : s.dispatchAt c e = if decide (s.twinState c = 1) then s
    else match (s.preempted c e).bestTask ((s.dispatchable c e).filter (fun p => (s.preempted c e).engineFree c p.2)) with
      | none => s.preempted c e
      | some p => ((s.preempted c e).dispatchTask p.1).settle (c / 12) := rfl

theorem State.preempted_of_free {s : State} {c e : Nat} (free : s.holder c (engNo e) = none) : s.preempted c e = s := by
  unfold State.preempted
  rw [free]
  cases s.bestTask ((s.dispatchable c e).filter (fun p => engOf (twOpcode p.2.w) == engNo e)) <;> rfl

/-- A cluster that is not forming and whose engine nothing holds dispatches its best candidate. -/
theorem State.dispatchAt_of_free {s : State} {c e : Nat} {p : Nat × Task} (formed : s.twinState c ≠ 1)
    (free : s.holder c (engNo e) = none) (best : s.bestTask ((s.dispatchable c e).filter (fun p => s.engineFree c p.2)) = some p) :
    s.dispatchAt c e = (s.dispatchTask p.1).settle (c / 12) := by
  rw [State.dispatchAt_eq, State.preempted_of_free free, decide_eq_false formed, if_neg Bool.false_ne_true, best]

/-- The route pool hands its best descriptor to its home scoreboard. -/
theorem State.poolDispatch_of_arrays {s u : State} {f t : Nat} {k k1 : Task}
    (best : s.bestTask (s.sc.tasks.filter (fun p => selectable p.2 && decide (p.2.field = f) && p.2.inPool)) = some (t, k))
    (sampled : s.sample t = (u, none)) (task : u.task t = some k1) (arrays : u.routeOf k1 = some false) :
    s.poolDispatch f = ((u.putTask t { k1 with phase := .handoff }).countDispatch t 0).send (48 + f) (twHome k1.w) (.routeHandoff t) := by
  unfold State.poolDispatch
  dsimp only
  rw [best]
  dsimp only
  rw [sampled]
  dsimp only
  rw [task]
  dsimp only
  rw [arrays]

/-- The route pool issues its best descriptor to the banks. -/
theorem State.poolDispatch_of_banks {s u v : State} {f t : Nat} {k k1 k2 : Task}
    (best : s.bestTask (s.sc.tasks.filter (fun p => selectable p.2 && decide (p.2.field = f) && p.2.inPool)) = some (t, k))
    (sampled : s.sample t = (u, none)) (task : u.task t = some k1) (banks : u.routeOf k1 = some true)
    (counted : u.sampleCounts t = (v, false)) (task' : v.task t = some k2) (passes : v.dispatchFail k2 = none) :
    s.poolDispatch f = (v.issueBanks t).settle f := by
  unfold State.poolDispatch
  dsimp only
  rw [best]
  dsimp only
  rw [sampled]
  dsimp only
  rw [task]
  dsimp only
  rw [banks]
  dsimp only
  rw [counted]
  dsimp only
  rw [if_neg Bool.false_ne_true, task']
  dsimp only
  rw [passes]
  rfl

/-- The header of a gathered product gives its count. -/
theorem State.headerRead_of_good {x u v : State} {t n o : Nat} {k : Task} {es : List (List Word)} (task : x.task t = some k)
    (phase : k.phase = .header) (entries : (if k.stale then x.readEntries k.ctx k.w 0 else (x, k.entries, none)) = (u, es, none))
    (bound : teBound (es.getD 0 []) = true) (index : teIsIndex (es.getD 5 []) = true)
    (sampled : u.sampleCount t k.field (es.getD 5 []) = (v, some (n, o, false))) :
    x.headerRead t = v.modTask t (fun k => { k with
      phase := .placed, gcount := mapPut k.gcount 0 n, counts := { k.counts with irange := k.counts.irange + o } }) := by
  unfold State.headerRead
  rw [task]
  dsimp only
  rw [if_neg (not_not_intro phase), entries]
  dsimp only
  rw [bound, index, sampled]
  rfl

/-- Settles O23: each turn by the candidate that it finds. -/
theorem fetchAndDispatch : Obligations.FetchAndDispatch := by
  intro f s z
  refine ⟨fun open' => ⟨fun x turn => next_congr ?fetch, fun c e p formed free best => ?dispatch,
      fun t k k1 k2 u v best sampled task => ⟨fun arrays => ?handoff, fun banks counted task' passes => ?banks⟩⟩,
    fun t k u v es n o free task phase entries bound index sampled => tries_of_effect ?header,
    fun t k free task phase => exec_arrive _ rfl free ?arrived⟩
  case fetch =>
    rw [open', if_neg Bool.false_ne_true]
    exact State.fetchField_of_next turn
  case dispatch =>
    have command : exec (.dispatch c e) s = .next (s.awaitBoundary (fun s => s.dispatchAt c.val e.val)) :=
      next_congr (if_neg (Bool.eq_false_iff.mp open'))
    rw [command]
    exact tries_of_effect (State.dispatchAt_of_free (s := z) formed free best)
  case handoff =>
    have command : exec (.routePoolDispatch f) s = .next (s.awaitBoundary (fun s => s.poolDispatch f.val)) :=
      next_congr (if_neg (Bool.eq_false_iff.mp open'))
    rw [command]
    exact tries_of_effect (State.poolDispatch_of_arrays (s := z) best sampled task arrays)
  case banks =>
    have command : exec (.routePoolDispatch f) s = .next (s.awaitBoundary (fun s => s.poolDispatch f.val)) :=
      next_congr (if_neg (Bool.eq_false_iff.mp open'))
    rw [command]
    exact tries_of_effect (State.poolDispatch_of_banks (s := z) best sampled task banks counted task' passes)
  case header =>
    exact (State.arrive_of_mayCome (s := z) _ free).trans (State.headerRead_of_good task phase entries bound index sampled)
  case arrived =>
    unfold State.handedOff
    rw [task]
    exact if_pos phase

/-- Settles O24: the work of each opcode runs in the field. -/
theorem fieldDescriptors : Obligations.FieldDescriptors :=
  ⟨runsUnit_of_runUnit fun _ _ => rfl, runsUnit_of_runUnit fun _ _ => rfl, runsOp_of_runOp fun _ _ => rfl, runsOp_of_runOp fun _ _ => rfl⟩

/-! ## SCH_RES_CTL (R171, R176, R177) -/

theorem State.fieldCtx_of_mine {s : State} {f x : Nat} {c : Ctx} (ctx : s.ctx x = some c) (mine : c.field = f) :
    s.fieldCtx f x = some c := by
  unfold State.fieldCtx
  rw [ctx]
  exact if_pos mine

theorem State.fieldCtx_of_other {s : State} {f x : Nat} {c : Ctx} (ctx : s.ctx x = some c) (other : c.field ≠ f) :
    s.fieldCtx f x = none := by
  unfold State.fieldCtx
  rw [ctx]
  exact if_neg other

/-- Settles O25: each operation on a context of its field, and the refusals. -/
theorem residencyCommands : Obligations.ResidencyCommands := by
  intro f x s refused u
  refine ⟨fun c ctx mine => ⟨fun alive blocked unpinned enabled idle => next_congr ?evict, fun bad => next_congr ?evictBad⟩,
    fun c ctx other => next_congr ?evictOther,
    fun c ctx mine => ⟨fun critical => next_congr ?pin, fun best => next_congr ?pinBest, next_congr ?unpin,
      fun alive out notHeld slot idle => next_congr ?admission, fun full => next_congr ?admitFull, fun up => next_congr ?tear⟩,
    fun c ctx other => ⟨next_congr ?pinOther, next_congr ?unpinOther, next_congr ?admitOther, next_congr ?tearOther⟩⟩
  case evict =>
    unfold State.evictOp
    dsimp only
    rw [State.fieldCtx_of_mine ctx mine]
    dsimp only
    rw [if_neg, if_pos idle]
    · rfl
    · rintro (h | h | h | h)
      · exact h blocked
      · exact Bool.false_ne_true (unpinned.symm.trans h)
      · exact Bool.false_ne_true (alive.symm.trans h)
      · exact enabled h
  case evictBad =>
    unfold State.evictOp
    dsimp only
    rw [State.fieldCtx_of_mine ctx mine]
    refine if_pos ?_
    rcases bad with h | h | h | h
    · exact .inr (.inr (.inl h))
    · exact .inl h
    · exact .inr (.inl h)
    · exact .inr (.inr (.inr h))
  case evictOther =>
    unfold State.evictOp
    dsimp only
    rw [State.fieldCtx_of_other ctx other]
    rfl
  case pin =>
    unfold State.pinOp
    rw [State.fieldCtx_of_mine ctx mine]
    exact if_neg (Bool.eq_false_iff.mp critical)
  case pinBest =>
    unfold State.pinOp
    rw [State.fieldCtx_of_mine ctx mine]
    exact if_pos best
  case unpin =>
    unfold State.unpinOp
    rw [State.fieldCtx_of_mine ctx mine]
  case admission =>
    unfold State.admitOp
    rw [State.fieldCtx_of_mine ctx mine]
    refine (if_neg ?_).trans (if_pos ⟨idle, by rw [notHeld]; rfl⟩)
    simp [out, alive, slot]
  case admitFull =>
    unfold State.admitOp
    rw [State.fieldCtx_of_mine ctx mine]
    exact if_pos (.inr (.inr (by rw [full]; rfl)))
  case tear =>
    unfold State.tearOp
    rw [State.fieldCtx_of_mine ctx mine]
    exact if_neg up
  case pinOther =>
    unfold State.pinOp
    rw [State.fieldCtx_of_other ctx other]
    exact rfl
  case unpinOther =>
    unfold State.unpinOp
    rw [State.fieldCtx_of_other ctx other]
    exact rfl
  case admitOther =>
    unfold State.admitOp
    rw [State.fieldCtx_of_other ctx other]
    exact rfl
  case tearOther =>
    unfold State.tearOp
    rw [State.fieldCtx_of_other ctx other]
    exact rfl

/-! ## The swap engine (R171–R175) -/

/-- An idle engine brings the first runnable context in where a slot in its share is free. -/
theorem State.swapSel_of_slot {s w : State} {f x : Nat} {c : Ctx} (settled : s.settle f = w) (idle : (w.fieldAt f).swap = .idle)
    (first : w.nextIn f = some (x, c)) (slot : w.slotFree f (cwBest c.cw) = true) :
    s.swapSel f = (w.setBit .schSwapStat f 1 false).startIn f x := by
  unfold State.swapSel
  dsimp only
  rw [settled, if_neg (not_not_intro idle), first]
  exact if_pos slot

/-- Where none is free, it takes the victim out in the context's favour. -/
theorem State.swapSel_of_victim {s w : State} {f x v : Nat} {c : Ctx} (settled : s.settle f = w) (idle : (w.fieldAt f).swap = .idle)
    (first : w.nextIn f = some (x, c)) (full : w.slotFree f (cwBest c.cw) = false)
    (victim : (w.setBit .schSwapStat f 1 true).victim f (cwBest c.cw) = some v) :
    s.swapSel f = (w.setBit .schSwapStat f 1 true).startOut f v (some x) := by
  unfold State.swapSel
  dsimp only
  rw [settled, if_neg (not_not_intro idle), first]
  dsimp only
  rw [full, if_neg Bool.false_ne_true, victim]

/-- The end of an eviction. -/
theorem State.swapOutEnd_of_eviction {a u v : State} {f x : Nat} {c : Ctx} (out : (a.fieldAt f).swap = .out x none)
    (ctx : (a.writeImage f x).ctx x = some c)
    (left : (a.writeImage f x).modCtx x (fun c => { c with res := .nonResident, runnable := false }) = u)
    (counted : ((u.bump .schPerfSwapout f 1).setFld .schSwapStat f 13 4 x).trace 0x0C (48 + f) (some x) 0 0 0 0 x = v) :
    a.swapOutEnd f = (((if c.runnable || decide (c.head ≠ c.tail) then v.makeRunnable x else v).tearWaiting x).settle f).swapIdle f := by
  unfold State.swapOutEnd
  rw [out]
  dsimp only
  rw [ctx, left, counted]

/-- The image of a swap-in is read clean: its descriptors are placed, and the context is resident once all are. -/
theorem State.swapInEnd_of_clean {a b r v : State} {f x : Nat} {c : Ctx} {ws : List (List Word)} (inn : (a.fieldAt f).swap = .inn x)
    (ctx : a.ctx x = some c) (image : (if c.hasImage then a.readImage f x else (a, [], [])) = (b, ws, []))
    (placed : b.replaceTasks f x (((b.imageTasks x).map (·.1)).zip ws) = r)
    (resident : ((if c.hasImage then (r.modCtx x (fun c => { c with res := .resident })).bump .schPerfSwapin f 1
      else r.modCtx x (fun c => { c with res := .resident })).setFld .schSwapStat f 23 14 x).trace 0x0D (48 + f) (some x) 0 0 0 0 x = v) :
    a.swapInEnd f = if !(r.imageTasks x).isEmpty then r.send (48 + f) (48 + f) (.swapInDone (Fin.ofNat 4 f))
      else ((v.tearWaiting x).swapIdle f).settle f := by
  unfold State.swapInEnd
  rw [inn]
  dsimp only
  rw [ctx]
  dsimp only
  rw [image]
  dsimp only
  rw [placed, resident]
  rfl

/-- Settles O26: a selection with and without a free slot, and the two ends of a swap. -/
theorem swapEngine : Obligations.SwapEngine := by
  intro f s
  refine ⟨fun x c idle first => ⟨fun slot => next_congr (State.swapSel_of_slot rfl idle first slot),
      fun v full victim => next_congr (State.swapSel_of_victim rfl idle first full victim)⟩,
    fun x c free out ctx => exec_arrive _ rfl free (State.swapOutEnd_of_eviction out ctx rfl rfl),
    fun x c b ws free inn ctx image => ⟨fun none' => exec_arrive _ rfl free ?placed, fun some' => exec_arrive _ rfl free ?left⟩⟩
  case placed =>
    refine (State.swapInEnd_of_clean inn ctx image rfl rfl).trans ?_
    rw [none']
    rfl
  case left =>
    refine (State.swapInEnd_of_clean inn ctx image rfl rfl).trans (if_pos ?_)
    simpa using some'

end Sys2Proof.Machine
end

section
/-! The KV service: stream records, descriptors on its engines, and lengths (R201–R218, R364). -/
namespace Sys2Proof.Machine
open Claims

/-! ## Stream records (R201, R364) -/

/-- An open that nothing refuses writes the fresh record. -/
theorem State.recOpen_of_accepted {a u : State} {f n : Nat} {w old : List Word} {bad : Bool}
    (read : a.recGet (.service (Fin.ofNat 4 f)) f n = (u, old, bad)) (closed : (!bad && reOpen old) = false)
    (some' : reCap w ≠ 0) (fits : reCap w ≤ 16384) (place : (u.recAddr f n).isSome = true) (granted : u.ptInRange w = true)
    (format : (u.kvFmt f (rePart w)).ok = true) :
    a.recOpen f n w = (let v := u.recPut f n (freshRec w)
      let v1 : State := { v with kv := { v.kv with opens := mapPut v.kv.opens n (rePart w) } }
      (v1.mirrorOut (rePart w) f (.recOpen (BitVec.ofNat 16 n) (wordAt w 0) (wordAt w 1) (wordAt w 2)), 0)) := by
  have range : ((u.recAddr f n).isNone || !u.ptInRange w) = false := by
    rw [← Option.not_isSome, place, granted]
    rfl
  unfold State.recOpen
  rw [read]
  dsimp only
  rw [closed, if_neg Bool.false_ne_true, if_neg (by omega), range, if_neg Bool.false_ne_true, format]
  rfl

/-- Settles O28: a request's crossing, its effect at the field, and formats and pools in use or not. -/
theorem streamRecords : Obligations.StreamRecords := by
  intro x s
  refine ⟨fun idle => ⟨next_congr ?crossOpen, next_congr ?crossClose⟩,
    fun f n w old u bad free read closed some' fits place granted format => exec_arrive _ rfl free ?opened,
    fun f n u r free read => ⟨fun answered => exec_arrive _ rfl free ?closed, fun held left => exec_arrive _ rfl free ?dropped⟩,
    fun f n r u bad read => ⟨fun absent => ?absent, fun good isOpen mine => ⟨fun inUse => ?inUse, fun unused => ?freed⟩⟩,
    fun r free => ⟨fun asked => exec_arrive _ rfl free ?result, fun none' => exec_arrive _ rfl free ?noResult⟩,
    fun v => ⟨fun unused => next_congr ?format, fun used => next_congr (if_pos used)⟩,
    fun f v => ⟨fun unused => ⟨next_congr (if_neg (not_not_intro unused)), next_congr (if_neg (not_not_intro unused))⟩,
      fun used b => next_congr (if_pos used)⟩⟩
  case crossOpen => exact if_neg (Bool.eq_false_iff.mp idle)
  case crossClose => exact if_neg (Bool.eq_false_iff.mp idle)
  case opened =>
    change ((came s _).recOpen f.val n w).1.send (48 + f.val) 48 (.forwardedResult ⟨false, ((came s _).recOpen f.val n w).2⟩) = _
    rw [State.recOpen_of_accepted read closed some' fits place granted format]
  case closed =>
    have kept : (decide (r = 2) && (decide (u.kv.fwd ≠ some (.recClose n)) || u.closeLeft n)) = false := by
      rcases answered with other | ⟨last, nothingLeft⟩
      · rw [decide_eq_false other, Bool.false_and]
      · simp only [last, nothingLeft, ne_eq, not_true, decide_false, Bool.or_self, Bool.and_false]
    change State.kvForwarded _ f.val (.recClose n) = _
    dsimp only [State.kvForwarded]
    rw [read]
    dsimp only
    rw [kept]
    exact if_neg Bool.false_ne_true
  case dropped =>
    have gone : (decide (r = 2) && (decide (u.kv.fwd ≠ some (.recClose n)) || u.closeLeft n)) = true := by
      rcases left with other | more
      · simp only [held, other, ne_eq, not_false_eq_true, decide_true, Bool.true_or, Bool.and_self]
      · simp only [held, more, decide_true, Bool.or_true, Bool.and_self]
    change State.kvForwarded _ f.val (.recClose n) = _
    dsimp only [State.kvForwarded]
    rw [read]
    dsimp only
    rw [gone]
    exact if_pos rfl
  case absent =>
    have gone : (bad || !reOpen r || decide (reField r ≠ f)) = true := by
      rcases absent with h | h | h
      · rw [h, Bool.true_or, Bool.true_or]
      · rw [h, Bool.not_false, Bool.or_true, Bool.true_or]
      · rw [decide_eq_true h, Bool.or_true]
    unfold State.recClose
    rw [read]
    dsimp only
    rw [gone]
    exact if_pos rfl
  case inUse =>
    unfold State.recClose
    rw [read]
    dsimp only
    rw [good, isOpen, decide_eq_false (not_not_intro mine), inUse]
    rfl
  case freed =>
    unfold State.recClose
    rw [read]
    dsimp only
    rw [good, isOpen, decide_eq_false (not_not_intro mine), unused]
    rfl
  case result =>
    obtain ⟨q, hq⟩ := Option.isSome_iff_exists.mp asked
    change State.kvResult _ r = _
    unfold State.kvResult
    rw [hq]
  case noResult =>
    change State.kvResult _ r = _
    unfold State.kvResult
    rw [none']
  case format =>
    exact if_neg (Bool.eq_false_iff.mp unused)

/-! ## Descriptors on a KV engine (R203) -/

/-- A free engine, or the descriptor's own, is taken. -/
theorem State.kvEngTake_of_free {s : State} {t j : Nat} (free : (s.kvEng j).run = none ∨ (s.kvEng j).run = some t) :
    s.kvEngTake t j = (s.setKvEng j ⟨some t, (s.kvEng j).wait.filter (· ≠ t)⟩, true) := by
  refine if_neg fun ⟨running, other⟩ => ?_
  rcases free with idle | own
  · rw [idle] at running
    cases running
  · exact other own

/-- At an engine that runs another descriptor, a descriptor waits. -/
theorem State.kvEngTake_of_busy {s : State} {t j x : Nat} (busy : (s.kvEng j).run = some x) (other : x ≠ t) :
    s.kvEngTake t j = (s.setKvEng j ⟨some x, if (s.kvEng j).wait.contains t then (s.kvEng j).wait else (s.kvEng j).wait ++ [t]⟩, false) := by
  unfold State.kvEngTake
  dsimp only
  rw [busy]
  exact if_pos ⟨rfl, fun same => other (Option.some.inj same)⟩

/-- A command that runs its work on a KV engine. -/
theorem runsOnEngine_of_onKvEng {c : Nat → Instr} {op : Nat} {mig : Bool} {f : Nat → State → Task → State}
    (command : ∀ t s, exec (c t) s = .next (s.onKvEng t op mig (f t))) : runsOnEngine c op mig f := by
  intro t k s task running unissued opcode
  have ready : ¬ (k.phase ≠ .running ∨ k.issued = true ∨ twOpcode k.w ≠ op) := by
    rintro (h | h | h)
    · exact h running
    · exact Bool.false_ne_true (unissued.symm.trans h)
    · exact h opcode
  have taken : s.onKvEng t op mig (f t) = (match s.kvEngTake t (2 * k.field + b2n mig) with
      | (s, false) => s
      | (s, true) => s.runUnit t op (f t)) := by
    unfold State.onKvEng
    rw [task]
    exact if_neg ready
  rw [command, taken]
  refine ⟨fun free => ?_, fun x busy other => ?_⟩
  · rw [State.kvEngTake_of_free free]
    exact tries_runUnit (s := s.setKvEng _ _) (f t) task running unissued opcode
  · rw [State.kvEngTake_of_busy busy other]

/-! ## Appends and advances (R202, R205) -/

/-- A KAPPEND whose stream opens, with a count, from its first piece: its checks stand before the transfer. -/
theorem State.kappendRun_of_stopped {s u v : State} {t n : Nat} {k k' : Task} {r : List Word}
    (opened : s.kvOpen t k (kvStream k.w) = (u, some r)) (some' : kvCount k.w ≠ 0) (first : k.round = 0)
    (checked : u.kappendStart t k r = v) (task : v.task t = some k') (stopped : v.stopped t = true) : s.kappendRun t k n = v := by
  unfold State.kappendRun
  rw [if_neg some', opened]
  dsimp only
  rw [decide_eq_true first, if_pos rfl, checked, task]
  exact if_pos stopped

/-! ## Reading descriptors (R209) -/

/-- A reader joins its stream: it has its place, takes one, or waits while the count is full. -/
theorem State.asReader_of_opened {a u : State} {t : Nat} {k : Task} {r : List Word} (f : State → Task → List Word → State)
    (task : a.task t = some k) (opened : (a.modTask t (fun k => { k with issued := true })).kvOpen t k (kvStream k.w) = (u, some r)) :
    a.asReader t f = if k.reader then reported (f u k r) t
      else if reReaders r = 65535 then a
      else reported (f ((u.recPut k.field (kvStream k.w) (reSet r 3 47 32 (reReaders r + 1))).modTask t
        (fun k => { k with reader := true })) k r) t := by
  have place : (a.modTask t (fun k => { k with issued := true })).joined t k (fun s r => f s k r) =
      if k.reader then some (f u k r) else (u.register t k.field (kvStream k.w) r).map (fun s => f s k r) := by
    unfold State.joined
    rw [opened]
  unfold State.asReader
  rw [task]
  dsimp only
  rw [place]
  by_cases reader : k.reader = true
  · rw [if_pos reader, if_pos reader]
    exact State.sendDone_eq_reported _ t
  · rw [if_neg reader, if_neg reader]
    by_cases full : reReaders r = 65535
    · rw [if_pos full, State.register, if_pos full]
      rfl
    · rw [if_neg full, State.register, if_neg full]
      exact State.sendDone_eq_reported _ t

/-- Settles O29: the engines, the refusals of appends and advances, and the readers. -/
theorem kvDescriptors : Obligations.KvDescriptors := by
  refine ⟨runsOnEngine_of_onKvEng fun _ _ => rfl, runsOnEngine_of_onKvEng fun _ _ => rfl, runsOnEngine_of_onKvEng fun _ _ => rfl,
    runsOnEngine_of_onKvEng fun _ _ => rfl, runsOnEngine_of_onKvEng fun _ _ => rfl,
    fun t k s u r opened => ⟨fun n none' => ?empty, fun fit refused => ?refused, fun n v k' some' first checked task stopped =>
      State.kappendRun_of_stopped opened some' first checked task stopped, fun bad => ?advanceBad, fun above untracked => ?advance⟩,
    fun t k s u r task running unissued => ⟨fun opcode free opened => tries_of_effect ?kread, fun opcode opened => tries_of_effect ?kexpand⟩⟩
  case empty =>
    unfold State.kappendRun
    rw [if_pos none', opened]
  case refused =>
    unfold State.kappendStart
    dsimp only
    rw [fit, if_neg Bool.false_ne_true, refused, if_pos rfl]
  case advanceBad =>
    unfold State.kadvanceRun
    rw [opened]
    exact if_pos (by simpa using bad)
  case advance =>
    unfold State.kadvanceRun
    rw [opened]
    exact if_neg (by simp [untracked, above])
  case kread =>
    have task : (fresh s).task t = some k := task
    have ready : ¬ (k.phase ≠ .running ∨ k.issued = true ∨ twOpcode k.w ≠ 0x43) := by
      rintro (h | h | h)
      · exact h running
      · exact Bool.false_ne_true (unissued.symm.trans h)
      · exact h opcode
    change (fresh s).kreadCmd t = _
    unfold State.kreadCmd
    rw [task]
    dsimp only
    rw [if_neg ready, State.kvEngTake_of_free (s := fresh s) free]
    exact State.asReader_of_opened _ task opened
  case kexpand =>
    have task : (fresh s).task t = some k := task
    have ready : ¬ (k.phase ≠ .running ∨ k.issued = true ∨ twOpcode k.w ≠ 0x46) := by
      rintro (h | h | h)
      · exact h running
      · exact Bool.false_ne_true (unissued.symm.trans h)
      · exact h opcode
    change (fresh s).kexpandCmd t = _
    unfold State.kexpandCmd
    rw [task]
    dsimp only
    rw [if_neg ready]
    exact State.asReader_of_opened _ task opened

/-! ## Lengths (R205, R218) -/

/-- The descriptor that an engine takes next depends on the classes of those that wait alone. -/
theorem State.kvPick_congr {s u : State} (same : ∀ t, s.bestTaskOf t = u.bestTaskOf t) (l : List Nat) : s.kvPick l = u.kvPick l := by
  induction l with
  | nil => rfl
  | cons t l ih => simp only [State.kvPick, ih, same]

/-- A best-effort descriptor yields its engine after a free part of its transfer. -/
theorem State.kvYield_of_waiting {z u : State} {j t v : Nat} {k : Task} (run : (z.kvEng j).run = some t)
    (waits : z.kvPick (z.kvEng j).wait = some v) (task : z.task t = some k) (running : k.phase = .running)
    (unissued : k.issued = false) (best : z.bestTaskOf t = true) (critical : z.bestTaskOf v = false)
    (part : z.draw.1.kvPart t k z.draw.2.toNat = u) :
    z.kvYield j = if u.stopped t then (u.modTask t (fun k => { k with issued := true })).sendDone t
      else u.setKvEng j ⟨some v, (z.kvEng j).wait.filter (· ≠ v) ++ [t]⟩ := by
  subst part
  unfold State.kvYield
  dsimp only
  rw [run, waits]
  dsimp only
  rw [task]
  exact if_pos ⟨running, by rw [unissued]; rfl, best, by rw [critical]; rfl⟩

/-- An advance of a readable record of the field that is open: clamped, and counted where it is. -/
theorem State.advanceTo_of_open {a u : State} {f x c : Nat} {r : List Word}
    (read : a.recGet (.service (Fin.ofNat 4 f)) f x = (u, r, false)) (isOpen : reOpen r = true) (mine : reField r = f) :
    a.advanceTo f x c = (let m := min (min c (reTentative r)) (if reInflight r then reInflightPos r else maxPos)
      (if m < c then u.clamp f else u).setCommitted f x (if m < c then reSet r 3 31 0 (min 0xFFFFFFFF (reClamps r + 1)) else r) m) := by
  unfold State.advanceTo
  rw [read]
  dsimp only
  rw [isOpen, decide_eq_false (not_not_intro mine)]
  rfl

/-- A length query of an ordinary stream takes a reader's place and is answered. -/
theorem State.lenQuery_of_opened {a u : State} {t : Nat} {k : Task} {r : List Word} (task : a.task t = some k) (phase : k.phase = .query)
    (notHeld : a.kv.holds.any (fun h => decide (h.task = t)) = false) (notReader : k.reader = false)
    (opened : a.kvOpen t k (wb (twArea k.w 0) 15 0) = (u, some r)) (pages : readsPages (twOpcode k.w) = true) (room : reReaders r ≠ 65535) :
    a.lenQuery t = ((u.recPut k.field (wb (twArea k.w 0) 15 0) (reSet r 3 47 32 (reReaders r + 1))).modTask t
      (fun k => { k with reader := true })).answerLen t k (wb (twArea k.w 0) 15 0) r := by
  have asks : (decide (k.phase ≠ .query) || a.kv.holds.any (fun h => decide (h.task = t))) = false := by
    rw [decide_eq_false (not_not_intro phase), notHeld]
    rfl
  unfold State.lenQuery
  rw [task]
  dsimp only
  rw [asks, if_neg Bool.false_ne_true, opened]
  dsimp only
  rw [pages, notReader, State.register, if_neg room]
  rfl

/-- Settles O30: a yield, an advance below or above its bound, and a length query, its answer and its expiry. -/
theorem kvLengths : Obligations.KvLengths := by
  intro s
  refine ⟨fun f mig t v k run waits task running unissued best critical =>
      ⟨fun goes => tries_of_effect ?yields, fun stopped => tries_of_effect ?stops⟩,
    fun x c u r free read => ⟨fun closed => exec_arrive _ rfl free ?closed, fun isOpen mine tentative inflight => exec_arrive _ rfl free ?whole,
      fun isOpen mine above => exec_arrive _ rfl free ?clamped⟩,
    fun t k free task phase notHeld notReader u r opened pages room => ⟨fun reached => exec_arrive _ rfl free ?answered,
      fun behind => exec_arrive _ rfl free ?held⟩,
    fun t k free task phase notHeld => exec_arrive _ rfl free ?answer,
    fun t k task phase held => next_congr ?expiry⟩
  case yields =>
    have waits : (fresh s).kvPick ((fresh s).kvEng (2 * f.val + b2n mig)).wait = some v := by
      rw [State.kvPick_congr (s := fresh s) (u := s) fun _ => rfl]
      exact waits
    refine (State.kvYield_of_waiting (z := fresh s) run waits task running unissued best critical rfl).trans (if_neg ?_)
    exact Bool.eq_false_iff.mp goes
  case stops =>
    have waits : (fresh s).kvPick ((fresh s).kvEng (2 * f.val + b2n mig)).wait = some v := by
      rw [State.kvPick_congr (s := fresh s) (u := s) fun _ => rfl]
      exact waits
    refine (State.kvYield_of_waiting (z := fresh s) run waits task running unissued best critical rfl).trans ((if_pos stopped).trans ?_)
    exact State.sendDone_eq_reported _ t
  case closed =>
    unfold State.advanceTo
    rw [read]
    dsimp only
    rw [closed]
    rfl
  case whole =>
    have least : min (min c.toNat (reTentative r)) (if reInflight r then reInflightPos r else maxPos) = c.toNat := by omega
    rw [State.advanceTo_of_open read isOpen mine, least]
    dsimp only
    rw [if_neg (Nat.lt_irrefl _), if_neg (Nat.lt_irrefl _)]
  case clamped =>
    have least : min (min c.toNat (reTentative r)) (if reInflight r then reInflightPos r else maxPos) =
        min (reTentative r) (if reInflight r then reInflightPos r else maxPos) := by omega
    rw [State.advanceTo_of_open read isOpen mine, least]
    dsimp only
    rw [if_pos above, if_pos above]
  case answered =>
    exact (State.lenQuery_of_opened task phase notHeld notReader opened pages room).trans (if_neg (Nat.not_lt.mpr reached))
  case held => exact (State.lenQuery_of_opened task phase notHeld notReader opened pages room).trans (if_pos behind)
  case answer =>
    unfold State.lenAnswer
    rw [task]
    exact if_pos ⟨phase, by rw [notHeld]; rfl⟩
  case expiry =>
    unfold State.lenExpired
    rw [task]
    exact if_pos ⟨phase, held⟩

end Sys2Proof.Machine
end

section
/-! The serving front end: requests of the common page, the stream tracker, budgets and steps (R232–R249, R364). -/
namespace Sys2Proof.Machine
open Claims

/-! ## The common page (R364) -/

theorem isLocal_eq_fwdHere (q : Fwd) : isLocal q = fwdHere q := by
  cases q <;> rfl

/-- A request of another field's crosses to it. -/
theorem State.srvNext_of_elsewhere {s : State} {q : Fwd} (rest : List Fwd) (elsewhere : isLocal q = false) :
    s.srvNext (q :: rest) = crosses s q rest := by
  rw [isLocal_eq_fwdHere] at elsewhere
  unfold State.srvNext
  rw [if_neg (Bool.eq_false_iff.mp elsewhere)]
  cases q <;> rfl

/-- A request of F0's own takes effect, and the ones behind it go on. -/
theorem State.srvNext_of_local {s : State} {q : Fwd} (rest : List Fwd) (here : isLocal q = true) :
    s.srvNext (q :: rest) = (s.atBudget q).srvNext rest := by
  rw [isLocal_eq_fwdHere] at here
  exact if_pos here

theorem State.srvNext_nil {s : State} (empty : s.sv.fwdC = []) : s.srvNext [] = s := by
  obtain ⟨regs, vx, ax, st, mm, sc, kv, sv, ix, lk, cc, pw, se, io, flight, free, pending⟩ := s
  obtain ⟨⟩ := sv
  dsimp only at empty
  subst empty
  rfl

theorem State.srvEnqueue_of_busy {s : State} (q : Fwd) (busy : s.sv.fwd.isSome = true) :
    s.srvEnqueue q = { s with sv := { s.sv with fwdC := s.sv.fwdC ++ [q] } } :=
  if_pos busy

theorem State.srvEnqueue_of_idle {s : State} (q : Fwd) (idle : s.sv.fwd = none) : s.srvEnqueue q = s.srvNext [q] := by
  unfold State.srvEnqueue
  rw [idle]
  rfl

/-- The result of the request in progress: the next one of the page goes on. -/
theorem State.srvResult_of_progress {a : State} {q : Fwd} (r : BitVec 3) (progress : a.sv.fwd = some q) :
    a.srvResult r = (let b : State := { a with sv := { a.sv with fwd := none } }
      let c := match q with
        | .stream _ _ _ => b.setFld .srvStreamStat 0 4 0 (1 + 4 * r.toNat)
        | _ => b
      c.srvNext c.sv.fwdC) := by
  unfold State.srvResult
  rw [progress] <;> rfl

/-! ## The stream tracker (R233–R235) -/

/-- A request number of SRV_STREAM_CTL, with none running, reaches the common page. -/
theorem State.streamCtl_of_idle {s : State} {x op : Nat} (idle : s.flag .srvStreamStat 0 1 = false) (known : 1 ≤ op ∧ op ≤ 10) :
    s.streamCtl x op = (let v := (s.setBit .srvStreamStat 0 0 false).setBit .srvStreamStat 0 1 true
      v.srvEnqueue (.stream x op [v.reg .srvStreamStage 0 0, v.reg .srvStreamStage 0 1])) := by
  unfold State.streamCtl
  rw [if_neg (Bool.eq_false_iff.mp idle)]
  exact if_neg (by omega)

/-- What a request number of SRV_STREAM_CTL does: it crosses, or waits for the request in progress. -/
theorem streamRequest_of_streamCtl {c : BitVec 16 → Instr} {op : Nat} (x : BitVec 16) (s : State)
    (command : ∀ x s, exec (c x) s = .next (s.streamCtl x.toNat op)) (known : 1 ≤ op ∧ op ≤ 10) (idle : s.flag .srvStreamStat 0 1 = false) :
    let v := (s.setBit .srvStreamStat 0 0 false).setBit .srvStreamStat 0 1 true
    let q : Fwd := .stream x.toNat op [v.reg .srvStreamStage 0 0, v.reg .srvStreamStage 0 1]
    (v.sv.fwd = none → exec (c x) s = .next (crosses v q [])) ∧
    (v.sv.fwd.isSome = true → exec (c x) s = .next { v with sv := { v.sv with fwdC := v.sv.fwdC ++ [q] } }) := by
  rw [command, State.streamCtl_of_idle idle known]
  exact ⟨fun none' => next_congr ((State.srvEnqueue_of_idle _ none').trans (State.srvNext_of_elsewhere [] rfl)),
    fun busy => next_congr (State.srvEnqueue_of_busy _ busy)⟩

/-- A request that the tracker takes. -/
theorem applies_of_trkApply {s : State} {x op : Nat} {w : List Word} {n : Trk} (request : op ≠ 1) (inUse : (s.trk x).state ≠ 0)
    (taken : trkApply op w (s.trk x) = .ok n) : applies s x op w n := by
  unfold applies State.streamReq
  rw [if_neg request]
  dsimp only
  rw [if_neg inUse, taken]
  dsimp only
  by_cases drops : op = 2 ∨ op = 7
  · rw [if_pos drops, State.dropResv]
    by_cases reserved : (s.trk x).resv = true
    · rw [if_pos reserved, if_pos ⟨drops, reserved⟩]
    · rw [if_neg reserved, if_neg fun both => reserved both.2]
  · rw [if_neg drops, if_neg fun both => drops both.1]

/-- A request that the tracker turns away is answered by its code and changes nothing. -/
theorem State.streamReq_of_error {s : State} {x op : Nat} {w : List Word} {r : BitVec 3} (request : op ≠ 1) (inUse : (s.trk x).state ≠ 0)
    (refused : trkApply op w (s.trk x) = .error r) : s.streamReq x op w = (s, r) := by
  unfold State.streamReq
  rw [if_neg request]
  dsimp only
  rw [if_neg inUse, refused]

theorem State.streamReq_of_free {s : State} {x op : Nat} {w : List Word} (request : op ≠ 1) (free : (s.trk x).state = 0) :
    s.streamReq x op w = (s, 1) := by
  unfold State.streamReq
  rw [if_neg request]
  exact if_pos free

/-- The states that end a stream are 6 to 9. -/
theorem ended_of_live {n : Nat} (live : n ≤ 5) : ended n = false := decide_eq_false (by omega)

theorem ended_of_over {n : Nat} (low : 6 ≤ n) (high : n ≤ 9) : ended n = true := decide_eq_true ⟨low, high⟩

/-- Each request but open and cancel is refused by 2 in a state that does not take it. -/
theorem trkApply_of_not_allowed {p : Nat × List Nat} (listed : p ∈ allowedIn) (w : List Word) {e : Trk} (inUse : e.state ≠ 0)
    (legal : e.state ≤ 9) (other : e.state ∉ p.2) : trkApply p.1 w e = .error 2 := by
  simp only [allowedIn, List.mem_cons, List.not_mem_nil, or_false] at listed
  have notEnded : e.state ≤ 5 → ended e.state = false := ended_of_live
  rcases listed with rfl | rfl | rfl | rfl | rfl | rfl | rfl | rfl <;>
    simp only [List.mem_cons, List.not_mem_nil, or_false, not_or] at other
  · exact if_neg fun taken => taken.elim other.1 fun after => by have := of_decide_eq_true after; omega
  · exact (if_neg (by omega)).trans ((if_neg (by omega)).trans (if_neg (by omega)))
  · exact (if_neg (by omega)).trans ((if_neg (by omega)).trans (if_neg (by omega)))
  · exact if_neg other
  · exact (if_neg other.1).trans (if_neg other.2)
  · exact if_neg other
  · exact if_neg (by omega)
  · exact if_pos (ended_of_over (by omega) legal)

/-- A live entry: cancel and fail end it. -/
theorem trkApply_of_live {e : Trk} (w : List Word) (live : e.state ≤ 5) :
    trkApply 3 w e = .ok ((e.setState 7).setReason 8) ∧ trkApply 10 w e = .ok ((e.setState 9).setReason 7) := by
  have notEnded := Bool.eq_false_iff.mp (ended_of_live live)
  exact ⟨(if_neg (by omega)).trans (if_neg notEnded), if_neg notEnded⟩

/-- An entry in a step: pause and resume set and clear its pending bit. -/
theorem trkApply_of_stepping {e : Trk} (w : List Word) (stepping : e.state = 2 ∨ e.state = 4) :
    trkApply 4 w e = .ok (e.setPend true) ∧ trkApply 5 w e = .ok (e.setPend false) :=
  ⟨if_pos stepping, if_pos stepping⟩

/-- An active entry: pause, resume and finish. -/
theorem trkApply_of_active {e : Trk} (w : List Word) (active : e.state = 3) :
    trkApply 4 w e = .ok (e.setState 5) ∧ trkApply 5 w e = .ok e ∧ trkApply 8 w e = .ok ((e.setState 6).setReason 6) :=
  ⟨(if_neg (by omega)).trans (if_pos active), (if_neg (by omega)).trans ((if_neg (by omega)).trans (if_pos active)), if_pos active⟩

/-- A paused entry: pause, resume and expire. -/
theorem trkApply_of_paused {e : Trk} (w : List Word) (paused : e.state = 5) :
    trkApply 4 w e = .ok e ∧ trkApply 5 w e = .ok (e.setState 3) ∧ trkApply 6 w e = .ok ((e.setState 8).setReason 9) :=
  ⟨(if_neg (by omega)).trans ((if_neg (by omega)).trans (if_pos paused)), (if_neg (by omega)).trans (if_pos paused), if_pos paused⟩

/-- The entry that an open writes from the staged words (R250). -/
def openedEntry (w : List Word) : Trk :=
  ⟨BitVec.ofNat 64 (1 + wb (wordAt w 0) 5 4 * 2 ^ 4 + wb (wordAt w 0) 47 8 * 2 ^ 8), BitVec.ofNat 64 (wb (wordAt w 1) 41 21 * 2 ^ 21), 0, 0⟩

/-- An open of a free entry, by its refusals in their order. -/
theorem State.streamReq_open_of_free {s : State} {x : Nat} (w : List Word) (free : (s.trk x).state = 0) :
    s.streamReq x 1 w = if s.admissionBad (x / 16384) (openedEntry w) then (s, 5)
      else if (openedEntry w).maxLen = 0 ∨
        ((openedEntry w).cstate ≠ cFree ∧ s.progN (x / 16384) (openedEntry w).cprog ≤ (openedEntry w).cstate) then (s, 6)
      else (s.putTrk x (openedEntry w) false, 0) := by
  unfold State.streamReq
  rw [if_pos rfl]
  unfold State.openEntry
  exact if_neg (not_not_intro free)

/-- An open of an entry in use is refused by 7. -/
theorem State.streamReq_open_of_used {s : State} {x : Nat} (w : List Word) (inUse : (s.trk x).state ≠ 0) : s.streamReq x 1 w = (s, 7) := by
  unfold State.streamReq
  rw [if_pos rfl]
  unfold State.openEntry
  exact if_pos inUse

/-- Settles O31: requests cross, take effect by the entry's state, and their results let the next go on. -/
theorem streamRequests : Obligations.StreamRequests := by
  refine ⟨?requests, fun f s x op w free => exec_arrive _ rfl free rfl,
    fun f s u => ⟨fun v free => exec_arrive _ rfl free rfl, fun m free => exec_arrive _ rfl free rfl⟩,
    fun s r free => ⟨fun none' => exec_arrive _ rfl free ?noResult, fun q progress => ⟨fun empty => exec_arrive _ rfl free ?last,
      fun n l next elsewhere => exec_arrive _ rfl free ?crosses, fun n next here => exec_arrive _ rfl free ?here⟩⟩, ?tracker⟩
  case requests =>
    intro p listed x s idle
    simp only [streamOps, List.mem_cons, List.not_mem_nil, or_false] at listed
    rcases listed with rfl | rfl | rfl | rfl | rfl | rfl | rfl | rfl | rfl | rfl <;>
      exact streamRequest_of_streamCtl x s (fun _ _ => rfl) (by decide) idle
  case noResult =>
    change State.srvResult _ r = _
    unfold State.srvResult
    rw [none']
  case last => exact (State.srvResult_of_progress r progress).trans ((congrArg _ empty).trans (State.srvNext_nil empty))
  case crosses =>
    exact (State.srvResult_of_progress r progress).trans ((congrArg _ next).trans (State.srvNext_of_elsewhere l elsewhere))
  case here => exact (State.srvResult_of_progress r progress).trans ((congrArg _ next).trans (State.srvNext_of_local [] here))
  case tracker =>
    intro s x w
    dsimp only
    refine ⟨fun free admitted room prog => ?opened, fun free op low high => State.streamReq_of_free (by omega) free,
      fun free bad => ?notAdmitted, fun free admitted bad => ?badStart, fun inUse => State.streamReq_open_of_used w inUse,
      fun idle => applies_of_trkApply (by decide) ?idle (if_pos idle),
      fun low high => applies_of_trkApply (by decide) (by omega) (trkApply_of_live w high).1,
      fun active => ⟨applies_of_trkApply (by decide) (by omega) (trkApply_of_active w active).1,
        applies_of_trkApply (by decide) (by omega) (trkApply_of_active w active).2.2⟩,
      fun stepping => ⟨applies_of_trkApply (by decide) (by omega) (trkApply_of_stepping w stepping).1,
        applies_of_trkApply (by decide) (by omega) (trkApply_of_stepping w stepping).2⟩,
      fun paused => ⟨applies_of_trkApply (by decide) (by omega) (trkApply_of_paused w paused).2.1,
        applies_of_trkApply (by decide) (by omega) (trkApply_of_paused w paused).2.2⟩,
      fun prefill => applies_of_trkApply (by decide) (by omega) (if_pos prefill),
      fun step => applies_of_trkApply (by decide) (by omega) ((if_neg (by omega)).trans (if_pos step)),
      fun still => applies_of_trkApply (by decide) (by omega) (if_pos still),
      fun low high => applies_of_trkApply (by decide) (by omega) (trkApply_of_live w high).2,
      fun paused => applies_of_trkApply (by decide) (by omega) (trkApply_of_paused w paused).1,
      fun active => applies_of_trkApply (by decide) (by omega) (trkApply_of_active w active).2.1,
      fun finished => State.streamReq_of_error (by decide) (by omega) (if_pos finished),
      fun low high => State.streamReq_of_error (by decide) (by omega) ((if_neg (by omega)).trans (if_pos (ended_of_over (by omega) high))),
      fun p listed inUse legal other => State.streamReq_of_error ?request inUse (trkApply_of_not_allowed listed w inUse legal other)⟩
    case opened =>
      have room : 0 < (openedEntry w).maxLen := room
      have prog : (openedEntry w).cstate = cFree ∨ (openedEntry w).cstate < s.progN (x / 16384) (openedEntry w).cprog := prog
      have starts : ¬ ((openedEntry w).maxLen = 0 ∨
          ((openedEntry w).cstate ≠ cFree ∧ s.progN (x / 16384) (openedEntry w).cprog ≤ (openedEntry w).cstate)) := by omega
      exact (State.streamReq_open_of_free w free).trans ((if_neg (Bool.eq_false_iff.mp admitted)).trans (if_neg starts))
    case notAdmitted => exact (State.streamReq_open_of_free w free).trans (if_pos bad)
    case badStart => exact (State.streamReq_open_of_free w free).trans ((if_neg (Bool.eq_false_iff.mp admitted)).trans (if_pos bad))
    case idle =>
      rcases idle with opened | after
      · omega
      · have range := of_decide_eq_true after
        omega
    case request =>
      simp only [allowedIn, List.mem_cons, List.not_mem_nil, or_false] at listed
      rcases listed with rfl | rfl | rfl | rfl | rfl | rfl | rfl | rfl <;> decide

/-! ## Budgets, partitions and rings (R245–R249) -/

/-- A request of the common page, by whether one is in progress and whose field it is. -/
theorem State.srvEnqueue_cases (s : State) (q : Fwd) :
    (s.sv.fwd.isSome = true → s.srvEnqueue q = { s with sv := { s.sv with fwdC := s.sv.fwdC ++ [q] } }) ∧
    (s.sv.fwd = none → isLocal q = false → s.srvEnqueue q = crosses s q []) ∧
    (s.sv.fwd = none → isLocal q = true → s.srvEnqueue q = { s.atBudget q with sv := { (s.atBudget q).sv with fwdC := [] } }) :=
  ⟨State.srvEnqueue_of_busy q, fun idle elsewhere => (State.srvEnqueue_of_idle q idle).trans (State.srvNext_of_elsewhere [] elsewhere),
    fun idle here => (State.srvEnqueue_of_idle q idle).trans (State.srvNext_of_local [] here)⟩

/-- Settles O32: each command by its guards; the common page's two writes by `srvEnqueue_cases`. -/
theorem budgets : Obligations.Budgets := by
  intro u f s
  refine ⟨fun n free => ⟨fun low => exec_arrive _ rfl free (if_pos low), fun positive => exec_arrive _ rfl free (if_neg (not_le.mpr positive))⟩,
    fun free => exec_arrive _ rfl free rfl, fun free => exec_arrive _ rfl free rfl,
    fun m v => ⟨fun busy => ⟨next_congr ((s.srvEnqueue_cases _).1 busy), next_congr ((s.srvEnqueue_cases _).1 busy)⟩,
      fun idle elsewhere => ⟨next_congr ((s.srvEnqueue_cases _).2.1 idle (decide_eq_false elsewhere)),
        next_congr ((s.srvEnqueue_cases _).2.1 idle (decide_eq_false elsewhere))⟩,
      fun idle here => ⟨next_congr ((s.srvEnqueue_cases _).2.2 idle (decide_eq_true here)),
        next_congr ((s.srvEnqueue_cases _).2.2 idle (decide_eq_true here))⟩⟩,
    fun p v => ⟨fun legal fits active => next_congr (if_neg ?taken), fun bad => next_congr (if_pos ?refused)⟩,
    fun v => ⟨fun empty unreserved => next_congr (if_neg ?ring), fun inUse => next_congr (if_pos inUse)⟩,
    fun free some' => exec_arrive _ rfl free (if_neg some')⟩
  case taken =>
    have fits : stateFits (s.pstate 0 p.val) v = true := decide_eq_true fits
    rw [decide_eq_false legal, fits]
    rcases active with home | starting
    · rw [home]
      exact Bool.false_ne_true
    · rw [decide_eq_false (not_not_intro starting), Bool.and_false]
      exact Bool.false_ne_true
  case refused =>
    rcases bad with reserved | ⟨degraded, notClosed, notStarting⟩ | ⟨standby, notStarting⟩
    · rw [decide_eq_true reserved, Bool.true_or, Bool.true_or]
    · have fits : stateFits (s.pstate 0 p.val) v = false :=
        decide_eq_false fun h => h.elim (fun other => other degraded) fun h => h.elim notClosed notStarting
      rw [fits, Bool.not_false, Bool.or_true, Bool.true_or]
    · rw [standby, decide_eq_true notStarting, Bool.and_self, Bool.or_true]
  case ring =>
    rintro (unequal | reserved)
    · exact unequal empty
    · exact reserved unreserved

/-! ## Serving steps (R236–R239, R244, R248) -/

/-- A report that meets no stepping entry is discarded. -/
theorem State.reportTrk_of_other {a : State} {r : Emission} (notPrefill : (a.trk r.stream.toNat).state ≠ 2)
    (notStep : (a.trk r.stream.toNat).state ≠ 4) :
    a.reportTrk r = (let x := r.stream.toNat
      let n := (a.trk x).setResv false
      let s := a.bump .srvPerfDiscard (x / 16384) 1
      if (a.trk x).state ≠ 0 ∧ (a.trk x).resv = true then (s.putTrk x n true).record x n 3 r.cookie.toNat 0 [] else s) :=
  if_pos ⟨notPrefill, notStep⟩

/-- One that meets a stepping entry is applied whole. -/
theorem State.reportTrk_of_stepping {a : State} {r : Emission}
    (stepping : (a.trk r.stream.toNat).state = 2 ∨ (a.trk r.stream.toNat).state = 4) : a.reportTrk r =
      (let x := r.stream.toNat
      let f := x / 16384
      let e := a.trk x
      let n := reportEntry e r
      let b := a.bump .srvPerfTokens f r.toks.length
      let c := if r.verify = true then (b.bump .srvPerfDrafted f r.k).bump .srvPerfAccepted f (r.toks.length - 1) else b
      if r.ending = 1 then
        (a.putTrk x (((e.setState 9).setReason 5).setResv false) true).record x (((e.setState 9).setReason 5).setResv false) 4 r.cookie.toNat 0 []
      else (((c.putTrk x n true).send (48 + f) (48 + f) (.advance r.stream (BitVec.ofNat 21 n.tokPos))).send (48 + f) (48 + e.cust % 4)
        (.debit (BitVec.ofNat 12 e.cust) (a.debitOf e r))).record x n
          (if r.ending.toNat = 2 ∨ r.ending.toNat = 5 then 2 else if r.ending.toNat = 3 ∨ r.ending.toNat = 4 then 1 else 0)
          r.cookie.toNat (a.debitOf e r) r.toks) := by
  refine if_neg ?_
  rintro ⟨notPrefill, notStep⟩
  exact stepping.elim notPrefill notStep

/-- Settles O33: the four opcodes on their stream's entry, a step's begin, and a report by the entry that it meets. -/
theorem servingSteps : Obligations.ServingSteps := by
  refine ⟨runsUnit_of_runUnit fun _ _ => rfl, runsUnit_of_runUnit fun _ _ => rfl, runsUnit_of_runUnit fun _ _ => rfl,
    runsUnit_of_runUnit fun _ _ => rfl, fun t k e s => ⟨fun r refused => ?refused, fun accepted => ?begun⟩,
    fun r s free => ⟨fun notPrefill notStep unreserved => exec_arrive _ rfl free ?discarded,
      fun notPrefill notStep inUse reserved => exec_arrive _ rfl free ?released, fun stepping invalid => exec_arrive _ rfl free ?failed,
      fun stepping valid => exec_arrive _ rfl free ?applied⟩⟩
  case refused =>
    unfold State.beginStep
    dsimp only
    rw [refused]
    rfl
  case begun =>
    unfold State.beginStep
    dsimp only
    rw [accepted]
  case discarded => exact (State.reportTrk_of_other notPrefill notStep).trans (if_neg fun both => Bool.false_ne_true (unreserved.symm.trans both.2))
  case released => exact (State.reportTrk_of_other notPrefill notStep).trans (if_pos ⟨inUse, reserved⟩)
  case failed => exact (State.reportTrk_of_stepping stepping).trans (if_pos invalid)
  case applied => exact (State.reportTrk_of_stepping stepping).trans (if_neg valid)

end Sys2Proof.Machine
end

section
/-! Attention: steps, page summaries and ring passes (R209, R218, R225, R227–R229). -/
namespace Sys2Proof.Machine
open Claims

/-- A step without a selection over more pages than it allows ends with kv-limit. -/
theorem State.attPaged_of_too_many {s u : State} {t : Nat} {k : Task} {r : List Word}
    (opened : s.kvOpen t k (wb (twArea k.w 0) 15 0) = (u, some r)) (fit : u.attUnfit k (rePart r) = false) (noSelection : k.entryAt 12 = [])
    (tooMany : (if atMaxpages k.w = 0 then reCap r else atMaxpages k.w) < cdiv k.pos 64) : s.attPaged t k = u.kvFail t 0x51 := by
  unfold State.attPaged
  dsimp only
  rw [opened]
  dsimp only
  rw [fit, noSelection, decide_eq_true tooMany]
  rfl

/-- A pass that is taken up again runs on. -/
theorem State.aringCmd_of_issued {z : State} {t : Nat} {k : Task} (task : z.task t = some k) (running : k.phase = .running)
    (opcode : twOpcode k.w = 0x55) (issued : k.issued = true) : z.aringCmd t = z.ringGo t 16 := by
  unfold State.aringCmd
  rw [task]
  refine (if_neg ?_).trans (if_pos issued)
  rintro (h | h)
  · exact h running
  · exact h opcode

/-- A new pass checks its links first. -/
theorem State.aringCmd_of_new {z a : State} {t : Nat} {k : Task} (task : z.task t = some k) (running : k.phase = .running)
    (opcode : twOpcode k.w = 0x55) (new : k.issued = false) (marked : z.modTask t (fun k => { k with issued := true }) = a) :
    z.aringCmd t = (match a.ringLinksBad k.w with
      | some (st, d) => (a.modTask t (fun k => k.fail st d)).sendDone t
      | none => (a.streams k).ringGo t 16) := by
  have ready : ¬ (k.phase ≠ .running ∨ twOpcode k.w ≠ 0x55) := by
    rintro (h | h)
    · exact h running
    · exact h opcode
  subst marked
  unfold State.aringCmd
  rw [task]
  exact (if_neg ready).trans (if_neg (Bool.eq_false_iff.mp new))

/-- A ring pass that nothing has stopped: its end, its next round, or its wait for a shard or a credit. -/
theorem State.ringGo_of_running {s : State} {t n : Nat} {k : Task} (task : s.task t = some k) (running : k.phase = .running)
    (issued : k.issued = true) (opcode : twOpcode k.w = 0x55) (alive : k.dead = none) (clean : k.poison = false) :
    s.ringGo t (n + 1) = if ringN k.w ≤ k.round then reported (s.ringEnd t k) t
      else if ringMay k then (s.ringRound t k).ringGo t n else s := by
  have ready : ¬ (k.phase ≠ .running ∨ (!k.issued) = true ∨ twOpcode k.w ≠ 0x55) := by
    rintro (h | h | h)
    · exact h running
    · rw [issued] at h
      cases h
    · exact h opcode
  have stopped : ¬ (k.dead.isSome || k.poison) = true := by
    rw [alive, clean]
    exact Bool.false_ne_true
  rw [State.ringGo, task]
  dsimp only
  rw [if_neg ready, if_neg stopped, State.sendDone_eq_reported]

/-- Settles O34: the steps as units, a summary as a reader, and a ring pass by where it stands. -/
theorem attentionSteps : Obligations.AttentionSteps := by
  refine ⟨runsUnit_of_runUnit fun _ _ => rfl, runsUnit_of_runUnit fun _ _ => rfl, runsUnit_of_runUnit fun _ _ => rfl,
    fun t k s u r opened fit noSelection tooMany => State.attPaged_of_too_many opened fit noSelection tooMany,
    fun t k s u r task running unissued opcode opened => tries_of_effect ?lsum,
    fun t k s task running opcode => ⟨fun issued => tries_of_effect (State.aringCmd_of_issued (z := fresh s) task running opcode issued),
      fun new => ⟨fun good => tries_of_effect ?links, fun st d bad => tries_of_effect ?linksBad⟩⟩,
    fun t half s => ⟨tries_awaitBoundary _ _, tries_awaitBoundary _ _⟩,
    fun t n k s task running issued opcode alive clean => ⟨fun last => ?last, fun more waits => ?waits, fun more may => ?round⟩⟩
  case lsum =>
    have ready : ¬ (k.phase ≠ .running ∨ k.issued = true ∨ twOpcode k.w ≠ 0x54) := by
      rintro (h | h | h)
      · exact h running
      · exact Bool.false_ne_true (unissued.symm.trans h)
      · exact h opcode
    have task : (fresh s).task t = some k := task
    change (fresh s).lsumCmd t = _
    unfold State.lsumCmd
    rw [task]
    exact (if_neg ready).trans (State.asReader_of_opened _ task opened)
  case links =>
    refine (State.aringCmd_of_new (z := fresh s) task running opcode new rfl).trans ?_
    rw [good]
  case linksBad =>
    refine (State.aringCmd_of_new (z := fresh s) task running opcode new rfl).trans ?_
    rw [bad]
    exact State.sendDone_eq_reported _ t
  case last => rw [State.ringGo_of_running task running issued opcode alive clean, if_pos last]
  case waits =>
    rw [State.ringGo_of_running task running issued opcode alive clean, if_neg (Nat.not_le.mpr more), if_neg (Bool.eq_false_iff.mp waits)]
  case round => rw [State.ringGo_of_running task running issued opcode alive clean, if_neg (Nat.not_le.mpr more), if_pos may]

end Sys2Proof.Machine
end

section
/-! The integrity unit's event slots (R275, R277, R280–R285). -/
namespace Sys2Proof.Machine
open Claims

/-- The read-back of a restored pair, unit by unit. -/
theorem State.verify_of_written {s u : State} {k : Nat} {ok : Bool} (written : (s.slot k).st = 4)
    (units : (unitsOf (s.slot k).addr 64).foldl (fun (p : State × Bool) a =>
      ((p.1.loadUnit false a).1, p.2 && (p.1.loadUnit false a).2.outc == .clean)) (s, true) = (u, ok)) :
    s.verify k = if ok then (u.repairDone k (s.slot k).src).serveStalled else u.hardFaultSlot k := by
  have step : (fun (p : State × Bool) a => match p.1.loadUnit false a with
      | (s, d) => (s, p.2 && d.outc == .clean)) =
      fun (p : State × Bool) a => ((p.1.loadUnit false a).1, p.2 && (p.1.loadUnit false a).2.outc == .clean) := by
    funext p a
    cases p.1.loadUnit false a
    rfl
  unfold State.verify
  dsimp only
  rw [if_neg (not_not_intro written)]
  refine (congrArg (fun f => match (unitsOf (s.slot k).addr 64).foldl f (s, true) with
    | (s', ok) => if ok then (s'.repairDone k (s.slot k).src).serveStalled else s'.hardFaultSlot k) step).trans ?_
  dsimp only
  rw [units]

/-- Settles O35: a report by what it finds, and each command by its slot's state. -/
theorem eventSlots : Obligations.EventSlots := by
  refine ⟨fun r s free => ⟨fun released => exec_arrive _ rfl free (if_pos released),
      fun live clean => exec_arrive _ rfl free ((if_neg live).trans (if_pos clean)),
      fun live bad held absent k slot => exec_arrive _ rfl free ((if_neg live).trans ((if_neg bad).trans ?assigned)),
      fun live bad audit => exec_arrive _ rfl free ((if_neg live).trans ((if_neg bad).trans ?audit))⟩,
    fun k data s => ⟨fun asks source => ⟨next_congr ((if_neg ?answer).trans (if_pos rfl)), next_congr ((if_neg ?bad).trans (if_neg Bool.false_ne_true)),
        next_congr ((if_neg ?timeout).trans (if_neg Bool.false_ne_true))⟩,
      fun reload => next_congr (if_pos reload), fun u ok written units => next_congr (State.verify_of_written written units),
      fun busy owned => ⟨next_congr (if_neg ?bound), next_congr (if_neg ?abandon)⟩,
      fun unowned => next_congr (if_pos (.inr unowned)), fun busy => next_congr (if_neg busy),
      fun copies => ⟨fun source => next_congr ((if_neg (not_not_intro copies)).trans ?repaired),
        fun scrub => next_congr ((if_neg (not_not_intro copies)).trans ?freed)⟩⟩⟩
  case assigned =>
    unfold State.takeReport
    rw [held, if_neg Bool.false_ne_true, absent]
    dsimp only
    rw [slot]
  case audit => exact if_pos audit
  case answer => exact fun h => h.elim (fun other => other asks) (Nat.not_le.mpr source)
  case bad => exact fun h => h.elim (fun other => other asks) (Nat.not_le.mpr source)
  case timeout => exact fun h => h.elim (fun other => other asks) (Nat.not_le.mpr source)
  case bound => exact fun h => h.elim busy owned
  case abandon => exact fun h => h.elim busy owned
  case repaired => exact congrArg State.serveStalled (if_pos source)
  case freed => exact congrArg State.serveStalled (if_neg (Nat.not_lt.mpr scrub))

end Sys2Proof.Machine
end

section
/-! Links and their training (R292–R294, R309). -/
namespace Sys2Proof.Machine
open Claims

/-- A NAK inside the replay buffer of a receiving link. -/
theorem State.nakIn_of_receiving {s : State} {l : Nat} {q : BitVec 10} (receives : s.receives l = true)
    (inside : ((s.link l).tx - q).toNat ≤ 512) :
    s.nakIn l q = if (s.link l).replay = some q then s.linkFail l
      else s.setLink l { s.link l with replay := some q, ackd := q } := by
  unfold State.nakIn
  dsimp only
  rw [receives, decide_eq_false (Nat.not_lt.mpr inside)]
  rfl

/-- The next step of a link in training. -/
theorem State.stepDone_of_training {s : State} {l : Nat} (training : s.linkState l = 1) :
    s.stepDone l = (let t := s.setLink l { s.link l with step := (s.link l).step + 1 }
      if (s.link l).step = 0 then t.setFld .lnkStat l 10 3 (laneMask l)
      else if (s.link l).step = 2 then (t.setLinkState l 2).sendFlit l else t) :=
  if_neg (not_not_intro training)

/-- A failed link at its retrain timer. -/
theorem State.retrainTimer_of_failed {s : State} {l : Nat} (failed : s.linkState l = 4) :
    s.retrainTimer l = if s.flag .lnkCtl l 0 && decide (s.fld .lnkStat l 20 18 < s.fld .lnkCtl l 3 1)
      then (s.train l).setFld .lnkStat l 20 18 (s.fld .lnkStat l 20 18 + 1)
      else (s.setLinkState l 0).setLink l { s.link l with spent := true } :=
  if_neg (not_not_intro failed)

/-- Settles O37: each command by the state of its link. -/
theorem linkTraining : Obligations.LinkTraining := by
  intro l s v
  refine ⟨fun enabled down fresh => next_congr (if_pos ?idle), ⟨fun enabled => next_congr (if_pos enabled),
      fun disabled => next_congr (if_neg (Bool.eq_false_iff.mp disabled))⟩,
    fun training => ⟨fun first => next_congr ((State.stepDone_of_training training).trans (if_pos first)),
      fun second => next_congr ((State.stepDone_of_training training).trans ((if_neg ?second).trans (if_neg ?second'))),
      fun third => next_congr ((State.stepDone_of_training training).trans ((if_neg ?third).trans (if_pos third)))⟩,
    fun trains => next_congr (if_pos trains),
    fun failed enabled left => next_congr ((State.retrainTimer_of_failed failed).trans (if_pos ?left)),
    fun failed spent => next_congr ((State.retrainTimer_of_failed failed).trans (if_neg ?spent)),
    fun q receives => ⟨fun listens => next_congr ?discards, fun discards again => next_congr ?fails,
      fun inside new => next_congr ((State.nakIn_of_receiving receives inside).trans (if_neg new)),
      fun inside again => next_congr ((State.nakIn_of_receiving receives inside).trans (if_pos again))⟩,
    fun receives => next_congr (if_pos receives), rfl, fun notUp => next_congr ?disable, fun w => rfl⟩
  case idle =>
    have fresh : (s.link l.val).spent = false := fresh
    rw [enabled, decide_eq_true down, fresh]
    rfl
  case second => exact fun first => absurd (first.symm.trans second) (by decide)
  case second' => exact fun third => absurd (third.symm.trans second) (by decide)
  case third => exact fun first => absurd (first.symm.trans third) (by decide)
  case left =>
    rw [enabled, decide_eq_true left]
    rfl
  case spent =>
    rw [decide_eq_false (Nat.not_lt.mpr spent), Bool.and_false]
    exact Bool.false_ne_true
  case discards =>
    have listens : (s.link l.val).discard = false := listens
    unfold State.badFlit
    dsimp only
    rw [receives, listens]
    rfl
  case fails =>
    have discards : (s.link l.val).discard = true := discards
    unfold State.badFlit
    dsimp only
    rw [receives, discards]
    exact if_pos again
  case disable =>
    have left : (s.setBit .lnkCtl l.val 0 false).leaveUp l.val 0 = (s.setBit .lnkCtl l.val 0 false).setLinkState l.val 0 := if_pos notUp
    unfold State.linkEnable
    dsimp only
    rw [if_neg Bool.false_ne_true, left, decide_eq_false notUp, if_neg Bool.false_ne_true]

end Sys2Proof.Machine
end

section
/-! The mirror pair: heartbeats, failover, forming and catch-up (R302–R309). -/
namespace Sys2Proof.Machine
open Claims

/-- The bits of LNK_MIR_CTL are no part of the mirror's configuration. -/
theorem State.lnkMirCfg_setMirCtl (s : State) (n m : Nat) (b : Bool) :
    (s.setBit .lnkMirCtl 0 n b).flag .lnkMirCfg 0 m = s.flag .lnkMirCfg 0 m :=
  State.flag_setBit_ne s b (by simp only [Reg.addr, Reg.info, Page.place]; omega)

/-- The bits of LNK_MIR_CTL are no part of the pair's state. -/
theorem State.pair_setMirCtl (s : State) (n : Nat) (b : Bool) : (s.setBit .lnkMirCtl 0 n b).pair = s.pair :=
  State.fld_setBit_ne s b (by simp only [Reg.addr, Reg.info, Page.place]; omega)

/-- A message's flits are no part of the pair's state. -/
theorem State.pair_flitIn (s : State) (l n : Nat) : (s.flitIn l n).pair = s.pair := by
  refine congrArg (wb · 2 0) (State.flitIn_reg s l n ?_ ?_) <;>
  · simp only [Reg.addr, Reg.info, Page.place]
    omega

/-- A pair in no formed state. -/
theorem State.formed_of_pair {s : State} {n : Nat} (pair : s.pair = n) (h2 : n ≠ 2) (h3 : n ≠ 3) : s.formed = false :=
  decide_eq_false fun h => h.elim (h2 <| pair.symm.trans ·) (h3 <| pair.symm.trans ·)

/-- FORM where the pair was not lost. -/
theorem State.formPair_of_not_lost {s : State} (pair : s.pair ≠ 5) : s.formPair =
    (let c := s.setBit .lnkMirCtl 0 0 true
     if s.flag .lnkMirCfg 0 0 && !s.formed then
      ({ c with lk := { c.lk with incr := [], copied := [], cus := none, out := [], wantConfirm := false } } : State).setPair 1
     else c) := by
  have kept : (s.setBit .lnkMirCtl 0 0 true).formed = s.formed := by
    unfold State.formed
    rw [State.pair_setMirCtl]
  unfold State.formPair
  dsimp only
  rw [State.pair_setMirCtl, if_neg pair, State.lnkMirCfg_setMirCtl, kept]

/-- The third missed interval of an alive port makes it silent. -/
theorem State.beatMissed_of_silent {s : State} {m : Nat} :
    let n := min 3 (s.fld .lnkStat (8 + m) 22 21 + 1)
    let u := s.setFld .lnkStat (8 + m) 22 21 n
    n = 3 → u.portAlive m = true → s.beatMissed m =
      (let v := u.setBit .lnkMirStat 0 (3 + m) false
       (if v.formed && v.portAlive (1 - m) then v.setBit .lnkEvt 0 4 true else v).bothSilent) := by
  intro n u third alive
  have silent : ¬ (decide (n < 3) || !u.portAlive m) = true := by
    rw [alive, decide_eq_false (Nat.not_lt.mpr (Nat.le_of_eq third.symm))]
    exact Bool.false_ne_true
  exact if_neg silent

/-- An increment of a pair in sync is applied. -/
theorem State.mirrorIn_of_in_sync {s : State} {port : Nat} {m : MirrorMsg} (own : port ≠ 2) (sync : s.pair = 3)
    (up : s.linkState (8 + port) = 3) (standby : s.standby (s.msgPart m) = true) :
    s.mirrorIn port m = (s.flitIn (8 + port) 1).applyMsg m := by
  have formed : s.formed = true := decide_eq_true (.inr sync)
  have sync' : (s.flitIn (8 + port) 1).pair = 3 := (State.pair_flitIn ..).trans sync
  unfold State.mirrorIn
  dsimp only
  rw [if_neg own, formed, up, standby, if_neg (by decide)]
  cases msgStream m with
  | none => rfl
  | some x => exact (if_neg own).trans (if_pos (.inl sync'))

/-- A heartbeat on a port where the port is up and not silenced. -/
def State.beatPort (s : State) (l : Nat) : State :=
  if s.linkState l = 3 ∧ !s.flag .lnkInj l 4 then
    { s.sendFlit l with lk := { (s.sendFlit l).lk with hbSent := (s.sendFlit l).lk.hbSent + 1 } }
  else s

/-- A sent heartbeat goes to one port after the other. -/
theorem State.sendBeats_eq (s : State) : s.sendBeats = (s.beatPort 8).beatPort 9 := rfl

/-- No heartbeat leaves on a port that is not up. -/
theorem State.beatPort_of_down {s : State} {l : Nat} (down : s.linkState l ≠ 3) : s.beatPort l = s :=
  if_neg fun h => down h.1

/-- Settles O39: each event by the state of the pair and its ports. -/
theorem mirrorPair : Obligations.MirrorPair := by
  intro s
  refine ⟨⟨fun enabled unformed kept => next_congr ?form, fun enabled lost => next_congr ?lost,
      fun kept no => next_congr ?unformed⟩, rfl, fun wanted => next_congr ?confirm, fun unwanted => next_congr ?unconfirmed,
    fun p => ⟨fun up => ⟨fun other => next_congr ?beat, fun forming copies => next_congr ?starts⟩,
      fun less => next_congr ?miss, fun third alive => ⟨fun formed mate => next_congr ?half, fun formed mate => next_congr ?both⟩⟩,
    fun formed silent0 silent1 unpaired => ?lose, fun down0 down1 => next_congr ?beatNone, fun up unsilenced down down' => next_congr ?beatOne,
    fun paired => next_congr (if_pos paired),
    ⟨fun unpaired => ⟨next_congr ?toggle, next_congr ?unmissed⟩, fun paired => next_congr ?pairToggle, fun paired less => next_congr ?missed⟩,
    fun p m sync up standby => next_congr (State.mirrorIn_of_in_sync (Nat.ne_of_lt p.isLt) sync up standby),
    fun x r t none taken => next_congr ?acked, fun x pair up copying => next_congr ?copied⟩
  case form =>
    rw [State.formPair_of_not_lost kept, enabled, unformed]
    rfl
  case lost =>
    have lost' : ∀ s : State, s.pair = 5 → s.formed = false := fun s h => State.formed_of_pair h (by decide) (by decide)
    have unformed : ({ s.setBit .lnkMirCtl 0 0 true with lk := { (s.setBit .lnkMirCtl 0 0 true).lk with recSt := [] } } : State).formed = false :=
      lost' _ ((State.pair_setMirCtl s 0 true).trans lost)
    have enabled' : ({ s.setBit .lnkMirCtl 0 0 true with lk := { (s.setBit .lnkMirCtl 0 0 true).lk with recSt := [] } } : State).flag .lnkMirCfg 0 0 = true :=
      (State.lnkMirCfg_setMirCtl s 0 0 true).trans enabled
    unfold State.formPair
    dsimp only
    rw [State.pair_setMirCtl, if_pos lost, enabled', unformed]
    rfl
  case unformed =>
    have refused : (s.flag .lnkMirCfg 0 0 && !s.formed) = false := by
      rcases no with off | formed
      · rw [off, Bool.false_and]
      · rw [formed, Bool.not_true, Bool.and_false]
    rw [State.formPair_of_not_lost kept, refused]
    rfl
  case confirm =>
    have wanted : (s.setBit .lnkMirCtl 0 2 true).lk.wantConfirm = true := wanted
    exact if_pos wanted
  case unconfirmed =>
    have unwanted : (s.setBit .lnkMirCtl 0 2 true).lk.wantConfirm = false := unwanted
    exact if_neg (Bool.eq_false_iff.mp unwanted)
  case beat => exact (if_neg (not_not_intro up)).trans (if_neg fun h => other h.1)
  case starts => exact (if_neg (not_not_intro up)).trans (if_pos ⟨forming, copies⟩)
  case miss =>
    unfold State.beatMissed
    dsimp only
    rw [decide_eq_true less, Bool.true_or, if_pos rfl]
  case half =>
    refine (State.beatMissed_of_silent third alive).trans ?_
    dsimp only
    rw [formed, mate]
    rfl
  case both =>
    refine (State.beatMissed_of_silent third alive).trans ?_
    dsimp only
    rw [formed, mate]
    rfl
  case lose =>
    unfold State.bothSilent
    rw [formed, silent0, silent1, unpaired]
    rfl
  case beatNone => rw [State.sendBeats_eq, State.beatPort_of_down down0, State.beatPort_of_down down1]
  case beatOne =>
    have sent : s.beatPort 8 = { s.sendFlit 8 with lk := { (s.sendFlit 8).lk with hbSent := (s.sendFlit 8).lk.hbSent + 1 } } :=
      if_pos ⟨up, (congrArg not unsilenced).trans rfl⟩
    rw [State.sendBeats_eq, sent]
    exact State.beatPort_of_down down'
  case toggle =>
    have unpaired : ({ s with pw := { s.pw with hbIn := !s.pw.hbIn } } : State).gp3Pair = false := unpaired
    unfold State.hbToggle
    dsimp only
    rw [unpaired]
    rfl
  case unmissed =>
    unfold State.hbMissed
    rw [unpaired]
    rfl
  case pairToggle =>
    have paired : ({ s with pw := { s.pw with hbIn := !s.pw.hbIn } } : State).gp3Pair = true := paired
    unfold State.hbToggle
    dsimp only
    rw [paired]
    rfl
  case missed =>
    unfold State.hbMissed
    dsimp only
    rw [paired, if_neg (by decide), if_pos (by omega)]
  case acked =>
    unfold State.mirrorAcked
    rw [none]
    dsimp only [List.find?_nil]
    rw [taken]
  case copied =>
    unfold State.copyDone
    rw [if_neg fun h => h.elim (· pair) (· up), copying]

end Sys2Proof.Machine
end

section
/-! Power domains: switching and the end of initialisation (R324, R343). -/
namespace Sys2Proof.Machine
open Claims

/-- DOMAIN_ON of a domain that is off and does not wait. -/
theorem State.switchOn_of_off {s : State} {d : Nat} (off : s.dom d = .off) (fresh : s.pw.onq.contains d = false) :
    s.switchOn d = if s.onOk d then s.promote (s.pw.onq ++ [d]) else s.refuseSwitch := by
  unfold State.switchOn
  rw [off]
  dsimp only
  rw [fresh, if_neg Bool.false_ne_true]

/-- The first domain that waits starts to switch where its precondition holds. -/
theorem State.promote_of_off {s : State} {d : Nat} {t : List Nat} (off : s.dom d = .off) (ok : s.onOk d = true) :
    s.promote (d :: t) = { s.setDom d .switching with pw := { (s.setDom d .switching).pw with onq := d :: t } } := by
  unfold State.promote
  rw [off]
  exact if_pos ok

/-- While a domain switches, the others wait behind it. -/
theorem State.promote_of_switching {s : State} {d : Nat} {t : List Nat} (switching : s.dom d = .switching) :
    s.promote (d :: t) = { s with pw := { s.pw with onq := d :: t } } := by
  unfold State.promote
  rw [switching]

/-- The domain that switches turns on, and what waits goes on. -/
theorem State.switchDone_of_switching {s : State} {d : Nat} {q : List Nat} (front : s.pw.onq = d :: q)
    (switching : s.dom d = .switching) (other : d ≠ 74) :
    s.switchDone d = (let t := ((s.setDom d .on).orReg .pwrEvt 0 (2 ^ 8)).promote q
      if t.pw.onq.isEmpty then t.startTests t.se.stq else t) := by
  unfold State.switchDone
  rw [front]
  dsimp only
  rw [if_pos ⟨rfl, switching⟩, if_neg other]

/-- The words that the end of initialisation loads for a domain. -/
def State.initLoads (s : State) (d : Nat) (trained : BitVec 8) : State :=
  if d < 48 then s.loadRemaps .tenMremap d (4728 + 64 * d) 8
  else if 52 ≤ d ∧ d < 68 then (s.loadRemaps .stkRemap (d - 52) (632 + 128 * (d - 52)) 16).loadFuses (d - 52)
  else if 68 ≤ d ∧ d < 72 then
    (s.loadRemaps .hthRemap (d - 68) (2680 + 512 * (d - 68)) 64).setFld .hthStat (d - 68) 7 0 trained.toNat
  else if d = 72 ∨ d = 73 then
    (linksOf d).foldl (fun s l => s.linkEnable l (bitOf (s.rc 80 4) (10 + l))) s
  else s

/-- Initialisation of a domain that is on and not ready ends: the words are loaded, and the function becomes ready
unless a self-test holds it. -/
theorem State.initDone_eq {s : State} {d : Nat} {m : BitVec 8} (on : s.dom d = .on) (fresh : s.ready d = false) :
    s.initDone d m = (let t := if d = 74 then (s.initLoads d m).setBit .secEvt 0 0 true else s.initLoads d m
      if t.testHolds d then t else t.becomeReady d) :=
  if_neg fun h => h.elim (absurd on) (fun ready => Bool.false_ne_true (fresh.symm.trans ready))

/-- The end of initialisation of a domain other than the control complex's. -/
theorem State.initDone_of_loads {s t : State} {d : Nat} {m : BitVec 8} (on : s.dom d = .on) (fresh : s.ready d = false)
    (other : d ≠ 74) (loads : s.initLoads d m = t) : s.initDone d m = if t.testHolds d then t else t.becomeReady d := by
  rw [State.initDone_eq on fresh, if_neg other, loads]

/-- A field, a link domain or the control complex has no self-test that holds it. -/
theorem State.testHolds_of_no_test {d : Nat} (s : State) (h : 48 ≤ d ∧ d < 52 ∨ 72 ≤ d) : s.testHolds d = false := by
  have none : testOf d = none := by
    unfold testOf
    rw [if_neg (by omega), if_neg (by omega), if_neg (by omega)]
  unfold State.testHolds
  rw [none]

/-- The end of initialisation of a field or of the control complex loads no words. -/
theorem State.initLoads_of_no_words {d : Nat} (s : State) (m : BitVec 8) (h : 48 ≤ d ∧ d < 52 ∨ 74 ≤ d) : s.initLoads d m = s := by
  unfold State.initLoads
  rw [if_neg (by omega), if_neg (by omega), if_neg (by omega), if_neg (by omega)]

/-- A function that is no heath group's is ready once it may be. -/
theorem State.becomeReady_of_no_heath {d : Nat} (s : State) (h : d < 68 ∨ 72 ≤ d) : s.becomeReady d = s.setReady d true :=
  if_neg fun heath => by omega

/-- Settles O43: each command by the domain's state, the end of initialisation by the domain's kind. -/
theorem domainCommands : Obligations.DomainCommands := by
  intro d s
  refine ⟨fun off fresh => ⟨fun ok => ⟨fun none => next_congr ?starts, fun h q waiting switching => next_congr ?waits⟩,
      fun refused => next_congr ?refused⟩, fun on => next_congr ?same,
    fun fused => ⟨next_congr ?fusedOn, next_congr ?fusedOff⟩, fun on => ⟨fun ok => next_congr ?cut, fun refused => next_congr ?kept⟩,
    fun q front switching other => ⟨fun more => next_congr ?next, fun last => next_congr ?tests⟩,
    fun m on fresh => ⟨fun ge lt => next_congr ?field, fun lt => ⟨fun free => next_congr ?cluster, fun held => next_congr ?clusterHeld⟩,
      fun ge lt => ⟨fun free => next_congr ?stack, fun held => next_congr ?stackHeld⟩,
      fun ge lt => ⟨fun held => next_congr ?heathHeld, fun free trained => next_congr ?heath⟩,
      fun link => next_congr ?link, fun control => next_congr ?control⟩⟩
  case starts =>
    rw [State.switchOn_of_off off fresh, if_pos ok, none, List.nil_append, State.promote_of_off off ok]
  case waits => rw [State.switchOn_of_off off fresh, if_pos ok, waiting, List.cons_append, State.promote_of_switching switching]
  case refused =>
    rw [State.switchOn_of_off off fresh, refused]
    rfl
  case same =>
    unfold State.switchOn
    rcases on with on | switching
    · rw [on]
    · rw [switching]
  case fusedOn =>
    unfold State.switchOn
    rw [fused]
    rfl
  case fusedOff =>
    unfold State.switchOff
    rw [fused]
  case cut =>
    unfold State.switchOff
    rw [on]
    exact if_pos ok
  case kept =>
    unfold State.switchOff
    rw [on]
    exact if_neg (Bool.eq_false_iff.mp refused)
  case next =>
    rw [State.switchDone_of_switching front switching other]
    exact if_neg fun empty => more (List.isEmpty_iff.mp empty)
  case tests =>
    rw [State.switchDone_of_switching front switching other]
    exact if_pos (List.isEmpty_iff.mpr last)
  case field =>
    rw [State.initDone_of_loads on fresh (by omega) (State.initLoads_of_no_words s m (.inl ⟨ge, lt⟩)),
      State.testHolds_of_no_test s (.inl ⟨ge, lt⟩), State.becomeReady_of_no_heath s (.inl (by omega))]
    rfl
  case cluster =>
    rw [State.initDone_of_loads on fresh (by omega) (if_pos lt), free, State.becomeReady_of_no_heath _ (.inl (by omega))]
    rfl
  case clusterHeld =>
    rw [State.initDone_of_loads on fresh (by omega) (if_pos lt), held]
    rfl
  case stack =>
    rw [State.initDone_of_loads on fresh (by omega) ((if_neg (by omega)).trans (if_pos ⟨ge, lt⟩)), free,
      State.becomeReady_of_no_heath _ (.inl lt)]
    rfl
  case stackHeld =>
    rw [State.initDone_of_loads on fresh (by omega) ((if_neg (by omega)).trans (if_pos ⟨ge, lt⟩)), held]
    rfl
  case heathHeld =>
    rw [State.initDone_of_loads on fresh (by omega) ((if_neg (by omega)).trans ((if_neg (by omega)).trans (if_pos ⟨ge, lt⟩)))]
    rcases held with held | untrained
    · rw [held]
      rfl
    · split
      · rfl
      · exact (if_pos ⟨ge, lt⟩).trans (if_pos untrained)
  case heath =>
    rw [State.initDone_of_loads on fresh (by omega) ((if_neg (by omega)).trans ((if_neg (by omega)).trans (if_pos ⟨ge, lt⟩))),
      free, if_neg Bool.false_ne_true]
    exact (if_pos ⟨ge, lt⟩).trans (if_neg (not_not_intro trained))
  case link =>
    have loads : s.initLoads d.val m =
        (linksOf d.val).foldl (fun (s : State) l => s.linkEnable l (bitOf (s.rc 80 4) (10 + l))) s := by
      unfold State.initLoads
      rw [if_neg (by omega), if_neg (by omega), if_neg (by omega), if_pos link]
    rw [State.initDone_of_loads on fresh (by omega) loads, State.testHolds_of_no_test _ (.inr (by omega)),
      State.becomeReady_of_no_heath _ (.inr (by omega))]
    rfl
  case control =>
    rw [State.initDone_eq on fresh, if_pos control, State.initLoads_of_no_words s m (.inr (by omega))]
    dsimp only
    rw [State.testHolds_of_no_test _ (.inr (by omega)), State.becomeReady_of_no_heath _ (.inr (by omega))]
    rfl

end Sys2Proof.Machine
end

section
/-! The power governor, the residency bins and the sensors (R325–R329). -/
namespace Sys2Proof.Machine
open Claims

/-- A sample goes through the injection, the free input voltage, the residency, the credit, the governor and the trip. -/
theorem State.sampleWatts_of_injected {s u v : State} {w : Nat} {x : Int} {n : Word}
    (inj : s.injected 0 w 0 4095 = (u, x)) (drawn : u.draw = (v, n)) : s.sampleWatts w =
    (((((v.setFld .pwrIn 0 27 16 x.toNat).setFld .pwrIn 0 15 0 (wb n 15 0)).residency x.toNat).creditStep x.toNat).govern
      x.toNat).overTrip x.toNat := by
  unfold State.sampleWatts
  rw [inj]
  dsimp only
  rw [drawn]

/-- A hundredth sample below the restoring threshold takes a restoring step. -/
theorem State.govern_of_low {s : State} {w : Nat} :
    let u := s.setFld .pwrGovStat 0 22 11 s.ceiling
    100 * (w + u.switchWatts) < 97 * s.ceiling → u.pw.below = 99 →
    s.govern w = State.restoreStep { u with pw := { u.pw with below := 0 } } := by
  intro u low last
  have notHigh : ¬ s.ceiling < w + u.switchWatts := by omega
  have full : ¬ u.pw.below + 1 < 100 := by omega
  exact (if_neg notHigh).trans ((if_pos low).trans (if_neg full))

/-- A reading: what is shown and held by whether it reaches the alert threshold and whether it is held. -/
theorem State.sense_eq {s u v : State} {n : Nat} {t : BitVec 12} {x : Int} {hot hold : Bool}
    (inj : s.injected (n + 1) t.toInt (-2048) 2047 = (u, x))
    (shown : v = State.fastRef (State.doubling { u with pw := { u.pw with temps := mapSet (fun _ => 0#12) u.pw.temps n (BitVec.ofInt 12 x) } }
      n x) n)
    (isHot : decide (4 * ((thresholds n).1 : Int) ≤ x) = hot)
    (holds : (hot || (v.pw.alerts.getLsbD n && decide (4 * (((thresholds n).1 : Int) - 3) < x))) = hold) :
    s.sense n t = (let bit := BitVec.ofNat 112 (2 ^ n)
      let w : State := { v with pw := { v.pw with alerts := (v.pw.alerts &&& ~~~bit) ||| (if hold then bit else 0) } }
      let w := if hot then ((w.orReg .tlmEvt 0 (2 ^ alertBit n)).setFld .pwrGovStat 0 4 0 0).setBit .pwrGovStat 0 5 false else w
      if 4 * ((thresholds n).2 : Int) ≤ x then w.showGp3.powerTrip.orReg .tlmEvt 0 (2 ^ 7) else w.showGp3) := by
  subst hold hot shown
  unfold State.sense
  rw [inj]

/-- Settles O44: the sample's steps, the governor's by what is left to cut or restore, a reading's by its thresholds. -/
theorem governorAndSensors : Obligations.GovernorAndSensors := by
  intro s
  refine ⟨fun w u v x n inj drawn => next_congr (State.sampleWatts_of_injected inj drawn), fun w => ⟨fun high => ?cut, fun low last => ?restore⟩,
    fun island => rfl, ⟨fun less => next_congr (if_pos less), fun full => next_congr (if_neg (Nat.not_lt.mpr full))⟩, fun n t => rfl,
    fun n t u v x inj shown => ⟨fun hot below => ?alert, fun trips hot => ?trip, fun cold below => ?clears⟩⟩
  case cut =>
    have cuts : s.govern w = (s.setFld .pwrGovStat 0 22 11 s.ceiling).cutStep := if_pos high
    rw [cuts]
    exact ⟨fun b => if_pos b, fun b audit => (if_neg (not_not_intro b)).trans (if_pos audit),
      fun b audit q => (if_neg (not_not_intro b)).trans ((if_neg (Bool.eq_false_iff.mp audit)).trans (if_pos q)),
      fun b audit q => (if_neg (not_not_intro b)).trans ((if_neg (Bool.eq_false_iff.mp audit)).trans (if_neg (Nat.not_lt.mpr q)))⟩
  case restore =>
    rw [State.govern_of_low low last]
    refine ⟨fun q => if_pos q, fun q held => (if_neg (Nat.not_lt.mpr q)).trans (if_pos held), fun q free audit => ?_,
      fun q free audit b => ?_, fun q free audit b => ?_⟩ <;>
    refine (if_neg (Nat.not_lt.mpr q)).trans ((if_neg (not_not_intro free)).trans ?_)
    · exact if_pos ((congrArg not audit).trans rfl)
    · exact (if_neg fun h => Bool.false_ne_true ((congrArg not audit).symm.trans h)).trans (if_pos b)
    · exact (if_neg fun h => Bool.false_ne_true ((congrArg not audit).symm.trans h)).trans (if_neg (Nat.not_lt.mpr b))
  case alert => exact (State.sense_eq inj shown (decide_eq_true hot) (Bool.true_or _)).trans (if_neg (Int.not_le.mpr below))
  case trip => exact (State.sense_eq inj shown (decide_eq_true hot) (Bool.true_or _)).trans (if_pos trips)
  case clears =>
    have cool : ¬ 4 * ((thresholds n.val).1 : Int) ≤ x := by omega
    have loose : ¬ 4 * (((thresholds n.val).1 : Int) - 3) < x := by omega
    refine (State.sense_eq inj shown (decide_eq_false cool) (hold := false) ?_).trans (if_neg (Int.not_le.mpr below))
    rw [decide_eq_false loose, Bool.and_false, Bool.or_false]

end Sys2Proof.Machine
end

section
/-! The boot chain: the ROM, the platform firmware and the loading of images (R336, R337). -/
namespace Sys2Proof.Machine
open Claims

/-- The ROM at its stage, by what the flash does. -/
theorem State.rom_of_due {s t : State} {f : Bool} (stage : s.stage = 0) (on : s.dom 75 = .on)
    (read : s.chooseSlot.flashFails = (t, f)) : s.rom = if f then t.bootFail 7 else t.romSlot s.chooseSlot.slotNo := by
  unfold State.rom
  rw [if_neg fun h => h.elim (absurd stage) (absurd on), read]
  cases f with
  | false => exact (if_neg Bool.false_ne_true).symm
  | true => exact (if_pos rfl).symm

/-- The firmware at its stage where the flash fails. -/
theorem State.firmware_of_flash_failed {s t : State} (stage : s.stage = 1) (failed : s.flashFails = (t, true)) :
    s.firmware = t.bootFail 7 := by
  rw [State.firmware, if_neg (not_not.mpr stage), failed]

/-- The loading of images at its stage, by what the flash does and by what the images are. -/
theorem State.loaded_of_due {s t : State} {f : Bool} (stage : s.stage = 2) (unscanned : s.scan = 0) (ready0 : s.ready 68 = true)
    (ready1 : s.ready 69 = true) (read : s.flashFails = (t, f)) :
    s.loaded = if f then t.bootFail 7 else if t.imagesBad then t.bootFail 5 else t.release t.slotNo t.loads := by
  have due : ¬ (s.stage ≠ 2 ∨ s.scan ≠ 0 ∨ (!s.ready 68) = true ∨ (!s.ready 69) = true) := by
    rw [stage, unscanned, ready0, ready1]
    decide
  unfold State.loaded
  rw [if_neg due, read]
  cases f with
  | false => exact (if_neg Bool.false_ne_true).symm
  | true => exact (if_pos rfl).symm

/-- A missing loader or system makes the images bad. -/
theorem State.imagesBad_of_missing {s : State}
    (h : s.image s.slotNo 3 = none ∨ s.image s.slotNo 4 = none ∨ s.imagesBad = true) : s.imagesBad = true := by
  rcases h with loader | system | bad
  · unfold State.imagesBad
    dsimp only
    rw [loader, Option.isNone_none, Bool.true_or, Bool.true_or]
  · unfold State.imagesBad
    dsimp only
    rw [system, Option.isNone_none, Bool.or_true, Bool.true_or]
  · exact bad

/-- Settles O46: each stage by what the flash does and by what its checks give. -/
theorem bootChain : Obligations.BootChain := by
  intro s
  refine ⟨fun stage on t f read => ⟨fun failed => next_congr ?romFlash, fun ok cause => next_congr ?romCause, fun ok clean => next_congr ?rom⟩,
    fun stage t f read => ⟨fun failed => next_congr ?flash, fun ok bad => next_congr ?refused, fun ok good => next_congr ?firmware⟩,
    fun stage unscanned ready0 ready1 t f read => ⟨fun failed => next_congr ?imageFlash, fun ok bad => next_congr ?imageBad,
      fun ok good => next_congr ?release⟩,
    fun stage => next_congr (if_pos (.inl stage)), fun stage => next_congr (if_pos stage), fun undue => next_congr (if_pos ?undue)⟩
  case romFlash => exact (State.rom_of_due stage on read).trans (if_pos failed)
  case romCause =>
    exact (State.rom_of_due stage on read).trans ((if_neg (Bool.eq_false_iff.mp ok)).trans (if_pos cause))
  case rom =>
    exact (State.rom_of_due stage on read).trans ((if_neg (Bool.eq_false_iff.mp ok)).trans (if_neg (not_not_intro clean)))
  case flash => exact State.firmware_of_flash_failed stage (failed ▸ read)
  case refused => exact (State.firmware_of_flash_read stage (ok ▸ read)).trans (if_pos bad)
  case firmware => exact (State.firmware_of_flash_read stage (ok ▸ read)).trans (State.firmwareRun_of_accepted good)
  case imageFlash => exact (State.loaded_of_due stage unscanned ready0 ready1 read).trans (if_pos failed)
  case imageBad =>
    exact (State.loaded_of_due stage unscanned ready0 ready1 read).trans
      ((if_neg (Bool.eq_false_iff.mp ok)).trans (if_pos (State.imagesBad_of_missing bad)))
  case release =>
    exact (State.loaded_of_due stage unscanned ready0 ready1 read).trans
      ((if_neg (Bool.eq_false_iff.mp ok)).trans (if_neg (Bool.eq_false_iff.mp good)))
  case undue =>
    rcases undue with stage | scanned | unready0 | unready1
    · exact .inl stage
    · exact .inr (.inl scanned)
    · exact .inr (.inr (.inl ((congrArg not unready0).trans rfl)))
    · exact .inr (.inr (.inr ((congrArg not unready1).trans rfl)))

end Sys2Proof.Machine
end

section
/-! Self-tests (R345–R347). -/
namespace Sys2Proof.Machine
open Claims

/-- Whether a unit of a kind is in use: a cluster, a stack or a heath group (R345). -/
def State.unitUsed (s : State) (k u : Nat) : Prop :=
  (k = 0 ∧ (s.boardUsed u ∨ s.twinState u ≠ 0)) ∨ (k = 1 ∧ s.stackUsed u) ∨ (k = 2 ∧ s.heathUsed u)

/-- A test whose unit is not on, or is under test already. -/
theorem State.testReason_of_unfit {s : State} {k u d : Nat} (unit : unitDomain k u = some d)
    (free : (s.testing k).length < testSlots k) (unfit : s.dom d ≠ .on ∨ (s.stOf k u).st = 1) : s.testReason k u = 2 := by
  unfold State.testReason
  rw [if_neg (Nat.not_le.mpr free), unit]
  exact if_pos (unfit.imp_right .inl)

/-- A test whose unit is on, not under test and not in use: the power, the alerts and the clearing decide. -/
theorem State.testReason_of_fit {s : State} {k u d : Nat} (unit : unitDomain k u = some d)
    (free : (s.testing k).length < testSlots k) (on : s.dom d = .on) (idle : (s.stOf k u).st ≠ 1) (unused : ¬ s.unitUsed k u) :
    s.testReason k u = if s.sustain < s.fld .pwrIn 0 27 16 + testWatts k then 3
      else if s.anyAlert then 4 else if s.scan ≠ 0 then 5 else 0 := by
  unfold State.testReason
  rw [if_neg (Nat.not_le.mpr free), unit]
  exact if_neg fun h => h.elim (absurd on) fun h => h.elim idle unused

/-- A unit that no kind's condition names is not in use. -/
theorem State.not_unitUsed {s : State} {k u : Nat} (cluster : k = 0 → s.boardUsed u = false ∧ s.twinState u = 0)
    (stack : k = 1 → s.stackUsed u = false) (heath : k = 2 → s.heathUsed u = false) : ¬ s.unitUsed k u := by
  rintro (⟨k0, board | twin⟩ | ⟨k1, stacked⟩ | ⟨k2, grouped⟩)
  · exact Bool.false_ne_true ((cluster k0).1.symm.trans board)
  · exact twin (cluster k0).2
  · exact Bool.false_ne_true ((stack k1).symm.trans stacked)
  · exact Bool.false_ne_true ((heath k2).symm.trans grouped)

/-- The end of a test that runs. -/
theorem State.endTest_of_running {s : State} {k u d : Nat} {pass : Bool} {n : BitVec 8} (unit : unitDomain k u = some d)
    (running : (s.stOf k u).st = 1) : s.endTest k u pass n =
    (let t := (((s.takeRemaps k u n.toNat).leaveTest k u).setSt k u ⟨if pass then 2 else 3, n⟩).setBit .secEvt 0 2 true
     let t := (if pass then t.becomeReady d else t.setBit .secEvt 0 3 true).showTests
     t.startTests t.se.stq) := by
  unfold State.endTest
  rw [unit]
  exact if_neg (not_not_intro running)

/-- The end of a test that does not run. -/
theorem State.endTest_of_none {s : State} {k u : Nat} (pass : Bool) (n : BitVec 8)
    (idle : unitDomain k u = none ∨ (s.stOf k u).st ≠ 1) : s.endTest k u pass n = s := by
  unfold State.endTest
  rcases idle with none | idle
  · rw [none]
  · cases unitDomain k u with
    | none => rfl
    | some d => exact if_pos idle

/-- Settles O48: a request by its reason, the reason by the first condition that holds, and the end by its result. -/
theorem selfTests : Obligations.SelfTests := by
  intro kind unit s k u
  refine ⟨fun reason => next_congr (if_neg reason), fun d unit accepted => next_congr ?starts,
    fun d unit => ⟨fun full => if_pos full, fun free => ⟨State.testReason_of_unfit unit free, fun on idle cluster stack heath => ?reasons⟩⟩,
    fun d n unit running => ⟨next_congr (State.endTest_of_running unit running), next_congr (State.endTest_of_running unit running)⟩,
    fun pass n idle => next_congr (State.endTest_of_none pass n idle)⟩
  case starts =>
    unfold State.requestTest
    dsimp only
    rw [if_pos accepted, accepted]
    unfold State.startTest
    rw [unit]
  case reasons =>
    rw [State.testReason_of_fit unit free on idle (State.not_unitUsed cluster stack heath)]
    exact ⟨fun power => if_pos power, fun power alert => (if_neg (Nat.not_lt.mpr power)).trans (if_pos alert),
      fun power calm clearing => (if_neg (Nat.not_lt.mpr power)).trans
        ((if_neg (Bool.eq_false_iff.mp calm)).trans (if_pos clearing)),
      fun power calm clear => (if_neg (Nat.not_lt.mpr power)).trans
        ((if_neg (Bool.eq_false_iff.mp calm)).trans (if_neg (not_not_intro clear)))⟩

end Sys2Proof.Machine
end

section
/-! The accesses of a core (R183, R193, R297, R311). -/
namespace Sys2Proof.Machine
open Claims

/-- A core's access to a peer: over the link of its home, or waiting behind what is outstanding on another. -/
theorem State.coreSend_eq_leaves (s : State) (h : Hart) (d x n : Nat) (rd : Bool) :
    s.coreSend ⟨.core h, 0, d, rd, s.free, x, n, [], []⟩ = leaves s h d x n rd := by
  unfold State.coreSend leaves State.coreLink
  dsimp only
  cases home : homeIsland x with
  | some j => rfl
  | none =>
    have free : ∀ (u : State) (l : Nat), u.linkBusy l ⟨.core h, 0, d, rd, s.free, x, n, [], []⟩ = false := by
      intro u l
      unfold State.linkBusy
      rw [home, Option.isSome_none, Bool.false_and]
    exact if_neg (Bool.eq_false_iff.mp (free _ _))

/-- A core's access to a device with no link up. -/
theorem State.coreRemote_of_no_link {s : State} {d : Nat} (none : s.peerLinks d = []) (h : Hart) (a n : Nat) (rd : Bool) :
    s.coreRemote h a d n rd = unanswered s h a := by
  unfold State.coreRemote
  rw [none]
  rfl

/-- A core's access to a device with a link up. -/
theorem State.coreRemote_of_link {s : State} {d : Nat} (up : s.peerLinks d ≠ []) (h : Hart) (a n : Nat) (rd : Bool) :
    s.coreRemote h a d n rd = leaves (if rd then s else s.setAcks h.val (s.acksOf h.val + 1)) h d (a % 2 ^ 52) n rd :=
  (if_neg fun empty => up (List.isEmpty_iff.mp empty)).trans (State.coreSend_eq_leaves ..)

/-- What a load does at each place where it may go. -/
def State.loadAt (s : State) (h : Hart) (a n : Nat) : CoreTo → State
  | .fault => s.accessFault h.val a
  | .silent => unanswered s h a
  | .control off => (s.controlRead off 0).1.answerCore (s.controlRead off 0).2
  | .memory | .carve => s.request ⟨.core h, .rd, a % 2 ^ 52, n, [], [], false, none⟩
  | .peer dev => s.coreRemote h a dev n true

/-- What a store does at each place where it may go. -/
def State.storeAt (s : State) (h : Hart) (a : Nat) (data : List Byte) : CoreTo → State
  | .fault => s.accessFault h.val a
  | .silent => unanswered s h a
  | .carve => s.writeBytes (byteWrites (a % 2 ^ 52) data [])
  | .control _ | .memory =>
    let u := s.setAcks h.val (s.acksOf h.val + 1)
    { u with io := { u.io with posts := u.io.posts ++ [⟨h.val, a % 2 ^ 52, data⟩], fault := false } }
  | .peer dev => s.coreRemote h a dev data.length false

/-- A load by where it goes. -/
theorem State.load_of_coreTo {s : State} {a n : Nat} {dest : CoreTo} (goes : s.coreTo a n = dest) (h : Hart) :
    s.load h a n = s.loadAt h a n dest := by
  unfold State.load
  rw [goes]
  cases dest <;> rfl

/-- A store by where it goes. -/
theorem State.store_of_coreTo {s : State} {a : Nat} {data : List Byte} {dest : CoreTo} (goes : s.coreTo a data.length = dest) (h : Hart) :
    s.store h a data = s.storeAt h a data dest := by
  unfold State.store
  rw [goes]
  cases dest <;> rfl

/-- A core's store that arrives in the control space behind no earlier one is applied and acknowledged. -/
theorem State.writeAt_of_control {s : State} {h : Hart} {off : Nat} {data : List Byte} (mask : List Byte) (poison : Bool)
    (control : regionOf (controlBase + off) = .control) (first : s.postWaits (.core h) (controlBase + off) data = false) :
    s.writeAt (.core h) (controlBase + off) data mask poison =
      ((s.takePost (.core h) (controlBase + off) data).controlWrite off (BitVec.ofNat 64 (leNat data)) 0).sendAck
        (controlBase + off) (.core h) := by
  unfold State.writeAt
  rw [first, if_neg Bool.false_ne_true, control, Nat.add_sub_cancel_left]

/-- Settles O51: a load and a store by where they go, a fence by what is not acknowledged. -/
theorem coreAccesses : Obligations.CoreAccesses := by
  intro h a s
  refine ⟨fun n => ⟨fun goes => next_congr (State.load_of_coreTo goes h), fun off u v goes read => next_congr ?register,
      fun goes => next_congr (State.load_of_coreTo goes h), fun goes => presents_of_request (next_congr ?memory),
      fun d goes none => next_congr ((State.load_of_coreTo goes h).trans (State.coreRemote_of_no_link none ..)),
      fun d goes up => next_congr ((State.load_of_coreTo goes h).trans (State.coreRemote_of_link up ..))⟩,
    fun data => ⟨fun goes => next_congr (State.store_of_coreTo goes h), fun goes => next_congr (State.store_of_coreTo goes h),
      fun goes => next_congr (State.store_of_coreTo goes h),
      fun d goes none => next_congr ((State.store_of_coreTo goes h).trans (State.coreRemote_of_no_link none ..)),
      fun d goes up => next_congr ((State.store_of_coreTo goes h).trans (State.coreRemote_of_link up ..)),
      fun goes => next_congr ?posted⟩,
    fun off data mask poison control => ⟨fun waits => next_congr (if_pos waits),
      fun first => next_congr (State.writeAt_of_control mask poison control first)⟩,
    fun pi si so => ⟨fun waits => next_congr (if_pos ?waits), fun done => next_congr (if_neg ?done), rfl⟩⟩
  case register =>
    refine (State.load_of_coreTo goes h).trans ?_
    rw [State.loadAt, read]
  case memory =>
    rcases goes with memory | carve
    · exact State.load_of_coreTo memory h
    · exact State.load_of_coreTo carve h
  case posted =>
    rcases goes with ⟨off, control⟩ | memory
    · exact State.store_of_coreTo control h
    · exact State.store_of_coreTo memory h
  case waits => rw [decide_eq_true waits, Bool.true_and]
  case done =>
    rw [done, decide_eq_false (not_not_intro rfl), Bool.and_false]
    exact Bool.false_ne_true

end Sys2Proof.Machine
end

section
/-! The granule code: what the decoder reports for clean, wrong and poisoned units (R271–R274). -/
namespace Sys2Proof.Machine
open Claims

/-- A unit without an error decodes as clean. -/
theorem decodeUnit_of_clean {data key : List Byte} {q : Quad} (clean : syndromes data q key = ⟨0#8, 0#8, 0#8, 0#8⟩) :
    decodeUnit data q key = ⟨.clean, data, q, ⟨0#8, 0#8, 0#8, 0#8⟩⟩ := by
  unfold decodeUnit
  dsimp only
  rw [clean]
  exact if_pos rfl

/-- One wrong symbol at a position: a data or check symbol is corrected, a key symbol tells a wrong address. -/
theorem decodeUnit_of_synErr {data key : List Byte} {q : Quad} {p : Nat} {e : Byte} (len : data.length = 32 ∨ data.length = 64)
    (inside : p < data.length + 8) (wrong : e ≠ 0#8) (syn : syndromes data q key = synErr p e) :
    (decodeUnit data q key).outc = (if p < data.length + 4 then .corrected else .address) ∧
    (p < data.length + 4 → (decodeUnit data q key).data = ((q.toList ++ data).modify p (· ^^^ e)).drop 4) := by
  have found : errPos (synErr p e) (data.length + 8) = some p := errPos_err p _ inside (by omega) e wrong
  unfold decodeUnit
  dsimp only
  rw [syn, if_neg (synErr_ne0 p e wrong), if_neg (synErr_neP _ p len inside e wrong), found]
  dsimp only
  by_cases stored : p < data.length + 4
  · rw [if_pos stored, if_pos stored]
    exact ⟨rfl, fun _ => rfl⟩
  · rw [if_neg stored, if_neg stored]
    exact ⟨rfl, fun h => absurd h stored⟩

/-- A wrong data symbol is corrected. -/
theorem decodeUnit_data_error {data key : List Byte} {p : Nat} {e : Byte} (len : data.length = 32 ∨ data.length = 64)
    (inside : p < data.length) (wrong : e ≠ 0#8) :
    (decodeUnit (data.modify p (· ^^^ e)) (encodeChk data key) key).outc = .corrected ∧
    (decodeUnit (data.modify p (· ^^^ e)) (encodeChk data key) key).data = data := by
  have len' : (data.modify p (· ^^^ e)).length = data.length := List.length_modify ..
  have place (d : List Byte) (h : p < d.length) : ((encodeChk data key).toList ++ d).modify (4 + p) (· ^^^ e) =
      (encodeChk data key).toList ++ d.modify p (· ^^^ e) := modify_right (encodeChk data key).toList d p _
  have word : (encodeChk data key).toList ++ data.modify p (· ^^^ e) ++ key =
      ((encodeChk data key).toList ++ data ++ key).modify (4 + p) (· ^^^ e) := by
    rw [modify_left _ key _ _ (by simp only [List.length_append, Quad.toList, List.length_cons, List.length_nil]; omega),
      place data inside]
  have syn := syndromes_err data key _ key _ (4 + p) e word (by omega)
  obtain ⟨outc, fixed⟩ := decodeUnit_of_synErr (len' ▸ len) (by omega) wrong syn
  rw [outc, fixed (by omega), if_pos (by omega), place _ (len' ▸ inside), modify_xor_xor]
  exact ⟨rfl, rfl⟩

/-- A wrong check symbol is corrected. -/
theorem decodeUnit_check_error {data key : List Byte} {q : Quad} {j : Nat} {e : Byte} (len : data.length = 32 ∨ data.length = 64)
    (inside : j < 4) (wrong : e ≠ 0#8) (stored : q.toList = (encodeChk data key).toList.modify j (· ^^^ e)) :
    (decodeUnit data q key).outc = .corrected ∧ (decodeUnit data q key).data = data := by
  have word : q.toList ++ data ++ key = ((encodeChk data key).toList ++ data ++ key).modify j (· ^^^ e) := by
    rw [stored, List.append_assoc, List.append_assoc,
      modify_left _ _ j _ (show j < (encodeChk data key).toList.length from inside)]
  have syn := syndromes_err data key _ key _ j e word (by omega)
  obtain ⟨outc, fixed⟩ := decodeUnit_of_synErr len (by omega) wrong syn
  rw [outc, fixed (by omega), if_pos (by omega), modify_left _ _ j _ (show j < q.toList.length from inside)]
  exact ⟨rfl, List.drop_left' (List.length_modify ..)⟩

/-- A unit read under a key with one wrong symbol tells a wrong address. -/
theorem decodeUnit_key_error {data key : List Byte} {p : Nat} {e : Byte} (len : data.length = 32 ∨ data.length = 64)
    (keyLen : key.length = 4) (inside : p < 4) (wrong : e ≠ 0#8) :
    (decodeUnit data (encodeChk data key) (key.modify p (· ^^^ e))).outc = .address := by
  have wordLen : ((encodeChk data key).toList ++ data).length = 4 + data.length := List.length_append
  have word : (encodeChk data key).toList ++ data ++ key.modify p (· ^^^ e) =
      ((encodeChk data key).toList ++ data ++ key).modify (4 + data.length + p) (· ^^^ e) := by
    rw [← wordLen, modify_right]
  have syn := syndromes_err data key _ _ _ (4 + data.length + p) e word (by omega)
  obtain ⟨outc, -⟩ := decodeUnit_of_synErr len (by omega) wrong syn
  rw [outc, if_neg (by omega)]

/-- Two words with the same stored symbols and keys that differ by 0xFF in every symbol: their syndromes differ by those of
poison. -/
theorem syndrome_poison (i : Nat) (w key : List Byte) (keyLen : key.length = 4) :
    syndrome i (w ++ key) ^^^ syndrome i (w ++ key.map (· ^^^ 0xFF#8)) =
      syndrome i (List.replicate w.length 0#8 ++ List.replicate 4 0xFF#8) := by
  rw [syndrome_append, syndrome_append, syndrome_append, syndrome_zeros, List.length_replicate, BitVec.zero_xor,
    ← syndrome_key i key keyLen, gfXs_xor]
  generalize syndrome i w = x, gfXs (i * w.length) (syndrome i key) = y
  generalize gfXs (i * w.length) (syndrome i (key.map (· ^^^ 0xFF#8))) = z
  have shuffle : (x ^^^ y) ^^^ (x ^^^ z) = (x ^^^ x) ^^^ (y ^^^ z) := by ac_rfl
  rw [shuffle, BitVec.xor_self, BitVec.zero_xor]

/-- The poison encoding has the poison syndrome. -/
theorem syndromes_poison (n : Nat) (key : List Byte) (keyLen : key.length = 4) :
    syndromes (List.replicate n 0#8) (poisonChk n key) key = poisonSyndrome n := by
  let w := (poisonChk n key).toList ++ List.replicate n 0#8
  have len : w.length = n + 4 := by
    simp only [w, List.length_append, Quad.toList, List.length_cons, List.length_nil, List.length_replicate]
    omega
  have each (i : Nat) (hi : i < 4) :
      syndrome i (w ++ key) = syndrome i (List.replicate (n + 4) 0#8 ++ List.replicate 4 0xFF#8) := by
    have clean : syndrome i (w ++ key.map (· ^^^ 0xFF#8)) = 0#8 := syndrome_encode i hi ..
    have differ := syndrome_poison i w key keyLen
    rw [clean, BitVec.xor_zero, len] at differ
    exact differ
  unfold poisonSyndrome
  dsimp only
  rw [syndromes_word _ _ _ (w ++ key) rfl, each 0 (by decide), each 1 (by decide), each 2 (by decide), each 3 (by decide)]

/-- The poison syndrome of a unit is not that of a clean one. -/
theorem poisonSyndrome_ne_zero {n : Nat} (len : n = 32 ∨ n = 64) : poisonSyndrome n ≠ ⟨0#8, 0#8, 0#8, 0#8⟩ := by
  rcases len with rfl | rfl <;> decide +kernel

/-- The poison encoding decodes as poison. -/
theorem decodeUnit_poison {n : Nat} {key : List Byte} (len : n = 32 ∨ n = 64) (keyLen : key.length = 4) :
    (decodeUnit (List.replicate n 0#8) (poisonChk n key) key).outc = .poison := by
  unfold decodeUnit
  dsimp only
  rw [syndromes_poison n key keyLen, List.length_replicate, if_neg (poisonSyndrome_ne_zero len), if_pos rfl]

/-- Settles O59: the decoder on the clean word, on each kind of single wrong symbol, and on poison. -/
theorem granuleCode : Obligations.GranuleCode := by
  intro data key len keyLen c
  refine ⟨decodeUnit_of_clean (syndromes_clean data key), fun p e inside wrong => decodeUnit_data_error len inside wrong,
    fun e wrong q stored => ?check, fun p e inside wrong => decodeUnit_key_error len keyLen inside wrong, decodeUnit_poison len keyLen⟩
  case check =>
    simp only [List.mem_cons, List.not_mem_nil, or_false] at stored
    rcases stored with rfl | rfl | rfl | rfl
    · exact decodeUnit_check_error len (j := 0) (by decide) wrong rfl
    · exact decodeUnit_check_error len (j := 1) (by decide) wrong rfl
    · exact decodeUnit_check_error len (j := 2) (by decide) wrong rfl
    · exact decodeUnit_check_error len (j := 3) (by decide) wrong rfl

end Sys2Proof.Machine
end

section
/-! What a store of one unit changes, and all it changes (R67, R179, R271). -/
namespace Sys2Proof.Machine
open Claims

/-- Every unit of memory that does not overlap unit u reads in t as in s, data and check symbols. -/
def State.OtherUnitsKept (s t : State) (u : Nat) : Prop :=
  ∀ v, (v + unitLen v ≤ u ∨ u + unitLen u ≤ v) → t.mm.unitData v = s.mm.unitData v ∧ t.mm.unitChk v = s.mm.unitChk v

theorem State.OtherUnitsKept.of_mm {s t : State} (u : Nat) (h : t.mm = s.mm) : s.OtherUnitsKept t u :=
  fun _ _ => h ▸ ⟨rfl, rfl⟩

theorem State.OtherUnitsKept.trans {s t w : State} {u : Nat} (h : s.OtherUnitsKept t u) (k : t.OtherUnitsKept w u) :
    s.OtherUnitsKept w u := by
  intro v apart
  obtain ⟨data, chk⟩ := h v apart
  obtain ⟨data', chk'⟩ := k v apart
  exact ⟨data'.trans data, chk'.trans chk⟩

theorem State.storeUnit_otherUnitsKept (s : State) {u : Nat} {d : List Byte} (len : d.length = unitLen u) :
    s.OtherUnitsKept (s.storeUnit u d) u := by
  obtain ⟨d', q, len', stored⟩ := storeUnit_mm s u d
  intro v apart
  rw [stored]
  exact putUnit_other s.mm u v d' q (len'.trans len) apart

theorem State.storePoison_otherUnitsKept (s : State) (u : Nat) : s.OtherUnitsKept (s.storePoison u) u :=
  fun v apart => putUnit_other s.mm u v _ _ (List.length_replicate ..) apart

/-- A merge into a granule of the meadow: it replaces, finds poison, or merges. -/
theorem State.mergeMeadow_otherUnitsKept (s : State) (u : Nat) (ws : List ByteW) : s.OtherUnitsKept (s.mergeMeadow u ws) u := by
  have loaded : s.OtherUnitsKept (s.loadUnit false u).1 u := .of_mm u (loadUnit_mm s false u)
  have len := loadUnit_len s false u
  unfold State.mergeMeadow
  cases load : s.loadUnit false u with
  | mk t d =>
    rw [load] at loaded len
    dsimp only
    split
    · exact s.storeUnit_otherUnitsKept ((onto_len ..).trans (List.length_replicate ..))
    · split
      · exact loaded.trans (t.storePoison_otherUnitsKept u)
      · exact loaded.trans (t.storeUnit_otherUnitsKept ((onto_len ..).trans len))

theorem State.mergeGroup_of_meadow {u c : Nat} (s : State) (ws : List ByteW) (region : regionOf u = .meadow c) :
    s.mergeGroup u ws = s.mergeMeadow u ws := by
  unfold State.mergeGroup
  rw [region]

/-- The bytes of a write inside one granule of a meadow merge into that granule. -/
theorem groupKey_of_meadow {a c n : Nat} {w : ByteW} (region : regionOf a = .meadow c) (inside : a % 32 + n ≤ 32)
    (byte : a ≤ w.addr ∧ w.addr < a + n) : groupKey w.addr = unitBase a := by
  obtain ⟨region', base, -⟩ := meadow_span a w.addr c region (by omega)
  unfold groupKey
  rw [region']
  exact base

/-- Writes of bytes inside one granule of a meadow leave every other unit. -/
theorem State.writeBytes_otherUnitsKept (s : State) {a c : Nat} {data : List Byte} (mask : List Byte) (region : regionOf a = .meadow c)
    (inside : a % 32 + data.length ≤ 32) : s.OtherUnitsKept (s.writeBytes (byteWrites a data mask)) (unitBase a) := by
  obtain ⟨-, -, -, base, -⟩ := meadow_span a a c region rfl
  have region' : regionOf (unitBase a) = .meadow c := (meadow_span a (unitBase a) c region (by omega)).1
  have one := groupBy_const groupKey (unitBase a) (byteWrites a data mask)
    fun w mem => groupKey_of_meadow region inside (byteWrites_addr a data mask w mem)
  unfold State.writeBytes
  rcases one with none | group
  · rw [none]
    exact .of_mm _ rfl
  · rw [group, List.foldl_cons, List.foldl_nil, State.mergeGroup_of_meadow _ _ region']
    exact s.mergeMeadow_otherUnitsKept (unitBase a) _

/-- A request at a meadow with no pair in repair waits behind an earlier write of its unit, or is served. -/
theorem State.atHome_of_meadow {s : State} {q : MemReq} {c : Nat} (region : regionOf q.addr = .meadow c)
    (healthy : s.repairing q.addr q.len = []) :
    s.atHome q = { s with mm := { s.mm with stalled := s.mm.stalled ++ [q] } } ∨ s.atHome q = s.serveReq q := by
  unfold State.atHome
  dsimp only
  rw [healthy, region]
  split
  · exact .inl rfl
  · exact .inr rfl

/-- No bucket charges a request at a meadow. -/
theorem State.request_of_meadow {s : State} {q : MemReq} {c : Nat} (region : regionOf q.addr = .meadow c)
    (answers : s.noAnswer q.addr = none) : s.request q = s.atHome q := by
  obtain ⟨-, -, -, -, home⟩ := meadow_span q.addr q.addr c region rfl
  unfold State.request
  rw [answers]
  dsimp only
  cases s.chargedPart q with
  | none => rfl
  | some p =>
    refine if_pos ?_
    rw [home, decide_eq_true (Nat.le_add_right 20 c), Bool.or_true]

/-- A write request of bytes inside one granule of a meadow leaves every other unit. -/
theorem State.atHome_otherUnitsKept (s : State) {i : Issuer} {a c : Nat} {data mask : List Byte} {part : Option Nat}
    (region : regionOf a = .meadow c) (inside : a % 32 + data.length ≤ 32) (healthy : s.repairing a data.length = []) :
    s.OtherUnitsKept (s.atHome ⟨i, .wr, a, data.length, data, mask, false, part⟩) (unitBase a) := by
  rcases State.atHome_of_meadow (q := ⟨i, .wr, a, data.length, data, mask, false, part⟩) region healthy with waits | serves
  · rw [waits]
    exact fun v _ => ⟨rfl, rfl⟩
  · rw [serves]
    exact (s.writeBytes_otherUnitsKept mask region inside).trans fun v _ => sendAck_units _ a i v

/-- A write of anyone but a core is no posted store. -/
theorem State.writeAt_of_no_core {s : State} {i : Issuer} (other : ∀ h, i ≠ .core h) (a : Nat) (data mask : List Byte) (poison : Bool) :
    s.writeAt i a data mask poison = s.request ⟨i, .wr, a, data.length, data, mask, poison, none⟩ := by
  cases i with
  | core h => exact absurd rfl (other h)
  | _ => rfl

/-- Settles O60: a store by what the encoder leaves, a write at a meadow by the one granule that it merges into. -/
theorem unitStores : Obligations.UnitStores := by
  refine ⟨fun s u data wf len unmet => ?store, fun s t i a c data mask wf other region inside answers healthy ran v apart => ?write⟩
  case store =>
    have stored : s.storeUnit u data = { s with mm := s.mm.encodeUnit u data } := if_neg (Bool.eq_false_iff.mp unmet)
    obtain ⟨data', chk⟩ := putUnit_self s.mm u data (encodeChk data (keyOf u)) wf len
    have others := s.storeUnit_otherUnitsKept len
    intro t
    have mm : t.mm = s.mm.encodeUnit u data := congrArg State.mm stored
    exact ⟨(congrArg (Mem.unitData · u) mm).trans data', (congrArg (Mem.unitChk · u) mm).trans chk, others⟩
  case write =>
    obtain ⟨-, -, -, base, -⟩ := meadow_span a a c region rfl
    obtain ⟨-, -, len, -⟩ := meadow_span (unitBase a) a c (meadow_span a (unitBase a) c region (by omega)).1 (by omega)
    have goes : s.writeAt i a data mask false = s.atHome ⟨i, .wr, a, data.length, data, mask, false, none⟩ :=
      (State.writeAt_of_no_core other ..).trans (State.request_of_meadow region answers)
    have next : t = s.writeAt i a data mask false := (Host.Outcome.next.inj ran).symm
    rw [next, goes]
    exact s.atHome_otherUnitsKept region inside healthy v (len.symm ▸ apart)

end Sys2Proof.Machine
end

section
/-! Register accesses: fields, writes and reads (R7, R8). -/
namespace Sys2Proof.Machine
open Claims

/-! ## Fields -/

/-- Outside its fields a sum of fields has no bits. -/
theorem sumF_testBit_of_reserved {r : Reg} {n : Nat} (g : RField → Nat) (reserved : inField r n = false)
    (fits : ∀ f ∈ r.info.fields, g f < 2 ^ (f.hi + 1 - f.lo)) : (sumF g r.info.fields).testBit n = false := by
  rw [sumF_testBit g _ 0 (asc_all r) fits, List.any_eq_false]
  intro f field inside
  rw [Bool.and_eq_true] at inside
  exact Bool.false_ne_true (reserved.symm.trans (List.any_eq_true.mpr ⟨f, field, inside.1⟩))

/-- Each field of a written word is what its access type gives. -/
theorem bits_writeFields {r : Reg} {f : RField} (field : f ∈ r.info.fields) (old v hw : Nat) :
    bits (writeFields old v hw r.info.fields) f.hi f.lo = f.write old v hw := by
  rw [write_eq]
  exact bits_sumF _ _ (asc_all r) (fun f _ => fwrite_lt f old v hw) f field

/-- Reserved bits of a written word stay 0. -/
theorem writeFields_reserved {r : Reg} {n : Nat} (reserved : inField r n = false) (old v hw : Nat) :
    (writeFields old v hw r.info.fields).testBit n = false := by
  rw [write_eq]
  exact sumF_testBit_of_reserved _ reserved fun f _ => fwrite_lt f old v hw

/-- Each field of a word that is read shows its bits, unless it is write-only. -/
theorem bits_readFields {r : Reg} {f : RField} (field : f ∈ r.info.fields) (w : Nat) :
    bits (readFields w r.info.fields) f.hi f.lo = if f.acc = .wo then 0 else bits w f.hi f.lo := by
  rw [read_eq]
  exact bits_sumF _ _ (asc_all r) (fun f _ => ite_lt f w _) f field

/-- Each field of a word that was read keeps its bits, unless the read clears it. -/
theorem bits_afterRead {r : Reg} {f : RField} (field : f ∈ r.info.fields) (w : Nat) :
    bits (afterRead w r.info.fields) f.hi f.lo = if f.acc = .rc then 0 else bits w f.hi f.lo := by
  rw [after_eq]
  exact bits_sumF _ _ (asc_all r) (fun f _ => ite_lt f w _) f field

/-- Reserved bits of a word that is read are 0. -/
theorem readFields_reserved {r : Reg} {n : Nat} (reserved : inField r n = false) (w : Nat) :
    (readFields w r.info.fields).testBit n = false := by
  rw [read_eq]
  exact sumF_testBit_of_reserved _ reserved fun f _ => ite_lt f w _

/-! ## Writes of registers without a rule of their own -/

theorem State.writeCompute_of_plain {r : Reg} (plain : special.contains r = false) (s : State) (p i : Nat) (v : Word) (hw : Nat) :
    s.writeCompute r p i v hw = s.plainWrite r p i v hw := by
  unfold State.writeCompute
  split
  case h_16 => rfl
  all_goals exact absurd plain (by decide)

theorem State.writeServe_of_plain {r : Reg} (plain : special.contains r = false) (s : State) (p i : Nat) (v : Word) (hw : Nat) :
    s.writeServe r p i v hw = s.plainWrite r p i v hw := by
  unfold State.writeServe
  split
  case h_19 => rfl
  all_goals exact absurd plain (by decide)

theorem State.writeLinks_of_plain {r : Reg} (plain : special.contains r = false) (s : State) (p i : Nat) (v : Word) (hw : Nat) :
    s.writeLinks r p i v hw = s.plainWrite r p i v hw := by
  unfold State.writeLinks
  split
  case h_13 => rfl
  all_goals exact absurd plain (by decide)

theorem State.writePlatform_of_plain {r : Reg} (plain : special.contains r = false) (s : State) (p i : Nat) (v : Word) (hw : Nat) :
    s.writePlatform r p i v hw = s.plainWrite r p i v hw := by
  unfold State.writePlatform
  split
  case h_17 => rfl
  all_goals exact absurd plain (by decide)

theorem State.controlWrite_of_plain {off p i : Nat} {r : Reg} (places : locate off = some (r, p, i))
    (plain : special.contains r = false) (s : State) (v : Word) (hw : Nat) : s.controlWrite off v hw = s.plainWrite r p i v hw := by
  unfold State.controlWrite
  rw [places]
  dsimp only
  rw [s.writeCompute_of_plain plain p i v hw, s.writeServe_of_plain plain p i v hw, s.writeLinks_of_plain plain p i v hw,
    s.writePlatform_of_plain plain p i v hw]
  cases r.info.page <;> rfl

/-! ## Reads -/

/-- The word of the event buffer at an offset. -/
theorem State.controlRead_of_buffer {off : Nat} (low : eventBase ≤ off) (high : off < eventBase + 32 * 4096) (aligned : off % 8 = 0)
    (s : State) (late : Nat) :
    s.controlRead off late = (s, (mapGet (fun _ => 0#64) s.ix.buf ((off - eventBase) / 8)).toNat) :=
  if_pos ⟨low, high, aligned⟩

section
variable {off : Nat} (outside : off < eventBase ∨ eventBase + 32 * 4096 ≤ off)
include outside

theorem not_in_buffer : ¬ (eventBase ≤ off ∧ off < eventBase + 32 * 4096 ∧ off % 8 = 0) := by
  rintro ⟨low, high, -⟩
  rcases outside with below | above
  · exact Nat.not_lt.mpr low below
  · exact Nat.not_lt.mpr above high

theorem State.controlRead_of_hole (hole : locate off = none) (s : State) (late : Nat) : s.controlRead off late = (s, 0) := by
  unfold State.controlRead
  rw [if_neg (not_in_buffer outside), hole]

theorem State.controlRead_of_claim {t i : Nat} (places : locate off = some (.intClaim, t, i)) (s : State) (late : Nat) :
    s.controlRead off late = s.claim t := by
  unfold State.controlRead
  rw [if_neg (not_in_buffer outside), places]

theorem State.controlRead_of_wait {p i : Nat} (places : locate off = some (.memRegWait, p, i)) (s : State) (late : Nat) :
    s.controlRead off late = (s.clearWait late, s.waitView) := by
  unfold State.controlRead
  rw [if_neg (not_in_buffer outside), places]

theorem State.controlRead_of_register {r : Reg} {p i : Nat} (places : locate off = some (r, p, i)) (noClaim : r ≠ .intClaim)
    (noWait : r ≠ .memRegWait) (s : State) (late : Nat) : s.controlRead off late =
    (if readClears r then s.setReg r p i (BitVec.ofNat 64 (afterRead (s.reg r p i).toNat r.info.fields + lateFields late r.info.fields))
      else s, readFields (s.view r p i) r.info.fields) := by
  unfold State.controlRead
  rw [if_neg (not_in_buffer outside), places]
  split
  case h_1 hole => exact absurd hole (Option.some_ne_none _)
  case h_2 claim => exact absurd (congrArg Prod.fst (Option.some.inj claim)) noClaim
  case h_3 wait => exact absurd (congrArg Prod.fst (Option.some.inj wait)) noWait
  case h_4 same =>
    cases same
    rfl

end

/-- Settles O50: writes and reads by what lies at the offset, words by their fields. -/
theorem registerAccess : Obligations.RegisterAccess := by
  refine ⟨fun off late v hw s hole => ⟨next_congr ?hole, fun outside => next_congr ?readHole⟩,
    fun off v hw s r p i places plain => next_congr (State.controlWrite_of_plain places plain s v hw.toNat),
    fun r old v hw => ⟨fun f field => ?written, fun n reserved => writeFields_reserved reserved old v hw⟩,
    fun off late s r p i outside places noClaim noWait => ⟨fun keeps => next_congr ?read, fun clears => next_congr ?clear⟩,
    fun off late p i s outside => ⟨fun t places => next_congr ?claim, fun places => ⟨fun large => next_congr ?noBucket,
      fun small => next_congr ?bucket⟩⟩,
    fun off late s low high aligned => next_congr ?buffer,
    fun r w => ⟨fun f field => ⟨bits_readFields field w, bits_afterRead field w⟩, fun n reserved => readFields_reserved reserved w⟩⟩
  case hole =>
    unfold State.controlWrite
    rw [hole]
  case readHole => rw [State.controlRead_of_hole outside hole]
  case written =>
    rw [bits_writeFields field]
    unfold RField.write
    cases f.acc <;> rfl
  case read =>
    rw [State.controlRead_of_register outside places noClaim noWait, keeps]
    rfl
  case clear =>
    rw [State.controlRead_of_register outside places noClaim noWait, clears]
    rfl
  case claim => rw [State.controlRead_of_claim outside places]
  case noBucket =>
    rw [State.controlRead_of_wait outside places]
    unfold State.clearWait State.waitView
    dsimp only
    rw [if_pos large, if_pos large]
  case bucket =>
    rw [State.controlRead_of_wait outside places]
    unfold State.clearWait State.waitView
    dsimp only
    rw [if_neg (Nat.not_le.mpr small), if_neg (Nat.not_le.mpr small)]
  case buffer => rw [State.controlRead_of_buffer low high aligned]

end Sys2Proof.Machine
end

section
/-! The interrupt controller (R312–R318). -/
namespace Sys2Proof.Machine
open Claims

/-- A claim of an idle target takes its lowest pending source. -/
theorem State.claim_of_pending {s : State} {t n : Nat} (idle : (s.target t).serv = none) (pending : s.pendingFor t = some n) :
    s.claim t = (s.setTarget t { s.target t with serv := some n }, 512 + n) := by
  unfold State.claim
  rw [idle, pending]

/-- A claim of a target in service, or with nothing pending, returns 0. -/
theorem State.claim_of_none {s : State} {t : Nat} (h : (s.target t).serv ≠ none ∨ s.pendingFor t = none) : s.claim t = (s, 0) := by
  unfold State.claim
  split
  case h_1 n idle pending => exact absurd idle (h.resolve_right fun none => Option.some_ne_none n (pending.symm.trans none))
  case h_2 => rfl

/-- Settles O40: each command by the target, the source or the comparison that it names. -/
theorem interruptCommands : Obligations.InterruptCommands := by
  intro s
  refine ⟨fun n on => next_congr (if_pos on), fun t n idle pending => next_congr ?claims, fun t none => next_congr ?unclaimed,
    fun t n => ⟨fun serves => next_congr (if_pos serves), fun other => next_congr (if_neg other)⟩,
    fun t awaits => next_congr (if_pos awaits), fun n v => ⟨rfl, rfl⟩, fun h => next_congr ?timer,
    fun n r asleep enabled asserted => next_congr ?wake, fun n awake => next_congr ?awake⟩
  case claims => rw [State.claim_of_pending idle pending]
  case unclaimed => rw [State.claim_of_none none]
  case timer =>
    unfold State.timer State.timerDue
    simp only [decide_eq_true_eq]
  case wake =>
    unfold State.wake
    rw [asleep]
    dsimp only
    rw [enabled, asserted]
    rfl
  case awake =>
    unfold State.wake
    rw [awake]

end Sys2Proof.Machine
end

section
/-! The Ethernet MACs (R319, R320). -/
namespace Sys2Proof.Machine
open Claims

/-- A received frame fits an owned entry whose buffer lies in the carve-out and answers. -/
theorem State.receive_of_owned {s u : State} {p : Fin 3} {w : Word} (frame : List Byte) (bad : Bool)
    (owned : s.nextEntry p false = (u, some w)) (carve : inCarve (wb w 47 0) (wb w 61 48) = true)
    (answers : u.noAnswer (wb w 47 0) = none) : s.receive p frame bad =
    (u.writeBytes (byteWrites (wb w 47 0) (frame.take (wb w 61 48)) [])).returnEntry p false w
      (min (wb w 61 48) frame.length) (bad || !frameLen frame.length || decide (wb w 61 48 < frame.length)) := by
  unfold State.receive
  rw [owned]
  dsimp only
  rw [carve, answers, Option.isNone_none, Bool.and_self, Bool.not_true, Bool.or_false, if_pos rfl]

/-- The frame of an owned entry that reads without error is sent. -/
theorem State.transmit_of_owned {s u v : State} {p : Fin 3} {w : Word} {d : List Byte} (owned : s.nextEntry p true = (u, some w))
    (read : u.macRead p (wb w 47 0) (wb w 61 48) = (v, d, false)) (len : frameLen (wb w 61 48) = true) : s.transmit p =
    (({ v with cc := { v.cc with sent := mapPut v.cc.sent p.val d } } : State).returnEntry p true w (wb w 61 48) false) := by
  unfold State.transmit
  rw [owned]
  dsimp only
  rw [read]
  dsimp only
  rw [len, Bool.not_true, Bool.or_false, if_neg Bool.false_ne_true]

/-- Settles O41: counts by the ring's size, frames by whether an entry is owned. -/
theorem ethernetCommands : Obligations.EthernetCommands := by
  intro p s
  refine ⟨fun v => ⟨fun fits => next_congr (if_neg (Nat.not_lt.mpr fits)), fun fits => next_congr (if_neg (Nat.not_lt.mpr fits)),
      fun past => next_congr (if_pos past)⟩,
    fun frame bad u w owned carve answers => next_congr (State.receive_of_owned frame bad owned carve answers),
    fun u v w d owned read len => next_congr (State.transmit_of_owned owned read len),
    fun frame bad u => ⟨fun none => next_congr ?unreceived, fun none => next_congr ?unsent⟩, rfl,
    fun runs => ⟨fun up => next_congr (if_pos runs), next_congr (if_pos runs)⟩⟩
  case unreceived =>
    unfold State.receive
    rw [none]
  case unsent =>
    unfold State.transmit
    rw [none]

end Sys2Proof.Machine
end

section
/-! The management responder and the I3C target (R321, R360). -/
namespace Sys2Proof.Machine
open Claims

/-- A frame for the responder enters its queue while there is a place. -/
theorem State.filterFrame_of_own {s : State} {m : MgmtFrame} (own : s.forResponder m = true) : s.filterFrame m =
    if s.cc.mq.length < 4 then { s with cc := { s.cc with mq := s.cc.mq ++ [m] } } else s.bump .pltMgmtDrop 0 1 :=
  if_pos own

section
variable {s : State} {m : MgmtFrame} {t : List MgmtFrame} (front : s.waiting = m :: t)
include front

/-- The responder takes an unsigned frame at the front. -/
theorem State.takeUnsigned_of_front {op : BitVec 8} (asks : m.op = op) :
    s.takeUnsigned op = some { s with cc := { s.cc with mq := t } } := by
  unfold State.takeUnsigned
  rw [front]
  exact if_pos asks

/-- A signed frame at the front that nothing refuses is recorded, acted on and answered. -/
theorem State.signed_of_accepted {op : BitVec 8} (asks : m.op = op) (act : State → State) :
    let u : State := { s with cc := { s.cc with mq := t } }
    u.signedCause m = .none → s.signed op m act = (act (u.accept m)).reply [] .none := by
  intro u accepted
  unfold State.signed
  rw [front]
  refine (if_pos ⟨rfl, asks⟩).trans ?_
  dsimp only
  rw [accepted]

/-- A signed frame at the front that is refused is answered with the cause. -/
theorem State.signed_of_refused {op : BitVec 8} (asks : m.op = op) (act : State → State) :
    let u : State := { s with cc := { s.cc with mq := t } }
    u.signedCause m ≠ .none → s.signed op m act = u.reply [] (u.signedCause m) := by
  intro u refused
  unfold State.signed
  rw [front]
  refine (if_pos ⟨rfl, asks⟩).trans ?_
  dsimp only
  split
  case h_1 none => exact absurd none refused
  case h_2 => rfl

end

/-- Settles O42: frames by the queue, signed ones by their cause. -/
theorem managementCommands : Obligations.ManagementCommands := by
  intro s
  refine ⟨fun m own => ⟨fun place => next_congr ((State.filterFrame_of_own own).trans (if_pos place)),
      fun full => next_congr ((State.filterFrame_of_own own).trans (if_neg (Nat.not_lt.mpr full)))⟩,
    fun m t front => ⟨fun asks => next_congr ?ident, fun off asks => next_congr ?read,
      fun accepted => ⟨fun asks d => ⟨next_congr (State.signed_of_accepted front asks _ accepted),
          next_congr (State.signed_of_accepted front asks _ accepted)⟩,
        fun asks => next_congr (State.signed_of_accepted front asks _ accepted),
        fun asks => next_congr (State.signed_of_accepted front asks _ accepted),
        fun asks => next_congr (State.signed_of_accepted front asks _ accepted)⟩,
      fun refused => ⟨fun asks d on => next_congr (State.signed_of_refused front asks _ refused),
        fun asks => next_congr (State.signed_of_refused front asks _ refused),
        fun asks => next_congr (State.signed_of_refused front asks _ refused),
        fun asks => next_congr (State.signed_of_refused front asks _ refused)⟩⟩,
    rfl, fun off => rfl, rfl⟩
  case ident => rw [State.takeUnsigned_of_front (op := 0x01#8) front asks]
  case read => rw [State.takeUnsigned_of_front (op := 0x02#8) front asks]

end Sys2Proof.Machine
end

section
/-! The input's events (R323, R331, R355, R358), and test access with the clearing of secrets (R351, R352). -/
namespace Sys2Proof.Machine
open Claims

/-- Settles O45: the input by whether the module is up, the pins by whether they were sampled. -/
theorem inputEvents : Obligations.InputEvents := by
  intro s
  refine ⟨fun input on => next_congr (if_pos ?up), fun noInput => next_congr (if_neg ?down), rfl, rfl, rfl, ⟨rfl, rfl⟩, ⟨rfl, rfl⟩,
    fun v => rfl, fun p => ⟨fun sampled => next_congr (if_pos sampled), fun fresh => next_congr (if_neg (Bool.eq_false_iff.mp fresh))⟩,
    fun a => rfl⟩
  case up =>
    rw [input, on]
    rfl
  case down =>
    rw [noInput, Bool.false_and]
    exact Bool.false_ne_true

/-- CLEAR acts with scan_allow or on a halted module. -/
theorem clear_allowed {s : State} (h : s.option 7 = true ∨ s.stage = 4) : (s.option 7 || decide (s.stage = 4)) = true := by
  rcases h with scans | halted
  · rw [scans, Bool.true_or]
  · rw [decide_eq_true halted, Bool.or_true]

/-- Settles O49: the instructions by what allows them, the clearing by its stage. -/
theorem testAccess : Obligations.TestAccess := by
  intro s select
  refine ⟨rfl, rfl, fun b => rfl, fun scans => ⟨next_congr (if_pos scans), next_congr (if_pos scans)⟩,
    fun closed => ⟨next_congr (if_neg closed), next_congr (if_neg closed)⟩,
    fun allowed => ⟨fun again => next_congr ((if_pos (clear_allowed allowed)).trans (if_neg again)),
      fun first => next_congr ((if_pos (clear_allowed allowed)).trans (if_pos first))⟩,
    fun noScan running => next_congr (if_neg ?bypass),
    fun first => next_congr ?ends, fun withheld => next_congr ?keepsStage, fun none => next_congr (if_pos ?idle)⟩
  case bypass =>
    rw [noScan, decide_eq_false running]
    exact Bool.false_ne_true
  case ends => exact (if_neg fun h => h.1 first).trans (if_pos first)
  case keepsStage =>
    refine (if_neg fun h => h.2 withheld).trans (if_neg ?_)
    rw [withheld]
    decide
  case idle =>
    rw [none]
    decide

end Sys2Proof.Machine
end

section
/-! One step of the block: the front command, a crossing that waits, and the platform clock (R19, R312, R318). -/
namespace Sys2Proof.Machine
open Claims

/-- Every command completes: the block has no fault and no refusal. -/
theorem exec_completes (c : Instr) (s : State) : ∃ t, exec c s = .next t := by
  cases c <;> exact ⟨_, rfl⟩

/-- Each command of a crossing takes effect through the arrival of its own message. -/
theorem exec_of_crossing {c : Instr} (crosses : crossing c = true) : ∃ f, ∀ s, exec c s = .next (s.arrive c f) := by
  unfold crossing at crosses
  split at crosses
  case h_27 => exact absurd crosses Bool.false_ne_true
  all_goals exact ⟨_, fun _ => rfl⟩

/-- The platform clock of the running control complex. -/
theorem idleTick_of_on {s : State} (on : s.dom 74 = .on) (empty : s.ix.trq = []) :
    idleTick s = (let t := s.setReg .intMtime 0 0 (s.reg .intMtime + 1); { t with ix := { t.ix with trBusy := false } }) := by
  have empty' : (s.setReg .intMtime 0 0 (s.reg .intMtime + 1)).ix.trq = [] := empty
  unfold idleTick
  rw [if_pos on]
  dsimp only
  rw [empty']

/-- The counter that the sleeping control complex keeps. -/
theorem idleTick_of_asleep {s : State} {r : Retain} (off : s.dom 74 ≠ .on) (asleep : s.cc.retain = some r) (empty : s.ix.trq = []) :
    idleTick s = { s with cc := { s.cc with retain := some { r with ticks := r.ticks + 1 } }, ix := { s.ix with trBusy := false } } := by
  unfold idleTick
  rw [if_neg off, asleep]
  dsimp only
  rw [empty]

/-- Without a control complex, on or asleep, only the trace goes on. -/
theorem idleTick_of_off {s : State} (off : s.dom 74 ≠ .on) (lost : s.cc.retain = none) (empty : s.ix.trq = []) :
    idleTick s = { s with ix := { s.ix with trBusy := false } } := by
  unfold idleTick
  rw [if_neg off, lost]
  dsimp only
  rw [empty]

/-- Without a control complex, on or asleep, one waiting trace entry is written. -/
theorem idleTick_of_waiting {s : State} {e : TraceEv} {t : List TraceEv} (off : s.dom 74 ≠ .on) (lost : s.cc.retain = none)
    (waits : s.ix.trq = e :: t) : idleTick s = State.writeTrace { s with ix := { s.ix with trq := t } } e := by
  unfold idleTick
  rw [if_neg off, lost]
  dsimp only
  rw [waits]

/-- A step with a command at the front. -/
theorem step_of_front {s : State} {c : Instr} {rest : List Instr} (front : s.pending = c :: rest) :
    step s = exec c { s with pending := rest } := by
  unfold step
  rw [front]

/-- A step with no command waiting. -/
theorem step_of_idle {s : State} (idle : s.pending = []) : step s = .next (idleTick s) := by
  unfold step
  rw [idle]

/-- Settles O52: the front command, or the platform clock. -/
theorem stepRunsFront : Obligations.StepRunsFront := by
  refine ⟨fun c rest s front => step_of_front front, fun c s => rfl, exec_completes, fun c s crosses behind => ?behind,
    fun s idle empty => ⟨fun on => ?on, fun r off asleep => ?asleep, fun off lost => ?lost⟩,
    fun s e t idle off lost waits => ?trace, fun n w s => ⟨rfl, rfl⟩⟩
  case behind =>
    obtain ⟨f, command⟩ := exec_of_crossing crosses
    rw [command, State.arrive_of_waiting f behind]
  case on => rw [step_of_idle idle, idleTick_of_on on empty]
  case asleep => rw [step_of_idle idle, idleTick_of_asleep off asleep empty]
  case lost => rw [step_of_idle idle, idleTick_of_off off lost empty]
  case trace => rw [step_of_idle idle, idleTick_of_waiting off lost waits]

end Sys2Proof.Machine
end

section
/-! The state after power-on (R271, R323, R343). -/
namespace Sys2Proof.Machine
open Claims

/-- After power-on a register holds its table's value. -/
theorem reset_reg (r : Reg) (p i : Nat) : State.reset.reg r p i = r.resetWord p i := rfl

/-- The readiness bits are 0 in the table. -/
theorem readyBit_resetWord (d : Nat) : (readyBit d).1.resetWord 0 0 = 0#64 := by
  unfold readyBit
  split_ifs <;> rfl

/-- After power-on no function but the always-on one is ready. -/
theorem reset_ready {d : Nat} (h : d < 75) : State.reset.ready d = false := by
  have word : State.reset.reg (readyBit d).1 0 0 = 0#64 := (reset_reg ..).trans (readyBit_resetWord d)
  unfold State.ready State.flag
  rw [if_neg (Nat.ne_of_lt h), word]
  exact BitVec.getLsbD_zero

/-- After power-on no unit lies in a stream buffer that a descriptor left. -/
theorem reset_junkAt (u : Nat) : Mem.reset.junkAt u = none := by
  unfold Mem.junkAt
  cases regionOf u <;> rfl

/-- After power-on every unit holds zero data. -/
theorem reset_unitData (u : Nat) : Mem.reset.unitData u = List.replicate (unitLen u) 0#8 := by
  unfold Mem.unitData
  rw [reset_junkAt]
  exact (List.map_const' ..).trans (congrArg (List.replicate · 0#8) List.length_range)

/-- After power-on every unit holds the check symbols of poison. -/
theorem reset_unitChk (u : Nat) : Mem.reset.unitChk u = Quad.unpack (poisonChk (unitLen u) (keyOf u)).pack := by
  unfold Mem.unitChk
  rw [reset_junkAt]
  rfl

/-- Settles O53: each part of the state as power-on leaves it. -/
theorem resetState : Obligations.ResetState := by
  refine ⟨reset_reg, rfl, by decide, fun d => reset_ready, rfl, rfl, rfl, fun u => ⟨reset_unitData u, reset_unitChk u⟩,
    fun u _ => ⟨rfl, rfl⟩, fun i _ => rfl, rfl, rfl, rfl, rfl, fun c r i => rfl, fun st ch b => rfl⟩

end Sys2Proof.Machine
end
